-- ==== Sys2Proof/Word.lean ====
section
/-!
DEFINITION. The word types of the BR880 and their plainest arithmetic (R5: little-endian, 32-bit instruction
words; R21: 32-bit registers; R13: 57-bit virtual addresses held as 64-bit patterns).
-/

namespace Sys2Proof

/-- One register of a lane or of a warp: 32 bits (R21). -/
abbrev Word := BitVec 32

/-- A 64-bit pattern: an address, a register pair, a supervisor register. -/
abbrev DWord := BitVec 64

/-- One byte of memory. -/
abbrev Byte := BitVec 8

/-- One bit per lane of a warp, bit `l` for lane `l` (R15). -/
abbrev LaneMask := BitVec 32

/-- The natural number of a truth value: 1 for true. -/
def boolNat (b : Bool) : Nat := if b then 1 else 0

/-- Bits `hi` down to `lo` of a natural number. -/
def natBits (x hi lo : Nat) : Nat := (x >>> lo) % 2 ^ (hi + 1 - lo)

/-- One bit of a natural number. -/
def natBit (x i : Nat) : Bool := x.testBit i

end Sys2Proof
end

