-- ==== Sys2Proof/Config.lean ====
section
/-!
DEFINITION. What an implementation fixes and the spec leaves open. None of these constants has a body that a proof can
see: a statement that holds of the model holds whatever they are.
-/

namespace Sys2Proof

/-- The pattern a special function delivers, by function, input pattern and FPCTL.ftz (R147: the bits depend on these
alone). The model takes it where it lies within the spec's error bound. (DESIGN CHOICE, log 3) -/
opaque Config.special : Nat → Nat → Bool → Nat

/-- The n-th draw of the ENTROPY coin of the summaries (R254). (DESIGN CHOICE, log 4) -/
opaque Config.entropy : Nat → Bool

/-- The n-th byte whose value the spec leaves undefined (the payload of an ABANDONED slot, R225).
(DESIGN CHOICE, log 4) -/
opaque Config.freeByte : Nat → Byte

/-- Byte `i` of the SM2 signature over a message with the device's identity key (R412). (DESIGN CHOICE, log 10) -/
opaque Config.sm2Sign : List Byte → Nat → Byte

/-- Byte of a notify key as the monitor key seals it with SM4 for the journal (R416). (DESIGN CHOICE, log 56) -/
opaque Config.monitorSeal : List Byte → Nat → Byte
/-- Byte `i` of the SM4-GCM ciphertext and tag of a unit under a tenant's debug key (R400): key slot, nonce, associated data,
plain text. (DESIGN CHOICE, log 10) -/
opaque Config.sm4Seal : Nat → List Byte → List Byte → List Byte → Nat → Byte

/-- The silicon revision, FEAT3.rev, fused (R449). (DESIGN CHOICE, log 10) -/
opaque Config.siliconRev : BitVec 8

/-- Byte `i` of fused key hash `n` (R410), whether its revoke fuse is blown, and the fused minimum svn.
(DESIGN CHOICE, log 10) -/
opaque Config.fusedHash : Nat → Nat → Byte
opaque Config.fusedRevoked : Nat → Bool
opaque Config.fusedMinSvn : Nat

/-- Whether an SM2 signature verifies: key, digest, signature (R410). (DESIGN CHOICE, log 10) -/
opaque Config.sm2Verify : List Byte → List Byte → List Byte → Bool

end Sys2Proof
end

