-- ==== Sys2Proof/Syntax.lean ====
section
/-!
DEFINITION. The instructions: one constructor per row of the opcode table. A warp instruction carries its raw
fields as R84 to R87 lay them out; a supervisor instruction carries the fields of R404; a command, a register
write or an event of the package carries what names its occurrence.
-/

namespace Sys2Proof

/-- Vector short form (R84): C, vd, va, vb. -/
structure ShortV where
  c : Bool
  d : BitVec 8
  a : BitVec 8
  b : BitVec 8
  deriving DecidableEq, Repr

/-- Uniform short form with a fixed `sub` (R84, R92): C, sd, sb. -/
structure ShortA where
  c : Bool
  d : BitVec 9
  b : BitVec 9
  deriving DecidableEq, Repr

/-- Uniform short form (R84): C, sd, sb, sub. -/
structure ShortU where
  c : Bool
  d : BitVec 9
  b : BitVec 9
  sub : BitVec 6
  deriving DecidableEq, Repr

/-- Branch short form (R84): C, p, n, the signed packet offset. -/
structure ShortB where
  c : Bool
  p : BitVec 3
  n : Bool
  off : BitVec 20
  deriving DecidableEq, Repr

/-- Long form (R85): C, D, A, B of the first word; T, K, G, N, W, M of the second. -/
structure LongF where
  c : Bool
  d : BitVec 8
  a : BitVec 8
  b : BitVec 8
  t : BitVec 9
  k : Bool
  g : BitVec 3
  n : Bool
  w : BitVec 3
  m : BitVec 7
  deriving DecidableEq, Repr

/-- Vector with immediate, OP 0x71 (R86). -/
structure ImmV where
  c : Bool
  d : BitVec 8
  a : BitVec 8
  imm : BitVec 32
  deriving DecidableEq, Repr

/-- Uniform with immediate, OP 0x73 (R86): `x` is bits [6:0] of the second word. -/
structure ImmU where
  c : Bool
  d : BitVec 9
  imm : BitVec 32
  x : BitVec 7
  deriving DecidableEq, Repr

/-- Uniform three-address form, OP 0x72 (R87). -/
structure UniF where
  c : Bool
  d : BitVec 9
  a : BitVec 9
  t : BitVec 9
  g : BitVec 3
  n : Bool
  w : BitVec 3
  m : BitVec 6
  deriving DecidableEq, Repr

/-- Supervisor custom-0 R-type form (R404): rd, rs1, rs2. -/
structure RvR where
  d : BitVec 5
  a : BitVec 5
  b : BitVec 5
  deriving DecidableEq, Repr

/-- Supervisor SWAIT (R404, R408): the comparison of funct7[1:0], rd, rs1, rs2. -/
structure RvC where
  c : BitVec 2
  d : BitVec 5
  a : BitVec 5
  b : BitVec 5
  deriving DecidableEq, Repr

/-- Whom a pre-emption request names (R381): a warp, the warps of a core, or a stage of a plan. -/
inductive PreemptTarget where
  | warp (w : Nat)
  | core (c : Nat)
  | stage (p st : Nat)
  deriving DecidableEq, Repr

/-- What Toltar does with a delegated trap (R384). -/
inductive ToltarAction where
  | ret          -- return the warp as RETT would
  | handler      -- pass the trap on to the warp's handler
  | terminate    -- terminate the warp's groups
  deriving DecidableEq, Repr

/-- Where an error strikes (R286): uncorrectable, but for `corrected`. -/
inductive EccPlace where
  | l1 (core word : Nat)       -- a word of an L1 copy
  | spad (core addr : Nat)     -- a byte of a core's operand store
  | home (addr : Nat)          -- a byte of L2 or HBM4E data
  | tlb (core : Nat)           -- a TLB entry of a core
  | dieTlb (die : Nat)         -- a last-level TLB or walk-cache entry of a die
  | pinned (p pipe seq : Nat)  -- a pinned pipe slot
  | corrected (unit : Nat)     -- a correctable error: 0 operand store, 1 L1, 2 L2, 3 TLB, 4 HBM4E, 5 accumulators
  | l2Writeback (line : Nat)   -- dirty L2 data at its write-back
  | accum (core ctx reg elem : Nat)   -- a stored accumulator element, two bits (R355)
  | replaySource (port seq : Nat)     -- the source entries of a flit in a port's replay buffer (R433)
  deriving DecidableEq, Repr

/-- What arrives at a home: a message of this package by its number, or an access of another device to this one's memory
(R272, R274): its address, operation and type codes (R177), and its bytes or its operands in lane order; `foreign` is a request
of R432 from a device that is not a BR880. -/
inductive Inbound where
  | sent (id : Nat)
  | peer (dev pa op ty : Nat) (vals : List Nat)
  | foreign (dev : Nat)
  deriving DecidableEq, Repr

/-- Where a summary command is performed from (R251): the oldest that a core's queue lets go, or an update, merge or query of
another device on a summary homed here (R432): operation by XOP (R247), coin, address, its keys or items in lane order, the bytes of
a merge's source; `foreign` is such a request from a device that is not a BR880. -/
inductive SumFrom where
  | core (c : Nat)
  | peer (dev op coin dst : Nat) (vals : List Nat) (src : List Byte)
  | foreign (dev : Nat)
  deriving DecidableEq, Repr

/-- What a peer device says of its end of a place-1 pipe (R342): the device, the device its entry names, the end it holds,
its fields, per slot the sequence that last vacated it plus one, whether that end is closed (R228), and the index its entry gives the
far end, a stage of this device's record (R341). -/
structure PeerPipe where
  dev   : Nat
  names : Nat
  prod  : Bool
  depth : Nat
  bytes : Nat
  rows  : Nat
  cols  : Nat
  fmt   : Nat
  vacated : List Nat
  closed : Bool
  stage  : Nat
  deriving DecidableEq, Repr

/-- A waiting operation of a stage of another device, as that device's Toltar tells (R349): pipe, kind (0 PRSV, 2 PACQ),
the sequence waited for, and the stage at the far end: device, plan slot, index. -/
structure FarWait where
  pipe  : Nat
  kind  : Nat
  seq   : Nat
  dev   : Nat
  plan  : Nat
  stage : Nat
  deriving DecidableEq, Repr

/-- A stage of another device (R349): since when it has been blocked, if it is, its plan's window in ns, its waits. -/
structure FarStage where
  dev    : Nat
  plan   : Nat
  stage  : Nat
  since  : Option Nat
  window : Nat
  waits  : List FarWait
  deriving DecidableEq, Repr

/-- A plan whose blocked stages are followed, with what other devices say of theirs (R349). -/
structure BlockedSet where
  plan : Nat
  far  : List FarStage
  deriving DecidableEq, Repr

/-- What a commit from another device says of its slot (R336, R343): the status, the producer's source number, the address of
its stamp record in the producer's space, and that record's reservation and offsets (R397). -/
structure CommitMark where
  status   : Nat
  producer : Nat
  stamp    : Nat
  reserve  : Nat
  offs     : List Nat
  deriving DecidableEq, Repr

/-- What a consumer's device says of a vacated slot (R343): the sequence, whether the entry has left the pipe or lives on in
the spill area (R346), and what its stamp record has to say by then (R397): status, acquirer, offsets 6 and 7, flags. -/
structure VacateMark where
  seq       : Nat
  left      : Bool
  status    : Nat
  consumer  : Nat
  acquire   : Nat
  release   : Nat
  spilled   : Bool
  restarted : Bool
  deriving DecidableEq, Repr

/-- A snapshot of a pipe (R227, R340): of the pipe here; the count that the peer's side of a place-1 pipe answers with; or the
peer's question for the count of this side. -/
inductive PollAt where
  | here (pipe : Nat)
  | answer (pipe n : Nat)
  | asked (dev pipe : Nat)
  deriving DecidableEq, Repr

/-- A turn of a drain (R350): the next of a plan's drain; a peer's answer, whether it spilled an entry and whether a stage of the
cycle on it has had a token fill within 1 µs; a peer's request to spill one entry of a pipe stored here, with the plan's
stages in its cycle; and that request once 1 µs has passed since the spill at GTIME `t`. -/
inductive DrainTurn where
  | turn (p : Nat)
  | told (p : Nat) (spilled filled : Bool)
  | asked (dev p pipe : Nat) (stages : List Nat)
  | judged (dev p pipe t : Nat) (stages : List Nat)
  deriving DecidableEq, Repr

/-- A die that is reset, with the slices of it that failed and the cores whose crossbar ports did (R428). -/
structure LostPart where
  die    : Nat
  slices : List Nat
  cores  : List Nat
  deriving DecidableEq, Repr

/-- Where a remote access comes in (R436): the port, and the address space that it names. -/
structure UeTarget where
  port : Nat
  asid : Nat
  deriving DecidableEq, Repr

/-- What a decoder says of a frame (R437, R354, R442): its number in bitstream order, hidden frames counted; whether it is output
(show_frame, or a show_existing_frame that refers to what it shows); an error in its bitstream; the numbers of the frames it is
predicted from; bytes passed over before it; whether it is a key frame; the sequence header in force. -/
structure FrameNote where
  num     : Nat
  shown   : Bool
  err     : Bool
  refs    : List Nat
  skipped : Nat
  key     : Bool
  profile : Nat       -- 0 is Main
  level   : Nat       -- 61 is level 6.1
  chroma  : Nat       -- 420, 400 or another
  deriving DecidableEq, Repr

/-- A decoded frame (R440): its size in luma samples, its bit depth, and its planes Y, U, V in raster order. -/
structure Picture where
  width  : Nat
  height : Nat
  depth  : Nat
  planes : List (List Nat)
  deriving DecidableEq, Repr

/-- How a bring-up step ends (R450): whether it succeeds, and the ports of the die at which step 5 finds its DEVICE twice. -/
structure StepResult where
  ok  : Bool
  dup : List Nat
  deriving DecidableEq, Repr

/-- An address-space descriptor (R413): identifier, table root, WMBASE, DRBASE, DRSIZE, confidential flag, debug key
slot, and the first address and length of the save-area region Toltar reserves (R382). -/
structure AsDescriptor where
  asid     : Nat
  root     : Nat
  wmbase   : Nat
  drbase   : Nat
  drsize   : Nat
  conf     : Bool
  dbgKey   : Nat
  saveBase : Nat
  saveLen  : Nat
  deriving DecidableEq, Repr

/-- A start or stop condition of a core's trigger (R391). -/
inductive TrigCond where
  | never
  | pcAt (traced addr : Nat)
  | gtimeAt (t : Nat)
  | counterAt (w set count : Nat)
  | request
  deriving DecidableEq, Repr

/-- The registers a write reaches that have no row of their own (R405, R417, R419, and Toltar's debug controls of
R389 to R396); `hart` places a pair where its program starts (its mode, 0 U, 1 S, 3 M, its pc, some x registers) and
`turn` lets a pair run its next instruction; `debugRead` and `undoRead` have Toltar read records (R390, R400), `dumpSetting` is a tenant's (R399); `freePages` gives Toltar 64 KiB pages to map, `codeObject` is one it has
loaded (R411); `deviceSilent` says that another device stops or begins to answer (R433), `route` sets the ports enabled for one (R431),
`i3cRead` and `i3cWrite` are the board controller's transfers (R448). (PRESUMED, log 8) -/
inductive RegTarget where
  | csr (pair num : Nat) (val : DWord)
  | mcpAddr (core : Nat) (val : DWord)
  | mcpCmd (core : Nat) (val : Word)
  | sampler (core j : Nat)
  | debugRing (core base size : Nat)
  | debugRead (core n : Nat)
  | traced (core idx w lane : Nat)
  | stopPoint (core idx w lane addr : Nat)
  | trigger (core : Nat) (start stop : TrigCond)
  | triggerArm (core : Nat)
  | triggerRequest (core : Nat) (start : Bool)
  | stepLane (core lane : Nat)
  | tmodeDebug (w : Nat) (step dbg : Bool)
  | counterConfig (w set event : Nat) (isGlobal : Bool)
  | undoRing (w addr : Nat)
  | undoRead (w n : Nat)
  | dumpSetting (asid dest area : Nat)
  | directory (q shadow : Nat)
  | shadowWrite (q : Nat) (bytes : List Byte)
  | duty (die duty pair : Nat)
  | ueWindow (asid base len : Nat) (r w : Bool)
  | stepResume (asid : Nat)
  | freePages (pages : List Nat)
  | codeObject (asid : Nat) (file : List Byte)
  | hart (pair mode : Nat) (pc : DWord) (regs : List (Nat × DWord))
  | turn (pair : Nat)
  | deviceSilent (dev : Nat) (on : Bool)
  | route (dev : Nat) (ports : List Nat)
  | i3cRead (target off : Nat)
  | i3cWrite (target off : Nat) (val : Word)
  deriving DecidableEq, Repr

/-- The instructions, commands and events of the opcode table, in its order. -/
inductive Instr where
  /-- The all-zero word has no effect, and a packet of NOPs from the program counter onward moves the path to the next packet in one clk (R78). -/
  | nop
  /-- Short 32-bit signed add of va and vb into vd in each lane of ACT (R117). -/
  | iaddShort (f : ShortV)
  /-- Short 32-bit signed subtract (R117). -/
  | isubShort (f : ShortV)
  /-- Short 32-bit signed multiply, low half (R117). -/
  | imulShort (f : ShortV)
  /-- Short signed multiply, high 32 bits (R117). -/
  | imulhiS32Short (f : ShortV)
  /-- Short unsigned multiply, high 32 bits (R117). -/
  | imulhiZ32Short (f : ShortV)
  /-- Short signed multiply-add with vc equal to vd (R117). -/
  | imadShort (f : ShortV)
  /-- Short signed minimum (R118). -/
  | iminS32Short (f : ShortV)
  /-- Short unsigned minimum (R118). -/
  | iminZ32Short (f : ShortV)
  /-- Short signed maximum (R118). -/
  | imaxS32Short (f : ShortV)
  /-- Short unsigned maximum (R118). -/
  | imaxZ32Short (f : ShortV)
  /-- Short signed absolute value of va (R118). -/
  | iabsShort (f : ShortV)
  /-- Short bitwise AND (R119). -/
  | andShort (f : ShortV)
  /-- Short bitwise OR (R119). -/
  | orShort (f : ShortV)
  /-- Short bitwise XOR (R119). -/
  | xorShort (f : ShortV)
  /-- Short logical left shift (R119). -/
  | shlShort (f : ShortV)
  /-- Short logical right shift (R119). -/
  | shrShort (f : ShortV)
  /-- Short arithmetic right shift (R119). -/
  | sarShort (f : ShortV)
  /-- Short population count of va (R120). -/
  | popcShort (f : ShortV)
  /-- Short count of leading zeros of va (R120). -/
  | clzShort (f : ShortV)
  /-- Short bit reversal of va (R120). -/
  | brevShort (f : ShortV)
  /-- Long integer add of any ty, with optional saturation (R117). -/
  | iadd (f : LongF)
  /-- Long integer subtract (R117). -/
  | isub (f : LongF)
  /-- Long integer multiply, low N bits or saturated (R117). -/
  | imul (f : LongF)
  /-- Long integer multiply, high N bits (R117). -/
  | imulhi (f : LongF)
  /-- Long integer multiply-add with vc from T (R117). -/
  | imad (f : LongF)
  /-- Long integer minimum (R118). -/
  | imin (f : LongF)
  /-- Long integer maximum (R118). -/
  | imax (f : LongF)
  /-- Long integer absolute value (R118). -/
  | iabs (f : LongF)
  /-- Long bitwise AND (R119). -/
  | and (f : LongF)
  /-- Long bitwise OR (R119). -/
  | or (f : LongF)
  /-- Long bitwise XOR (R119). -/
  | xor (f : LongF)
  /-- Long left shift (R119). -/
  | shl (f : LongF)
  /-- Long logical right shift (R119). -/
  | shr (f : LongF)
  /-- Long arithmetic right shift (R119). -/
  | sar (f : LongF)
  /-- Extracts a bit field of va by the position and length in B (R121). -/
  | bfe (f : LongF)
  /-- Inserts a field of va into vc by the control in B (R121). -/
  | bfi (f : LongF)
  /-- Long population count (R120). -/
  | popc (f : LongF)
  /-- Long count of leading zeros (R120). -/
  | clz (f : LongF)
  /-- Long bit reversal (R120). -/
  | brev (f : LongF)
  /-- Computes va plus vb shifted by 0 to 7 (R122). -/
  | lea (f : LongF)
  /-- Integer compare writing a lane predicate (R123). -/
  | isetp (f : LongF)
  /-- Selects va or vb per lane by a predicate (R124). -/
  | sel (f : LongF)
  /-- Adds a 32-bit immediate to va (R125). -/
  | iaddImm (f : ImmV)
  /-- Multiplies va by a 32-bit immediate (R125). -/
  | imulImm (f : ImmV)
  /-- ANDs va with an immediate (R125). -/
  | andImm (f : ImmV)
  /-- ORs va with an immediate (R125). -/
  | orImm (f : ImmV)
  /-- XORs va with an immediate (R125). -/
  | xorImm (f : ImmV)
  /-- Shifts va left by an immediate count (R125). -/
  | shlImm (f : ImmV)
  /-- Shifts va right logically by an immediate count (R125). -/
  | shrImm (f : ImmV)
  /-- Shifts va right arithmetically by an immediate count (R125). -/
  | sarImm (f : ImmV)
  /-- Short FP32 add, RN (R139). -/
  | faddShort (f : ShortV)
  /-- Short FP32 subtract, RN (R139). -/
  | fsubShort (f : ShortV)
  /-- Short FP32 multiply, RN (R139). -/
  | fmulShort (f : ShortV)
  /-- Short FP32 fused multiply-add into vd, RN (R139). -/
  | ffmaShort (f : ShortV)
  /-- Short FP32 minimumNumber (R140). -/
  | fminShort (f : ShortV)
  /-- Short FP32 maximumNumber (R140). -/
  | fmaxShort (f : ShortV)
  /-- Short packed BF16 add (R143). -/
  | hadd2Bf16Short (f : ShortV)
  /-- Short packed FP16 add (R143). -/
  | hadd2F16Short (f : ShortV)
  /-- Short packed BF16 multiply (R143). -/
  | hmul2Bf16Short (f : ShortV)
  /-- Short packed FP16 multiply (R143). -/
  | hmul2F16Short (f : ShortV)
  /-- Short packed BF16 fused multiply-add into vd (R143). -/
  | hfma2Bf16Short (f : ShortV)
  /-- Short packed FP16 fused multiply-add into vd (R143). -/
  | hfma2F16Short (f : ShortV)
  /-- Long FP32 add with a rounding mode (R139). -/
  | fadd (f : LongF)
  /-- Long FP32 subtract (R139). -/
  | fsub (f : LongF)
  /-- Long FP32 multiply (R139). -/
  | fmul (f : LongF)
  /-- Long FP32 fused multiply-add with vc from T (R139). -/
  | ffma (f : LongF)
  /-- Long FP32 minimumNumber (R140). -/
  | fmin (f : LongF)
  /-- Long FP32 maximumNumber (R140). -/
  | fmax (f : LongF)
  /-- FP32 compare writing a lane predicate (R141). -/
  | fsetp (f : LongF)
  /-- Rounds va to an integral FP32 value (R142). -/
  | frnd (f : LongF)
  /-- Long packed half-precision add (R143). -/
  | hadd2 (f : LongF)
  /-- Long packed half-precision multiply (R143). -/
  | hmul2 (f : LongF)
  /-- Long packed half-precision fused multiply-add (R143). -/
  | hfma2 (f : LongF)
  /-- FP32 add of an immediate, RN (R139). -/
  | faddImm (f : ImmV)
  /-- FP32 multiply by an immediate, RN (R139). -/
  | fmulImm (f : ImmV)
  /-- vd := va times immediate plus vd, rounded once (R139). -/
  | ffmaImm (f : ImmV)
  /-- Short FP32 reciprocal (R147). -/
  | rcpShort (f : ShortV)
  /-- Short FP32 reciprocal square root (R147). -/
  | rsqShort (f : ShortV)
  /-- Short FP32 square root (R147). -/
  | sqrtShort (f : ShortV)
  /-- Short FP32 power of two (R147). -/
  | ex2Short (f : ShortV)
  /-- Short FP32 base-2 logarithm (R147). -/
  | lg2Short (f : ShortV)
  /-- Short FP32 sine (R57). -/
  | sinShort (f : ShortV)
  /-- Short FP32 cosine (R57). -/
  | cosShort (f : ShortV)
  /-- Short FP32 hyperbolic tangent (R147). -/
  | tanhShort (f : ShortV)
  /-- Long FP32 reciprocal (R147). -/
  | rcp (f : LongF)
  /-- Long FP32 reciprocal square root (R147). -/
  | rsq (f : LongF)
  /-- Long FP32 square root (R147). -/
  | sqrt (f : LongF)
  /-- Long FP32 power of two (R147). -/
  | ex2 (f : LongF)
  /-- Long FP32 base-2 logarithm (R147). -/
  | lg2 (f : LongF)
  /-- Long FP32 sine (R57). -/
  | sin (f : LongF)
  /-- Long FP32 cosine (R57). -/
  | cos (f : LongF)
  /-- Long FP32 hyperbolic tangent (R147). -/
  | tanh (f : LongF)
  /-- Converts between integer and float formats with rounding, saturation and part selection (R146). -/
  | cvt (f : LongF)
  /-- Moves va between lanes of ACT by index, up, down or xor (R152). -/
  | shfl (f : LongF)
  /-- Forms ALL, ANY, UNI or BALLOT of a predicate over ACT (R153). -/
  | vote (f : LongF)
  /-- Reduces va over ACT and writes the result in every lane of ACT (R154). -/
  | redux (f : LongF)
  /-- Permutes bytes of va and vb by a selector (R155). -/
  | prmt (f : LongF)
  /-- Writes per lane the mask of lanes whose va matches (R156). -/
  | matchLanes (f : LongF)
  /-- Short uniform add, sd := sd + sb (R130). -/
  | saddShort (f : ShortA)
  /-- Short uniform subtract (R130). -/
  | ssubShort (f : ShortA)
  /-- Short uniform multiply (R130). -/
  | smulShort (f : ShortA)
  /-- Short uniform AND (R130). -/
  | sandShort (f : ShortA)
  /-- Short uniform OR (R130). -/
  | sorShort (f : ShortA)
  /-- Short uniform XOR (R130). -/
  | sxorShort (f : ShortA)
  /-- Short uniform left shift (R130). -/
  | sshlShort (f : ShortA)
  /-- Short uniform logical right shift (R130). -/
  | sshrShort (f : ShortA)
  /-- Short uniform move, sd := sb (R130). -/
  | smovShort (f : ShortA)
  /-- Short signed uniform compare writing a uniform predicate (R131). -/
  | ssetpS32Short (f : ShortU)
  /-- Short unsigned uniform compare writing a uniform predicate (R131). -/
  | ssetpZ32Short (f : ShortU)
  /-- Short copy of a uniform register into vd in the lanes of ACT (R133). -/
  | s2vShort (f : ShortU)
  /-- Short copy of one lane's vector register into a uniform register (R134). -/
  | v2sShort (f : ShortU)
  /-- Short uniform 32-bit load from a pair base plus 4 times sub (R135). -/
  | sldShort (f : ShortU)
  /-- Three-address uniform add (R130). -/
  | sadd (f : UniF)
  /-- Three-address uniform subtract (R130). -/
  | ssub (f : UniF)
  /-- Three-address uniform multiply (R130). -/
  | smul (f : UniF)
  /-- Three-address uniform AND (R130). -/
  | sand (f : UniF)
  /-- Three-address uniform OR (R130). -/
  | sor (f : UniF)
  /-- Three-address uniform XOR (R130). -/
  | sxor (f : UniF)
  /-- Three-address uniform left shift (R130). -/
  | sshl (f : UniF)
  /-- Three-address uniform right shift, arithmetic or logical (R130). -/
  | sshr (f : UniF)
  /-- Three-address uniform move (R130). -/
  | smov (f : UniF)
  /-- Three-address uniform compare writing a uniform predicate (R131). -/
  | ssetp (f : UniF)
  /-- Extracts a bit field of sa by the control in sb (R132). -/
  | sbfe (f : UniF)
  /-- Long copy of sa into vd in the lanes of ACT (R133). -/
  | s2v (f : UniF)
  /-- Long copy of va of one lane into sd (R134). -/
  | v2s (f : UniF)
  /-- Long uniform load of 32 or 64 bits from pair sa plus sb (R135). -/
  | sld (f : UniF)
  /-- Uniform add of an immediate to sd (R130). -/
  | saddImm (f : ImmU)
  /-- Uniform multiply of sd by an immediate (R130). -/
  | smulImm (f : ImmU)
  /-- Uniform AND with an immediate (R130). -/
  | sandImm (f : ImmU)
  /-- Uniform OR with an immediate (R130). -/
  | sorImm (f : ImmU)
  /-- Uniform XOR with an immediate (R130). -/
  | sxorImm (f : ImmU)
  /-- Uniform left shift by an immediate (R130). -/
  | sshlImm (f : ImmU)
  /-- Uniform right shift by an immediate (R130). -/
  | sshrImm (f : ImmU)
  /-- Uniform move of an immediate into sd (R130). -/
  | smovImm (f : ImmU)
  /-- Uniform compare of sd with an immediate writing a uniform predicate (R131). -/
  | ssetpImm (f : ImmU)
  /-- Short 32-bit global load at a uniform pair base plus va (R167). -/
  | ldShort (f : ShortV)
  /-- Short 32-bit global store into the store queue (R168). -/
  | stShort (f : ShortV)
  /-- Short 32-bit scratchpad load at va (R159). -/
  | ldsShort (f : ShortV)
  /-- Short 32-bit scratchpad store at va (R159). -/
  | stsShort (f : ShortV)
  /-- Long global load of mt with optional acquire ordering (R167). -/
  | ld (f : LongF)
  /-- Long global store of mt with optional release ordering, entering the store queue (R168). -/
  | st (f : LongF)
  /-- Long scratchpad or stash load with swizzle (R159). -/
  | lds (f : LongF)
  /-- Long scratchpad or stash store with swizzle (R159). -/
  | sts (f : LongF)
  /-- Load from the scratchpad of a group member core (R160). -/
  | ldr (f : LongF)
  /-- Store to the scratchpad of a group member core (R160). -/
  | str (f : LongF)
  /-- Watched load that may take a stale L1 copy and creates watch entries (R188). -/
  | ldw (f : LongF)
  /-- Waits for pending watches of an identifier and branches struck lanes to repair (R190). -/
  | chkw (f : LongF)
  /-- Acquire, release or acquire-release fence at a scope (R172). -/
  | fence (f : LongF)
  /-- Release, wait for the next heartbeat tick, then acquire (R173). -/
  | fenceSc (f : LongF)
  /-- Holds the warp until stores are acknowledged and their faults reported (R174). -/
  | drainst (f : LongF)
  /-- Discards fetched packets, empties the loop buffer and invalidates the instruction cache (R175). -/
  | ifence (f : LongF)
  /-- Brings lines into L1 and L2 or the home slice without faulting (R182). -/
  | prefetch (f : LongF)
  /-- Maps a stash window of the group to a global base (R183). -/
  | smap (f : LongF)
  /-- Writes back a stash window's dirty words and unmaps it (R185). -/
  | sunmap (f : LongF)
  /-- Writes back dirty words of one or all stash windows (R185). -/
  | sflush (f : LongF)
  /-- Loads the watermark of a 64-byte block (R186). -/
  | wmld (f : LongF)
  /-- Stores the watermark of a 64-byte block (R186). -/
  | wmst (f : LongF)
  /-- Global atomic add returning the old value (R177). -/
  | atomAdd (f : LongF)
  /-- Global atomic minimum (R177). -/
  | atomMin (f : LongF)
  /-- Global atomic maximum (R177). -/
  | atomMax (f : LongF)
  /-- Global atomic AND (R177). -/
  | atomAnd (f : LongF)
  /-- Global atomic OR (R177). -/
  | atomOr (f : LongF)
  /-- Global atomic XOR (R177). -/
  | atomXor (f : LongF)
  /-- Global atomic exchange (R177). -/
  | atomExch (f : LongF)
  /-- Global atomic compare-and-swap (R177). -/
  | atomCas (f : LongF)
  /-- Scratchpad atomic add (R179). -/
  | atomSpadAdd (f : LongF)
  /-- Scratchpad atomic minimum (R179). -/
  | atomSpadMin (f : LongF)
  /-- Scratchpad atomic maximum (R179). -/
  | atomSpadMax (f : LongF)
  /-- Scratchpad atomic AND (R179). -/
  | atomSpadAnd (f : LongF)
  /-- Scratchpad atomic OR (R179). -/
  | atomSpadOr (f : LongF)
  /-- Scratchpad atomic XOR (R179). -/
  | atomSpadXor (f : LongF)
  /-- Scratchpad atomic exchange (R179). -/
  | atomSpadExch (f : LongF)
  /-- Scratchpad atomic compare-and-swap (R179). -/
  | atomSpadCas (f : LongF)
  /-- Atomic add on a spread-group member's scratchpad (R179). -/
  | atomPeerAdd (f : LongF)
  /-- Peer scratchpad atomic minimum (R179). -/
  | atomPeerMin (f : LongF)
  /-- Peer scratchpad atomic maximum (R179). -/
  | atomPeerMax (f : LongF)
  /-- Peer scratchpad atomic AND (R179). -/
  | atomPeerAnd (f : LongF)
  /-- Peer scratchpad atomic OR (R179). -/
  | atomPeerOr (f : LongF)
  /-- Peer scratchpad atomic XOR (R179). -/
  | atomPeerXor (f : LongF)
  /-- Peer scratchpad atomic exchange (R179). -/
  | atomPeerExch (f : LongF)
  /-- Peer scratchpad atomic compare-and-swap (R179). -/
  | atomPeerCas (f : LongF)
  /-- Global reduction add through the store queue, returning nothing (R180). -/
  | redAdd (f : LongF)
  /-- Global reduction minimum (R180). -/
  | redMin (f : LongF)
  /-- Global reduction maximum (R180). -/
  | redMax (f : LongF)
  /-- Global reduction AND (R180). -/
  | redAnd (f : LongF)
  /-- Global reduction OR (R180). -/
  | redOr (f : LongF)
  /-- Global reduction XOR (R180). -/
  | redXor (f : LongF)
  /-- Enters the store queue to decrement a trigger counter and OR in a flag byte (R181). -/
  | redTrig (f : LongF)
  /-- Short lane-predicated branch by a 20-bit packet offset (R195). -/
  | braShort (f : ShortB)
  /-- Short exit of the lanes whose condition holds (R197). -/
  | exitShort (f : ShortB)
  /-- Short yield making the warp not ready for 16 clk (R200). -/
  | yieldShort (f : ShortB)
  /-- Long branch by a 24-bit offset, lane or uniform guarded (R195). -/
  | bra (f : LongF)
  /-- Indirect branch to an address in a pair (R195). -/
  | brx (f : LongF)
  /-- Branch that writes the link of the following packet (R195). -/
  | call (f : LongF)
  /-- Branch to the link address in a vector pair (R195). -/
  | ret (f : LongF)
  /-- Long exit setting the lanes of ACT to EXITED (R197). -/
  | exit (f : LongF)
  /-- Sends lanes to WAITING at a convergence point with a mask (R198). -/
  | conv (f : LongF)
  /-- Long uniform-guarded yield (R200). -/
  | yield (f : LongF)
  /-- Sets the warp's PRIO (R201). -/
  | setpri (f : LongF)
  /-- Arrives at a group barrier and waits for the phase (R204). -/
  | bar (f : LongF)
  /-- Arrives at a group barrier without waiting (R204). -/
  | bara (f : LongF)
  /-- Waits for the phase of the warp's last arrival (R204). -/
  | barw (f : LongF)
  /-- Creates one continuation record per lane in the chest or overflow ring, optionally armed (R206). -/
  | spawn (f : LongF)
  /-- Submits a stage or plan launch record to the device-launch queue (R208). -/
  | launch (f : LongF)
  /-- Posts a command to a device-fed queue (R209). -/
  | enq (f : LongF)
  /-- Terminates every member warp of one or all groups of the warp (R210). -/
  | gterm (f : LongF)
  /-- Raises the TRAPI trap with a 16-bit code (R211). -/
  | trapi (f : LongF)
  /-- Checks the control record, restores state and re-injects the replay queue (R213). -/
  | rett (f : LongF)
  /-- Reads a special register into a vector or uniform register (R214). -/
  | mfsr (f : LongF)
  /-- Writes a special register without a row of its own (R214). -/
  | mtsr (f : LongF)
  /-- Raises the BKPT trap with a tag (R211). -/
  | bkpt (f : LongF)
  /-- Posts a service request to Toltar and empties s0 to s3 (R212). -/
  | svc (f : LongF)
  /-- Writes elapsed time since reserve into a field of a slot's stamp record (R215). -/
  | stamp (f : LongF)
  /-- Zeroes and starts a counter set (R216). -/
  | cntstart (f : LongF)
  /-- Stops a counter set and writes its result to a pair (R216). -/
  | cntstop (f : LongF)
  /-- Reserves the pipe's next producer sequence, returning a slot handle token (R223). -/
  | prsv (f : LongF)
  /-- Commits a reserved slot with a status (R224). -/
  | pcmt (f : LongF)
  /-- Takes the pipe's next consumer sequence (R225). -/
  | pacq (f : LongF)
  /-- Releases an acquired slot (R226). -/
  | prel (f : LongF)
  /-- Requests a snapshot of a pipe's filled and free counts (R227). -/
  | ppoll (f : LongF)
  /-- Closes the issuing stage's end of a pipe (R228). -/
  | pclose (f : LongF)
  /-- Drains the store queue and submits a copy descriptor to the TCE (R230). -/
  | tcopy (f : LongF)
  /-- Loads a tile descriptor into a tile register (R238). -/
  | mcfg (f : LongF)
  /-- Clears a tile register (R238). -/
  | mrel (f : LongF)
  /-- Binds a B tile to a context and loads its panel 0 (R242). -/
  | mload (f : LongF)
  /-- Queues matrix accumulation of A rows against B panels into accumulators (R243). -/
  | mloop (f : LongF)
  /-- Queues conversion of an accumulator into a destination tile (R244). -/
  | mdrain (f : LongF)
  /-- Clears an accumulator's residues, poison and exponent (R244). -/
  | mzero (f : LongF)
  /-- Holds the warp until operand or accumulator visibility conditions of a context hold (R246). -/
  | mfence (f : LongF)
  /-- Queues addition of lane values to a quantile sketch (R256). -/
  | skadd (f : LongF)
  /-- Queues a merge of one quantile sketch into another (R256). -/
  | skmerge (f : LongF)
  /-- Reads a quantile of a sketch into vd (R257). -/
  | skq (f : LongF)
  /-- Queues a space-saving update of a heavy-hitter list (R259). -/
  | hhadd (f : LongF)
  /-- Queues a merge of two heavy-hitter lists (R260). -/
  | hhmerge (f : LongF)
  /-- Reads list entries into vector registers (R261). -/
  | hhtop (f : LongF)
  /-- Queues hashing of keys into a distinct-count array (R263). -/
  | dcadd (f : LongF)
  /-- Queues a register-wise maximum merge of two distinct counts (R263). -/
  | dcmerge (f : LongF)
  /-- Writes a distinct-count estimate to vd (R264). -/
  | dcest (f : LongF)
  /-- Supervisor instruction claiming the next ring entry indivisibly (R406). -/
  | rfetch (f : RvR)
  /-- Supervisor bit-field extract (R407). -/
  | bfx (f : RvR)
  /-- Supervisor wait on an 8-byte word until a comparison holds or a timeout passes (R408). -/
  | swait (f : RvC)
  /-- Supervisor hand-over of a command to the HQS for a queue (R409). -/
  | dispatch (f : RvR)
  /-- Writing 1 to TMODE.nopre holds pre-emption off for 4,096 clk (R381). -/
  | tmodeNopreWrite (w : Nat)
  /-- Writing 1 to an MSTAT bit clears it (R240). -/
  | mstatClear (w : Nat) (bits : Word)
  /-- Write to a CSR or control register that has no row of its own (R405). -/
  | registerWrite (r : RegTarget)
  /-- Queue command consumed without effect (R312). -/
  | cmdNop (q : Nat)
  /-- Accepts requested feature words and writes them as a release (R312). -/
  | attach (q : Nat) (feat : List Word) (addr : Nat)
  /-- Reads and checks a plan record, then takes a slot and waits to place the plan (R321). -/
  | planStart (q addr : Nat) (args : List Word)
  /-- PLAN_START with the restart flag resuming a STOPPED plan in its slot (R327). -/
  | planRestart (q addr : Nat) (args : List Word)
  /-- STOP mode revokes every core of a plan and holds its slot and pipes (R327). -/
  | planStop (q slot : Nat)
  /-- ABORT mode terminates every warp of a plan and frees its slot and pipes (R327). -/
  | planAbort (q slot : Nat)
  /-- Runs one stage entry as a plan of one stage with no pipes (R312). -/
  | stageLaunch (q addr : Nat) (args : List Word)
  /-- Stores a value as a release after every earlier command has completed (R313). -/
  | signal (q addr val : Nat) (wide : Bool)
  /-- Holds later commands until a masked comparison on a word holds (R313). -/
  | waitWord (q addr val mask cmp : Nat) (wide : Bool)
  /-- Holds later commands until every earlier command has completed (R313). -/
  | cmdFence (q : Nat)
  /-- The HQS re-tests a WAIT within 1 µs after a write to its word becomes global (R313). -/
  | waitReevaluate (q : Nat)
  /-- A notify write arrives and is checked, dropped or accepted, raising the queue's write index (R311). -/
  | notify (m : List Byte)
  /-- A pending queue is loaded into a hardware slot and checked (R307). -/
  | queueLoad (q : Nat)
  /-- The HQS unloads a queue whose slice has run out or that is no longer pending (R308). -/
  | queueUnload (q : Nat)
  /-- A loaded queue's time slice runs out, making it a candidate for unloading (R308). -/
  | sliceExpiry (q : Nat)
  /-- After store acknowledgement the HQS reads a LAUNCH record and starts it from the device-launch queue (R315). -/
  | launchAccept (die : Nat)
  /-- After store acknowledgement the HQS performs the indivisible queue step of an ENQ (R209). -/
  | enqStep (w seq : Nat)
  /-- A waiting plan takes a freed plan slot in start order (R321). -/
  | planSlotGrant
  /-- Once cinit shares can be placed, cores join stages and warps are launched (R322). -/
  | planPlacement
  /-- Every warp of a stopping plan has exited and STOPPED is written (R327). -/
  | planStopped (p : Nat)
  /-- A stage with no live warp and no READY record ends, discarding ARMED records (R332). -/
  | stageEnd (p st : Nat)
  /-- At each epoch end the deckle computes stage demands and may revoke a unit (R325). -/
  | deckleEpoch (p : Nat)
  /-- A revoked unit whose warps retired and chests emptied leaves the donor stage and joins the receiver (R326). -/
  | deckleHandover (p : Nat)
  /-- Records move from the overflow ring into free chest entries (R329). -/
  | ringToChest (p st : Nat)
  /-- A spawned record becomes eligible once the spawner's earlier stores are acknowledged (R206). -/
  | recordEligible (id : Nat)
  /-- An armed record registers at its counter's home and is released at once if the count is zero (R207). -/
  | armedRegistration (id : Nat)
  /-- A bin's oldest record has waited 512 clk and the bin becomes eligible (R331). -/
  | binTimeout (core bin : Nat)
  /-- An eligible bin forms one warp from up to 32 records when a partition has room (R331). -/
  | warpFormation (core : Nat)
  /-- A warp whose lanes have all exited waits for its stores and tokens, then retires (R197). -/
  | warpRetire (w : Nat)
  /-- A terminated warp sets all lanes EXITED at its next boundary and retires (R210). -/
  | warpTerminate (w : Nat)
  /-- A ready warp unissued for 1,024 clk takes priority 15 for its next issue (R36). -/
  | priorityBoost (w : Nat)
  /-- A ready path whose age reaches 64 becomes eligible as primary (R37). -/
  | pathAgeLimit (w lane : Nat)
  /-- The 16 clk after YIELD end and the warp may be ready again (R200). -/
  | yieldExpiry (w : Nat)
  /-- Waiting lanes at a point are released when their mask is satisfied (R199). -/
  | convRelease (w : Nat)
  /-- A barrier phase completes when all members arrived and announced engine arrivals delivered (R203). -/
  | barrierPhaseComplete (gi bar : Nat)
  /-- An instruction's result is written and its destination set full at the end of its latency (R28). -/
  | resultWriteback (w seq : Nat)
  /-- Data of a load returns from L1, home or registrant and fills vd (R167). -/
  | loadReturn (w seq : Nat)
  /-- At a boundary the warp captures in-flight state, writes the control record and enters its handler or Toltar (R372). -/
  | trapEntry (w : Nat)
  /-- Toltar returns a delegated trap as RETT would, passes it to the handler, or terminates (R384). -/
  | toltarReturn (w : Nat) (act : ToltarAction) (edits : List (Nat × Byte))
  /-- Toltar requests pre-emption of a warp, core or stage (R381). -/
  | preemptRequest (t : PreemptTarget)
  /-- The warp yields at a boundary: capture, store drain, watch strike and save (R381). -/
  | preempt (w : Nat)
  /-- 4,096 clk after nopre was set, the hardware clears it and sets spent (R381). -/
  | nopreExpiry (w : Nat)
  /-- A pre-empted warp takes a slot, restores its save area, acquires and re-injects its replay queue (R382). -/
  | resume (id w : Nat)
  /-- The oldest store-queue entry leaves the queue when written or handed on (R168). -/
  | storeQueueExit (w : Nat)
  /-- A store fails after leaving the queue and a record enters the store-fault record queue (R169). -/
  | storeFaultRecord (w id : Nat)
  /-- The home handles a word registration, advancing the version and acknowledging (R272). -/
  | registration (id : Nat)
  /-- A read of a registered word is forwarded to the registrant and the state becomes REGRD (R272). -/
  | forwardedRead (word : Nat)
  /-- A write to a REGRD word sends a notice that advances the version (R272). -/
  | readThroughNotice (id : Nat)
  /-- A registered word aged 4,096 clk is written back and deregistered (R273). -/
  | l1Dryer (core word : Nat)
  /-- A dirty L2 line is written to HBM4E when its pseudo-channel is idle (R273). -/
  | l2Dryer (line : Nat)
  /-- A slice evicts a line, recalling registered words and discarding versions (R275). -/
  | l2Eviction (line : Nat)
  /-- Evicting an L1 tag writes back and deregisters its registered words (R270). -/
  | l1Eviction (core region : Nat)
  /-- A global atomic performs at its home after recall and returns the old value (R179). -/
  | homeAtomic (w seq : Nat)
  /-- A reduction performs at its home slice (R180). -/
  | redPerform (x : Inbound)
  /-- A RED.TRIG decrements its counter at the home and releases armed records at zero (R181). -/
  | redTrigStep (x : Inbound)
  /-- A write-through is performed at the remote home and acknowledged (R274). -/
  | remoteWriteThrough (x : Inbound)
  /-- The home compares versions and marks a pending watch entry confirmed or struck (R188). -/
  | watchConfirm (w grain : Nat)
  /-- A translation miss walks the tables and replays or enters the fault queue (R284). -/
  | tableWalk (id : Nat)
  /-- Toltar answers a fault entry with replay after installing the translation (R417). -/
  | fqrespReplay (die idx pteAddr : Nat) (pte : DWord)
  /-- Toltar declines a fault entry and the access fails (R417). -/
  | fqrespDecline (die idx : Nat)
  /-- Toltar invalidates TLB and walk-cache entries of a page, completing after old accesses finish (R285). -/
  | tlbInvalidate (asid va : Nat)
  /-- An uncorrectable error is detected and handled by where it hits (R286). -/
  | eccError (x : EccPlace)
  /-- The TCE finishes a copy, writes result and fills the token (R234). -/
  | tcopyComplete (core : Nat)
  /-- The load port fills a context's array with one B panel in 64 clk (R357). -/
  | panelLoad (core : Nat)
  /-- An MLOAD's panel load ends and its token fills (R359). -/
  | mloadComplete (core ctx : Nat)
  /-- The array runs one granted MLOOP unit against a resident panel (R358). -/
  | arrayUnit (core : Nat)
  /-- An MLOOP's accumulator writes complete and its token fills (R359). -/
  | mloopComplete (core ctx : Nat)
  /-- The drain unit writes the tile, checks, samples and fills the token (R359). -/
  | mdrainComplete (core : Nat)
  /-- The shadow unit finishes recomputing a sampled drain (R364). -/
  | shadowSample (core : Nat)
  /-- The matrix control port saves a context image and empties its tag (R363). -/
  | mcpSave (core : Nat)
  /-- The matrix control port restores a context image onto an empty context (R363). -/
  | mcpRestore (core : Nat)
  /-- An SMU or summary unit performs a summary update, merge or query (R251). -/
  | summaryPerform (x : SumFrom)
  /-- A PRSV at the head of reservation order fills with a handle, REVOKED or CLOSED (R223). -/
  | prsvFill (p pipe : Nat)
  /-- After stores and copies complete, the commit takes effect and the token fills (R224). -/
  | pcmtCommit (p pipe : Nat)
  /-- The assigned sequence is committed or abandoned and the PACQ token fills (R225). -/
  | pacqFill (p pipe : Nat)
  /-- A release is recorded and slots free in sequence order (R226). -/
  | prelRecord (p pipe : Nat)
  /-- The pipe unit fills a PPOLL token with a snapshot (R227). -/
  | ppollSnapshot (p : Nat) (x : PollAt)
  /-- A close is recorded and waiting operations receive CLOSED (R228). -/
  | pcloseRecord (p pipe : Nat)
  /-- Place-1 pipe entries on two devices are matched or both ends closed (R342). -/
  | pipeMatch (p pipe : Nat) (peer : PeerPipe)
  /-- A remote write carries vacates to the producer's device counter (R343). -/
  | pipeVacateMirror (p pipe slot : Nat) (mark : VacateMark)
  /-- A remote commit arrives and counts as filled at the consumer's device (R343). -/
  | commitArrival (p pipe seq : Nat) (mark : CommitMark) (payload : List Byte)
  /-- Loss of the UALink path makes each end treat the other as closed (R344). -/
  | pipeLinkLoss (p pipe : Nat)
  /-- A reachable set blocked longer than the window is reported to Toltar (R349). -/
  | deadlockReport (set : BlockedSet)
  /-- Toltar's edge-chasing probe confirms or abandons a cycle (R349). -/
  | deadlockProbe (set : BlockedSet)
  /-- A confirmed cycle is drained by spilling entries of its full pipes (R350). -/
  | deadlockDrain (x : DrainTurn)
  /-- A die partition fails or is reset, terminating its warps and rebuilding state (R428). -/
  | partitionReset (part : LostPart)
  /-- A package or domain heartbeat tick releases waiting FENCE.SC instructions (R173). -/
  | heartbeatTick (dom : Bool)
  /-- A die-to-die link fails and traffic reroutes while it retrains (R430). -/
  | d2dLinkFailure (a b : Nat)
  /-- A link not retrained within 10 ms stays down until boot (R430). -/
  | d2dRetrainTimeout (a b : Nat)
  /-- A peer replay request resends flits, rebuilding or retraining on corrupt entries (R433). -/
  | ualinkReplay (port seq : Nat) (lost : List Nat)
  /-- After 100 ms unreachable, outstanding accesses to the device fail and its pipes close (R433). -/
  | deviceUnreachable (dev : Nat)
  /-- A time message steers GTIME toward the master (R434). -/
  | timeMessage (dev time : Nat)
  /-- No time message for 10 ms leaves GTIME free-running and reports loss of sync (R434). -/
  | syncLoss
  /-- The master silent for 1 ms passes mastership to the lowest locked device (R435). -/
  | timeMasterLoss (next : Nat)
  /-- An Ultra Ethernet remote write into a registered window is performed at its home (R436). -/
  | ueRemoteWrite (win : UeTarget) (va : Nat) (bytes : List Byte)
  /-- An Ultra Ethernet remote read of a registered window returns global data (R436). -/
  | ueRemoteRead (win : UeTarget) (va len : Nat)
  /-- The decoder unit notices a write to a ring's wr and acquires (R438). -/
  | decoderRingNotice (die ring : Nat)
  /-- A free decoder takes the next job and checks it (R438). -/
  | decoderJobStart (die dec : Nat)
  /-- A decoded frame's tiles are committed or written and arrival delivered (R441). -/
  | decoderFrameComplete (die dec : Nat) (pic : Picture) (note : FrameNote)
  /-- A job ends and writes its results and code (R439). -/
  | decoderJobEnd (die dec undelim : Nat) (unreadable : Bool)
  /-- Every 2^j clk the sampler writes one lane's sample record (R389). -/
  | sample (core : Nat)
  /-- The start condition moves the trigger from ARMED to CAPTURING (R391). -/
  | triggerStart (core : Nat)
  /-- The stop condition disarms the trigger (R391). -/
  | triggerStop (core : Nat)
  /-- A named lane reaches a stop point and the warp is captured and saved (R392). -/
  | stopPoint (w : Nat)
  /-- Toltar stops an address space and writes and exports a core image (R399). -/
  | coreImageDump (asid : Nat)
  /-- Toltar writes an attestation report and completes the SVC (R418). -/
  | svcAttest (w : Nat)
  /-- Toltar writes a core image for the SVC (R418). -/
  | svcDump (w : Nat)
  /-- Toltar maps zero-filled pages (R418). -/
  | svcMap (w : Nat)
  /-- Toltar writes back and unmaps pages (R418). -/
  | svcUnmap (w : Nat)
  /-- Toltar appends 24 bytes and GTIME to the tenant log (R418). -/
  | svcLog (w : Nat)
  /-- A peer requests a signed attestation report at the management endpoint (R412). -/
  | attestationRequest (asid : Nat) (nonce : List Byte)
  /-- An SM2 exchange installs a notify key and resets ctr of its queues (R416). -/
  | keyInstall (slot : Nat) (key : List Byte)
  /-- Toltar writes an address-space descriptor into every die (R413). -/
  | addressSpaceRegister (d : AsDescriptor)
  /-- Toltar writes a stage's delegation word (R414). -/
  | delegationWrite (die p st : Nat) (word : Word)
  /-- A comparator mismatch or SRAM error fails a supervisor pair, which is reset (R422). -/
  | pairFailure (pair : Nat)
  /-- 10 ms without a kick fails a supervisor pair (R422). -/
  | watchdogExpiry (pair : Nat)
  /-- A write to the watchdog register restarts its 10 ms count (R422). -/
  | watchdogKick (pair : Nat)
  /-- A spare replays the failed pair's journal and takes its duties (R422). -/
  | spareTakeover (pair : Nat)
  /-- A reset pair self-tests and becomes a spare or is retired (R422). -/
  | pairSelfTest (pair : Nat) (pass : Bool)
  /-- A journal record is mirrored into HBM4E within 1 µs (R420). -/
  | journalMirror (pair : Nat)
  /-- A checkpoint record is written at least every 10 ms (R420). -/
  | journalCheckpoint (pair : Nat)
  /-- Power good and MDEV written start the boot ROM of die 0 pair 0 (R450). -/
  | powerGood
  /-- A bring-up step completes or fails and MSTATE advances (R450). -/
  | bringupStep (die : Nat) (res : StepResult)
  /-- The board controller sets DEVICE before step 1 (R448). -/
  | mdevWrite (die : Nat) (val : Word)
  /-- The board controller sets a die power budget (R448). -/
  | mbudgetWrite (die : Nat) (val : Word)
  /-- Reading MEVENT returns and clears the oldest event (R448). -/
  | meventRead (die : Nat)
  /-- Each 1 ms power window sets the fraction of issue withheld (R446). -/
  | powerWindow (die watts : Nat)
  /-- Junction temperature crossing 105 or 100 °C starts or ends withheld issue (R447). -/
  | thermalThrottle (die temp : Nat)
  /-- At 115 °C the board controller removes module power (R447). -/
  | thermalShutdown
  /-- A failed die-to-die link finishes retraining and traffic returns from the two-hop route to the direct link (R430). -/
  | d2dLinkRetrained (a b : Nat)
  /-- A reset die partition completes self-test and re-harvesting; its stalled accesses resume, its cores rejoin their stages, or the die stays down as degraded (R428). -/
  | partitionRejoin (die : Nat) (ok : Bool)
  /-- The swaitto timeout of a sleeping SWAIT passes, and the instruction exits with rd holding the last value read (R408). -/
  | swaitTimeout (pair : Nat)
  /-- A UALink read request from another device arrives and is served at this device's home, as a fill or load of memory homed here (R431). -/
  | ualinkRemoteRead (dev pa len : Nat)
  /-- A supervisor pair retires a RISC-V fence, which acts as FENCE.REL or FENCE.ACQ at PKG scope, or orders its die-control-space writes for fence io, io (R403). -/
  | supervisorFence (pair : Nat) (predW succR io : Bool)
  /-- On a tenant's request at the management endpoint, Toltar registers a decoder ring for an address space on a die (R438). -/
  | decoderRingRegistration (die asid ctl : Nat)
  deriving DecidableEq, Repr

/-- An occurrence as plain data, as the agenda and the queues hold it: the constructors of `Instr` from the queue
commands on, under the same names. (Compiled code can build at most 244 constructors with fields of one type, so the
machine holds these and not `Instr`.) -/
inductive Event where
  | tmodeNopreWrite (w : Nat)
  | mstatClear (w : Nat) (bits : Word)
  | registerWrite (r : RegTarget)
  | cmdNop (q : Nat)
  | attach (q : Nat) (feat : List Word) (addr : Nat)
  | planStart (q addr : Nat) (args : List Word)
  | planRestart (q addr : Nat) (args : List Word)
  | planStop (q slot : Nat)
  | planAbort (q slot : Nat)
  | stageLaunch (q addr : Nat) (args : List Word)
  | signal (q addr val : Nat) (wide : Bool)
  | waitWord (q addr val mask cmp : Nat) (wide : Bool)
  | cmdFence (q : Nat)
  | waitReevaluate (q : Nat)
  | notify (m : List Byte)
  | queueLoad (q : Nat)
  | queueUnload (q : Nat)
  | sliceExpiry (q : Nat)
  | launchAccept (die : Nat)
  | enqStep (w seq : Nat)
  | planSlotGrant
  | planPlacement
  | planStopped (p : Nat)
  | stageEnd (p st : Nat)
  | deckleEpoch (p : Nat)
  | deckleHandover (p : Nat)
  | ringToChest (p st : Nat)
  | recordEligible (id : Nat)
  | armedRegistration (id : Nat)
  | binTimeout (core bin : Nat)
  | warpFormation (core : Nat)
  | warpRetire (w : Nat)
  | warpTerminate (w : Nat)
  | priorityBoost (w : Nat)
  | pathAgeLimit (w lane : Nat)
  | yieldExpiry (w : Nat)
  | convRelease (w : Nat)
  | barrierPhaseComplete (gi bar : Nat)
  | resultWriteback (w seq : Nat)
  | loadReturn (w seq : Nat)
  | trapEntry (w : Nat)
  | toltarReturn (w : Nat) (act : ToltarAction) (edits : List (Nat × Byte))
  | preemptRequest (t : PreemptTarget)
  | preempt (w : Nat)
  | nopreExpiry (w : Nat)
  | resume (id w : Nat)
  | storeQueueExit (w : Nat)
  | storeFaultRecord (w id : Nat)
  | registration (id : Nat)
  | forwardedRead (word : Nat)
  | readThroughNotice (id : Nat)
  | l1Dryer (core word : Nat)
  | l2Dryer (line : Nat)
  | l2Eviction (line : Nat)
  | l1Eviction (core region : Nat)
  | homeAtomic (w seq : Nat)
  | redPerform (x : Inbound)
  | redTrigStep (x : Inbound)
  | remoteWriteThrough (x : Inbound)
  | watchConfirm (w grain : Nat)
  | tableWalk (id : Nat)
  | fqrespReplay (die idx pteAddr : Nat) (pte : DWord)
  | fqrespDecline (die idx : Nat)
  | tlbInvalidate (asid va : Nat)
  | eccError (x : EccPlace)
  | tcopyComplete (core : Nat)
  | panelLoad (core : Nat)
  | mloadComplete (core ctx : Nat)
  | arrayUnit (core : Nat)
  | mloopComplete (core ctx : Nat)
  | mdrainComplete (core : Nat)
  | shadowSample (core : Nat)
  | mcpSave (core : Nat)
  | mcpRestore (core : Nat)
  | summaryPerform (x : SumFrom)
  | prsvFill (p pipe : Nat)
  | pcmtCommit (p pipe : Nat)
  | pacqFill (p pipe : Nat)
  | prelRecord (p pipe : Nat)
  | ppollSnapshot (p : Nat) (x : PollAt)
  | pcloseRecord (p pipe : Nat)
  | pipeMatch (p pipe : Nat) (peer : PeerPipe)
  | pipeVacateMirror (p pipe slot : Nat) (mark : VacateMark)
  | commitArrival (p pipe seq : Nat) (mark : CommitMark) (payload : List Byte)
  | pipeLinkLoss (p pipe : Nat)
  | deadlockReport (set : BlockedSet)
  | deadlockProbe (set : BlockedSet)
  | deadlockDrain (x : DrainTurn)
  | partitionReset (part : LostPart)
  | heartbeatTick (dom : Bool)
  | d2dLinkFailure (a b : Nat)
  | d2dRetrainTimeout (a b : Nat)
  | ualinkReplay (port seq : Nat) (lost : List Nat)
  | deviceUnreachable (dev : Nat)
  | timeMessage (dev time : Nat)
  | syncLoss
  | timeMasterLoss (next : Nat)
  | ueRemoteWrite (win : UeTarget) (va : Nat) (bytes : List Byte)
  | ueRemoteRead (win : UeTarget) (va len : Nat)
  | decoderRingNotice (die ring : Nat)
  | decoderJobStart (die dec : Nat)
  | decoderFrameComplete (die dec : Nat) (pic : Picture) (note : FrameNote)
  | decoderJobEnd (die dec undelim : Nat) (unreadable : Bool)
  | sample (core : Nat)
  | triggerStart (core : Nat)
  | triggerStop (core : Nat)
  | stopPoint (w : Nat)
  | coreImageDump (asid : Nat)
  | svcAttest (w : Nat)
  | svcDump (w : Nat)
  | svcMap (w : Nat)
  | svcUnmap (w : Nat)
  | svcLog (w : Nat)
  | attestationRequest (asid : Nat) (nonce : List Byte)
  | keyInstall (slot : Nat) (key : List Byte)
  | addressSpaceRegister (d : AsDescriptor)
  | delegationWrite (die p st : Nat) (word : Word)
  | pairFailure (pair : Nat)
  | watchdogExpiry (pair : Nat)
  | watchdogKick (pair : Nat)
  | spareTakeover (pair : Nat)
  | pairSelfTest (pair : Nat) (pass : Bool)
  | journalMirror (pair : Nat)
  | journalCheckpoint (pair : Nat)
  | powerGood
  | bringupStep (die : Nat) (res : StepResult)
  | mdevWrite (die : Nat) (val : Word)
  | mbudgetWrite (die : Nat) (val : Word)
  | meventRead (die : Nat)
  | powerWindow (die watts : Nat)
  | thermalThrottle (die temp : Nat)
  | thermalShutdown
  | d2dLinkRetrained (a b : Nat)
  | partitionRejoin (die : Nat) (ok : Bool)
  | swaitTimeout (pair : Nat)
  | ualinkRemoteRead (dev pa len : Nat)
  | supervisorFence (pair : Nat) (predW succR io : Bool)
  | decoderRingRegistration (die asid ctl : Nat)
  deriving DecidableEq, Repr

end Sys2Proof
end

