-- ==== Sys2Proof/Machine/Forms.lean ====
section
/-!
DEFINITION. The form table: for every instruction that has an encoding, its opcode (R91 to R103, R404), the pipe
it issues to (R34), its guard (R88), the registers its fields name with their direction and wait bits (R28, R29,
R89) and whether its fields and modifiers are ones the spec assigns (R84 to R104). Encoding, well-formedness,
group checks and readiness are all read off this one table.
-/

namespace Sys2Proof

/-- M[5:3], the type field of most classes (R93). -/
def LongF.ty (f : LongF) : Nat := natBits f.m.toNat 5 3
/-- M[2:0]. -/
def LongF.lo (f : LongF) : Nat := natBits f.m.toNat 2 0
/-- M[5:0]. -/
def LongF.mod (f : LongF) : Nat := natBits f.m.toNat 5 0
/-- M[6], which extends B (R85). -/
def LongF.m6 (f : LongF) : Bool := f.m.getLsbD 6
/-- Whether M[5:0] has bits only where `mask` does. -/
def LongF.only (f : LongF) (mask : Nat) : Bool := f.mod &&& mask == f.mod
/-- The same for UniF's M[5:3]. -/
def UniF.ty (f : UniF) : Nat := natBits f.m.toNat 5 3
def UniF.only (f : UniF) (mask : Nat) : Bool := f.m.toNat &&& mask == f.m.toNat

end Sys2Proof

namespace Sys2Proof.Machine

/-- The five pipes of R34. -/
inductive Pipe where
  | V | F | X | S | M
  deriving DecidableEq, Repr

/-- The register classes an instruction field can name (R21). -/
inductive RegClass where
  | v | s | p | q | t
  deriving DecidableEq, Repr

/-- One use of registers by an instruction: `cnt` registers from `reg`, read or written; `w` is the wait bit of a
source (R29), true wherever the instruction always waits. -/
structure Role where
  cls : RegClass
  reg : Nat
  cnt : Nat
  rd  : Bool
  wr  : Bool
  w   : Bool
  deriving DecidableEq, Repr

/-- The guard of an instruction (R88): none, a lane predicate or a uniform predicate, with its negation. -/
inductive Guard where
  | always
  | lane (p : Nat) (neg : Bool)
  | uni (q : Nat) (neg : Bool)
  deriving DecidableEq, Repr

/-- Where an instruction's words come from: its layout with its opcode numbers and raw fields. -/
inductive Enc where
  | nop
  | shortV (op : BitVec 7) (f : ShortV)
  | shortA (sub : BitVec 6) (f : ShortA)
  | shortU (op : BitVec 7) (f : ShortU)
  | shortB (op : BitVec 7) (f : ShortB)
  | long (op : BitVec 7) (xop : BitVec 8) (f : LongF)
  | immV (xop : BitVec 8) (f : ImmV)
  | immU (xop : BitVec 8) (f : ImmU)
  | uni (xop : BitVec 8) (f : UniF)
  | rv (f3 : BitVec 3) (f7 : BitVec 7) (f : RvR)
  | event
  deriving DecidableEq, Repr

/-- What the form table says of one instruction. -/
structure Info where
  enc   : Enc
  pipe  : Option Pipe
  guard : Guard
  ok    : Bool
  roles : List Role
  deriving DecidableEq, Repr

/-- The use of one operand field. -/
inductive FieldUse where
  | zero                                -- must be zero
  | raw                                 -- any bits; not a register
  | offs                                -- B as a signed offset; K = 1 marks the index absent (R157)
  | below (k : Nat)                     -- a number below `k`, the rest zero
  | vec (n : Nat) (rd wr : Bool)        -- `n` vector registers
  | uni (n : Nat) (rd wr : Bool)        -- `n` uniform registers
  | both (n : Nat)                      -- B: vector registers, or uniform ones with K = 1 (R85)
  | uniK (n : Nat)                      -- B: uniform registers, K = 1 required
  | pred (rd wr : Bool)                 -- a lane predicate in [2:0]
  | upred                               -- a uniform predicate destination in [2:0]
  | tile                                -- a tile register in [2:0]
  deriving DecidableEq, Repr

/-- `n` vector registers read. -/
abbrev rv (n : Nat) : FieldUse := .vec n true false
/-- `n` vector registers written. -/
abbrev wv (n : Nat) : FieldUse := .vec n false true
/-- `n` vector registers read and written. -/
abbrev xv (n : Nat) : FieldUse := .vec n true true
/-- `n` uniform registers read. -/
abbrev ru (n : Nat) : FieldUse := .uni n true false
/-- `n` uniform registers written. -/
abbrev wu (n : Nat) : FieldUse := .uni n false true

/-- Whether a field's value, its wait bit, K and M[6] are ones R84, R85 and R89 allow for its use: a wait bit only
on a register source, K = 1 only where B may name a uniform register, M[6] only with K = 1. -/
def FieldUse.ok (u : FieldUse) (x : Nat) (w k m6 : Bool) : Bool :=
  match u with
  | .zero => x == 0 && !w && !k && !m6
  | .raw => !w && !k && !m6
  | .offs => !w && !m6
  | .below n => decide (x < n) && !w && !k && !m6
  | .vec _ rd _ => decide (x < 256) && (rd || !w) && !k && !m6
  | .uni _ rd _ => (rd || !w) && !k && !m6
  | .both _ => k || !m6
  | .uniK _ => k
  | .pred _ _ => decide (x < 8) && !w && !k && !m6
  | .upred => decide (x < 8) && !w && !k && !m6
  | .tile => decide (x < 8) && !w && !k && !m6

/-- The registers a field names. -/
def FieldUse.roles (u : FieldUse) (x : Nat) (w k m6 : Bool) : List Role :=
  match u with
  | .zero | .raw | .offs | .below _ => []
  | .vec n rd wr => [⟨.v, x, n, rd, wr, w⟩]
  | .uni n rd wr => [⟨.s, x, n, rd, wr, w⟩]
  | .both n => if k then [⟨.s, boolNat m6 * 256 + x, n, true, false, w⟩] else [⟨.v, x, n, true, false, w⟩]
  | .uniK n => [⟨.s, boolNat m6 * 256 + x, n, true, false, w⟩]
  | .pred rd wr => [⟨.p, x, 1, rd, wr, true⟩]
  | .upred => [⟨.q, x, 1, false, true, true⟩]
  | .tile => [⟨.t, x, 1, true, false, true⟩]

/-- The role of the guard predicate as a source. -/
def Guard.roles : Guard → List Role
  | .always => []
  | .lane p _ => [⟨.p, p, 1, true, false, true⟩]
  | .uni q _ => [⟨.q, q, 1, true, false, true⟩]

/-- Which guard class a long form's G names (R88). -/
inductive GuardClass where
  | lane | uni
  deriving DecidableEq, Repr

def GuardClass.guard (c : GuardClass) (g : BitVec 3) (n : Bool) : Guard :=
  match c with
  | .lane => .lane g.toNat n
  | .uni => .uni g.toNat n

/-- A long form of R85: the uses of D, A, B and T, and whether M's low six bits are assigned. G = 7 with N = 1 is
not. D carries no wait bit: an instruction that reads D always waits on it. -/
def long (op : BitVec 7) (xop : BitVec 8) (f : LongF) (p : Pipe) (gc : GuardClass) (d a b t : FieldUse)
    (m : Bool) : Info :=
  let m6 := f.m.getLsbD 6
  { enc := .long op xop f, pipe := some p, guard := gc.guard f.g f.n,
    ok := m && !(f.g == 7 && f.n) &&
      d.ok f.d.toNat false false false && a.ok f.a.toNat (f.w.getLsbD 2) false false &&
      b.ok f.b.toNat (f.w.getLsbD 1) f.k m6 && t.ok f.t.toNat (f.w.getLsbD 0) false false,
    roles := (gc.guard f.g f.n).roles ++ d.roles f.d.toNat true false false ++
      a.roles f.a.toNat (f.w.getLsbD 2) false false ++
      b.roles f.b.toNat (f.w.getLsbD 1) f.k m6 ++ t.roles f.t.toNat (f.w.getLsbD 0) false false }

/-- A vector short form of R84: it waits on every source and is unguarded. -/
def shortV (op : BitVec 7) (f : ShortV) (p : Pipe) (d a b : FieldUse) : Info :=
  { enc := .shortV op f, pipe := some p, guard := .always,
    ok := d.ok f.d.toNat false false false && a.ok f.a.toNat false false false &&
      b.ok f.b.toNat false false false,
    roles := d.roles f.d.toNat true false false ++ a.roles f.a.toNat true false false ++
      b.roles f.b.toNat true false false }

/-- The short LD and ST name the uniform pair s(2 × vb), vb below 192 (R91). -/
def pairB (x : Info) (b : BitVec 8) : Info :=
  { x with ok := x.ok && decide (b.toNat < 192), roles := x.roles ++ [⟨.s, 2 * b.toNat, 2, true, false, true⟩] }

/-- A uniform short form with fixed `sub` (R92). -/
def shortA (sub : BitVec 6) (f : ShortA) (d b : FieldUse) : Info :=
  { enc := .shortA sub f, pipe := some .S, guard := .always, ok := true,
    roles := d.roles f.d.toNat true false false ++ b.roles f.b.toNat true false false }

/-- A uniform short form of R91 with further roles (a predicate destination) and a condition on `sub`. -/
def shortU (op : BitVec 7) (f : ShortU) (p : Pipe) (d b : FieldUse) (more : List Role) (m : Bool) : Info :=
  { enc := .shortU op f, pipe := some p, guard := .always,
    ok := m && d.ok f.d.toNat false false false && b.ok f.b.toNat false false false,
    roles := d.roles f.d.toNat true false false ++ b.roles f.b.toNat true false false ++ more }

/-- A branch short form of R84. -/
def shortB (op : BitVec 7) (f : ShortB) (m : Bool) : Info :=
  { enc := .shortB op f, pipe := some .S, guard := .always, ok := m,
    roles := [⟨.p, f.p.toNat, 1, true, false, true⟩] }

/-- A vector immediate form of R86. -/
def immV (xop : BitVec 8) (f : ImmV) (p : Pipe) (d a : FieldUse) : Info :=
  { enc := .immV xop f, pipe := some p, guard := .always, ok := true,
    roles := d.roles f.d.toNat true false false ++ a.roles f.a.toNat true false false }

/-- A uniform immediate form of R86. -/
def immU (xop : BitVec 8) (f : ImmU) (d : FieldUse) (more : List Role) (m : Bool) : Info :=
  { enc := .immU xop f, pipe := some .S, guard := .always, ok := m,
    roles := d.roles f.d.toNat true false false ++ more }

/-- A uniform three-address form of R87: W[9] to sa, W[8] to sb, W[7] zero. -/
def uniF (xop : BitVec 8) (f : UniF) (p : Pipe) (d a t : FieldUse) (more : List Role) (m : Bool) : Info :=
  { enc := .uni xop f, pipe := some p, guard := .uni f.g.toNat f.n,
    ok := m && !(f.g == 7 && f.n) && !f.w.getLsbD 0 &&
      d.ok f.d.toNat false false false && a.ok f.a.toNat (f.w.getLsbD 2) false false &&
      t.ok f.t.toNat (f.w.getLsbD 1) false false,
    roles := (Guard.uni f.g.toNat f.n).roles ++ d.roles f.d.toNat true false false ++
      a.roles f.a.toNat (f.w.getLsbD 2) false false ++ t.roles f.t.toNat (f.w.getLsbD 1) false false ++ more }

/-- A supervisor custom-0 form of R404. -/
def riscv (f3 : BitVec 3) (f7 : BitVec 7) (f : RvR) : Info :=
  { enc := .rv f3 f7 f, pipe := none, guard := .always, ok := true, roles := [] }

/-- The registers a value of integer type `ty` takes: a pair for the 64-bit types (R113). -/
def tyRegs (ty : Nat) : Nat := if ty == 2 || ty == 3 then 2 else 1
/-- The registers a value of memory type `mt` takes (R93). -/
def mtRegs (mt : Nat) : Nat := if mt == 5 then 2 else 1
def mtOk (f : LongF) : Bool := decide (f.ty ≤ 5)
/-- `ord` of R93: 0 plain, 4 to 7 ordered at a scope. -/
def ordOk (o : Nat) : Bool := o == 0 || decide (4 ≤ o)
/-- `at` of R93, with .f32 only where `fl` (add, min, max and exch). -/
def atOk (f : LongF) (fl : Bool) : Bool := decide (f.ty < 4) || (fl && f.ty == 4)

/-- The width in bits of a conversion type (R93). -/
def ctBits (ct : Nat) : Nat :=
  match ct with
  | 0 | 1 | 11 | 12 => 8
  | 2 | 3 | 9 | 10 => 16
  | 4 | 5 | 8 => 32
  | _ => 64
def ctInt (ct : Nat) : Bool := decide (ct ≤ 7)
def cvtDst (f : LongF) : Nat := natBits f.b.toNat 7 4
def cvtSrc (f : LongF) : Nat := natBits f.b.toNat 3 0

/-- CVT's field rules (R100, R145, R146). -/
def cvtOk (f : LongF) : Bool :=
  let d := cvtDst f; let s := cvtSrc f
  let narrow := if ctBits d < 32 then ctBits d else ctBits s
  decide (d ≤ 12) && decide (s ≤ 12) && d != s && f.only 0x1F &&
  (if narrow == 8 then true else if narrow == 16 then !f.m.getLsbD 4 else natBits f.m.toNat 4 3 == 0) &&
  !(ctInt d && ctInt s && natBits f.m.toNat 1 0 != 0)

/-- Whether a special register is per lane (R42: LANEID and FPSTAT). -/
def srPerLane (n : Nat) : Bool := n == 0 || n == 0x0B
/-- Whether a special register is 64 bits wide (R42). -/
def srWide (n : Nat) : Bool := n == 0x06 || n == 0x08 || n == 0x09 || n == 0x0C || n == 0x12
def srRegs (n : Nat) : Nat := if srWide n then 2 else 1

/-- The index field A of the address forms: absent, and then zero, with K = 1 (R157). -/
def idx (f : LongF) : FieldUse := if f.k then .zero else rv 1

/-- An atomic of class 0x74 (R98): `cmp` for .cas, whose D is read too; `fl` where .f32 is assigned; `dst` false for
the reductions; T names `base`. -/
def atom (xop : BitVec 8) (f : LongF) (cmp fl dst ord : Bool) (base : FieldUse) : Info :=
  let n := tyRegs f.ty
  long 0x74 xop f .M .lane (if cmp then xv n else if dst then wv n else .zero) (rv 1) (.both n) base
    (atOk f fl && (!ord || ordOk f.lo))

/-- The form table. -/
def info (i : Instr) : Info :=
  match i with
  | .nop => { enc := .nop, pipe := none, guard := .always, ok := true, roles := [] }
  -- R91, R116: integer and logic short forms
  | .iaddShort f => shortV 0x01 f .V (wv 1) (rv 1) (rv 1)
  | .isubShort f => shortV 0x02 f .V (wv 1) (rv 1) (rv 1)
  | .imulShort f => shortV 0x03 f .V (wv 1) (rv 1) (rv 1)
  | .imulhiS32Short f => shortV 0x04 f .V (wv 1) (rv 1) (rv 1)
  | .imulhiZ32Short f => shortV 0x05 f .V (wv 1) (rv 1) (rv 1)
  | .imadShort f => shortV 0x06 f .V (xv 1) (rv 1) (rv 1)
  | .iminS32Short f => shortV 0x07 f .V (wv 1) (rv 1) (rv 1)
  | .iminZ32Short f => shortV 0x08 f .V (wv 1) (rv 1) (rv 1)
  | .imaxS32Short f => shortV 0x09 f .V (wv 1) (rv 1) (rv 1)
  | .imaxZ32Short f => shortV 0x0A f .V (wv 1) (rv 1) (rv 1)
  | .iabsShort f => shortV 0x0B f .V (wv 1) (rv 1) .zero
  | .andShort f => shortV 0x0C f .V (wv 1) (rv 1) (rv 1)
  | .orShort f => shortV 0x0D f .V (wv 1) (rv 1) (rv 1)
  | .xorShort f => shortV 0x0E f .V (wv 1) (rv 1) (rv 1)
  | .shlShort f => shortV 0x0F f .V (wv 1) (rv 1) (rv 1)
  | .shrShort f => shortV 0x10 f .V (wv 1) (rv 1) (rv 1)
  | .sarShort f => shortV 0x11 f .V (wv 1) (rv 1) (rv 1)
  | .popcShort f => shortV 0x12 f .V (wv 1) (rv 1) .zero
  | .clzShort f => shortV 0x13 f .V (wv 1) (rv 1) .zero
  | .brevShort f => shortV 0x14 f .V (wv 1) (rv 1) .zero
  -- R94, R116: class 0x70, integer and logic
  | .iadd f => long 0x70 0x00 f .V .lane (wv (tyRegs f.ty)) (rv (tyRegs f.ty)) (.both (tyRegs f.ty)) .zero (f.only 0x3C)
  | .isub f => long 0x70 0x01 f .V .lane (wv (tyRegs f.ty)) (rv (tyRegs f.ty)) (.both (tyRegs f.ty)) .zero (f.only 0x3C)
  | .imul f => long 0x70 0x02 f .V .lane (wv (tyRegs f.ty)) (rv (tyRegs f.ty)) (.both (tyRegs f.ty)) .zero (f.only 0x3C)
  | .imulhi f => long 0x70 0x03 f .V .lane (wv (tyRegs f.ty)) (rv (tyRegs f.ty)) (.both (tyRegs f.ty)) .zero (f.only 0x38)
  | .imad f => long 0x70 0x04 f .V .lane (wv (tyRegs f.ty)) (rv (tyRegs f.ty)) (.both (tyRegs f.ty)) (rv (tyRegs f.ty)) (f.only 0x3C)
  | .imin f => long 0x70 0x05 f .V .lane (wv (tyRegs f.ty)) (rv (tyRegs f.ty)) (.both (tyRegs f.ty)) .zero (f.only 0x38)
  | .imax f => long 0x70 0x06 f .V .lane (wv (tyRegs f.ty)) (rv (tyRegs f.ty)) (.both (tyRegs f.ty)) .zero (f.only 0x38)
  | .iabs f => long 0x70 0x07 f .V .lane (wv (tyRegs f.ty)) (rv (tyRegs f.ty)) .zero .zero (f.only 0x3C)
  | .and f => long 0x70 0x08 f .V .lane (wv (tyRegs f.ty)) (rv (tyRegs f.ty)) (.both (tyRegs f.ty)) .zero (f.only 0x38)
  | .or f => long 0x70 0x09 f .V .lane (wv (tyRegs f.ty)) (rv (tyRegs f.ty)) (.both (tyRegs f.ty)) .zero (f.only 0x38)
  | .xor f => long 0x70 0x0A f .V .lane (wv (tyRegs f.ty)) (rv (tyRegs f.ty)) (.both (tyRegs f.ty)) .zero (f.only 0x38)
  | .shl f => long 0x70 0x0B f .V .lane (wv (tyRegs f.ty)) (rv (tyRegs f.ty)) (.both 1) .zero (f.only 0x38)
  | .shr f => long 0x70 0x0C f .V .lane (wv (tyRegs f.ty)) (rv (tyRegs f.ty)) (.both 1) .zero (f.only 0x38)
  | .sar f => long 0x70 0x0D f .V .lane (wv (tyRegs f.ty)) (rv (tyRegs f.ty)) (.both 1) .zero (f.only 0x38)
  | .bfe f => long 0x70 0x0E f .V .lane (wv (tyRegs f.ty)) (rv (tyRegs f.ty)) (.both 1) .zero (f.only 0x38)
  | .bfi f => long 0x70 0x0F f .V .lane (wv (tyRegs f.ty)) (rv (tyRegs f.ty)) (.both 1) (rv (tyRegs f.ty)) (f.only 0x38)
  | .popc f => long 0x70 0x10 f .V .lane (wv 1) (rv (tyRegs f.ty)) .zero .zero (f.only 0x18)
  | .clz f => long 0x70 0x11 f .V .lane (wv 1) (rv (tyRegs f.ty)) .zero .zero (f.only 0x18)
  | .brev f => long 0x70 0x12 f .V .lane (wv (tyRegs f.ty)) (rv (tyRegs f.ty)) .zero .zero (f.only 0x18)
  | .lea f => long 0x70 0x13 f .V .lane (wv (tyRegs f.ty)) (rv (tyRegs f.ty)) (.both 1) .zero (f.ty == 1 || f.ty == 3)
  | .isetp f => long 0x70 0x14 f .V .lane (.pred false true) (rv (tyRegs f.ty)) (.both (tyRegs f.ty)) .zero (decide (f.lo ≤ 5))
  | .sel f => long 0x70 0x15 f .V .lane (wv 1) (rv 1) (.both 1) (.pred true false) (f.only 0)
  -- R95: class 0x71, integer and logic
  | .iaddImm f => immV 0x00 f .V (wv 1) (rv 1)
  | .imulImm f => immV 0x01 f .V (wv 1) (rv 1)
  | .andImm f => immV 0x02 f .V (wv 1) (rv 1)
  | .orImm f => immV 0x03 f .V (wv 1) (rv 1)
  | .xorImm f => immV 0x04 f .V (wv 1) (rv 1)
  | .shlImm f => immV 0x05 f .V (wv 1) (rv 1)
  | .shrImm f => immV 0x06 f .V (wv 1) (rv 1)
  | .sarImm f => immV 0x07 f .V (wv 1) (rv 1)
  -- R91, R138, R143: floating-point short forms
  | .faddShort f => shortV 0x20 f .F (wv 1) (rv 1) (rv 1)
  | .fsubShort f => shortV 0x21 f .F (wv 1) (rv 1) (rv 1)
  | .fmulShort f => shortV 0x22 f .F (wv 1) (rv 1) (rv 1)
  | .ffmaShort f => shortV 0x23 f .F (xv 1) (rv 1) (rv 1)
  | .fminShort f => shortV 0x24 f .F (wv 1) (rv 1) (rv 1)
  | .fmaxShort f => shortV 0x25 f .F (wv 1) (rv 1) (rv 1)
  | .hadd2Bf16Short f => shortV 0x26 f .F (wv 1) (rv 1) (rv 1)
  | .hadd2F16Short f => shortV 0x27 f .F (wv 1) (rv 1) (rv 1)
  | .hmul2Bf16Short f => shortV 0x28 f .F (wv 1) (rv 1) (rv 1)
  | .hmul2F16Short f => shortV 0x29 f .F (wv 1) (rv 1) (rv 1)
  | .hfma2Bf16Short f => shortV 0x2A f .F (xv 1) (rv 1) (rv 1)
  | .hfma2F16Short f => shortV 0x2B f .F (xv 1) (rv 1) (rv 1)
  -- R94, R138, R143: class 0x70, floating point
  | .fadd f => long 0x70 0x20 f .F .lane (wv 1) (rv 1) (.both 1) .zero (f.only 0x03)
  | .fsub f => long 0x70 0x21 f .F .lane (wv 1) (rv 1) (.both 1) .zero (f.only 0x03)
  | .fmul f => long 0x70 0x22 f .F .lane (wv 1) (rv 1) (.both 1) .zero (f.only 0x03)
  | .ffma f => long 0x70 0x23 f .F .lane (wv 1) (rv 1) (.both 1) (rv 1) (f.only 0x03)
  | .fmin f => long 0x70 0x24 f .F .lane (wv 1) (rv 1) (.both 1) .zero (f.only 0)
  | .fmax f => long 0x70 0x25 f .F .lane (wv 1) (rv 1) (.both 1) .zero (f.only 0)
  | .fsetp f => long 0x70 0x26 f .F .lane (.pred false true) (rv 1) (.both 1) .zero (f.only 0x07)
  | .frnd f => long 0x70 0x27 f .F .lane (wv 1) (rv 1) .zero .zero (f.only 0x03)
  | .hadd2 f => long 0x70 0x28 f .F .lane (wv 1) (rv 1) (.both 1) .zero (f.only 0x0B)
  | .hmul2 f => long 0x70 0x29 f .F .lane (wv 1) (rv 1) (.both 1) .zero (f.only 0x0B)
  | .hfma2 f => long 0x70 0x2A f .F .lane (wv 1) (rv 1) (.both 1) (rv 1) (f.only 0x0B)
  | .faddImm f => immV 0x10 f .F (wv 1) (rv 1)
  | .fmulImm f => immV 0x11 f .F (wv 1) (rv 1)
  | .ffmaImm f => immV 0x12 f .F (xv 1) (rv 1)
  -- R91, R94, R147: special functions
  | .rcpShort f => shortV 0x38 f .X (wv 1) (rv 1) .zero
  | .rsqShort f => shortV 0x39 f .X (wv 1) (rv 1) .zero
  | .sqrtShort f => shortV 0x3A f .X (wv 1) (rv 1) .zero
  | .ex2Short f => shortV 0x3B f .X (wv 1) (rv 1) .zero
  | .lg2Short f => shortV 0x3C f .X (wv 1) (rv 1) .zero
  | .sinShort f => shortV 0x3D f .X (wv 1) (rv 1) .zero
  | .cosShort f => shortV 0x3E f .X (wv 1) (rv 1) .zero
  | .tanhShort f => shortV 0x3F f .X (wv 1) (rv 1) .zero
  | .rcp f => long 0x70 0x30 f .X .lane (wv 1) (rv 1) .zero .zero (f.only 0)
  | .rsq f => long 0x70 0x31 f .X .lane (wv 1) (rv 1) .zero .zero (f.only 0)
  | .sqrt f => long 0x70 0x32 f .X .lane (wv 1) (rv 1) .zero .zero (f.only 0)
  | .ex2 f => long 0x70 0x33 f .X .lane (wv 1) (rv 1) .zero .zero (f.only 0)
  | .lg2 f => long 0x70 0x34 f .X .lane (wv 1) (rv 1) .zero .zero (f.only 0)
  | .sin f => long 0x70 0x35 f .X .lane (wv 1) (rv 1) .zero .zero (f.only 0)
  | .cos f => long 0x70 0x36 f .X .lane (wv 1) (rv 1) .zero .zero (f.only 0)
  | .tanh f => long 0x70 0x37 f .X .lane (wv 1) (rv 1) .zero .zero (f.only 0)
  -- R100, R144: conversion
  | .cvt f => long 0x76 0x00 f .F .lane
      (if ctBits (cvtDst f) < 32 then xv 1 else wv (ctBits (cvtDst f) / 32))
      (rv (if ctBits (cvtSrc f) == 64 then 2 else 1)) .raw .zero (cvtOk f)
  -- R99, R151 to R156: cross-lane
  | .shfl f => long 0x75 0x00 f .X .lane (wv 1) (rv 1) (.both 1) .zero (f.only 0x03)
  | .vote f => long 0x75 0x01 f .X .lane (if f.mod == 3 then wv 1 else .pred false true) (.pred true false) .zero .zero (f.only 0x03)
  | .redux f => long 0x75 0x02 f .X .lane (wv 1) (rv 1) .zero .zero
      (decide (f.ty ≤ 2) && decide (f.lo ≤ 5) && !(f.ty == 2 && decide (3 ≤ f.lo)))
  | .prmt f => long 0x75 0x03 f .X .lane (wv 1) (rv 1) (.both 1) (rv 1) (f.only 0)
  | .matchLanes f => long 0x75 0x04 f .X .lane (wv 1) (rv (1 + f.mod)) .zero .zero (f.only 0x01)
  -- R91, R92: uniform short forms
  | .saddShort f => shortA 0x00 f (.uni 1 true true) (ru 1)
  | .ssubShort f => shortA 0x01 f (.uni 1 true true) (ru 1)
  | .smulShort f => shortA 0x02 f (.uni 1 true true) (ru 1)
  | .sandShort f => shortA 0x03 f (.uni 1 true true) (ru 1)
  | .sorShort f => shortA 0x04 f (.uni 1 true true) (ru 1)
  | .sxorShort f => shortA 0x05 f (.uni 1 true true) (ru 1)
  | .sshlShort f => shortA 0x06 f (.uni 1 true true) (ru 1)
  | .sshrShort f => shortA 0x07 f (.uni 1 true true) (ru 1)
  | .smovShort f => shortA 0x08 f (wu 1) (ru 1)
  | .ssetpS32Short f => shortU 0x41 f .S (ru 1) (ru 1) [⟨.q, natBits f.sub.toNat 2 0, 1, false, true, true⟩]
      (decide (natBits f.sub.toNat 5 3 ≤ 5))
  | .ssetpZ32Short f => shortU 0x42 f .S (ru 1) (ru 1) [⟨.q, natBits f.sub.toNat 2 0, 1, false, true, true⟩]
      (decide (natBits f.sub.toNat 5 3 ≤ 5))
  | .s2vShort f => shortU 0x43 f .S (wv 1) (ru 1) [] (f.sub == 0)
  | .v2sShort f => shortU 0x44 f .S (wu 1) (rv 1) [] (!f.sub.getLsbD 5)
  | .sldShort f => shortU 0x45 f .M (wu 1) (ru 2) [] true
  -- R96: class 0x72
  | .sadd f => uniF 0x00 f .S (wu 1) (ru 1) (ru 1) [] (decide (f.ty ≤ 1) && f.only 0x0C)
  | .ssub f => uniF 0x01 f .S (wu 1) (ru 1) (ru 1) [] (decide (f.ty ≤ 1) && f.only 0x0C)
  | .smul f => uniF 0x02 f .S (wu 1) (ru 1) (ru 1) [] (decide (f.ty ≤ 1) && f.only 0x0C)
  | .sand f => uniF 0x03 f .S (wu 1) (ru 1) (ru 1) [] (f.only 0x08)
  | .sor f => uniF 0x04 f .S (wu 1) (ru 1) (ru 1) [] (f.only 0x08)
  | .sxor f => uniF 0x05 f .S (wu 1) (ru 1) (ru 1) [] (f.only 0x08)
  | .sshl f => uniF 0x06 f .S (wu 1) (ru 1) (ru 1) [] (f.only 0x08)
  | .sshr f => uniF 0x07 f .S (wu 1) (ru 1) (ru 1) [] (f.only 0x08)
  | .smov f => uniF 0x08 f .S (wu 1) (ru 1) .zero [] (f.only 0)
  | .ssetp f => uniF 0x09 f .S .upred (ru 1) (ru 1) [] (f.only 0x0F && decide (natBits f.m.toNat 2 0 ≤ 5))
  | .sbfe f => uniF 0x0A f .S (wu 1) (ru 1) (ru 1) [] (f.only 0x08)
  | .s2v f => uniF 0x0B f .S (wv 1) (ru 1) .zero [] (f.only 0)
  | .v2s f => uniF 0x0C f .S (wu 1) (rv 1) .zero [] (f.only 0x1F)
  | .sld f => uniF 0x0D f .M (wu (1 + f.m.toNat)) (ru 2) (ru 1) [] (f.only 0x01)
  -- R97: class 0x73
  | .saddImm f => immU 0x00 f (.uni 1 true true) [] (f.x == 0)
  | .smulImm f => immU 0x01 f (.uni 1 true true) [] (f.x == 0)
  | .sandImm f => immU 0x02 f (.uni 1 true true) [] (f.x == 0)
  | .sorImm f => immU 0x03 f (.uni 1 true true) [] (f.x == 0)
  | .sxorImm f => immU 0x04 f (.uni 1 true true) [] (f.x == 0)
  | .sshlImm f => immU 0x05 f (.uni 1 true true) [] (f.x == 0)
  | .sshrImm f => immU 0x06 f (.uni 1 true true) [] (decide (f.x.toNat ≤ 1))
  | .smovImm f => immU 0x07 f (wu 1) [] (f.x == 0)
  | .ssetpImm f => immU 0x08 f (ru 1) [⟨.q, natBits f.x.toNat 6 4, 1, false, true, true⟩]
      (decide (natBits f.x.toNat 3 1 ≤ 5))
  -- R91: memory short forms
  | .ldShort f => pairB (shortV 0x50 f .M (wv 1) (rv 1) .raw) f.b
  | .stShort f => pairB (shortV 0x51 f .M (rv 1) (rv 1) .raw) f.b
  | .ldsShort f => shortV 0x52 f .M (wv 1) (rv 1) .zero
  | .stsShort f => shortV 0x53 f .M (rv 1) (rv 1) .zero
  -- R98: class 0x74
  | .ld f => long 0x74 0x00 f .M .lane (wv (mtRegs f.ty)) (idx f) .offs (ru 2) (mtOk f && ordOk f.lo)
  | .st f => long 0x74 0x01 f .M .lane (rv (mtRegs f.ty)) (idx f) .offs (ru 2) (mtOk f && ordOk f.lo)
  | .lds f => long 0x74 0x02 f .M .lane (wv (mtRegs f.ty)) (idx f) .offs (ru 1) (mtOk f)
  | .sts f => long 0x74 0x03 f .M .lane (rv (mtRegs f.ty)) (idx f) .offs (ru 1) (mtOk f)
  | .ldr f => long 0x74 0x04 f .M .lane (wv (mtRegs f.ty)) (idx f) .offs (ru 1) (mtOk f)
  | .str f => long 0x74 0x05 f .M .lane (rv (mtRegs f.ty)) (idx f) .offs (ru 1) (mtOk f)
  | .ldw f => long 0x74 0x06 f .M .lane (wv (mtRegs f.ty)) (idx f) .offs (ru 2) (mtOk f)
  | .chkw f => long 0x74 0x07 f .M .lane (.below 128) .raw .raw .zero (f.only 0)
  | .fence f => long 0x74 0x08 f .M .lane (.below 3) .zero .zero .zero (f.only 0x03)
  | .fenceSc f => long 0x74 0x08 f .M .lane .raw .zero .zero .zero (f.d == 3 && f.only 0x03)
  | .drainst f => long 0x74 0x09 f .M .lane .zero .zero .zero .zero (f.only 0)
  | .ifence f => long 0x74 0x0A f .M .lane .zero .zero .zero .zero (f.only 0)
  | .prefetch f => long 0x74 0x0B f .M .lane .zero (idx f) .offs (ru 2) (mtOk f && decide (f.lo ≤ 1))
  | .smap f => long 0x74 0x0C f .M .lane (.below 16) .zero (.uniK 1) (ru 2) (f.only 0)
  | .sunmap f => long 0x74 0x0D f .M .lane (.below 16) .zero .zero .zero (f.only 0)
  | .sflush f => long 0x74 0x0E f .M .lane (.below 32) .zero .zero .zero (f.only 0)
  | .wmld f => long 0x74 0x0F f .M .lane (wv 1) (idx f) .offs (ru 2) (f.only 0)
  | .wmst f => long 0x74 0x10 f .M .lane (rv 1) (idx f) .offs (ru 2) (f.only 0)
  | .atomAdd f => atom 0x20 f false true true true (ru 2)
  | .atomMin f => atom 0x21 f false true true true (ru 2)
  | .atomMax f => atom 0x22 f false true true true (ru 2)
  | .atomAnd f => atom 0x23 f false false true true (ru 2)
  | .atomOr f => atom 0x24 f false false true true (ru 2)
  | .atomXor f => atom 0x25 f false false true true (ru 2)
  | .atomExch f => atom 0x26 f false true true true (ru 2)
  | .atomCas f => atom 0x27 f true false true true (ru 2)
  | .atomSpadAdd f => atom 0x28 f false true true false (ru 1)
  | .atomSpadMin f => atom 0x29 f false true true false (ru 1)
  | .atomSpadMax f => atom 0x2A f false true true false (ru 1)
  | .atomSpadAnd f => atom 0x2B f false false true false (ru 1)
  | .atomSpadOr f => atom 0x2C f false false true false (ru 1)
  | .atomSpadXor f => atom 0x2D f false false true false (ru 1)
  | .atomSpadExch f => atom 0x2E f false true true false (ru 1)
  | .atomSpadCas f => atom 0x2F f true false true false (ru 1)
  | .atomPeerAdd f => atom 0x30 f false true true false (ru 1)
  | .atomPeerMin f => atom 0x31 f false true true false (ru 1)
  | .atomPeerMax f => atom 0x32 f false true true false (ru 1)
  | .atomPeerAnd f => atom 0x33 f false false true false (ru 1)
  | .atomPeerOr f => atom 0x34 f false false true false (ru 1)
  | .atomPeerXor f => atom 0x35 f false false true false (ru 1)
  | .atomPeerExch f => atom 0x36 f false true true false (ru 1)
  | .atomPeerCas f => atom 0x37 f true false true false (ru 1)
  | .redAdd f => atom 0x38 f false true false true (ru 2)
  | .redMin f => atom 0x39 f false true false true (ru 2)
  | .redMax f => atom 0x3A f false true false true (ru 2)
  | .redAnd f => atom 0x3B f false false false true (ru 2)
  | .redOr f => atom 0x3C f false false false true (ru 2)
  | .redXor f => atom 0x3D f false false false true (ru 2)
  | .redTrig f => long 0x74 0x3E f .M .lane .zero (rv 1) (.both 1) (ru 2) (f.ty == 1 && ordOk f.lo)
  -- R91, R101: control and launch
  | .braShort f => shortB 0x60 f (!(f.p == 7 && f.n))
  | .exitShort f => shortB 0x61 f (f.off == 0 && !(f.p == 7 && f.n))
  | .yieldShort f => shortB 0x62 f (f.p == 7 && !f.n && f.off == 0)
  | .bra f => long 0x77 0x00 f .S (if f.mod == 1 then .uni else .lane) .raw .raw .raw .zero (f.only 0x01)
  | .brx f => long 0x77 0x01 f .S .lane .zero (if f.mod == 1 then .zero else rv 2) .zero (if f.mod == 1 then ru 2 else .zero) (f.only 0x01)
  | .call f => long 0x77 0x02 f .S .lane .raw .raw .raw (wv 2) (f.only 0)
  | .ret f => long 0x77 0x03 f .S .lane .zero (rv 2) .zero .zero (f.only 0)
  | .exit f => long 0x77 0x04 f .S .lane .zero .zero .zero .zero (f.only 0)
  | .conv f => long 0x77 0x05 f .S .lane .raw .raw .raw (ru 1) (f.only 0)
  | .yield f => long 0x77 0x06 f .S .uni .zero .zero .zero .zero (f.only 0)
  -- R201, R206, R215 and R230 say that M[6] is zero: no s(256 + B) there, over R85's general form (DEDUCED, log 63)
  | .setpri f => long 0x77 0x07 f .S .uni .zero .zero (if f.k then .uniK 1 else .zero) .zero (f.only (if f.k then 0 else 0x0F) && !f.m6)
  | .bar f => long 0x77 0x08 f .S .uni (.below 16) .zero .zero .zero (f.only 0x03)
  | .bara f => long 0x77 0x09 f .S .uni (.below 16) .zero .zero .zero (f.only 0x03)
  | .barw f => long 0x77 0x0A f .S .uni (.below 16) .zero .zero .zero (f.only 0x03)
  | .spawn f => long 0x77 0x0B f .S .lane (.pred false true) (rv 12) (.uniK 2) (if f.mod == 1 then ru 2 else .zero) (f.only 0x01 && !f.m6)
  | .launch f => long 0x77 0x0C f .S .uni .upred .zero .zero (ru 2) (f.only 0x01)
  | .enq f => long 0x77 0x0D f .S .uni .upred .zero (.uniK 2) (ru 2) (f.only 0)
  | .gterm f => long 0x77 0x0E f .S .uni .zero .zero .zero .zero (f.only 0x07)
  -- R103: system and debug
  | .trapi f => long 0x7C 0x00 f .S .uni .zero .raw .raw .zero (f.only 0)
  | .rett f => long 0x7C 0x01 f .S .uni .zero .zero .zero .zero (f.only 0)
  | .mfsr f => if srPerLane f.a.toNat
      then long 0x7C 0x02 f .S .lane (wv 1) .raw .zero .zero (f.only 0)
      else long 0x7C 0x02 f .S .lane .zero (.below 0x13) .zero (wu (srRegs f.a.toNat)) (f.only 0)
  | .mtsr f => if srPerLane f.a.toNat
      then long 0x7C 0x03 f .S .lane .zero .raw (rv 1) .zero (f.only 0)
      else long 0x7C 0x03 f .S .lane .zero (.below 0x13) (.uniK (srRegs f.a.toNat)) .zero (f.only 0)
  | .bkpt f => long 0x7C 0x04 f .S .uni .zero .raw .raw .zero (f.only 0)
  | .svc f => long 0x7C 0x05 f .S .uni .zero .raw .raw .zero (f.only 0)
  | .stamp f => long 0x7D 0x00 f .S .uni .zero .zero (.uniK 1) .zero (f.only 0x07 && !f.m6)
  | .cntstart f => long 0x7D 0x01 f .S .uni .zero .zero .zero .zero (f.only 0x0F)
  | .cntstop f => long 0x7D 0x02 f .S .uni .zero .zero .zero (wu 2) (f.only 0x0F)
  -- R102, R221: pipes
  | .prsv f => long 0x78 0x00 f .M .uni .zero .zero .zero (wu 1) true
  | .pcmt f => long 0x78 0x01 f .M .uni .zero .zero (.uniK 1) (wu 1) true
  | .pacq f => long 0x78 0x02 f .M .uni .zero .zero .zero (wu 1) true
  | .prel f => long 0x78 0x03 f .M .uni .zero .zero (.uniK 1) (wu 1) true
  | .ppoll f => long 0x78 0x04 f .M .uni .zero .zero .zero (wu 1) true
  | .pclose f => long 0x78 0x05 f .M .uni .zero .zero .zero (wu 1) true
  -- R102, R230 to R241: tensor copy and matrix
  | .tcopy f => long 0x79 0x00 f .M .uni .zero .zero (.uniK 2) (wu 1) (f.only 0 && !f.m6)
  | .mcfg f => long 0x7A 0x00 f .M .uni (.below 8) .zero (.uniK 4) .zero (f.only 0x02)
  | .mrel f => long 0x7A 0x01 f .M .uni (.below 8) .zero .zero .zero (f.only 0x02)
  | .mload f => long 0x7A 0x02 f .M .uni .tile .zero .zero (wu 1) (f.only 0x01)
  | .mloop f => long 0x7A 0x03 f .M .uni .tile (.below 8) (.uniK 4) (wu 1) (f.only 0x07)
  | .mdrain f => long 0x7A 0x04 f .M .uni .tile (.below 8) .zero (wu 1) (f.only 0x0D)
  | .mzero f => long 0x7A 0x05 f .M .uni .zero (.below 8) .zero .zero (f.only 0x01)
  | .mfence f => long 0x7A 0x06 f .M .uni .zero .zero .zero .zero (f.only 0x07 && decide (f.mod < 6))
  -- R102, R247: summaries
  | .skadd f => long 0x7B 0x00 f .M .lane .zero (rv 1) (.uniK 2) (wu 1) (f.only 0x07 && f.mod % 4 != 3)
  | .skmerge f => long 0x7B 0x01 f .M .lane .zero .zero (.uniK 4) (wu 1) (f.only 0x07 && f.mod % 4 != 3)
  | .skq f => long 0x7B 0x02 f .M .lane (wv 1) (rv 1) (.uniK 2) .zero (f.only 0x04)
  | .hhadd f => long 0x7B 0x03 f .M .lane .zero (rv 1) (.uniK 2) (wu 1) (f.only 0x04)
  | .hhmerge f => long 0x7B 0x04 f .M .lane .zero .zero (.uniK 4) (wu 1) (f.only 0x04)
  | .hhtop f => long 0x7B 0x05 f .M .lane (wv 2) .zero (.uniK 2) .zero (f.only 0x04)
  | .dcadd f => long 0x7B 0x06 f .M .lane .zero (rv 1) (.uniK 2) (wu 1) (f.only 0x04)
  | .dcmerge f => long 0x7B 0x07 f .M .lane .zero .zero (.uniK 4) (wu 1) (f.only 0x04)
  | .dcest f => long 0x7B 0x08 f .M .lane (wv 1) .zero (.uniK 2) .zero (f.only 0x04)
  -- R404: supervisor
  | .rfetch f => riscv 0 0 f
  | .bfx f => riscv 1 0 f
  | .swait f => riscv 2 (f.c.setWidth 7) ⟨f.d, f.a, f.b⟩
  | .dispatch f => riscv 3 0 f
  -- the events of the package have no encoding
  | _ => { enc := .event, pipe := none, guard := .always, ok := true, roles := [] }

end Sys2Proof.Machine
end

