-- ==== Sys2Proof/WellFormed.lean ====
section
/-!
DEFINITION. Well-formedness: an instruction whose fields and modifiers are all ones the spec assigns (R84 to R104;
every other pattern traps with ILLEGAL_OP, R90). What depends on the warp (its register declaration, its mode)
is checked when an issue group is (R22, R81, R82), not here.
-/

namespace Sys2Proof

/-- Every field of the instruction holds a value that its row of the form table assigns. -/
def Instr.wellFormed (i : Instr) : Bool := (Machine.info i).ok

end Sys2Proof
end

