-- ==== Sys2Proof/Decode.lean ====
section
/-!
DEFINITION. The decoder, total on any words, rejecting by name, and the encoder, both from the encodings of R76 to
R104 and R404. A rejected word of a warp's stream traps with ILLEGAL_OP (R90).
-/

namespace Sys2Proof

/-- Why a word is not an instruction (R77, R78, R90, R404). -/
inductive Reject where
  | nopPattern                          -- OP 0x00 but not the all-zero word (R78)
  | unassignedOp (op : Nat)             -- an OP that R90 leaves unassigned
  | unassignedSub (sub : Nat)           -- an OP 0x40 word whose sub is above 0x08 (R92)
  | unassignedXop (op xop : Nat)        -- an XOP its class does not assign
  | longInSlot2                         -- a long form without a second word in its packet (R77)
  | badFields (i : Instr)               -- a field or modifier value the row does not assign
  | notCustom0                          -- not one of the four supervisor instructions (R404)
  | tooShort                            -- fewer bytes than an instruction word
  deriving DecidableEq, Repr

/-- The vector short forms by OP (R91). -/
def ofShortV (x : Nat) (f : ShortV) : Option Instr :=
  match x with
  | 0x01 => some (.iaddShort f)
  | 0x02 => some (.isubShort f)
  | 0x03 => some (.imulShort f)
  | 0x04 => some (.imulhiS32Short f)
  | 0x05 => some (.imulhiZ32Short f)
  | 0x06 => some (.imadShort f)
  | 0x07 => some (.iminS32Short f)
  | 0x08 => some (.iminZ32Short f)
  | 0x09 => some (.imaxS32Short f)
  | 0x0A => some (.imaxZ32Short f)
  | 0x0B => some (.iabsShort f)
  | 0x0C => some (.andShort f)
  | 0x0D => some (.orShort f)
  | 0x0E => some (.xorShort f)
  | 0x0F => some (.shlShort f)
  | 0x10 => some (.shrShort f)
  | 0x11 => some (.sarShort f)
  | 0x12 => some (.popcShort f)
  | 0x13 => some (.clzShort f)
  | 0x14 => some (.brevShort f)
  | 0x20 => some (.faddShort f)
  | 0x21 => some (.fsubShort f)
  | 0x22 => some (.fmulShort f)
  | 0x23 => some (.ffmaShort f)
  | 0x24 => some (.fminShort f)
  | 0x25 => some (.fmaxShort f)
  | 0x26 => some (.hadd2Bf16Short f)
  | 0x27 => some (.hadd2F16Short f)
  | 0x28 => some (.hmul2Bf16Short f)
  | 0x29 => some (.hmul2F16Short f)
  | 0x2A => some (.hfma2Bf16Short f)
  | 0x2B => some (.hfma2F16Short f)
  | 0x38 => some (.rcpShort f)
  | 0x39 => some (.rsqShort f)
  | 0x3A => some (.sqrtShort f)
  | 0x3B => some (.ex2Short f)
  | 0x3C => some (.lg2Short f)
  | 0x3D => some (.sinShort f)
  | 0x3E => some (.cosShort f)
  | 0x3F => some (.tanhShort f)
  | 0x50 => some (.ldShort f)
  | 0x51 => some (.stShort f)
  | 0x52 => some (.ldsShort f)
  | 0x53 => some (.stsShort f)
  | _ => none

/-- The uniform ALU short forms by sub (R92). -/
def ofShortA (x : Nat) (f : ShortA) : Option Instr :=
  match x with
  | 0x00 => some (.saddShort f)
  | 0x01 => some (.ssubShort f)
  | 0x02 => some (.smulShort f)
  | 0x03 => some (.sandShort f)
  | 0x04 => some (.sorShort f)
  | 0x05 => some (.sxorShort f)
  | 0x06 => some (.sshlShort f)
  | 0x07 => some (.sshrShort f)
  | 0x08 => some (.smovShort f)
  | _ => none

/-- The other uniform short forms by OP (R91). -/
def ofShortU (x : Nat) (f : ShortU) : Option Instr :=
  match x with
  | 0x41 => some (.ssetpS32Short f)
  | 0x42 => some (.ssetpZ32Short f)
  | 0x43 => some (.s2vShort f)
  | 0x44 => some (.v2sShort f)
  | 0x45 => some (.sldShort f)
  | _ => none

/-- The control short forms by OP (R91). -/
def ofShortB (x : Nat) (f : ShortB) : Option Instr :=
  match x with
  | 0x60 => some (.braShort f)
  | 0x61 => some (.exitShort f)
  | 0x62 => some (.yieldShort f)
  | _ => none

/-- Class 0x71 by XOP (R95). -/
def ofImmV (x : Nat) (f : ImmV) : Option Instr :=
  match x with
  | 0x00 => some (.iaddImm f)
  | 0x01 => some (.imulImm f)
  | 0x02 => some (.andImm f)
  | 0x03 => some (.orImm f)
  | 0x04 => some (.xorImm f)
  | 0x05 => some (.shlImm f)
  | 0x06 => some (.shrImm f)
  | 0x07 => some (.sarImm f)
  | 0x10 => some (.faddImm f)
  | 0x11 => some (.fmulImm f)
  | 0x12 => some (.ffmaImm f)
  | _ => none

/-- Class 0x73 by XOP (R97). -/
def ofImmU (x : Nat) (f : ImmU) : Option Instr :=
  match x with
  | 0x00 => some (.saddImm f)
  | 0x01 => some (.smulImm f)
  | 0x02 => some (.sandImm f)
  | 0x03 => some (.sorImm f)
  | 0x04 => some (.sxorImm f)
  | 0x05 => some (.sshlImm f)
  | 0x06 => some (.sshrImm f)
  | 0x07 => some (.smovImm f)
  | 0x08 => some (.ssetpImm f)
  | _ => none

/-- Class 0x72 by XOP (R96). -/
def ofUni (x : Nat) (f : UniF) : Option Instr :=
  match x with
  | 0x00 => some (.sadd f)
  | 0x01 => some (.ssub f)
  | 0x02 => some (.smul f)
  | 0x03 => some (.sand f)
  | 0x04 => some (.sor f)
  | 0x05 => some (.sxor f)
  | 0x06 => some (.sshl f)
  | 0x07 => some (.sshr f)
  | 0x08 => some (.smov f)
  | 0x09 => some (.ssetp f)
  | 0x0A => some (.sbfe f)
  | 0x0B => some (.s2v f)
  | 0x0C => some (.v2s f)
  | 0x0D => some (.sld f)
  | _ => none

/-- Class 0x70 by XOP (R94 to R103). -/
def of70 (x : Nat) (f : LongF) : Option Instr :=
  match x with
  | 0x00 => some (.iadd f)
  | 0x01 => some (.isub f)
  | 0x02 => some (.imul f)
  | 0x03 => some (.imulhi f)
  | 0x04 => some (.imad f)
  | 0x05 => some (.imin f)
  | 0x06 => some (.imax f)
  | 0x07 => some (.iabs f)
  | 0x08 => some (.and f)
  | 0x09 => some (.or f)
  | 0x0A => some (.xor f)
  | 0x0B => some (.shl f)
  | 0x0C => some (.shr f)
  | 0x0D => some (.sar f)
  | 0x0E => some (.bfe f)
  | 0x0F => some (.bfi f)
  | 0x10 => some (.popc f)
  | 0x11 => some (.clz f)
  | 0x12 => some (.brev f)
  | 0x13 => some (.lea f)
  | 0x14 => some (.isetp f)
  | 0x15 => some (.sel f)
  | 0x20 => some (.fadd f)
  | 0x21 => some (.fsub f)
  | 0x22 => some (.fmul f)
  | 0x23 => some (.ffma f)
  | 0x24 => some (.fmin f)
  | 0x25 => some (.fmax f)
  | 0x26 => some (.fsetp f)
  | 0x27 => some (.frnd f)
  | 0x28 => some (.hadd2 f)
  | 0x29 => some (.hmul2 f)
  | 0x2A => some (.hfma2 f)
  | 0x30 => some (.rcp f)
  | 0x31 => some (.rsq f)
  | 0x32 => some (.sqrt f)
  | 0x33 => some (.ex2 f)
  | 0x34 => some (.lg2 f)
  | 0x35 => some (.sin f)
  | 0x36 => some (.cos f)
  | 0x37 => some (.tanh f)
  | _ => none

/-- Class 0x74 by XOP (R94 to R103). -/
def of74 (x : Nat) (f : LongF) : Option Instr :=
  match x with
  | 0x00 => some (.ld f)
  | 0x01 => some (.st f)
  | 0x02 => some (.lds f)
  | 0x03 => some (.sts f)
  | 0x04 => some (.ldr f)
  | 0x05 => some (.str f)
  | 0x06 => some (.ldw f)
  | 0x07 => some (.chkw f)
  | 0x08 => some (if f.d == 3 then .fenceSc f else .fence f)
  | 0x09 => some (.drainst f)
  | 0x0A => some (.ifence f)
  | 0x0B => some (.prefetch f)
  | 0x0C => some (.smap f)
  | 0x0D => some (.sunmap f)
  | 0x0E => some (.sflush f)
  | 0x0F => some (.wmld f)
  | 0x10 => some (.wmst f)
  | 0x20 => some (.atomAdd f)
  | 0x21 => some (.atomMin f)
  | 0x22 => some (.atomMax f)
  | 0x23 => some (.atomAnd f)
  | 0x24 => some (.atomOr f)
  | 0x25 => some (.atomXor f)
  | 0x26 => some (.atomExch f)
  | 0x27 => some (.atomCas f)
  | 0x28 => some (.atomSpadAdd f)
  | 0x29 => some (.atomSpadMin f)
  | 0x2A => some (.atomSpadMax f)
  | 0x2B => some (.atomSpadAnd f)
  | 0x2C => some (.atomSpadOr f)
  | 0x2D => some (.atomSpadXor f)
  | 0x2E => some (.atomSpadExch f)
  | 0x2F => some (.atomSpadCas f)
  | 0x30 => some (.atomPeerAdd f)
  | 0x31 => some (.atomPeerMin f)
  | 0x32 => some (.atomPeerMax f)
  | 0x33 => some (.atomPeerAnd f)
  | 0x34 => some (.atomPeerOr f)
  | 0x35 => some (.atomPeerXor f)
  | 0x36 => some (.atomPeerExch f)
  | 0x37 => some (.atomPeerCas f)
  | 0x38 => some (.redAdd f)
  | 0x39 => some (.redMin f)
  | 0x3A => some (.redMax f)
  | 0x3B => some (.redAnd f)
  | 0x3C => some (.redOr f)
  | 0x3D => some (.redXor f)
  | 0x3E => some (.redTrig f)
  | _ => none

/-- Class 0x75 by XOP (R94 to R103). -/
def of75 (x : Nat) (f : LongF) : Option Instr :=
  match x with
  | 0x00 => some (.shfl f)
  | 0x01 => some (.vote f)
  | 0x02 => some (.redux f)
  | 0x03 => some (.prmt f)
  | 0x04 => some (.matchLanes f)
  | _ => none

/-- Class 0x76 by XOP (R94 to R103). -/
def of76 (x : Nat) (f : LongF) : Option Instr :=
  match x with
  | 0x00 => some (.cvt f)
  | _ => none

/-- Class 0x77 by XOP (R94 to R103). -/
def of77 (x : Nat) (f : LongF) : Option Instr :=
  match x with
  | 0x00 => some (.bra f)
  | 0x01 => some (.brx f)
  | 0x02 => some (.call f)
  | 0x03 => some (.ret f)
  | 0x04 => some (.exit f)
  | 0x05 => some (.conv f)
  | 0x06 => some (.yield f)
  | 0x07 => some (.setpri f)
  | 0x08 => some (.bar f)
  | 0x09 => some (.bara f)
  | 0x0A => some (.barw f)
  | 0x0B => some (.spawn f)
  | 0x0C => some (.launch f)
  | 0x0D => some (.enq f)
  | 0x0E => some (.gterm f)
  | _ => none

/-- Class 0x78 by XOP (R94 to R103). -/
def of78 (x : Nat) (f : LongF) : Option Instr :=
  match x with
  | 0x00 => some (.prsv f)
  | 0x01 => some (.pcmt f)
  | 0x02 => some (.pacq f)
  | 0x03 => some (.prel f)
  | 0x04 => some (.ppoll f)
  | 0x05 => some (.pclose f)
  | _ => none

/-- Class 0x79 by XOP (R94 to R103). -/
def of79 (x : Nat) (f : LongF) : Option Instr :=
  match x with
  | 0x00 => some (.tcopy f)
  | _ => none

/-- Class 0x7A by XOP (R94 to R103). -/
def of7A (x : Nat) (f : LongF) : Option Instr :=
  match x with
  | 0x00 => some (.mcfg f)
  | 0x01 => some (.mrel f)
  | 0x02 => some (.mload f)
  | 0x03 => some (.mloop f)
  | 0x04 => some (.mdrain f)
  | 0x05 => some (.mzero f)
  | 0x06 => some (.mfence f)
  | _ => none

/-- Class 0x7B by XOP (R94 to R103). -/
def of7B (x : Nat) (f : LongF) : Option Instr :=
  match x with
  | 0x00 => some (.skadd f)
  | 0x01 => some (.skmerge f)
  | 0x02 => some (.skq f)
  | 0x03 => some (.hhadd f)
  | 0x04 => some (.hhmerge f)
  | 0x05 => some (.hhtop f)
  | 0x06 => some (.dcadd f)
  | 0x07 => some (.dcmerge f)
  | 0x08 => some (.dcest f)
  | _ => none

/-- Class 0x7C by XOP (R94 to R103). -/
def of7C (x : Nat) (f : LongF) : Option Instr :=
  match x with
  | 0x00 => some (.trapi f)
  | 0x01 => some (.rett f)
  | 0x02 => some (.mfsr f)
  | 0x03 => some (.mtsr f)
  | 0x04 => some (.bkpt f)
  | 0x05 => some (.svc f)
  | _ => none

/-- Class 0x7D by XOP (R94 to R103). -/
def of7D (x : Nat) (f : LongF) : Option Instr :=
  match x with
  | 0x00 => some (.stamp f)
  | 0x01 => some (.cntstart f)
  | 0x02 => some (.cntstop f)
  | _ => none

/-- A long form by OP and XOP. -/
def ofLong (op x : Nat) (f : LongF) : Option Instr :=
  match op with
  | 0x70 => of70 x f
  | 0x74 => of74 x f
  | 0x75 => of75 x f
  | 0x76 => of76 x f
  | 0x77 => of77 x f
  | 0x78 => of78 x f
  | 0x79 => of79 x f
  | 0x7A => of7A x f
  | 0x7B => of7B x f
  | 0x7C => of7C x f
  | 0x7D => of7D x f
  | _ => none

/-- Whether an OP begins a two-word instruction (R77). -/
def isLongOp (op : Nat) : Bool := decide (0x70 ≤ op) && decide (op ≤ 0x7D)

/-- The raw fields of a short word. -/
def shortVOf (w : Word) : ShortV := ⟨w.getLsbD 31, w.extractLsb' 16 8, w.extractLsb' 8 8, w.extractLsb' 0 8⟩
def shortAOf (w : Word) : ShortA := ⟨w.getLsbD 31, w.extractLsb' 15 9, w.extractLsb' 6 9⟩
def shortUOf (w : Word) : ShortU := ⟨w.getLsbD 31, w.extractLsb' 15 9, w.extractLsb' 6 9, w.extractLsb' 0 6⟩
def shortBOf (w : Word) : ShortB := ⟨w.getLsbD 31, w.extractLsb' 21 3, w.getLsbD 20, w.extractLsb' 0 20⟩
/-- The raw fields of the two words of a long form (R85 to R87). -/
def longOf (w u : Word) : LongF :=
  ⟨w.getLsbD 31, w.extractLsb' 16 8, w.extractLsb' 8 8, w.extractLsb' 0 8, u.extractLsb' 15 9, u.getLsbD 14,
    u.extractLsb' 11 3, u.getLsbD 10, u.extractLsb' 7 3, u.extractLsb' 0 7⟩
def immVOf (w u : Word) : ImmV :=
  ⟨w.getLsbD 31, w.extractLsb' 16 8, w.extractLsb' 8 8, w.extractLsb' 0 8 ++ u.extractLsb' 0 24⟩
def immUOf (w u : Word) : ImmU :=
  ⟨w.getLsbD 31, w.extractLsb' 15 9, w.extractLsb' 0 15 ++ u.extractLsb' 7 17, u.extractLsb' 0 7⟩
def uniFOf (w u : Word) : UniF :=
  ⟨w.getLsbD 31, w.extractLsb' 15 9, w.extractLsb' 6 9, u.extractLsb' 15 9, u.extractLsb' 11 3, u.getLsbD 10,
    u.extractLsb' 7 3, u.extractLsb' 0 6⟩

/-- An instruction found is checked for its fields (R90). -/
def checkFields (i : Option Instr) (why : Reject) : Except Reject Instr :=
  match i with
  | none => .error why
  | some i => if i.wellFormed then .ok i else .error (.badFields i)

/-- The one-word form an OP other than 0x40 names. -/
def ofShort (op : Nat) (w : Word) : Option Instr :=
  match ofShortV op (shortVOf w) with
  | some i => some i
  | none => match ofShortU op (shortUOf w) with
    | some i => some i
    | none => ofShortB op (shortBOf w)

/-- A one-word instruction (R84). -/
def decodeShort (w : Word) : Except Reject Instr :=
  let op := (w.extractLsb' 24 7).toNat
  if w == 0 then .ok .nop
  else if op == 0 then .error .nopPattern
  else if op == 0x40 then
    checkFields (ofShortA (w.extractLsb' 0 6).toNat (shortAOf w)) (.unassignedSub (w.extractLsb' 0 6).toNat)
  else checkFields (ofShort op w) (.unassignedOp op)

/-- The two-word form an OP and an XOP name (R85 to R87). In class 0x72 the low six bits of the first word, K and M[6]
are zero. -/
def ofTwo (op x : Nat) (w u : Word) : Option Instr :=
  match op with
  | 0x71 => ofImmV x (immVOf w u)
  | 0x73 => ofImmU x (immUOf w u)
  | 0x72 => if w.extractLsb' 0 6 == 0 && !u.getLsbD 14 && !u.getLsbD 6 then ofUni x (uniFOf w u) else none
  | _ => ofLong op x (longOf w u)

/-- A two-word instruction. -/
def decodeLong (w u : Word) : Except Reject Instr :=
  let op := (w.extractLsb' 24 7).toNat
  let x := (u.extractLsb' 24 8).toNat
  checkFields (ofTwo op x w u) (.unassignedXop op x)

/-- The instruction of a warp's stream that begins with word `w`; `u` is the next word of its packet, if any. -/
def decode (w : Word) (u : Option Word) : Except Reject Instr :=
  if isLongOp (w.extractLsb' 24 7).toNat then
    match u with
    | none => .error .longInSlot2
    | some u => decodeLong w u
  else decodeShort w

/-- A word of a supervisor hart's stream (R404): only the custom-0 instructions have a meaning here. -/
def decodeSupervisor (w : Word) : Except Reject Instr :=
  let d := w.extractLsb' 7 5; let a := w.extractLsb' 15 5; let b := w.extractLsb' 20 5
  let f7 := (w.extractLsb' 25 7).toNat
  if w.extractLsb' 0 7 != 0x0B then .error .notCustom0
  else match (w.extractLsb' 12 3).toNat with
    | 0 => if f7 == 0 then .ok (.rfetch ⟨d, a, b⟩) else .error .notCustom0
    | 1 => if f7 == 0 then .ok (.bfx ⟨d, a, b⟩) else .error .notCustom0
    | 2 => if f7 < 4 then .ok (.swait ⟨w.extractLsb' 25 2, d, a, b⟩) else .error .notCustom0
    | 3 => if f7 == 0 then .ok (.dispatch ⟨d, a, b⟩) else .error .notCustom0
    | _ => .error .notCustom0

/-- The number of words of an instruction: 2 for the long forms (R77), 0 for an event. -/
def Instr.words (i : Instr) : Nat :=
  match (Machine.info i).enc with
  | .long .. | .immV .. | .immU .. | .uni .. => 2
  | .event => 0
  | _ => 1

/-- Little-endian words of a byte list (R5, R76). -/
def wordOfBytes : List Byte → Option (Word × List Byte)
  | a :: b :: c :: d :: r => some (d ++ c ++ b ++ a, r)
  | _ => none

/-- Decoding a warp's instruction from bytes, answering the bytes that follow it. -/
def decodeBytes (l : List Byte) : Except Reject (Instr × List Byte) :=
  match wordOfBytes l with
  | none => .error .tooShort
  | some (w, r) =>
    match decode w ((wordOfBytes r).map (·.1)) with
    | .error e => .error e
    | .ok i => .ok (i, r.drop (4 * (i.words - 1)))

/-- The instruction that this decoder reads from the bits `w`, numbered as the opcode table numbers them: a warp's
instruction, or where the warp decoder refuses and the low seven bits are custom-0, a supervisor's. -/
def decodeTableWord (_nbits w : Nat) : Option Instr :=
  match decode (BitVec.ofNat 32 w) (some (BitVec.ofNat 32 (w >>> 32))) with
  | .ok i => some i
  | .error _ =>
    match decodeSupervisor (BitVec.ofNat 32 w) with
    | .ok i => some i
    | .error _ => none

/-! The encoder, from the same tables. -/

/-- The words of a layout. -/
def encodeWords : Machine.Enc → List Word
  | .nop => [0]
  | .shortV op f => [BitVec.ofBool f.c ++ op ++ f.d ++ f.a ++ f.b]
  | .shortA sub f => [BitVec.ofBool f.c ++ 0x40#7 ++ f.d ++ f.b ++ sub]
  | .shortU op f => [BitVec.ofBool f.c ++ op ++ f.d ++ f.b ++ f.sub]
  | .shortB op f => [BitVec.ofBool f.c ++ op ++ f.p ++ BitVec.ofBool f.n ++ f.off]
  | .long op x f => [BitVec.ofBool f.c ++ op ++ f.d ++ f.a ++ f.b,
      x ++ f.t ++ BitVec.ofBool f.k ++ f.g ++ BitVec.ofBool f.n ++ f.w ++ f.m]
  | .immV x f => [BitVec.ofBool f.c ++ 0x71#7 ++ f.d ++ f.a ++ f.imm.extractLsb' 24 8,
      x ++ f.imm.extractLsb' 0 24]
  | .immU x f => [BitVec.ofBool f.c ++ 0x73#7 ++ f.d ++ f.imm.extractLsb' 17 15,
      x ++ f.imm.extractLsb' 0 17 ++ f.x]
  | .uni x f => [BitVec.ofBool f.c ++ 0x72#7 ++ f.d ++ f.a ++ 0#6,
      x ++ f.t ++ 0#1 ++ f.g ++ BitVec.ofBool f.n ++ f.w ++ 0#1 ++ f.m]
  | .rv f3 f7 f => [f7 ++ f.b ++ f.a ++ f3 ++ f.d ++ 0x0B#7]
  | .event => []

/-- The words of an instruction; none for an event of the package. -/
def encode (i : Instr) : List Word := encodeWords (Machine.info i).enc

/-- Little-endian bytes of a word (R5). -/
def wordBytes (w : Word) : List Byte :=
  [w.extractLsb' 0 8, w.extractLsb' 8 8, w.extractLsb' 16 8, w.extractLsb' 24 8]

/-- The bytes of an instruction. -/
def encodeBytes (i : Instr) : List Byte := (encode i).flatMap wordBytes

end Sys2Proof
end

