-- ==== Sys2Proof/Machine/Float.lean ====
section
/-!
DEFINITION. Floating point (R48 to R56, R139 to R146): every format is unpacked to a sign, a natural significand and
a power of two, operations are exact there, and one rounding function narrows the result and says which flags it
raises.
-/

namespace Sys2Proof.Machine

/-- A floating-point format (R48): exponent and fraction widths, and whether it has infinities. -/
structure FFmt where
  eb   : Nat
  mb   : Nat
  hasInf : Bool
  deriving DecidableEq, Repr

def fp32 : FFmt := ⟨8, 23, true⟩
def fp16 : FFmt := ⟨5, 10, true⟩
def bf16 : FFmt := ⟨8, 7, true⟩
def e4m3 : FFmt := ⟨4, 3, false⟩
def e5m2 : FFmt := ⟨5, 2, true⟩

def FFmt.bias (t : FFmt) : Nat := 2 ^ (t.eb - 1) - 1
/-- The power of two of the smallest subnormal. -/
def FFmt.qmin (t : FFmt) : Int := 1 - (t.bias : Int) - t.mb
/-- The pattern of +∞, or of the one E4M3 NaN. -/
def FFmt.top (t : FFmt) : Nat := if t.hasInf then (2 ^ t.eb - 1) * 2 ^ t.mb else 2 ^ (t.eb + t.mb) - 1
/-- The pattern of the largest finite value. -/
def FFmt.maxFin (t : FFmt) : Nat := t.top - 1
def FFmt.signBit (t : FFmt) : Nat := 2 ^ (t.eb + t.mb)
/-- The canonical NaN (R48, R49). -/
def FFmt.nan (t : FFmt) : Nat := if t.hasInf then t.top + 2 ^ (t.mb - 1) else t.top

/-- A floating-point value: a NaN (signalling or not), an infinity, or `± m × 2^e`. -/
inductive FVal where
  | nan (sig : Bool)
  | inf (neg : Bool)
  | fin (neg : Bool) (m : Nat) (e : Int)
  deriving DecidableEq, Repr

/-- Rounding modes (R50, R93 rm). -/
inductive RMode where
  | rn | rz | ru | rd
  deriving DecidableEq, Repr

def RMode.of (x : Nat) : RMode :=
  match x with
  | 0 => .rn
  | 1 => .rz
  | 2 => .ru
  | _ => .rd

/-- FPSTAT bits (R52). -/
def flagIV : Nat := 1
def flagDZ : Nat := 2
def flagOF : Nat := 4
def flagUF : Nat := 8
def flagNX : Nat := 16
def flagRANGE : Nat := 32

/-- A pattern and the flags its computation raised. -/
structure FRes where
  bits  : Nat
  flags : Nat
  deriving DecidableEq, Repr

/-- The value of a pattern (R48, R49). -/
def FFmt.unpack (t : FFmt) (x : Nat) : FVal :=
  let neg := x.testBit (t.eb + t.mb)
  let mag := x % t.signBit
  if t.hasInf then
    if mag == t.top then .inf neg
    else if mag > t.top then .nan (!x.testBit (t.mb - 1))
    else if mag < 2 ^ t.mb then .fin neg mag t.qmin
    else .fin neg (mag % 2 ^ t.mb + 2 ^ t.mb) (t.qmin + (mag / 2 ^ t.mb : Nat) - 1)
  else
    if mag == t.top then .nan false
    else if mag < 2 ^ t.mb then .fin neg mag t.qmin
    else .fin neg (mag % 2 ^ t.mb + 2 ^ t.mb) (t.qmin + (mag / 2 ^ t.mb : Nat) - 1)

/-- `In(x)` on patterns: under ftz a subnormal is the zero of its sign (R51, R136). -/
def FFmt.flush (t : FFmt) (ftz : Bool) (x : Nat) : Nat :=
  if ftz && decide (x % t.signBit < 2 ^ t.mb) then x / t.signBit * t.signBit else x

def FFmt.read (t : FFmt) (ftz : Bool) (x : Nat) : FVal := t.unpack (t.flush ftz x)

/-- The integer `m / 2^k` rounded by the mode, and whether it is inexact; `st` says the exact value lies strictly
above `m`, by less than one. -/
def shiftRound (r : RMode) (neg : Bool) (m : Nat) (st : Bool) (k : Nat) : Nat × Bool :=
  let q := m >>> k
  let rem := m % 2 ^ k
  let half := 2 ^ k / 2
  let inexact := rem != 0 || st
  let up := match r with
    | .rn => k != 0 && (decide (rem > half) || (rem == half && (st || q % 2 == 1)))
    | .rz => false
    | .ru => !neg && inexact
    | .rd => neg && inexact
  (if up then q + 1 else q, inexact)

/-- `m × 2^e` rounded to a multiple of `2^q`: the multiple and whether it is inexact. -/
def roundAt (r : RMode) (neg : Bool) (m : Nat) (e : Int) (st : Bool) (q : Int) : Nat × Bool :=
  if q ≤ e then (m <<< (e - q).toNat, st) else shiftRound r neg m st (q - e).toNat

/-- What overflow delivers (R54, R55): by mode, or the largest finite value with .sat. -/
def FFmt.overflow (t : FFmt) (r : RMode) (sat neg : Bool) : FRes :=
  let s := if neg then t.signBit else 0
  if sat then ⟨s + t.maxFin, flagNX⟩
  else if !t.hasInf then ⟨t.nan, flagOF ||| flagNX⟩
  else
    let toInf := match r with
      | .rn => true
      | .rz => false
      | .ru => !neg
      | .rd => neg
    ⟨s + (if toInf then t.top else t.maxFin), flagOF ||| flagNX⟩

/-- Round (R50 to R52): the non-zero value `± m × 2^e` (a little more when `st`) delivered in format `t`, with OF, UF
and NX as R52 defines them, tininess after rounding; under `ftz` a tiny result is a zero with UF and NX (R51). -/
def FFmt.round (t : FFmt) (r : RMode) (ftz sat neg : Bool) (m : Nat) (e : Int) (st : Bool) : FRes :=
  let s := if neg then t.signBit else 0
  if m == 0 then ⟨s, 0⟩ else
  let msb : Int := e + Nat.log2 m
  let q := max t.qmin (msb - t.mb)
  let (n, inexact) := roundAt r neg m e st q
  let bits := (q - t.qmin).toNat * 2 ^ t.mb + n
  let qu := msb - t.mb
  let nu := (roundAt r neg m e st qu).1
  let tiny := decide (qu < t.qmin) && decide (nu < 2 ^ ((t.qmin + t.mb) - qu).toNat)
  if bits ≥ t.top then t.overflow r sat neg
  else if ftz && tiny then ⟨s, flagUF ||| flagNX⟩
  else ⟨s + bits, (if inexact then flagNX else 0) ||| (if tiny && inexact then flagUF else 0)⟩

/-- Delivering a computed value (R49 canonical NaN). -/
def FFmt.pack (t : FFmt) (r : RMode) (ftz sat : Bool) (v : FVal) (fl : Nat) : FRes :=
  match v with
  | .nan _ => ⟨t.nan, fl⟩
  | .inf neg => ⟨(if neg then t.signBit else 0) + t.top, fl⟩
  | .fin neg m e => let x := t.round r ftz sat neg m e false; ⟨x.bits, x.flags ||| fl⟩

def FVal.isNan : FVal → Bool
  | .nan _ => true
  | _ => false
def FVal.sigFlag : FVal → Nat
  | .nan true => flagIV
  | _ => 0
def FVal.neg : FVal → FVal
  | .nan q => .nan q
  | .inf s => .inf (!s)
  | .fin s m e => .fin (!s) m e

/-- The exact product; 0 × ∞ is invalid (R139). -/
def mulV (a b : FVal) : FVal × Nat :=
  match a, b with
  | .nan x, y => (.nan false, (FVal.nan x).sigFlag ||| y.sigFlag)
  | x, .nan y => (.nan false, x.sigFlag ||| (FVal.nan y).sigFlag)
  | .inf s, .inf u => (.inf (s != u), 0)
  | .inf s, .fin u m _ => if m == 0 then (.nan false, flagIV) else (.inf (s != u), 0)
  | .fin u m _, .inf s => if m == 0 then (.nan false, flagIV) else (.inf (s != u), 0)
  | .fin s m e, .fin u n f => (.fin (s != u) (m * n) (e + f), 0)

/-- The exact sum; ∞ − ∞ is invalid; an exact zero sum of opposite signs is +0, or −0 under RD (R139). -/
def addV (r : RMode) (a b : FVal) : FVal × Nat :=
  match a, b with
  | .nan x, y => (.nan false, (FVal.nan x).sigFlag ||| y.sigFlag)
  | x, .nan y => (.nan false, x.sigFlag ||| (FVal.nan y).sigFlag)
  | .inf s, .inf u => if s == u then (.inf s, 0) else (.nan false, flagIV)
  | .inf s, .fin .. => (.inf s, 0)
  | .fin .., .inf s => (.inf s, 0)
  | .fin s m e, .fin u n f =>
    let q := min e f
    let x : Int := (if s then -1 else 1) * (m <<< (e - q).toNat : Nat)
    let y : Int := (if u then -1 else 1) * (n <<< (f - q).toNat : Nat)
    let z := x + y
    if z == 0 then
      if m == 0 && n == 0 && s == u then (.fin s 0 q, 0) else (.fin (r == .rd) 0 q, 0)
    else (.fin (decide (z < 0)) z.natAbs q, 0)

/-- a × b + c, exact; IV for 0 × ∞ even when c is a quiet NaN (R139). -/
def fmaV (r : RMode) (a b c : FVal) : FVal × Nat :=
  let (p, fl) := mulV a b
  let (v, fl') := addV r p c
  (v, fl ||| fl')

def FFmt.add (t : FFmt) (r : RMode) (ftz : Bool) (a b : Nat) : FRes :=
  let (v, fl) := addV r (t.read ftz a) (t.read ftz b)
  t.pack r ftz false v fl

def FFmt.sub (t : FFmt) (r : RMode) (ftz : Bool) (a b : Nat) : FRes :=
  let (v, fl) := addV r (t.read ftz a) (t.read ftz b).neg
  t.pack r ftz false v fl

def FFmt.mul (t : FFmt) (r : RMode) (ftz : Bool) (a b : Nat) : FRes :=
  let (v, fl) := mulV (t.read ftz a) (t.read ftz b)
  t.pack r ftz false v fl

def FFmt.fma (t : FFmt) (r : RMode) (ftz : Bool) (a b c : Nat) : FRes :=
  let (v, fl) := fmaV r (t.read ftz a) (t.read ftz b) (t.read ftz c)
  t.pack r ftz false v fl

/-- The two halves of a packed operand (R143): `op` on each, the flags united. -/
def packed2 (op : Nat → Nat → Nat → FRes) (a b c : Nat) : FRes :=
  let l := op (a % 65536) (b % 65536) (c % 65536)
  let h := op (a / 65536) (b / 65536) (c / 65536)
  ⟨h.bits * 65536 + l.bits, l.flags ||| h.flags⟩

/-- A non-NaN pattern's place in the order in which −0 lies below +0. -/
def FFmt.key (t : FFmt) (x : Nat) : Int :=
  if x.testBit (t.eb + t.mb) then -((x % t.signBit : Nat) : Int) - 1 else (x % t.signBit : Nat)

/-- minimumNumber (`lo` true) or maximumNumber of FP32 patterns (R140). -/
def FFmt.minmax (t : FFmt) (lo ftz : Bool) (a0 b0 : Nat) : FRes :=
  let a := t.flush ftz a0
  let b := t.flush ftz b0
  let va := t.unpack a
  let vb := t.unpack b
  let fl := va.sigFlag ||| vb.sigFlag
  if va.isNan && vb.isNan then ⟨t.nan, fl⟩
  else if va.isNan then ⟨b, fl⟩
  else if vb.isNan then ⟨a, fl⟩
  else if lo == decide (t.key a ≤ t.key b) then ⟨a, fl⟩ else ⟨b, fl⟩

/-- FSETP's comparison (R141) of FP32 patterns: the truth and the flags. -/
def fcompare (cmp : Nat) (ftz : Bool) (a0 b0 : Nat) : Bool × Nat :=
  let a := fp32.flush ftz a0
  let b := fp32.flush ftz b0
  let va := fp32.unpack a
  let vb := fp32.unpack b
  let un := va.isNan || vb.isNan
  let ka : Int := if a ≥ 2 ^ 31 then -((a - 2 ^ 31 : Nat) : Int) else a
  let kb : Int := if b ≥ 2 ^ 31 then -((b - 2 ^ 31 : Nat) : Int) else b
  let t := match cmp with
    | 0 => !un && ka == kb
    | 1 => un || ka != kb
    | 2 => !un && decide (ka < kb)
    | 3 => !un && decide (ka ≤ kb)
    | 4 => !un && decide (ka > kb)
    | 5 => !un && decide (ka ≥ kb)
    | 6 => !un
    | _ => un
  (t, va.sigFlag ||| vb.sigFlag)

/-- FRND (R142): to an integral FP32 value, keeping the sign of a zero result; only IV can be set. -/
def frndOp (r : RMode) (ftz : Bool) (a : Nat) : FRes :=
  match fp32.read ftz a with
  | .nan s => ⟨fp32.nan, (FVal.nan s).sigFlag⟩
  | .inf _ => ⟨a, 0⟩
  | .fin neg m e =>
    let n := (roundAt r neg m e false 0).1
    if e ≥ 0 then ⟨fp32.flush ftz a, 0⟩ else ⟨(fp32.round .rn false false neg n 0 false).bits, 0⟩

/-! Conversions (R54 to R56, R146). -/

/-- The float format of a conversion type (R93 ct). -/
def ctFmt (ct : Nat) : FFmt :=
  match ct with
  | 8 => fp32
  | 9 => fp16
  | 10 => bf16
  | 11 => e4m3
  | _ => e5m2

/-- Float to float. ftz acts only among FP32, FP16 and BF16; a widening conversion is exact and takes no .sat. -/
def cvtFF (s d : Nat) (r : RMode) (sat ftz : Bool) (x : Nat) : FRes :=
  let wide := decide (d = 8) || (decide (11 ≤ s) && decide (d ≤ 10))
  let fz := ftz && decide (s ≤ 10) && decide (d ≤ 10)
  let sat := sat && !wide
  let t := ctFmt d
  match (ctFmt s).read fz x with
  | .nan q => ⟨t.nan, (FVal.nan q).sigFlag⟩
  | .inf neg =>
    let sg := if neg then t.signBit else 0
    if sat then ⟨sg + t.maxFin, 0⟩
    else if t.hasInf then ⟨sg + t.top, 0⟩
    else ⟨t.nan, flagIV⟩
  | .fin neg m e => t.round r fz sat neg m e false

/-- The bounds of an integer type of `n` bits. -/
def intMin (n : Nat) (signed : Bool) : Int := if signed then -(2 : Int) ^ (n - 1) else 0
def intMax (n : Nat) (signed : Bool) : Int := if signed then (2 : Int) ^ (n - 1) - 1 else (2 : Int) ^ n - 1
/-- SatSN and SatZN (R9, R46). -/
def satInt (n : Nat) (signed : Bool) (x : Int) : Int := max (intMin n signed) (min (intMax n signed) x)
/-- TruncN (R9, R46): the low `n` bits. -/
def truncInt (n : Nat) (x : Int) : Nat := (x % (2 : Int) ^ n).toNat
/-- The low `n` bits of a pattern as an integer of the given signedness. -/
def intOf (n : Nat) (signed : Bool) (x : Nat) : Int :=
  let u := x % 2 ^ n
  if signed && u.testBit (n - 1) then (u : Int) - (2 : Int) ^ n else u

/-- The signedness of an integer conversion type: .sN is even, .zN odd. -/
def ctSigned (ct : Nat) : Bool := ct % 2 == 0

/-- Float to integer (R56). -/
def cvtFI (s d : Nat) (r : RMode) (x : Nat) : FRes :=
  let n := ctBits d
  let sg := ctSigned d
  match (ctFmt s).unpack x with
  | .nan _ => ⟨0, flagIV⟩
  | .inf neg => ⟨truncInt n (if neg then intMin n sg else intMax n sg), flagIV⟩
  | .fin neg m e =>
    let (q, inexact) := roundAt r neg m e false 0
    let z : Int := if neg then -(q : Int) else q
    if z < intMin n sg then ⟨truncInt n (intMin n sg), flagIV⟩
    else if z > intMax n sg then ⟨truncInt n (intMax n sg), flagIV⟩
    else ⟨truncInt n z, if inexact then flagNX else 0⟩
where
  ctBits (ct : Nat) : Nat := if ct ≤ 1 then 8 else if ct ≤ 3 then 16 else if ct ≤ 5 then 32 else 64

/-- Integer to float (R55, R56). -/
def cvtIF (s d : Nat) (r : RMode) (sat : Bool) (x : Nat) : FRes :=
  let n := if s ≤ 1 then 8 else if s ≤ 3 then 16 else if s ≤ 5 then 32 else 64
  let z := intOf n (ctSigned s) x
  (ctFmt d).round r false sat (decide (z < 0)) z.natAbs 0 false

/-- Integer to integer (R146). -/
def cvtII (s d : Nat) (sat : Bool) (x : Nat) : FRes :=
  let w := fun c => if c ≤ 1 then 8 else if c ≤ 3 then 16 else if c ≤ 5 then 32 else 64
  let z := intOf (w s) (ctSigned s) x
  ⟨truncInt (w d) (if sat then satInt (w d) (ctSigned d) z else z), 0⟩

/-- The conversion of a source value of type `s` to type `d` (R146): a pattern of `d`'s width and the flags. -/
def cvtOp (s d : Nat) (r : RMode) (sat ftz : Bool) (x : Nat) : FRes :=
  if s ≤ 7 then
    if d ≤ 7 then cvtII s d sat x else cvtIF s d r sat x
  else
    if d ≤ 7 then cvtFI s d r x else cvtFF s d r sat ftz x

/-! Special functions (R57, R147, R148). -/

/-- Fixed-point numbers of this section have this many fraction bits. -/
def fixBits : Nat := 256
def fixOne : Int := (2 : Int) ^ fixBits
def fixMul (a b : Int) : Int := a * b / fixOne

/-- exp of a fixed-point number by its series, `k` terms left, `i` the next divisor. -/
def fixExpGo (x term acc : Int) (i : Nat) : Nat → Int
  | 0 => acc
  | k + 1 => let t := fixMul term x / (i : Int); fixExpGo x t (acc + t) (i + 1) k
def fixExp (x : Int) : Int := fixExpGo x fixOne fixOne 1 90

/-- The series Σ z^(2i+1)/(2i+1), signs alternating when `alt`. -/
def fixAtanhGo (z2 p acc : Int) (alt : Bool) (i : Nat) : Nat → Int
  | 0 => acc
  | k + 1 =>
    let t := p / (2 * i + 1 : Nat)
    let acc := if alt && i % 2 == 1 then acc - t else acc + t
    fixAtanhGo z2 (fixMul p z2) acc alt (i + 1) k
def fixAtanh (z : Int) : Int := fixAtanhGo (fixMul z z) z 0 false 0 130
def fixAtan (z : Int) : Int := fixAtanhGo (fixMul z z) z 0 true 0 130
/-- ln of a fixed-point number in [1, 2]. -/
def fixLn (x : Int) : Int := 2 * fixAtanh ((x - fixOne) * fixOne / (x + fixOne))
def fixLn2 : Int := fixLn (2 * fixOne)
def fixPi : Int := 16 * fixAtan (fixOne / 5) - 4 * fixAtan (fixOne / 239)

/-- Σ of the sine (from x) or cosine (from 1) series. -/
def fixSinGo (x2 term acc : Int) (i : Nat) : Nat → Int
  | 0 => acc
  | k + 1 => let t := -(fixMul term x2 / ((i + 1) * (i + 2) : Nat)); fixSinGo x2 t (acc + t) (i + 2) k
def fixSin (x : Int) : Int := fixSinGo (fixMul x x) x x 1 40
def fixCos (x : Int) : Int := fixSinGo (fixMul x x) fixOne fixOne 0 40

/-- A finite value as a fixed-point number. -/
def fixOf (neg : Bool) (m : Nat) (e : Int) : Int :=
  let k := e + fixBits
  let a : Int := if k ≥ 0 then (m <<< k.toNat : Nat) else (m >>> (-k).toNat : Nat)
  if neg then -a else a

/-- sin and cos of a fixed-point angle of magnitude at most 2^20: reduction by multiples of π/2. -/
def fixSinCos (cos : Bool) (x : Int) : Int :=
  let h := fixPi / 2
  let k := (x + h / 2) / h
  let r := x - k * h
  let j := ((k + (if cos then 1 else 0)) % 4).toNat
  match j with
  | 0 => fixSin r
  | 1 => fixCos r
  | 2 => -fixSin r
  | _ => -fixCos r

/-- The exact result of a special function, up to the fixed-point error: a significand and a power of two. -/
inductive SpecialFn where
  | rcp | rsq | sqrt | ex2 | lg2 | sin | cos | tanh
  deriving DecidableEq, Repr

/-- Integer square root by `k` halvings of the interval [lo, hi). -/
def isqrtGo (n lo hi : Nat) : Nat → Nat
  | 0 => lo
  | k + 1 => let mid := (lo + hi) / 2; if mid * mid ≤ n then isqrtGo n mid hi k else isqrtGo n lo mid k
def isqrt (n : Nat) : Nat := isqrtGo n 0 (2 ^ (Nat.log2 n / 2 + 1)) (Nat.log2 n / 2 + 2)

/-- The function's value at `± m × 2^e` (m ≠ 0, in the function's domain): sign, magnitude significand, power of two,
and whether the value lies above it. For EX2 the power is the integer part, for the others as it comes out. -/
def specialExact (f : SpecialFn) (neg : Bool) (m : Nat) (e : Int) : Bool × Nat × Int × Bool :=
  match f with
  | .rcp => (neg, 2 ^ 200 / m, -200 - e, 2 ^ 200 % m != 0)
  | .sqrt =>
    let (m', e') := if e % 2 == 0 then (m <<< 120, e - 120) else (m <<< 121, e - 121)
    let s := isqrt m'
    (false, s, e' / 2, s * s != m')
  | .rsq =>
    let (m', e') := if e % 2 == 0 then (m, e) else (2 * m, e - 1)
    let n := 2 ^ 240 / m'
    let s := isqrt n
    (false, s, -120 - e' / 2, !(s * s == n && 2 ^ 240 % m' == 0))
  | .ex2 =>
    let x := fixOf neg m e
    let n := x / fixOne
    let y := fixExp (fixMul (x - n * fixOne) fixLn2)
    (false, y.toNat, n - fixBits, false)
  | .lg2 =>
    let l := Nat.log2 m
    let y := fixLn (fixOf false m (-(l : Int))) * fixOne / fixLn2 + (e + l) * fixOne
    (decide (y < 0), y.natAbs, -(fixBits : Int), false)
  | .sin => let y := fixSinCos false (fixOf neg m e); (decide (y < 0), y.natAbs, -(fixBits : Int), false)
  | .cos => let y := fixSinCos true (fixOf neg m e); (decide (y < 0), y.natAbs, -(fixBits : Int), false)
  | .tanh =>
    let y := fixExp (2 * fixOf false m e)
    (neg, ((y - fixOne) * fixOne / (y + fixOne)).natAbs, -(fixBits : Int), false)

/-- Whether the exact result is one that the function delivers exactly (R147). -/
def specialIsExact (f : SpecialFn) (neg : Bool) (m : Nat) (e : Int) : Bool :=
  let pow2 := m == 2 ^ Nat.log2 m
  let k := e + Nat.log2 m
  match f with
  | .rcp => pow2
  | .rsq => pow2 && k % 2 == 0
  | .sqrt => false
  | .ex2 => (e ≥ 0 || m % 2 ^ (-e).toNat == 0) && decide ((if neg then -1 else 1) * ((m : Int) <<< e.toNat) >>> (-e).toNat ≥ -149)
  | .lg2 => pow2
  | .sin | .cos | .tanh => false

/-- The error bound of R147 and R57: whether the FP32 pattern `g` lies within it of `± m × 2^e`.
(DESIGN CHOICE, log 3) -/
def specialWithin (f : SpecialFn) (g : Nat) (neg : Bool) (m : Nat) (e : Int) (nearOne : Bool) : Bool :=
  match fp32.unpack g with
  | .fin s n q =>
    let z := min (min e q) (-149)
    let a : Int := (if neg then -1 else 1) * (m <<< (e - z).toNat : Nat)
    let b : Int := (if s then -1 else 1) * (n <<< (q - z).toNat : Nat)
    let d := (a - b).natAbs
    let ulp := max (e + Nat.log2 m - 23) (-149)
    let rel := (match f with
      | .rcp => 1
      | _ => 2) * 2 ^ (ulp - z).toNat
    let abs22 := 2 ^ (-22 - z).toNat
    match f with
    | .lg2 => decide (d ≤ rel) && (!nearOne || decide (d ≤ abs22))
    | .sin | .cos => decide (d ≤ rel) || (decide (e + Nat.log2 m < -20) && decide (d ≤ abs22))
    | _ => decide (d ≤ rel)
  | _ => false

/-- The delivered FP32 pattern of a special function at a finite non-zero argument in its domain. R147 bounds the
error and leaves the bits open: `guess` is the value the implementation delivers, taken wherever it meets the bound,
and the nearest value elsewhere; whether the result is tiny (R51, R52) is the exact result's matter.
(DESIGN CHOICE, log 3) -/
def specialFinite (f : SpecialFn) (ftz : Bool) (guess : Nat) (neg : Bool) (m : Nat) (e : Int) : FRes :=
  let (s, n, q, st) := specialExact f neg m e
  let exact := specialIsExact f neg m e
  let near := fp32.round .rn ftz false s n q st
  if f == .sqrt || exact then near
  else
    let one := f == .lg2 && !neg && (e + Nat.log2 m == -1 || e + Nat.log2 m == 0 || (m == 2 ^ Nat.log2 m && e + Nat.log2 m == 1))
    let g := if specialWithin f guess s n q one then guess % 2 ^ 32 else (fp32.round .rn false false s n q st).bits
    let tiny := (fp32.round .rn true false s n q st).flags &&& flagUF != 0
    if ftz && tiny then ⟨if s then 2 ^ 31 else 0, flagUF ||| flagNX⟩
    else ⟨g, flagNX ||| (if tiny then flagUF else 0)⟩

/-- A special function of an FP32 pattern (R57, R147, R148). (DESIGN CHOICE, log 3) -/
def specialOp (f : SpecialFn) (ftz : Bool) (guess : Nat) (x : Nat) : FRes :=
  let inf := fp32.top
  let sg := fun (neg : Bool) => if neg then (2 : Nat) ^ 31 else 0
  let one := 0x3F800000
  match fp32.read ftz x with
  | .nan s => ⟨fp32.nan, (FVal.nan s).sigFlag⟩
  | .inf neg =>
    match f with
    | .rcp => ⟨sg neg, 0⟩
    | .rsq => if neg then ⟨fp32.nan, flagIV⟩ else ⟨0, 0⟩
    | .sqrt => if neg then ⟨fp32.nan, flagIV⟩ else ⟨inf, 0⟩
    | .ex2 => if neg then ⟨0, 0⟩ else ⟨inf, 0⟩
    | .lg2 => if neg then ⟨fp32.nan, flagIV⟩ else ⟨inf, 0⟩
    | .sin | .cos => ⟨fp32.nan, flagIV⟩
    | .tanh => ⟨sg neg + one, 0⟩
  | .fin neg m e =>
    if m == 0 then
      match f with
      | .rcp | .rsq => ⟨sg neg + inf, flagDZ⟩
      | .sqrt | .sin | .tanh => ⟨sg neg, 0⟩
      | .ex2 | .cos => ⟨one, 0⟩
      | .lg2 => ⟨sg true + inf, flagDZ⟩
    else
      let big := fun (k : Nat) => decide (fixOf false m e ≥ (k : Int) * fixOne)
      match f with
      | .rcp =>
        let (s, n, q, st) := specialExact .rcp neg m e
        let r := fp32.round .rn false false s n q st
        if r.bits % 2 ^ 31 == inf then ⟨sg neg + inf, flagOF ||| flagNX⟩ else specialFinite f ftz guess neg m e
      | .rsq | .sqrt | .lg2 => if neg then ⟨fp32.nan, flagIV⟩ else specialFinite f ftz guess neg m e
      | .ex2 =>
        if !neg && big 128 then ⟨inf, flagOF ||| flagNX⟩
        else if neg && decide (fixOf false m e > 150 * fixOne) then ⟨0, flagUF ||| flagNX⟩
        else specialFinite f ftz guess neg m e
      | .sin | .cos =>
        if decide (fixOf false m e > 2 ^ 20 * fixOne) then ⟨fp32.nan, flagRANGE⟩
        else specialFinite f ftz guess neg m e
      | .tanh => if big 10 then ⟨sg neg + one, flagNX⟩ else specialFinite f ftz guess neg m e

/-- The REDUX .f32 add tree of R74 over 32 operands: flags united at every node. -/
def reduxTree (ftz : Bool) : Nat → List Nat → FRes
  | 0, l => ⟨l.headD 0, 0⟩
  | k + 1, l =>
    let ps := pairs l
    let r := reduxTree ftz k (ps.map (·.bits))
    ⟨r.bits, ps.foldl (fun a x => a ||| x.flags) r.flags⟩
where
  pairs : List Nat → List FRes
    | a :: b :: r => fp32.add .rn ftz a b :: pairs r
    | _ => []

end Sys2Proof.Machine
end

