-- ==== Sys2Proof/Machine/IntAlu.lean ====
section
/-!
DEFINITION. Integer arithmetic (R112 to R132): one function per operation on patterns of `n` bits, exact integers in
between and one narrowing at the end (Put and Clamp of R112).
-/

namespace Sys2Proof.Machine

/-- The width of an integer type (R93 ty). -/
def tyBits (ty : Nat) : Nat :=
  match ty with
  | 0 | 1 => 32
  | 2 | 3 => 64
  | 4 | 5 => 16
  | _ => 8
/-- The signedness of an integer type: the even codes are signed. -/
def tySigned (ty : Nat) : Bool := ty % 2 == 0

/-- Src (R112): the low N bits, signed or not. -/
def srcOf (ty x : Nat) : Int := intOf (tyBits ty) (tySigned ty) x

/-- Put (R112): TruncN, extended to 32 bits by the type's signedness, or the 64-bit pattern. -/
def putOf (ty : Nat) (v : Int) : Nat :=
  if tyBits ty = 64 then truncInt 64 v
  else truncInt 32 (intOf (tyBits ty) (tySigned ty) (truncInt (tyBits ty) v))

/-- Clamp (R112). -/
def clampOf (ty : Nat) (sat : Bool) (v : Int) : Int := if sat then satInt (tyBits ty) (tySigned ty) v else v

/-- R117 and R118: the two- and three-operand arithmetic of patterns a, b, c. -/
inductive IntOp where
  | add | sub | mul | mulhi | mad | min | max | abs | and | or | xor
  deriving DecidableEq, Repr

def intOp (op : IntOp) (ty : Nat) (sat : Bool) (a b c : Nat) : Nat :=
  let x := srcOf ty a
  let y := srcOf ty b
  let n := tyBits ty
  putOf ty (match op with
    | .add => clampOf ty sat (x + y)
    | .sub => clampOf ty sat (x - y)
    | .mul => clampOf ty sat (x * y)
    | .mulhi => x * y / (2 : Int) ^ n
    | .mad => clampOf ty sat (x * y + srcOf ty c)
    | .min => min x y
    | .max => max x y
    | .abs => clampOf ty sat (if tySigned ty then x.natAbs else x)
    | .and => ((a % 2 ^ n) &&& (b % 2 ^ n) : Nat)
    | .or => ((a % 2 ^ n) ||| (b % 2 ^ n) : Nat)
    | .xor => ((a % 2 ^ n) ^^^ (b % 2 ^ n) : Nat))

/-- The shifts of R119: the count is bits [7:0] of `cnt`. -/
inductive ShiftOp where
  | shl | shr | sar
  deriving DecidableEq, Repr

def shiftOp (op : ShiftOp) (ty : Nat) (a cnt : Nat) : Nat :=
  let u := a % 2 ^ tyBits ty
  let k := cnt % 256
  putOf ty (match op with
    | .shl => ((u <<< k : Nat) : Int)
    | .shr => ((u >>> k : Nat) : Int)
    | .sar => intOf (tyBits ty) true u / (2 : Int) ^ k)

/-- BFE (R121). -/
def bfeOp (ty a ctl : Nat) : Nat :=
  let pos := ctl % 256
  let len := ctl / 256 % 256
  let x := srcOf ty a
  let f := truncInt len (x / (2 : Int) ^ pos)
  putOf ty (if len = 0 then 0 else intOf len (tySigned ty) f)

/-- BFI (R121): bits pos to pos + len − 1, below N, of c replaced by the low bits of a. -/
def bfiOp (ty a ctl c : Nat) : Nat :=
  let n := tyBits ty
  let pos := ctl % 256
  let len := ctl / 256 % 256
  let m := (2 ^ len - 1) * 2 ^ pos % 2 ^ n
  let x := c % 2 ^ n
  putOf ty (((x ^^^ (x &&& m)) ||| ((a * 2 ^ pos) &&& m) : Nat))

/-- The number of 1 bits among the low `n`. -/
def popcount (n x : Nat) : Nat :=
  match n with
  | 0 => 0
  | k + 1 => x % 2 + popcount k (x / 2)

/-- The low `n` bits reversed. -/
def bitrev (n x : Nat) : Nat :=
  match n with
  | 0 => 0
  | k + 1 => x % 2 * 2 ^ k + bitrev k (x / 2)

/-- POPC, CLZ and BREV (R120) on N-bit patterns. -/
def popcOp (ty a : Nat) : Nat := popcount (tyBits ty) a
def clzOp (ty a : Nat) : Nat :=
  let u := a % 2 ^ tyBits ty
  if u = 0 then tyBits ty else tyBits ty - 1 - Nat.log2 u
def brevOp (ty a : Nat) : Nat := bitrev (tyBits ty) (a % 2 ^ tyBits ty)

/-- LEA (R122). -/
def leaOp (ty sh a b : Nat) : Nat := (a + b * 2 ^ sh) % 2 ^ tyBits ty

/-- The integer comparisons (R93 cmp 0 to 5). -/
def icompare (cmp : Nat) (x y : Int) : Bool :=
  match cmp with
  | 0 => decide (x = y)
  | 1 => decide (x ≠ y)
  | 2 => decide (x < y)
  | 3 => decide (x ≤ y)
  | 4 => decide (x > y)
  | _ => decide (x ≥ y)

/-- PRMT (R155): byte `i` of the result by nibble `i` of the selector. -/
def prmtByte (a b n : Nat) : Nat :=
  let x := (if n % 8 < 4 then a / 256 ^ (n % 8) else b / 256 ^ (n % 8 - 4)) % 256
  if n / 8 % 2 = 1 then (if x ≥ 128 then 255 else 0) else x
def prmtOp (a b sel : Nat) : Nat :=
  prmtByte a b (sel % 16) + 256 * prmtByte a b (sel / 16 % 16) + 65536 * prmtByte a b (sel / 256 % 16)
    + 16777216 * prmtByte a b (sel / 4096 % 16)

/-- The scratchpad swizzle of R104. -/
def swizzle (mode a : Nat) : Nat :=
  let x := match mode with
    | 0 => 0
    | 1 => natBits a 9 7
    | 2 => natBits a 10 8
    | 3 => natBits a 11 9
    | 4 => natBits a 12 10
    | 5 => natBits a 13 11
    | 6 => natBits a 8 7
    | _ => natBits a 7 7
  a ^^^ (x * 16)

end Sys2Proof.Machine
end

