-- ==== Sys2Proof/Machine/State.lean ====
section
/-!
DEFINITION. The state of a BR880 package as plain data, and its state at reset. A map is a list of key and value
pairs with strictly rising keys; memory is such a map from addresses to bytes, with no zero byte listed. Each field's comment says what it is; its width; the rule that names it; its value at reset (for
a warp, a core or a plan: when it comes into being).
-/

namespace Sys2Proof.Machine

/-- A map from numbers, rising keys (Maps.lean has its operations). -/
abbrev NMap (α : Type) := List (Nat × α)

/-- Memory: rising addresses, no zero byte listed (Maps.lean). -/
abbrev Memory := List Host.Cell

/-- One 32-bit value per lane, lane 0 first. -/
abbrev LaneVec := List Word

/-- One register write of an instruction: the first register, the lanes, and one word per lane (v), the word (s), or
the truth bits (p and q). -/
inductive RegWrite where
  | v (reg : Nat) (mask : LaneMask) (vals : LaneVec)
  | s (reg : Nat) (val : Word)
  | p (reg : Nat) (mask vals : LaneMask)
  | q (reg : Nat) (val : Bool)
  deriving DecidableEq, Repr

/-- Where an access goes (R161): global virtual memory, the core's own operand store, a member core's scratchpad. -/
inductive Space where
  | global
  | spad
  | peer (slot rank core : Nat)
  deriving DecidableEq, Repr

/-- The atomic operations of R177. -/
inductive AtomOp where
  | add | min | max | and | or | xor | exch | cas
  deriving DecidableEq, Repr

/-- One lane's access: its address (virtual for the global space) and, for a store, the bytes it writes. -/
structure LaneAcc where
  lane  : Nat
  addr  : Nat
  bytes : List Byte
  deriving DecidableEq, Repr

/-- What an issued, unfinished instruction still has to do. -/
inductive Pending where
  | result                                                   -- a fixed-latency result (R105)
  | load (space : Space) (size : Nat) (signed : Bool)        -- R167
  | watched (size : Nat) (signed : Bool) (wid : Nat) (made : Bool)   -- R187; its entries have been made (R189)
  | wmLoad                                                   -- R186
  | uload (reg size : Nat)                                   -- R135
  | atom (op : AtomOp) (ty : Nat) (space : Space) (opnd : List DWord)   -- R177; operands per access
  | launch (plan : Bool) (rec : Nat)                         -- R208
  | enq (queue cmd : Nat)                                    -- R209
  | query                                                    -- a summary query in the core's queue (R250)
  | hold                                                     -- a fence, DRAINST or MFENCE whose Hold has the same `seq`
  deriving DecidableEq, Repr

/-- An instruction issued and not yet written back (R32), at most 12 per warp. -/
structure Flight where
  seq    : Nat                -- issue order
  pc     : Nat                -- its address
  w0     : Word               -- its first word
  w1     : Word               -- its second word, or zero
  lanes  : LaneMask           -- the lanes of ACT at issue
  kind   : Pending
  writes : List RegWrite      -- destinations, with values for a fixed-latency result and values from before issue else
  acc    : List LaneAcc       -- the lanes' accesses
  flags  : List Nat           -- FPSTAT bits raised, per lane
  due    : Nat                -- clk of its write-back, or of its next attempt
  ucap   : DWord              -- captured uniform operand (R371)
  ord    : Nat                -- ordering scope of an acquire, 0 for none (R171)
  fused  : Bool               -- an EX2 fused with the FFMA before it (R150)
  hmode  : Bool               -- issued in handler mode
  deriving DecidableEq, Repr

/-- What a store-queue entry does when it leaves (R168). -/
inductive StoreKind where
  | store                       -- ST, STS, STR
  | red (op : AtomOp) (ty : Nat)
  | redTrig
  | wmst
  | sflush (windows : List Nat) (unmap : Bool) (map : Option (Nat × Nat × Nat × Nat))   -- R185; what a SMAP then maps: number, base, offset, length (R183)
  deriving DecidableEq, Repr

/-- A store-fault record (R378). -/
structure SfRec where
  addr  : DWord
  lanes : LaneMask
  pc    : Word
  hmode : Bool
  deriving DecidableEq, Repr

/-- A store-queue entry (R168): order, kind, space, accesses, pc, and the mode it issued in (R375). -/
structure StoreEntry where
  seq   : Nat
  kind  : StoreKind
  space : Space
  size  : Nat
  acc   : List LaneAcc
  pc    : Nat
  hmode : Bool
  stuck : Bool                  -- waiting for a translation (R284)
  fail  : Option SfRec          -- performed with failing lanes; its record is not yet queued (R169, R380)
  deriving DecidableEq, Repr

inductive WatchState where
  | pending | confirmed | struck
  deriving DecidableEq, Repr

/-- A watch-table entry (R188): grain address (physical key), identifier, lanes, state, the copy's version, and the
issue number of its LDW. -/
structure WatchEntry where
  grain : Nat
  wid   : Nat
  mask  : LaneMask
  state : WatchState
  ver   : Option Nat
  size  : Nat                 -- the grain code of the page
  seq   : Nat
  deriving DecidableEq, Repr

/-- What holds a warp's later instructions or one of its paths (R172 to R174, R204, R246, R369). -/
inductive Hold where
  | fence (kind scope seq : Nat) (mark : Option Nat)   -- kind 0 ACQ, 1 REL, 2 ACQREL (R172); `seq`: the loads it waits for; `mark`: the first message it does not wait for (R293)
  | fenceSc (scope seq : Nat) (drained : Bool) (mark : Option Nat)   -- R173
  | drain (seq : Nat)                    -- R174
  | mfence (ctx kind seq : Nat)          -- R246
  | bar (lanes : LaneMask) (gi bar phase next : Nat)   -- R204; this path only, which goes on at `next`
  | arrive (gi slot bar seq : Nat) (mark : Option Nat)   -- the arrival of a BAR or BARA, which its warp's accesses before `seq` precede (R205)
  | rett (seq ret : Nat)                 -- R379: draining before the return of the RETT at `ret`
  | retire                               -- R197
  deriving DecidableEq, Repr

/-- A cause waiting for its boundary (R495): code, FADDR, the path held, the clk of the boundary. -/
structure PendCause where
  code  : Nat
  faddr : DWord
  lanes : LaneMask
  due   : Nat
  entry : Option Nat          -- the issue number of the faulting instruction, if it is in flight
  deriving DecidableEq, Repr

/-- An FFMA whose EX2 may issue in the next clk (R149): when and where it issued, what follows it, its path, its guard
as 8 × N + G, its lanes and its destination. -/
structure FfmaNote where
  clk   : Nat
  seq   : Nat
  pc    : Nat
  next  : Nat
  path  : LaneMask
  guard : Nat
  act   : LaneMask
  vd    : Nat
  deriving DecidableEq, Repr

/-- One counter set (R216, R396). -/
structure CounterSet where
  event    : Nat
  isGlobal : Bool
  started  : Bool
  count    : Nat
  switches : Nat
  base     : Nat              -- the package-wide count at CNTSTART, for a global set
  deriving DecidableEq, Repr

/-- A wait for the home acknowledgements of a warp's stores issued before `seq`: once they have left its queue, `ids`
are the messages still unacknowledged then. -/
structure Await where
  warp    : Nat
  seq     : Nat
  drained : Bool
  ids     : List Nat
  deriving DecidableEq, Repr

/-- A service request (R212, R418): the service, its identifier, s0 to s7 at issue, the wait for the warp's earlier stores. -/
structure SvcReq where
  num  : Nat
  id   : Nat
  args : List Word
  wait : Await
  deriving DecidableEq, Repr

/-- A token still to be filled by an accepted engine command or SVC (R31, R212): the uniform register. -/
structure Token where
  reg : Nat
  id  : Nat
  preTrap : Bool              -- accepted before handler entry (R372)
  deriving DecidableEq, Repr

/-- A warp in a slot. -/
structure Warp where
  asid     : Nat              -- address space; 12; R278, R361; from launch
  plan     : Nat              -- plan slot; 8; R42 STAGE; from launch
  stage    : Nat              -- stage index; 4; R42 STAGE; from launch
  restart  : Bool             -- STAGE.restart; 1; R20, R42; from launch
  localIdx : Option Nat       -- local index on its core; 7; R323; from launch, none if formed
  nv       : Nat              -- vector registers declared; 9; R22; from launch
  ns       : Nat              -- uniform registers declared; 9; R22; from launch
  codeBase : Nat              -- code base; 57; R76; from launch
  groups   : DWord            -- GROUPS; 64; R42; from launch
  insts    : List Nat         -- group instances of slots 0 to 3; 4 numbers; R324; from launch
  pc       : List Nat         -- lane program counters; 32 × 57; R13; R20
  active   : LaneMask         -- ACTIVE: lanes LIVE; 32; R15; R20
  waiting  : LaneMask         -- WAITING; 32; R15; 0
  exited   : LaneMask         -- EXITED; 32; R15; R20
  point    : List Nat         -- convergence points; 32 × 57; R198; 0
  cmask    : List LaneMask    -- convergence masks; 32 × 32; R198; 0
  age      : List Nat         -- path age, kept per lane; R37; 0
  vreg     : NMap LaneVec     -- v0 to v255, 32 lanes each; 32 each; R12, R21; R20
  vE       : NMap LaneMask    -- empty bits of the vector registers; 1 per lane; R27; all full
  sreg     : NMap Word        -- s0 to s383; 32 each; R14, R21; R20
  sE       : NMap Bool        -- empty bits of the uniform registers; 1 each; R27; all full
  pred     : NMap LaneMask    -- p0 to p6 by register, bit per lane; R21; false
  upred    : NMap Bool        -- q0 to q6; 1 each; R21; false
  tile     : NMap (BitVec 128)   -- t0 to t7; 128 each; R236; 0
  busy     : NMap Nat         -- busy counts of the tile registers; 8 each; R236; 0
  fpstat   : List Nat         -- FPSTAT per lane; 32 each; R42, R52; 0
  prio     : Word             -- PRIO; 32; R42; from the stage
  fpctl    : Word             -- FPCTL; 32; R42, R52; 0
  trapbase : DWord            -- TRAPBASE; 64; R42; from the stage
  tmode    : Word             -- TMODE; 32; R373; 0
  mctl     : Word             -- MCTL; 32; R240; 0
  mstat    : Word             -- MSTAT; 32; R240; 0
  cause    : Word             -- CAUSE; 32; R374; entry 0xFF, the rest 0
  faddr    : DWord            -- FADDR; 64; R42; 0
  watch    : List WatchEntry  -- watch table; 32 entries; R188; empty
  wauto    : BitVec 8         -- WATCH.auto; 8; R191; 0
  storeq   : List StoreEntry  -- store queue; 24 entries; R168; empty
  unacked  : List Nat         -- home messages not yet acknowledged; R272; empty
  flights  : List Flight      -- instructions in flight; 12 entries; R32; empty
  nextSeq  : Nat              -- issue counter (the model's own); 0
  relMark  : Option Nat       -- the first message that an ordered store, atomic or arrival waiting to issue does not wait for; R293; none
  tokens   : List Token       -- tokens outstanding; R31; empty
  holds    : List Hold        -- what waits (fences, barriers, CHKW); R172, R204; empty
  sfq      : List SfRec       -- store-fault record queue; 16 records; R380; empty
  pend     : List PendCause   -- causes waiting for their boundary; R495; empty
  wake     : Nat              -- clk before which the warp is not ready; R200, R372; 0
  yielding : Bool             -- the 16 clk after YIELD have not ended; R200; false
  yieldEnd : Nat              -- the clk at which they end; R200; 0
  aged     : LaneMask         -- lanes whose path has reached the age limit; 32; R37; 0
  laneWake : List Nat         -- clk before which a lane's path is not ready; R45; 0
  lastIssue : Nat             -- clk of last issue or launch; R36; launch
  readySince : Option Nat     -- start of the unbroken readiness; R36; none
  boost    : Bool             -- priority 15 for the next issue; R36; false
  barArr   : NMap Nat         -- phase of the last arrival, by 16 × slot + barrier; R204; empty
  preemptReq : Bool           -- a pre-emption request pending; R381; false
  termReq  : Bool             -- to be terminated at the next boundary; R210; false
  byToltar : Bool             -- the termination is Toltar's; R385; false
  captured : Bool             -- captured for Toltar, awaiting its return; R384; false
  toltarPending : Bool        -- the captured trap has reached Toltar; R423; false
  nopreEnd : Nat              -- clk at which a nopre hold ends; R381; 0
  preTrapSeq : Nat            -- issue counter at handler entry; R375; 0
  entryExited : LaneMask      -- EXITED at handler entry; 32; R379; 0
  entryPc : List Nat          -- the lanes' program counters at capture; 32 x 57; R377; none
  entryWaiting : LaneMask     -- WAITING at handler entry; 32; R213; 0
  entryNrep : Nat             -- replay entries at handler entry; R379; 0
  entryRep : List (BitVec 192)   -- replay entries as captured; R379; empty
  entryNsf : Nat              -- store-fault records at handler entry; R379; 0
  saveArea : Nat              -- address of the save area; 57; R382; from placement
  formed   : Bool             -- formed from records: acquire before the first instruction; R207; from launch
  svc      : List SvcReq      -- SVC requests held; R212; empty
  ctr      : NMap CounterSet  -- the 16 counter sets; R396; stopped
  undo     : Option Nat       -- undo-log ring address; R394; none
  undoN    : Nat              -- undo entries written; R394; 0
  stopDone : List (Nat × Nat) -- lanes and addresses whose stop point has fired, the lane not having issued since; R392; none
  issued   : LaneMask         -- lanes that issued in clk `lastIssue`; 32; R389; 0
  preRep   : Option (List (BitVec 192) × LaneMask)   -- captured for pre-emption and draining: replay entries, lanes at barriers; R381; none
  ffmas    : List FfmaNote    -- FFMAs that may fuse with the EX2 after them; R149; none
  putOff   : Option Nat       -- the clk whose boundary a fused pair puts off; R150; none
  passed   : LaneMask         -- lanes whose path was ready when the warp was selected in this clk (the model's own); 32; R37; 0
  moved    : LaneMask         -- lanes that issued or passed NOPs in this clk (the model's own); 32; R37; 0
  isolated : List Nat         -- lanes whose barw bit was set on resumption; R377; empty
  deriving DecidableEq, Repr

/-- A pre-empted warp (R381): where its save area is and what the save area does not hold. -/
structure Saved where
  id       : Nat
  src      : Nat              -- the slot it left
  warp     : Warp             -- its identity and what lives outside the save area (R382, R396)
  record   : List Byte        -- the control record of the trap its handler was at work on (R376); empty otherwise
  stopped  : Bool             -- held stopped by a debugger or a dump (R392, R399)
  deriving DecidableEq, Repr

/-- A continuation record (R206, R328). -/
structure Record where
  id       : Nat
  pc       : Nat
  args     : List Word
  armed    : Option Nat       -- virtual address of the counter
  asid     : Nat
  status   : Nat
  ready    : Bool             -- READY (else ARMED or not yet eligible)
  eligible : Bool             -- the spawner's earlier stores are acknowledged (R206)
  regd     : Bool             -- registered at its counter's home (R207)
  readyAt  : Nat              -- order in which it became READY
  readyClk : Nat              -- clk at which it became READY
  spawner  : Nat
  wait     : Await            -- the spawner's earlier stores (R206)
  place    : Option Nat       -- virtual address of its 64 bytes in the overflow ring (R328)
  deriving DecidableEq, Repr

/-- A bin (R330): its pc and its records, oldest first. -/
structure Bin where
  pc   : Nat
  recs : List Record
  deriving DecidableEq, Repr

/-- An L1 tag (R268): 512 bytes of one device's memory. -/
structure L1Tag where
  grain : Nat                 -- 0, 1 or 2: 32, 128 or 512 bytes
  valid : BitVec 16
  fresh : BitVec 16           -- one bit per grain
  ver   : NMap Nat            -- version per grain plus one; unlisted: no valid version
  reg   : BitVec 128          -- words registered
  part  : NMap Nat            -- bytes written of a registered word whose registration is on its way, as bits; R291
  gone  : BitVec 128          -- words dropped by a recall; R272
  wrote : NMap Nat            -- clk of the last write of a registered word
  data  : Memory              -- the copy, by offset
  dev   : Nat
  deriving DecidableEq, Repr

/-- A walk-cache entry (R283): address space, level, the address bits above the level, the table the entry names. -/
structure WalkCached where
  asid  : Nat
  lvl   : Nat
  tag   : Nat
  table : Nat
  deriving DecidableEq, Repr

/-- A TLB entry (R283): address space, first page byte, page size, leaf fields. -/
structure TlbEntry where
  asid  : Nat
  base  : Nat
  size  : Nat
  pa    : Nat
  dev   : Nat
  grain : Nat
  wm    : Bool
  x     : Bool
  w     : Bool
  r     : Bool
  deriving DecidableEq, Repr

/-- A stash window (R183): group instance, window, global base, offset and length in 128-byte units. -/
structure Window where
  gi   : Nat
  num  : Nat
  base : Nat
  off  : Nat
  len  : Nat
  asid : Nat
  deriving DecidableEq, Repr

/-- The residues of one accumulator element (R65) with its poison bit (R71). -/
structure Acc where
  c1 : Nat
  c2 : Nat
  c3 : Nat
  c4 : Nat
  poison : Bool
  bad : Bool                  -- a double-bit error: a check failure at its drain (R355)
  deriving DecidableEq, Repr

/-- A command accepted by a matrix context (R219, R239): tile snapshots, tile registers, accumulators; for an MLOOP its
parameters and its barrier arrival (group instance, barrier, phase); for an MDRAIN its mode, sampling k and address. -/
inductive RmeCmd where
  | mload (tile : BitVec 128) (treg : Nat)
  | mloop (tile : BitVec 128) (treg acc : Nat) (par : List Word) (batched : Bool) (arrive : Option (Nat × Nat × Nat))
  | mdrain (tile : BitVec 128) (treg acc mode k pc : Nat)
  | mzero (acc : Nat)
  deriving DecidableEq, Repr

/-- A queued command with its issuer. -/
structure RmeEntry where
  cmd   : RmeCmd
  warp  : Nat                 -- the issuer's name
  wid   : Nat                 -- its token, zero for an MZERO
  reg   : Nat
  seq   : Nat                 -- order of acceptance
  lanes : LaneMask            -- the lanes of ACT
  traps : Bool                -- MCTL.chktrap at acceptance
  bind  : Option (Nat × Nat)  -- the warp and register of the binding an MLOOP counts on (R239)
  flags : Nat                 -- MSTAT bits it has set so far
  ecc   : Bool
  panel : Nat                 -- panels an MLOOP has done
  phase : Nat                 -- 0 waits, 1 loads or converts, 2 computes, 3 finishes
  due   : Nat                 -- clk at which the phase ends
  snap  : NMap Acc            -- what an MDRAIN has read, by element
  snapE : Int                 -- the exponent it read
  dnum  : Nat                 -- the drain counter of an MDRAIN
  deriving DecidableEq, Repr

/-- An element before sizing: format code, scale byte, pattern; code 0xFF stands for a poisoned block. -/
abbrev RawEl := Nat × Nat × Nat

/-- One step of one unit in a shadow log (R364): register, global K index of the first of its 128, batched or not, eight
rows of A and the panel by 128 × column + index, bytes taken. -/
structure ShadowItem where
  acc     : Nat
  k0      : Nat
  batched : Bool
  rows    : List (List RawEl)
  cols    : NMap RawEl
  bytes   : Nat
  deriving DecidableEq, Repr

/-- A sampled drain being recomputed (R72, R364): its log, the drain, and the drained elements as FP32. -/
structure ShadowJob where
  items : List ShadowItem
  asid  : Nat
  gtime : Nat
  dnum  : Nat
  ctx   : Nat
  acc   : Nat
  vals  : List Nat
  due   : Nat
  deriving DecidableEq, Repr

/-- The counts of a deviation ring since it was set (R365). -/
structure DevRing where
  head  : Nat                 -- records written
  drops : Nat                 -- samples dropped
  lost  : Nat                 -- records discarded
  deriving DecidableEq, Repr

/-- A matrix context (R355). -/
structure RmeCtx where
  tag     : Option Nat        -- ownership tag; 24; R361; empty
  bmac    : NMap Int          -- integers by 128 × column + K index; 16 each; R355; 0
  scale   : NMap Nat          -- scale byte by 4 × column + group; 8 each; R355; 0
  mpois   : NMap Bool         -- poisoned groups; 1 each; R355; 0
  raw     : NMap RawEl        -- the panel before sizing, for the shadow unit; R364; 0
  rawN    : Nat               -- the bytes of that panel and its watermarks; R364; 0
  rawLost : Bool              -- a restore brought the panel, without its elements before sizing; R364; false
  bind    : Option (BitVec 128)   -- the binding; 128; R242; none
  bindReg : Option (Nat × Nat)    -- warp and tile register bound; R239; none
  panel   : Option Nat        -- panel held by the array's store; 8; R363; none
  accs    : NMap Acc          -- accumulators by 1024 × register + 128 × row + column; R65; 0
  exps    : NMap Int          -- exponents that are set; 9 each; R65; unset
  drains  : Nat               -- drain counter; 32; R72; 0
  queue   : List RmeEntry     -- command queue; 16; R219; empty
  lastK   : Nat               -- the sampling k of the warp that accepted its most recent command; R364; 0
  armed   : Bool              -- the shadow log is recording; R364; false
  log     : List ShadowItem   -- its part of the core's one capture log; 256 KiB; R364; empty
  logged  : Nat               -- bytes this context put into the unit's one log since it cleared them; R364; 0
  late    : NMap Bool         -- registers with a contribution from before arming; R364; none
  deriving DecidableEq, Repr

/-- A queued summary command (R250). -/
structure SumCmd where
  op    : Nat                 -- XOP 0 to 8 (R247)
  warp  : Nat
  reg   : Nat                 -- the token register, or vd of a query
  wid   : Nat
  coin  : Nat
  spad  : Bool
  dst   : Nat
  src   : Nat
  acc   : List (Nat × Word)   -- lanes and their values
  wait  : Await               -- the warp's earlier stores (R224, R251)
  seq   : Nat
  asid  : Nat
  lanes : LaneMask
  pc    : Nat
  deriving DecidableEq, Repr

/-- A queued tensor copy (R230). -/
structure TceCmd where
  warp : Nat
  reg  : Nat
  wid  : Nat
  desc : Nat
  asid : Nat
  seq  : Nat
  plan : Nat                  -- the issuer's plan, stage and groups (R220): the copy runs on when its warp is no more
  stage : Nat
  groups : DWord
  insts : List Nat
  deriving DecidableEq, Repr

/-- A traced lane, a stop point (R390, R392). -/
structure TracePoint where
  warp : Nat
  lane : Nat
  addr : Nat
  deriving DecidableEq, Repr

inductive TrigState where
  | disarmed | armed | capturing
  | once                      -- capturing for one clk only (both conditions true)
  deriving DecidableEq, Repr

/-- A core's debug block (R389 to R393). -/
structure DebugBlock where
  j       : Nat               -- sampling period exponent; 5; R389; 0 (off)
  slot    : Nat               -- slot sampled next; R389; 0
  lanes   : NMap Nat          -- lane sampled last per slot, plus one; R389; none
  base    : Nat               -- debug ring address; R389; 0
  size    : Nat               -- debug ring records; R389; 0
  head    : Nat               -- records written; R389; 0
  read    : Nat               -- records Toltar has read, or lost; R390; 0
  skipped : Nat               -- trace records overwritten unread; R390; 0
  traced  : NMap TracePoint   -- the four traced lanes; R390; none
  trig    : TrigState         -- the trigger's state; R391; DISARMED
  start   : TrigCond          -- its start condition; R391; never
  stop    : TrigCond          -- its stop condition; R391; never
  reqStart : Bool             -- a request of Toltar to start; R391; false
  reqStop : Bool              -- a request of Toltar to stop; R391; false
  stops   : NMap TracePoint   -- the four stop points; R392; none
  stepLane : Nat              -- the step lane; 5; R393; 0
  deriving DecidableEq, Repr

/-- A core. -/
structure Core where
  owner   : Option (Nat × Nat)   -- the plan and stage it belongs to; R18; none
  revoked : Bool              -- its unit has been revoked by the deckle; R326; false
  placed  : Nat               -- order of placement; R326; 0
  l1size  : Nat               -- L1 bytes; R265; 262144
  spad    : Nat               -- scratchpad bytes; R265; 262144
  stash   : Nat               -- stash bytes; R265; 0
  windows : Nat               -- stash windows per group; R110; 0
  opst    : Memory            -- scratchpad and stash bytes, with the operand store's errors beside; R159, R267; 0
  eccBad  : NMap Bool         -- operand-store bytes with an uncorrectable error; R286; none
  wins    : List Window       -- mapped stash windows; R183; none
  slines  : NMap L1Tag        -- filled stash lines by line number; R184; none
  l1      : NMap L1Tag        -- L1 tags by device and region; R268; none
  l1Bad   : NMap Bool         -- L1 words with an uncorrectable error; R286; none
  tlb     : List TlbEntry     -- L1 TLB; 1,024 entries; R283; empty
  icache  : NMap (List Byte)  -- instruction cache: fetched packets of 12 bytes by physical key; R175, R303; empty
  loops   : NMap (Nat × Nat)  -- loop buffer per partition: first and last packet address; R45; empty
  rowFree : NMap Nat          -- clk from which a pipe accepts a row of R105 again, by 16 × partition + row; R105; 0
  chest   : List Record       -- stock chest; 512 records; R328; empty
  bins    : NMap Bin          -- bins; 16; R330; empty
  rme     : NMap RmeCtx       -- matrix contexts 0 and 1; R355; fresh
  portLast : Nat              -- context the load port served last, plus one; R357; 0
  arrLast : Nat               -- context the array was granted last, plus one; R358; 0
  tce     : List TceCmd       -- tensor copy queue; 64; R219; empty
  sumq    : List SumCmd       -- summary queue; 32; R250; empty
  portBusy : Option Nat       -- the context whose panel the load port is loading; R357; none
  arrBusy : Option Nat        -- the context whose unit the array is running; R358; none
  shadow  : Option ShadowJob  -- the sample the shadow unit is at work on; R72; none
  mcpAddr : DWord             -- MCPADDR; 64; R419; 0
  mcpCmd  : Word              -- MCPCMD; 32; R419; 0
  mcpStat : Word              -- MCPSTAT; 32; R419; 0
  dbg     : DebugBlock        -- debug block; R389; off
  deriving DecidableEq, Repr

/-- An L2 line that differs from HBM4E or is held clean (R275). -/
structure L2Line where
  dirty : BitVec 4            -- dirty 32-byte sectors
  data  : Memory              -- the line, by offset
  deriving DecidableEq, Repr

/-- The state of a registered word (R272). -/
inductive WordState where
  | reg (core : Nat)
  | regrd (core : Nat)
  deriving DecidableEq, Repr

/-- A message on its way to a home (R272, R274, R180). -/
inductive HomeMsg where
  | register (word core : Nat)
  | notice (word core : Nat)
  | through (key : Nat) (bytes : List Byte)
  | red (op : AtomOp) (ty : Nat) (key size : Nat) (vals : List (Nat × DWord))
  | trig (key : Nat) (vals : List (Nat × DWord))
  deriving DecidableEq, Repr

/-- A home message with its number, its sender, and for a store to another device the number of its queue entry and the
record it would leave (R433). -/
structure Msg where
  id    : Nat
  warp  : Nat
  body  : HomeMsg
  fault : Option (Nat × SfRec)
  port  : Option (Nat × Nat)      -- the port that carries it and the sequence number there (R433)
  deriving DecidableEq, Repr

/-- A translation miss being resolved (R284): what it is for and whether it waits in a fault queue. -/
structure Walk where
  id    : Nat
  die   : Nat
  va    : Nat
  asid  : Nat
  src   : Nat
  kind  : Nat                 -- R417 kind
  need  : Nat
  seq   : Nat                 -- flight or store it belongs to
  declined : Bool
  held  : Bool                -- holds its walker until a fault-queue entry frees
  walker : Option Nat         -- its walker of the die's 64, if it has one (R283)
  deriving DecidableEq, Repr

/-- A fault-queue entry (R417). -/
structure FqEntry where
  va : Nat
  asid : Nat
  src : Nat
  kind : Nat
  need : Nat
  walker : Nat
  walk : Nat
  deriving DecidableEq, Repr

/-- A video decoder at work (R437 to R441): its job's descriptor, space and ring, the frames output and poisoned, and for
a window the group instance, barrier and phase of its arrivals. -/
structure Decoder where
  job    : Nat
  asid   : Nat
  ring   : Nat
  shown  : Nat
  bad    : Nat
  arrive : Option (Nat × Nat × Nat)
  told   : Nat                -- frames whose arrival has been announced (R441)
  next   : Nat                -- the number of the next frame, hidden ones counted (R437)
  tiles  : Nat                -- tiles per frame, from the first one output (R441)
  badHdr : Bool               -- a sequence header outside R437 is in force (R442)
  began  : Nat                -- GTIME at which the frame was begun (R397)
  poison : List Nat           -- the poisoned frames, by number (R354)
  undelim : Nat               -- bytes passed over so far (R442)
  deriving DecidableEq, Repr

/-- A decoder ring (R438): control address, address space, the last wr noticed. -/
structure DecRing where
  asid : Nat
  ctl  : Nat
  wr   : Nat
  deriving DecidableEq, Repr

/-- A report to Toltar, the monitor or the management endpoint: a kind and its data. (DESIGN CHOICE, log 57) -/
structure Report where
  kind : Nat
  args : List Nat
  deriving DecidableEq, Repr

/-- A die. -/
structure Die where
  up      : Bool              -- the die is up; R449; false
  resetting : Bool            -- its partition is being reset; R428; false
  slices  : Nat               -- enabled L2 slices; R428, R443; 64
  lost    : List Nat          -- cores mapped out after their crossbar ports failed; R428; none
  clkBase : Nat               -- package clk at which the partition left reset; R42 CLOCK; 0
  tlb     : List TlbEntry     -- last-level TLB; 16,384 entries; R283; empty
  wcache  : List WalkCached   -- walk caches, non-leaf entries of levels 4 to 1; R283; empty
  fq      : NMap FqEntry      -- fault queue; 32 entries; R417; empty
  launchq : List Event        -- device-launch queue; 64 commands; R208; empty
  deleg   : NMap Word         -- delegation table by 16 × plan + stage; 32 each; R384, R414; 0
  spaces  : NMap AsDescriptor -- address-space descriptors; R413; none
  pinned  : Nat               -- pinned lines in use in each slice; R335; 0
  rings   : NMap DecRing      -- decoder rings; 16; R438; none
  decs    : NMap Decoder      -- decoders at work; 4; R437; none
  decNext : Nat               -- decoder ring served next; R438; 0
  duties  : NMap Nat          -- duty registers: owner plus one; R421; none
  toltarq : List Report       -- traps, SVCs and escalations not yet delivered, in order of occurrence: the first 256 in the die's queue, the rest at their sources; R423; empty
  sram    : Memory            -- supervisor SRAM; 2 MiB; R401; 0
  mstate  : Word              -- MSTATE; 32; R448; 0
  mdev    : Word              -- MDEV; 32; R448; 0
  mdevSet : Bool              -- MDEV has been written; R450; false
  mbudget : Word              -- MBUDGET; 32; R448; 600 W
  mtemp   : Word              -- MTEMP; 32; R448; 0
  mpower  : Word              -- MPOWER; 32; R448; 0
  events  : List Nat          -- unread MEVENT codes, oldest first; R448; none
  withheld : Nat              -- sixteenths of clk in which issue is withheld; R446; 0
  thermal : Bool              -- throttling on temperature; R447; false
  deriving DecidableEq, Repr

/-- A pipe entry (R336, R338, R397). -/
structure PipeEntry where
  seq     : Nat
  slot    : Nat
  status  : Nat
  state   : Nat               -- 0 RESERVED, 1 COMMITTED, 2 ACQUIRED, 3 released and waiting for lower sequences
  spilled : Option Nat        -- the spill entry it lives in
  wasSpilled : Bool
  producer : Nat
  consumer : Nat
  holder  : Nat               -- the warp that holds it, reserved or acquired
  stamp   : Nat               -- address for its stamp record, 0 for none
  reserve : Nat               -- GTIME of the reservation
  offs    : List Nat          -- the eight stamp offsets
  restarted : Bool
  bad     : Bool              -- an uncorrectable error of its pinned slot (R286)
  payload : Memory
  deriving DecidableEq, Repr

/-- A pipe operation accepted and not yet performed (R219). -/
structure PipeOp where
  kind  : Nat                 -- 0 PRSV, 1 PCMT, 2 PACQ, 3 PREL, 4 PPOLL, 5 PCLOSE
  warp  : Nat                 -- the issuer's name, or a decoder's source number
  src   : Nat                 -- the issuer's source number at acceptance (R297, R336)
  stage : Nat                 -- the issuer's stage
  reg   : Nat
  wid   : Nat
  handle : Nat
  core  : Nat
  seqNo : Option Nat          -- the sequence a PACQ was assigned, or the entry's of a PCMT or PREL
  wait  : Await               -- the warp's earlier stores (R224, R251)
  tces  : List Nat            -- tokens of earlier copies into the slot
  order : Nat                 -- for a PRSV, its number among the plan's PRSVs (R336)
  time  : Nat                 -- GTIME of its acceptance; R348
  status : Nat                -- the status a PCMT commits
  deriving DecidableEq, Repr

/-- A pipe of a plan (R334 to R343). -/
structure PipeSt where
  src     : Nat               -- producer stage
  dst     : Nat               -- consumer stage
  depth   : Nat
  bytes   : Nat
  rows    : Nat
  cols    : Nat
  fmt     : Nat
  remote  : Option (Nat × Bool)   -- peer device, and whether this plan holds the consumer end
  die     : Nat
  slice0  : Nat
  spill   : Nat
  spillN  : Nat
  spillUse : NMap Bool
  nextP   : Nat               -- the producer's next sequence; 64; R340; 0
  nextC   : Nat               -- the consumer's next sequence; 64; R340; 0
  cHoles  : List Nat          -- sequences given back by PACQs that left unfilled, rising; R225; none
  released : NMap Nat         -- per slot, the highest sequence that has vacated it, plus one; R340; none
  lowDone : Nat               -- every sequence below has been released or spilled; R338; 0
  entries : List PipeEntry    -- unvacated entries, by sequence
  ops     : List PipeOp       -- operations in acceptance order
  pClosed : Bool
  cClosed : Bool
  matched : Bool              -- a place-1 pipe has met its peer (R342)
  deriving DecidableEq, Repr

/-- A stage of a running plan (R18, R317). -/
structure Stage where
  cbase  : Nat
  entry  : Nat
  trapbase : Nat
  gtab   : Nat
  oring  : Nat
  oringsz : Nat
  cmin   : Nat
  cinit  : Nat
  cmax   : Nat
  warps  : Nat
  prio   : Nat
  vregs  : Nat
  sregs  : Nat
  l1     : Nat
  spad   : Nat
  stash  : Nat
  windows : Nat
  dies   : Nat
  table  : List (Nat × Nat × Nat)   -- group table: kind, cores, members (R319)
  unit   : Nat                -- R322
  cores  : List Nat           -- cores, most recently placed last (R18, R326)
  ring   : List Record        -- overflow ring, oldest first; R328
  ringN  : Nat                -- records ever put in the ring: the next place is this modulo its size; R328
  placedN : Nat               -- warps per core placed; R323
  ended  : Bool
  lastFill : Nat              -- GTIME of its last pipe token fill; R348
  deriving DecidableEq, Repr

/-- A group instance (R16, R17, R324): table index, member warps in rank order of their cores, cores in rank order. -/
structure GroupInst where
  plan    : Nat
  stage   : Nat
  index   : Nat
  spread  : Bool
  cores   : List Nat
  members : List Nat          -- source numbers, retired warps removed (R15, R16)
  phases  : NMap Nat          -- phase number of barriers 0 to 15; R203; 0
  arrived : NMap (List Nat)   -- arrival sets of the current phases; R203; empty
  engines : NMap Nat          -- engine arrivals announced and not delivered, by 16 × phase + barrier; R203; 0
  deriving DecidableEq, Repr

inductive PlanState where
  | waitSlot | waitCores | running | stopping | stopped | ending
  deriving DecidableEq, Repr

/-- An edge of a probe (R349): the waiting stage (device, plan slot, index), the pipe, the kind of wait, the sequence. -/
structure ProbeEdge where
  dev   : Nat
  plan  : Nat
  stage : Nat
  pipe  : Nat
  kind  : Nat
  seq   : Nat
  deriving DecidableEq, Repr

/-- A drain (R350): its position among the full pipes, whether this round has spilled, the GTIME of a spill not yet judged, and
whether a peer's answer is awaited. -/
structure Drain where
  pos   : Nat
  any   : Bool
  last  : Option Nat
  asked : Bool
  deriving DecidableEq, Repr

/-- A plan (R316): in a slot, or waiting for one. -/
structure Plan where
  state   : PlanState
  asid    : Nat
  addr    : Nat               -- the record's address, for a restart
  args    : List Word
  queue   : Nat               -- the queue or launch queue whose command started it
  remote  : Bool              -- completion writes at DOM scope
  hi      : Nat
  lo      : Nat
  epoch   : Nat
  window  : Nat
  cword   : Nat
  sring   : Nat
  sringsz : Nat
  stages  : List Stage
  pipes   : NMap PipeSt
  stamps  : Nat               -- PRSVs accepted, for the stamp ring (R336)
  move    : Option (Nat × Nat × List Nat)   -- deckle move: from, to, the unit's cores (R326)
  restart : Bool
  aborted : Bool
  terminated : Bool           -- a warp of it was terminated by Toltar (R385)
  dropped : Nat
  order   : Nat               -- order of starting
  epochAt : Nat               -- GTIME at which the current deckle epoch ends; R325
  probe   : Option (List ProbeEdge)   -- the cycle a deadlock probe has found (R349)
  drain    : Option Drain     -- a drain under way (R350)
  reported : Option Nat       -- GTIME of the last deadlock report
  quiet    : Nat              -- GTIME before which no report is repeated (R349); 0
  far      : List FarStage    -- what the peers' Toltars last said of their stages (R349); empty
  unresolved : List (List ProbeEdge)   -- cycles recorded as unresolved (R350)
  single  : Bool              -- started by STAGE_LAUNCH
  deriving DecidableEq, Repr

/-- A queue as the HQS holds it in a slot (R307). -/
structure HqSlot where
  queue  : Nat
  base   : Nat
  lgsize : Nat
  prio   : Nat
  state  : Nat
  err    : Nat
  asid   : Nat
  cmds   : Nat
  key    : Nat
  slice  : Nat
  devfed : Bool
  remote : Bool
  rd     : Nat
  wr     : Nat
  ctr    : Nat
  user   : Nat
  loaded : Nat                -- GTIME of loading; R308
  order  : Nat                -- order of loading
  expired : Bool              -- its slice has run out since it was loaded; R308
  feat    : List Word         -- its accepted feature words; R314
  deriving DecidableEq, Repr

/-- Commands of a queue that have started and not completed (R313). -/
structure QueueWork where
  queue  : Nat
  order  : Nat
  instr  : Event
  deriving DecidableEq, Repr

/-- Where a supervisor pair stands (R401, R422). -/
inductive PairState where
  | spare | active | failed | retired
  deriving DecidableEq, Repr

/-- RISC-V privilege modes (R402). -/
inductive SvMode where
  | u | s | m
  deriving DecidableEq, Repr

/-- A journal record (R420): what changes, whether the record stands in both copies, whether the change is visible.
(DESIGN CHOICE, log 53) -/
structure JournalRec where
  kind : Nat
  args : List Nat
  mirrored : Bool
  applied : Bool
  deriving DecidableEq, Repr

/-- A sleeping SWAIT (R408): its word's physical address, GTIME of its start, rd, comparison, value compared with. -/
structure SwaitJob where
  pa    : Nat
  start : Nat
  rd    : Nat
  cmp   : Nat
  ref   : Nat
  deriving DecidableEq, Repr

/-- A supervisor pair: one RV64 hart (R401). -/
structure Pair where
  state  : PairState          -- R401, R422; pairs 0 to 2 active, 3 spare
  x      : NMap DWord         -- x1 to x31; 64 each; R402; 0
  fregs  : NMap DWord         -- f0 to f31; 64 each; R402; 0
  pc     : DWord              -- program counter; 64; R402; 0
  mode   : SvMode             -- privilege mode; R402; M
  csr    : NMap DWord         -- CSRs by number; 64 each; R402, R405; 0
  wait   : Option SwaitJob    -- a sleeping SWAIT; R408; none
  resv   : Option (Nat × Nat) -- load-reserve reservation: physical address, version of its sector; R402; none
  lastKick : Nat              -- GTIME of the last watchdog kick; R422; 0
  fails  : List Nat           -- GTIMEs of its failures; R422; none
  journal : List JournalRec   -- its journal; R420; empty
  mirror : Nat                -- records mirrored into HBM4E; R420; 0
  ckpt   : Nat                -- checkpoints written; R420; 0
  lost   : List (Nat × Nat)   -- duties (die and duty) it held when it failed, not yet taken over; R422; none
  selfTest : Bool             -- reset and being tested; R422; false
  orphan : Bool               -- failed, and no pair has taken over; R422; false
  deriving DecidableEq, Repr

/-- A UALink port (R433). (DESIGN CHOICE, log 49) -/
structure UaPort where
  nextSeq : Nat
  replay  : List (Nat × Bool)   -- unacknowledged flits: sequence number, source entries held; 256
  retrains : Nat
  off      : Bool                -- disabled: a duplicate DEVICE (R450)
  deriving DecidableEq, Repr
/-- A port with nothing sent. -/
def UaPort.fresh : UaPort := ⟨0, [], 0, false⟩

/-- The latencies of the package that the spec does not state, in clk. (DESIGN CHOICE, log 2) -/
structure Lat where
  hop    : Nat                -- a message to a home or to another core
  miss   : Nat                -- a load that misses the L1
  walk   : Nat                -- a table walk
  tce    : Nat                -- a tensor copy
  pipe   : Nat                -- a pipe operation
  toltar : Nat                -- a service of Toltar
  deriving DecidableEq, Repr

/-- The issuing instruction's context, from the group's issue to its last instruction (R83): the warp, the path's
lanes, the instruction's address and words, the address of the word after the group, the group's first word, and what
stood before the group: the empty bits, FPCTL and MCTL. -/
structure IssueCtx where
  warp  : Nat
  path  : LaneMask
  pc    : Nat
  next  : Nat
  first : Nat
  w0    : Word
  w1    : Word
  vE    : NMap LaneMask
  sE    : NMap Bool
  fpctl : Word
  mctl  : Word
  deriving DecidableEq, Repr

/-- The machine. -/
structure State where
  clk      : Nat              -- core clk since power good; 64; R445; 0
  gtOff    : Int              -- GTIME less clk × 4 / 7, in ns; R434; 0
  device   : Nat              -- DEVICE; 10; R42, R448; 0
  nDies    : Nat              -- dies of the part; R443, R444; 4
  warps    : NMap Warp        -- warps by source number; R14, R297; none
  saved    : List Saved       -- pre-empted warps; R381; none
  cores    : NMap Core        -- cores by 96 × die + core; R443; fresh
  dies     : NMap Die         -- dies 0 to 3; R443; fresh
  plans    : NMap Plan        -- plan slots 0 to 255; R19; empty
  waitPlans : List Plan       -- plans waiting for a slot, in start order; R321; none
  groups   : NMap GroupInst   -- group instances; R324; none
  hbm      : Memory           -- HBM4E of this device, and memory of other devices, by physical key; R271, R450; 0
  l2       : NMap L2Line      -- L2 lines by line address; R275; none
  words    : NMap WordState   -- word states at their homes, by word key; R272; UNREG
  vers     : NMap Nat         -- version counters by 32-byte sector key; R272; 0
  homeBad  : NMap Bool        -- bytes of L2 or HBM4E with an uncorrectable error; R286; none
  corrected : NMap Nat        -- corrected errors counted for Toltar, by what held them; R277, R286; 0
  msgs     : List Msg         -- messages on their way to homes; R272; none
  walks    : List Walk        -- translation misses being resolved; R284; none
  queues   : NMap Nat         -- Toltar's queue directory: shadow addresses; R304; none
  slots    : NMap HqSlot      -- hardware slots 0 to 63; R307; empty
  work     : List QueueWork   -- commands started and not completed; R313; none
  attached : List Nat         -- queues whose ATTACH has been done; R306; none
  dispatchq : NMap (List (List Byte))   -- dispatch buffers, 16 commands each; R409; empty
  keys     : NMap (List Byte) -- notify keys by slot 0 to 254; 256 each; R416; empty
  notifyErr : Nat             -- the device's notify-error counter; R311; 0
  pairs    : NMap Pair        -- supervisor pairs by mhartid 0 to 15; R401; reset
  hartTurn : Option Nat       -- the pair whose instruction runs next (the model's own); none
  feat     : List Word        -- FEAT0 to FEAT3; 32 each; R449; as R449
  bootm    : List Byte        -- boot measurement; 256; R411; 0
  runm     : NMap (List Byte) -- run-time measurements by address space; 256 each; R411; 0
  svn      : Nat              -- svn of the running Toltar; 32; R412; 0
  pgood    : Bool             -- power is good; R450; false
  flash    : Memory           -- SPI NOR flash; R410; 0
  pool     : List Nat         -- Toltar's free 64 KiB pages, by number; R418; none
  ports    : NMap UaPort      -- UALink ports; 16; R431; idle
  d2d      : NMap Nat         -- die-to-die links by 4 × a + b, a < b: 1 down, else GTIME of the failure plus 2; R430; 0 up
  routes   : NMap (List Nat)  -- ports that the route table enables, by device; R431; every port
  silent   : NMap Nat         -- devices that do not answer, with the GTIME since; R433; none
  master   : Nat              -- the time master; R434; 0
  leads    : Bool             -- this device sends as the master; R435; false
  masterTime : Nat            -- GTIME at which the master was last heard; R435; 0
  hqTurn   : NMap Nat         -- the slot that last started a command, by prio; R309; none
  devRings : NMap DevRing     -- what the deviation rings count, by address space; R365; zero
  lastTime : Nat              -- GTIME of the last time message; R434; 0
  slew     : Int              -- ns of correction still to be slewed; R434; 0
  locked   : Bool             -- locked to the master; R435; false
  ueWins   : List (Nat × Nat × Nat × Bool × Bool)   -- registered windows: space, base, length, r, w; R436; none
  tenantLog : NMap (List Byte)   -- tenant logs by address space; R418; empty
  images   : List (Nat × List Byte)   -- core images with their address space, oldest first; R399; none
  dumpTo   : NMap (Nat × Nat) -- dump settings by address space: destination, and where in HBM4E the image goes; R399; none
  fallen   : List (Nat × Nat × Nat × Nat × List Byte)   -- address space, source, cause, FADDR and type-1 note of warps that faulted in handler mode, for the image; R399; none
  foreign  : Nat              -- requests of devices that are not BR880, dropped; R432; 0
  newSpaces : NMap AsDescriptor -- changed descriptors that wait for an invalidation; R413; none
  stopped  : List Nat         -- address spaces stopped for a dump; R399; none
  reports  : List Report      -- what Toltar, the monitor and peers have been told, newest first
  totals   : NMap Nat         -- package-wide event counts of R396 by event code; 0
  nextId   : Nat              -- the next identifier (the model's own); 0
  free     : Nat              -- free values drawn so far (the model's own); 0
  beat     : Nat              -- phase of the package heartbeat, in clk (the model's own); R173; 0
  lat      : Lat              -- unstated latencies (the model's own)
  agenda   : List (Nat × Event)   -- events and outside inputs with the clk they are due (the model's own); empty
  issue    : Option IssueCtx  -- the group being issued (the model's own); none
  pend     : List (Instr × Nat × Word × Word)   -- rest of the group: instruction, pc, words; none
  second   : Option (Nat × LaneMask)   -- a secondary path still to issue in this clk; R38; none
  partDone : BitVec 4096      -- partitions that have selected in this clk, by 8 × core + partition; R36; 0
  deriving DecidableEq, Repr

/-- Why a step stops without a next state. -/
inductive Fault where
  /-- Raised by a supervisor access to a physical address that is neither package memory nor SRAM (R271, R401): safe,
  the hardware's behaviour there is not given (DESIGN CHOICE, log 45). -/
  | noSuchAddress
  deriving DecidableEq, Repr

/-- Why an instruction is turned away. -/
inductive Refusal where
  /-- An instruction the model gives no meaning: safe. -/
  | notModelled (mnemonic : String)
  deriving DecidableEq, Repr

/-- A matrix context that no stage owns (R361). -/
def RmeCtx.fresh : RmeCtx :=
  { tag := none, bmac := [], scale := [], mpois := [], raw := [], rawN := 0, rawLost := false, bind := none, bindReg := none, panel := none,
    accs := [], exps := [], drains := 0, queue := [], lastK := 0, armed := false, log := [], logged := 0, late := [] }

/-- A debug block with everything off. -/
def DebugBlock.fresh : DebugBlock :=
  { j := 0, slot := 0, lanes := [], base := 0, size := 0, head := 0, traced := [], trig := .disarmed,
    read := 0, skipped := 0, start := .never, stop := .never, reqStart := false, reqStop := false, stops := [], stepLane := 0 }

/-- A core that belongs to no stage (R265, R267). -/
def Core.fresh : Core :=
  { owner := none, revoked := false, placed := 0, l1size := 262144, spad := 262144, stash := 0, windows := 0,
    opst := [], eccBad := [], wins := [], slines := [], l1 := [], l1Bad := [], tlb := [], icache := [], loops := [],
    rowFree := [],
    chest := [], bins := [], rme := [], portLast := 0, arrLast := 0, tce := [], sumq := [], portBusy := none,
    arrBusy := none, shadow := none, mcpAddr := 0, mcpCmd := 0, mcpStat := 0, dbg := DebugBlock.fresh }

/-- A die before bring-up (R448, R450). (DESIGN CHOICE, log 7) -/
def Die.fresh : Die :=
  { up := false, resetting := false, slices := 64, lost := [], clkBase := 0, tlb := [], wcache := [], fq := [], launchq := [],
    deleg := [], spaces := [], pinned := 0, rings := [], decs := [], decNext := 0, duties := [], toltarq := [], sram := [],
    mstate := 0, mdev := 0, mdevSet := false, mbudget := 600, mtemp := 0, mpower := 0, events := [], withheld := 0, thermal := false }

/-- A supervisor pair at reset (R401): M mode at address 0. (PRESUMED, log 6) -/
def Pair.fresh (st : PairState) : Pair :=
  { state := st, x := [], fregs := [], pc := 0, mode := .m, csr := [], wait := none, resv := none, lastKick := 0, fails := [],
    journal := [], mirror := 0, ckpt := 0, lost := [], selfTest := false, orphan := false }

/-- The CAUSE register of a warp that has taken no trap (R374). -/
def causeReset : Word := 0x0000FF00

/-- A warp with nothing in it: the values of R20 that do not come from its stage. -/
def Warp.fresh : Warp :=
  { asid := 0, plan := 0, stage := 0, restart := false, localIdx := none, nv := 1, ns := 1, codeBase := 0, groups := 0,
    insts := [], pc := List.replicate 32 0, active := 0, waiting := 0, exited := 0xFFFFFFFF,
    point := List.replicate 32 0, cmask := List.replicate 32 0, age := List.replicate 32 0, vreg := [], vE := [],
    sreg := [], sE := [], pred := [], upred := [], tile := [], busy := [], fpstat := List.replicate 32 0, prio := 0,
    fpctl := 0, trapbase := 0, tmode := 0, mctl := 0, mstat := 0, cause := causeReset, faddr := 0, watch := [],
    wauto := 0, storeq := [], unacked := [], flights := [], nextSeq := 0, relMark := none, tokens := [], holds := [],
    sfq := [], pend := [], wake := 0, yielding := false, yieldEnd := 0, aged := 0, laneWake := List.replicate 32 0, lastIssue := 0, readySince := none,
    boost := false, barArr := [], preemptReq := false, termReq := false, byToltar := false, captured := false,
    toltarPending := false, nopreEnd := 0, preTrapSeq := 0, entryExited := 0, entryPc := [], entryWaiting := 0,
    entryNrep := 0, entryRep := [], entryNsf := 0, saveArea := 0, formed := false, svc := [], ctr := [], undo := none,
    undoN := 0, stopDone := [], issued := 0, preRep := none, ffmas := [], putOff := none, passed := 0, moved := 0, isolated := [] }

/-- The package right after reset: nothing launched, every store zero (R267, R450), the feature words of R449 with
nothing in service yet, pairs 0 to 2 of each die active and pair 3 the spare (R401). (DESIGN CHOICE, log 2 and 5) -/
def State.reset : State :=
  { clk := 0, gtOff := 0, device := 0, nDies := 4, warps := [], saved := [], cores := [],
    dies := [(0, Die.fresh), (1, Die.fresh), (2, Die.fresh), (3, Die.fresh)], plans := [], waitPlans := [],
    groups := [], hbm := [], l2 := [], words := [], vers := [], homeBad := [], corrected := [], msgs := [], walks := [], queues := [],
    slots := [], work := [], attached := [], dispatchq := [], keys := [], notifyErr := 0,
    pairs := (List.range 16).map (fun i => (i, Pair.fresh (if i % 4 = 3 then .spare else .active))),
    hartTurn := none, feat := [0xFF, 0, 0, BitVec.ofNat 32 Config.siliconRev.toNat], bootm := List.replicate 32 0, runm := [], svn := 0, pgood := false, flash := [], pool := [],
    ports := [], d2d := [], routes := [], silent := [], master := 0, leads := false, masterTime := 0, hqTurn := [], devRings := [], lastTime := 0, slew := 0, locked := false, ueWins := [], tenantLog := [], images := [], dumpTo := [], fallen := [],
    foreign := 0, newSpaces := [], stopped := [], reports := [], totals := [], nextId := 0, free := 0, beat := 0,
    lat := { hop := 40, miss := 400, walk := 400, tce := 1000, pipe := 40, toltar := 2000 }, agenda := [],
    issue := none, pend := [], second := none, partDone := 0 }
/-- A BR880-D right after reset (R1, R444): one die, whose DIE reads 0, with its four pairs. -/
def State.resetD : State :=
  { State.reset with
    nDies := 1, dies := [(0, Die.fresh)], pairs := (List.range 4).map (fun i => (i, Pair.fresh (if i = 3 then .spare else .active))) }

end Sys2Proof.Machine
end

