-- ==== Sys2Proof/Machine/Maps.lean ====
section
/-!
DEFINITION. Maps from numbers, memory and lane vectors: the one place where each is read and written. A map keeps its
keys strictly rising; memory in addition lists no zero byte, so that equal memories are equal data.
-/

namespace Sys2Proof.Machine

/-- The entry of a key, if listed. -/
def mfind {α : Type} (m : NMap α) (k : Nat) : Option α :=
  match m with
  | [] => none
  | (j, v) :: r => if j = k then some v else mfind r k

/-- The entry of a key, or what an unlisted key reads as. -/
def mget {α : Type} (m : NMap α) (k : Nat) (d : α) : α := (mfind m k).getD d

/-- Setting the entry of a key. -/
def mset {α : Type} (m : NMap α) (k : Nat) (v : α) : NMap α :=
  match m with
  | [] => [(k, v)]
  | (j, w) :: r => if k < j then (k, v) :: (j, w) :: r else if k = j then (k, v) :: r else (j, w) :: mset r k v

/-- Removing the entry of a key. -/
def mdel {α : Type} (m : NMap α) (k : Nat) : NMap α :=
  match m with
  | [] => []
  | (j, w) :: r => if j = k then mdel r k else (j, w) :: mdel r k

/-- Setting an entry, removing it where the value is the default. -/
def mput {α : Type} [DecidableEq α] (m : NMap α) (k : Nat) (v d : α) : NMap α :=
  if v = d then mdel m k else mset m k v

/-- Changing the entry of a key, if listed. -/
def mmod {α : Type} (m : NMap α) (k : Nat) (f : α → α) : NMap α :=
  match m with
  | [] => []
  | (j, w) :: r => if j = k then (j, f w) :: r else (j, w) :: mmod r k f

/-! Memory. -/

/-- What a byte reads as: zero where nothing is listed (R450: HBM4E is zeroed at bring-up). (DESIGN CHOICE, log 5) -/
def memByte (m : Memory) (a : Nat) : Byte := mget m a 0

/-- Writing one byte; writing zero removes the entry. -/
def memPut (m : Memory) (a : Nat) (b : Byte) : Memory := mput m a b 0

/-- The bytes from `a`. -/
def memRead (m : Memory) (a : Nat) (n : Nat) : List Byte :=
  match n with
  | 0 => []
  | k + 1 => memByte m a :: memRead m (a + 1) k

/-- Writing bytes from `a`. -/
def memWrite (m : Memory) (a : Nat) (bs : List Byte) : Memory :=
  match bs with
  | [] => m
  | b :: r => memWrite (memPut m a b) (a + 1) r

/-- The listed bytes from `a` to `a + n − 1`, renumbered from zero. -/
def memSlice (m : Memory) (a n : Nat) : Memory :=
  match m with
  | [] => []
  | (j, b) :: r => if j < a then memSlice r a n else if j < a + n then (j - a, b) :: memSlice r a n else []

/-- Whether keys rise strictly from above `lo`. -/
def risingFrom {α : Type} (lo : Nat) (m : NMap α) : Bool :=
  match m with
  | [] => true
  | (j, _) :: r => decide (lo ≤ j) && risingFrom (j + 1) r

/-- The canonical form of memory: strictly rising addresses, no zero byte listed. -/
def Memory.wf (m : Memory) : Bool := risingFrom 0 m && m.all (fun c => c.2 != 0)

/-- A little-endian number from bytes (R5). -/
def leNat (bs : List Byte) : Nat :=
  match bs with
  | [] => 0
  | b :: r => b.toNat + 256 * leNat r

/-- The low `n` bytes of a number, little-endian (R5). -/
def leBytes (n x : Nat) : List Byte :=
  match n with
  | 0 => []
  | k + 1 => BitVec.ofNat 8 x :: leBytes k (x / 256)

/-- Bytes `i` to `i + n − 1` of a record, as a number. -/
def field (bs : List Byte) (i n : Nat) : Nat := leNat ((bs.drop i).take n)

/-- A byte list of length `n`: cut or padded with zeros. -/
def padTo (n : Nat) (bs : List Byte) : List Byte := (bs ++ List.replicate n 0).take n

/-! Lanes. -/

/-- The lane numbers in ascending order. -/
def allLanes : List Nat := List.range 32

/-- The lanes of a mask in ascending order. -/
def lanesOf (m : LaneMask) : List Nat := allLanes.filter (fun l => m.getLsbD l)

/-- The value of lane `l`. -/
def laneGet (v : LaneVec) (l : Nat) : Word := v.getD l 0

/-- A vector from a function of the lane. -/
def laneVec (f : Nat → Word) : LaneVec := allLanes.map f

/-- The mask of the lanes that satisfy a test. -/
def maskOf (f : Nat → Bool) : LaneMask := allLanes.foldl (fun m l => if f l then m ||| BitVec.ofNat 32 (2 ^ l) else m) 0

/-- The mask of one lane. -/
def laneBit (l : Nat) : LaneMask := BitVec.ofNat 32 (2 ^ l)

/-- `new` in the lanes of the mask, `old` elsewhere. -/
def merge {α : Type} (m : LaneMask) (new old : List α) (d : α) : List α :=
  allLanes.map (fun l => if m.getLsbD l then new.getD l d else old.getD l d)

/-- The number of lanes of a mask. -/
def laneCount (m : LaneMask) : Nat := (lanesOf m).length

/-- The vector of zeros. -/
def zeroVec : LaneVec := List.replicate 32 0

/-- Inserting an event in due order, after those of the same clk. (DESIGN CHOICE, log 1) -/
def agendaPut (l : List (Nat × Event)) (t : Nat) (i : Event) : List (Nat × Event) :=
  match l with
  | [] => [(t, i)]
  | (u, j) :: r => if u ≤ t then (u, j) :: agendaPut r t i else (t, i) :: (u, j) :: r

end Sys2Proof.Machine
end

