-- ==== Sys2Proof/Machine/Access.lean ====
section
/-!
DEFINITION. Access to the parts of the state: warps, cores, dies and plans by number, registers with their empty bits
(R27, R28), predicates (R24), time (R445), the agenda, identifiers, free values and reports.
-/

namespace Sys2Proof.Machine

/-- The core, die, partition and slot of a warp's source number (R297). -/
def coreOf (w : Nat) : Nat := w / 128
def dieOf (w : Nat) : Nat := w / 12288
def partOf (w : Nat) : Nat := w / 16 % 8
def slotOf (w : Nat) : Nat := w % 16
def dieOfCore (c : Nat) : Nat := c / 96

def State.warpD (s : State) (w : Nat) : Warp := mget s.warps w Warp.fresh
def State.setWarp (s : State) (w : Nat) (x : Warp) : State := { s with warps := mset s.warps w x }
def State.modWarp (s : State) (w : Nat) (f : Warp → Warp) : State := { s with warps := mmod s.warps w f }
def State.core (s : State) (c : Nat) : Core := mget s.cores c Core.fresh
def State.setCore (s : State) (c : Nat) (x : Core) : State := { s with cores := mset s.cores c x }
def State.modCore (s : State) (c : Nat) (f : Core → Core) : State := s.setCore c (f (s.core c))
def State.die (s : State) (d : Nat) : Die := mget s.dies d Die.fresh
def State.modDie (s : State) (d : Nat) (f : Die → Die) : State := { s with dies := mset s.dies d (f (s.die d)) }
def State.modPlan (s : State) (p : Nat) (f : Plan → Plan) : State := { s with plans := mmod s.plans p f }
def State.modGroup (s : State) (g : Nat) (f : GroupInst → GroupInst) : State := { s with groups := mmod s.groups g f }
def State.ctx (s : State) (c x : Nat) : RmeCtx := mget (s.core c).rme x RmeCtx.fresh
def State.modCtx (s : State) (c x : Nat) (f : RmeCtx → RmeCtx) : State :=
  s.modCore c (fun k => { k with rme := mset k.rme x (f (mget k.rme x RmeCtx.fresh)) })

/-- GTIME in ns: the core clock runs at 1.75 GHz (R445), steered by an offset (R434). -/
def State.gtime (s : State) : Nat := ((s.clk * 4 / 7 : Nat) + s.gtOff).toNat
/-- CLOCK of a die (R42): clk since its partition left reset. -/
def State.clock (s : State) (d : Nat) : Nat := s.clk - (s.die d).clkBase
/-- The clk at which `ns` nanoseconds from now have passed. -/
def clkOfNs (ns : Nat) : Nat := (ns * 7 + 3) / 4

/-- Putting an event on the agenda `n` clk from now. (DESIGN CHOICE, log 2) -/
def State.after (s : State) (n : Nat) (i : Event) : State := { s with agenda := agendaPut s.agenda (s.clk + n) i }
/-- An event due once `ns` nanoseconds of GTIME have passed (R7), however GTIME is slewed: it is looked at when they may
have passed at the earliest (R434), and `untilTime` puts it off for what is left. (DEDUCED, log 50) -/
def State.inTime (s : State) (ns : Nat) (i : Event) : State := s.after (max 1 (clkOfNs (ns * 1000 / 1001))) i
/-- An event found before its GTIME is looked at again, unless it already will be. -/
def State.untilTime (s : State) (t : Nat) (i : Event) : State :=
  if s.agenda.any (fun e => e.2 == i) then s else s.inTime (t - s.gtime) i
/-- An event that has no more reason to come. -/
def State.unsend (s : State) (i : Event) : State := { s with agenda := s.agenda.filter (fun e => e.2 != i) }
/-- Telling Toltar, the monitor or a peer. (DESIGN CHOICE, log 57) -/
def State.tell (s : State) (kind : Nat) (args : List Nat) : State := { s with reports := ⟨kind, args⟩ :: s.reports }
/-- A fresh identifier is `s.nextId`; this consumes it. -/
def State.usedId (s : State) : State := { s with nextId := s.nextId + 1 }
/-- An event counted package-wide (R396). (DEDUCED, log 21) -/
def State.countEv (s : State) (code n : Nat) : State := { s with totals := mput s.totals code (mget s.totals code 0 + n) 0 }

/-- An event counts in the started context-scoped sets of a warp (R396). (DEDUCED, log 21) -/
def countOwn (s : State) (w code n : Nat) : State :=
  let bump := fun (c : CounterSet) =>
    if c.started && !c.isGlobal && c.event == code then { c with count := min (c.count + n) (2 ^ 48 - 1) } else c
  s.modWarp w (fun x => { x with ctr := x.ctr.map (fun e => (e.1, bump e.2)) })
/-- An event of a warp counts there and package-wide (R396). (DEDUCED, log 21) -/
def countFor (s : State) (w code n : Nat) : State := (countOwn s w code n).countEv code n

/-! Registers. -/

/-- Lane `l` of vector register `r`. -/
def Warp.v (x : Warp) (r l : Nat) : Word := laneGet (mget x.vreg r zeroVec) l
/-- Uniform register `r`. -/
def Warp.s (x : Warp) (r : Nat) : Word := mget x.sreg r 0
/-- A value of `n` registers (one, or an even-aligned pair, R23) of lane `l`. -/
def Warp.vn (x : Warp) (n r l : Nat) : Nat :=
  if n = 2 then (x.v r l).toNat + 2 ^ 32 * (x.v (r + 1) l).toNat else (x.v r l).toNat
def Warp.sn (x : Warp) (n r : Nat) : Nat :=
  if n = 2 then (x.s r).toNat + 2 ^ 32 * (x.s (r + 1)).toNat else (x.s r).toNat
/-- A uniform pair as a 64-bit number. -/
def Warp.s64 (x : Warp) (r : Nat) : Nat := x.sn 2 r
/-- Predicates; p7 and q7 read as true (R24). -/
def Warp.p (x : Warp) (n : Nat) : LaneMask := if n = 7 then 0xFFFFFFFF else mget x.pred n 0
def Warp.q (x : Warp) (n : Nat) : Bool := if n = 7 then true else mget x.upred n false
/-- The lanes in which a vector register is empty; whether a uniform register is (R27). -/
def vEmptyIn (vE : NMap LaneMask) (r : Nat) : LaneMask := mget vE r 0
def sEmptyIn (sE : NMap Bool) (r : Nat) : Bool := mget sE r false

/-- Setting the empty bits of a vector register. -/
def Warp.setVE (x : Warp) (r : Nat) (m : LaneMask) : Warp := { x with vE := mput x.vE r m 0 }
def Warp.setSE (x : Warp) (r : Nat) (e : Bool) : Warp := { x with sE := mput x.sE r e false }

/-- Emptying a destination at issue (R28). -/
def Warp.emptyDest (x : Warp) (d : RegWrite) : Warp :=
  match d with
  | .v r m _ => x.setVE r (mget x.vE r 0 ||| m)
  | .s r _ => x.setSE r true
  | .p .. | .q .. => x

/-- Writing a destination and setting it full (R28); a write to p7 or q7 is discarded (R24). -/
def Warp.writeDest (x : Warp) (d : RegWrite) : Warp :=
  match d with
  | .v r m vals =>
    { x with vreg := mput x.vreg r (merge m vals (mget x.vreg r zeroVec) 0) zeroVec,
             vE := mput x.vE r (mget x.vE r 0 &&& ~~~m) 0 }
  | .s r v => { x with sreg := mput x.sreg r v 0, sE := mput x.sE r false false }
  | .p n m vals => if n = 7 then x else { x with pred := mput x.pred n ((x.p n &&& ~~~m) ||| (vals &&& m)) 0 }
  | .q n b => if n = 7 then x else { x with upred := mput x.upred n b false }

/-- Setting a destination full without writing it. -/
def Warp.fillDest (x : Warp) (d : RegWrite) : Warp :=
  match d with
  | .v r m _ => x.setVE r (mget x.vE r 0 &&& ~~~m)
  | .s r _ => x.setSE r false
  | .p .. | .q .. => x

def Warp.writeAll (x : Warp) (ds : List RegWrite) : Warp := ds.foldl Warp.writeDest x
def Warp.emptyAll (x : Warp) (ds : List RegWrite) : Warp := ds.foldl Warp.emptyDest x

/-- Writing a vector value of `n` registers. -/
def vWrites (n r : Nat) (m : LaneMask) (f : Nat → Nat) : List RegWrite :=
  if n = 2 then [.v r m (laneVec (fun l => BitVec.ofNat 32 (f l))),
    .v (r + 1) m (laneVec (fun l => BitVec.ofNat 32 (f l / 2 ^ 32)))]
  else [.v r m (laneVec (fun l => BitVec.ofNat 32 (f l)))]
def sWrites (n r v : Nat) : List RegWrite :=
  if n = 2 then [.s r (BitVec.ofNat 32 v), .s (r + 1) (BitVec.ofNat 32 (v / 2 ^ 32))] else [.s r (BitVec.ofNat 32 v)]

/-- The lanes in which a write to predicate `n` is pending (R27: a reader waits invisibly); a discarded write to p7 or q7
is none (R24, R28). -/
def Warp.pendingP (x : Warp) (n : Nat) : LaneMask :=
  if n = 7 then 0 else x.flights.foldl (fun m f => f.writes.foldl (fun m d => match d with
    | .p k mask _ => if k = n then m ||| mask else m
    | _ => m) m) 0
def Warp.pendingQ (x : Warp) (n : Nat) : Bool :=
  n != 7 && x.flights.any (fun f => f.writes.any (fun d => match d with
    | .q k _ => k == n
    | _ => false))

/-- FPSTAT of a lane, and setting flags in it (R52). -/
def Warp.addFlags (x : Warp) (m : LaneMask) (fl : List Nat) : Warp :=
  { x with fpstat := merge m (allLanes.map (fun l => x.fpstat.getD l 0 ||| fl.getD l 0)) x.fpstat 0 }

/-- Handler mode (R373). -/
def Warp.handler (x : Warp) : Bool := x.tmode.getLsbD 0

/-- The warp with these lanes' program counters replaced. -/
def Warp.setPc (x : Warp) (m : LaneMask) (f : Nat → Nat) : Warp :=
  { x with pc := allLanes.map (fun l => if m.getLsbD l then f l else x.pc.getD l 0) }

/-- The lanes of the guard (R9, R133): a lane predicate's lanes, or all lanes or none by a uniform predicate. -/
def Warp.guardLanes (x : Warp) (g : Guard) : LaneMask :=
  match g with
  | .always => 0xFFFFFFFF
  | .lane p n => if n then ~~~(x.p p) else x.p p
  | .uni q n => if x.q q != n then 0xFFFFFFFF else 0

/-- The STAGE register (R42). -/
def Warp.stageReg (x : Warp) : Word :=
  BitVec.ofNat 32 (boolNat x.restart * 2 ^ 31 + x.plan % 256 * 16 + x.stage % 16)
/-- A warp's ownership tag (R361). -/
def Warp.tag (x : Warp) : Nat := x.asid * 4096 + x.plan % 256 * 16 + x.stage % 16

/-- The group instance of a slot, if valid (R42 GROUPS). -/
def Warp.group? (x : Warp) (slot : Nat) : Option Nat :=
  if x.groups.getLsbD (32 + slot) then x.insts[slot]? else none

end Sys2Proof.Machine
end

