-- ==== Sys2Proof/Machine/Mem.lean ====
section
/-!
DEFINITION. Memory below the instructions: physical keys and homes (R271, R281), HBM4E and L2 (R275, R277), word
states and versions (R272), the L1 (R268 to R270), translation (R278 to R283). What an access of a warp does is in
Ops.lean.
-/

namespace Sys2Proof.Machine

/-- A party that can produce a debug event (R386). -/
inductive Party where
  | warp (w : Nat)
  | tce (core : Nat)
  | context (core x : Nat)
  | pipeUnit (core : Nat)
  | summary (core : Nat)
  | smu (die slice : Nat)
  | decoder (die n : Nat)
  | hqs (die : Nat)
  | walkers (die : Nat)
  | supervisor (h : Nat)
/-- Its source number (R386): a warp's own; of the others 49,152 + 4,096 × die + i. -/
def Party.source (p : Party) : Nat :=
  let at_ := fun (die i : Nat) => 49152 + 4096 * die + i
  match p with
  | .warp w => w
  | .tce c => at_ (c / 96) (c % 96)
  | .context c x => at_ (c / 96) (96 + 2 * (c % 96) + x)
  | .pipeUnit c => at_ (c / 96) (288 + c % 96)
  | .summary c => at_ (c / 96) (384 + c % 96)
  | .smu d n => at_ d (480 + n)
  | .decoder d n => at_ d (544 + n)
  | .hqs d => at_ d 548
  | .walkers d => at_ d 549
  | .supervisor h => at_ (h / 4) (550 + h % 4)

/-- The key under which a byte of memory is held: its physical address, offset by the device for other devices. -/
def physKey (s : State) (dev pa : Nat) : Nat := if dev = s.device then pa else (dev + 1) * 2 ^ 54 + pa
/-- Whether a key names memory of this package. -/
def keyLocal (key : Nat) : Bool := decide (key < 2 ^ 54)

/-- Fold (R271): XOR of the consecutive `w`-bit groups of `x`. -/
def foldBits (w : Nat) : Nat → Nat → Nat
  | 0, _ => 0
  | n + 1, x => (x % 2 ^ w) ^^^ foldBits w n (x / 2 ^ w)
/-- The home die, stack, slice and pseudo-channel of a physical address (R271); a part of one die uses die 0 alone
(R444). -/
def homeDie (s : State) (pa : Nat) : Nat :=
  let g := natBits pa 38 12
  if s.nDies = 1 then 0 else (g % 4) ^^^ foldBits 2 14 (g / 8)
def homeStack (s : State) (pa : Nat) : Nat :=
  let g := natBits pa 38 12
  2 * homeDie s pa + ((g / 4 % 2) ^^^ foldBits 1 27 (g / 8))
def homeSlice (s : State) (pa : Nat) : Nat := 64 * homeDie s pa + foldBits 6 6 (natBits pa 38 7)
def homeChan (pa : Nat) : Nat := 16 * foldBits 5 6 (natBits pa 38 12 / 8) + natBits pa 11 8

/-- The bytes of a coherence grain (R268). -/
def grainBytes (g : Nat) : Nat := if g = 0 then 32 else if g = 1 then 128 else 512

/-! HBM4E and L2. -/

/-- A byte at its home: the L2 line's, or HBM4E's. -/
def homeByte (s : State) (key : Nat) : Byte :=
  match mfind s.l2 (key / 128) with
  | some ln => memByte ln.data (key % 128)
  | none => memByte s.hbm key

/-- A line's dirty sectors go to HBM4E, and the line leaves its slice (R275). -/
def writeLine (s : State) (line : Nat) (ln : L2Line) : State :=
  { s with hbm := (List.range 128).foldl (fun m i =>
      if ln.dirty.getLsbD (i / 32) then memPut m (line * 128 + i) (memByte ln.data i) else m) s.hbm }
/-- A version advances (R272): the sector's counter. -/
def bumpVer (s : State) (key : Nat) : State := { s with vers := mset s.vers (key / 32) (mget s.vers (key / 32) 0 + 1) }
/-- The versions of every sector that bytes `key` to `key + n − 1` touch. (DEDUCED, log 24) -/
def bumpVers (s : State) (key n : Nat) : State :=
  (List.range ((key + n - 1) / 32 + 1 - key / 32)).foldl (fun s i => bumpVer s ((key / 32 + i) * 32)) s
/-- The version of the grain of size `g` that holds a byte: the sum of its sectors' counters. (DEDUCED, log 24) -/
def grainVer (s : State) (g key : Nat) : Nat :=
  let n := grainBytes g / 32
  let b := key / grainBytes g * n
  (List.range n).foldl (fun a i => a + mget s.vers (b + i) 0) 0

/-! Registered words (R272). -/

/-- The core that has a word registered. -/
def registrant (s : State) (key : Nat) : Option Nat :=
  match mfind s.words (key / 4) with
  | some (.reg c) => some c
  | some (.regrd c) => some c
  | none => none

/-- The stash lines of a core that hold a physical line: two windows may map one (R184). -/
def stashLinesOf (k : Core) (key : Nat) : NMap L1Tag := k.slines.filter (fun e => e.2.dev == key / 128 * 128)
/-- A change of each of them. -/
def modStash (k : Core) (key : Nat) (f : L1Tag → L1Tag) : Core :=
  { k with slines := k.slines.map (fun e => if e.2.dev = key / 128 * 128 then (e.1, f e.2) else e) }

/-- Whether a tag holds a byte of a registered word with its value: a word whose registration is on its way has one only
for the bytes written (R291). -/
def L1Tag.own (t : L1Tag) (o : Nat) : Bool :=
  t.reg.getLsbD (o / 4) && (match mfind t.part (o / 4) with
    | some m => m.testBit (o % 4)
    | none => true)
/-- A core's own byte: that of a word registered in its L1 or in a stash line. -/
def ownByte (k : Core) (key : Nat) : Option Byte :=
  match (mfind k.l1 (key / 512)).filter (fun t => t.own (key % 512)) with
  | some t => some (memByte t.data (key % 512))
  | none => ((stashLinesOf k key).find? (fun u => u.2.own (key % 128))).map (fun u => memByte u.2.data (key % 128))
/-- The registrant's byte of a word: its L1 copy's or its stash line's. -/
def regByte (s : State) (c key : Nat) : Byte := (ownByte (s.core c) key).getD (homeByte s key)

/-- A byte's current value: the registrant's where its word is registered, else the home's. -/
def cohByte (s : State) (key : Nat) : Byte :=
  match registrant s key with
  | some c => regByte s c key
  | none => homeByte s key

def cohBytes (s : State) (key n : Nat) : List Byte := (List.range n).map (fun i => cohByte s (key + i))

/-- A tag's word loses its registration; with `drop` the tag loses the word too. -/
def L1Tag.release (t : L1Tag) (i : Nat) (drop : Bool) : L1Tag :=
  if !t.reg.getLsbD i then t else
  { t with reg := t.reg &&& ~~~(BitVec.ofNat 128 (2 ^ i)), wrote := mdel t.wrote i, part := mdel t.part i,
           gone := if drop then t.gone ||| BitVec.ofNat 128 (2 ^ i) else t.gone }
/-- A core's copies of a word lose its registration; with `drop` (a recall) they lose the word, otherwise (a write-back by
the dryer) it stays in the state its grain has (R272, R273). -/
def unregisterCopy (s : State) (c word : Nat) (drop : Bool) : State :=
  s.modCore c (fun k =>
    modStash { k with l1 := mmod k.l1 (word / 128) (fun t => t.release (word % 128) drop) } (word * 4)
      (fun u => u.release (word % 32) drop))
/-- Where a stash line's byte lies in the operand store (R159). -/
def stashAddr (k : Core) (ln o : Nat) : Nat := k.spad + 128 * ln + o
/-- Whether a core's copy of a registered word has an uncorrectable error (R286). -/
def wordBad (k : Core) (word : Nat) : Bool :=
  mget k.l1Bad word false || (stashLinesOf k (word * 4)).any (fun u => u.2.reg.getLsbD (word % 32) &&
    (List.range 4).any (fun i => mget k.eccBad (stashAddr k u.1 (word % 32 * 4 + i)) false))

/-- A word is registered no more: at the home, and in its registrant's copies. -/
def dropReg (s : State) (word c : Nat) (drop : Bool) : State :=
  unregisterCopy { s with words := mdel s.words word } c word drop

/-! Places in L2 (R275, R276). -/

/-- A line leaves its slice (R275): its registered words are recalled, its dirty sectors go to HBM4E, and a refill gets new
versions. -/
def evictLine (s : State) (line : Nat) (ln : L2Line) : State :=
  let owned := (List.range 32).filterMap (fun i => (registrant s (line * 128 + 4 * i)).map (fun c => (i, c)))
  let byte := fun (d : Memory) (ic : Nat × Nat) =>
    (List.range 4).foldl (fun d j => memPut d (4 * ic.1 + j) (regByte s ic.2 (line * 128 + 4 * ic.1 + j))) d
  let full : L2Line := ⟨owned.foldl (fun m ic => m ||| BitVec.ofNat 4 (2 ^ (ic.1 / 8))) ln.dirty, owned.foldl byte ln.data⟩
  let bad := (owned.filter (fun ic => wordBad (s.core ic.2) (line * 32 + ic.1))).flatMap (fun ic =>
    (List.range 4).map (fun j => line * 128 + 4 * ic.1 + j))
  let s := writeLine s line full
  let s := { s with l2 := mdel s.l2 line, homeBad := bad.foldl (fun m a => mset m a true) s.homeBad }
  let s := owned.foldl (fun s ic => dropReg s (line * 32 + ic.1) ic.2 true) s
  bumpVers s (line * 128) 128
/-- The lines a slice has room for beside what is pinned: 1 MiB in all (R2, R276). -/
def sliceLines (s : State) (line : Nat) : Nat := 8192 - (s.die (homeDie s (line * 128))).pinned
/-- The lines that leave a line's slice so that `more` find room in it (R2, R275): the lowest without a registered word, then
the lowest of the others; the slice is looked at only once all slices hold as many lines as the smallest has room for.
(DESIGN CHOICE, log 14) -/
def overfull (s : State) (line more : Nat) : List (Nat × L2Line) :=
  if s.l2.length + more ≤ 2048 then [] else
  let same := s.l2.filter (fun e => homeSlice s (e.1 * 128) == homeSlice s (line * 128))
  let held := fun (e : Nat × L2Line) => (List.range 32).any (fun i => (registrant s (e.1 * 128 + 4 * i)).isSome)
  (same.filter (fun e => !held e) ++ same.filter held).take (same.length + more - sliceLines s line)
/-- They leave it. -/
def l2Trim (s : State) (line more : Nat) : State := (overfull s line more).foldl (fun s e => evictLine s e.1 e.2) s
/-- Bringing a local line into its slice (R275); memory of other devices never enters it (R274). -/
def l2Touch (s : State) (line : Nat) : State :=
  if keyLocal (line * 128) && (mfind s.l2 line).isNone then
    let s := l2Trim s line 1
    { s with l2 := mset s.l2 line ⟨0, memSlice s.hbm (line * 128) 128⟩ }
  else s

/-- Writing one byte at its home. -/
def homePut (s : State) (key : Nat) (b : Byte) : State :=
  if keyLocal key then
    let s := l2Touch s (key / 128)
    let upd := fun (ln : L2Line) =>
      (⟨ln.dirty ||| BitVec.ofNat 4 (2 ^ (key % 128 / 32)), memPut ln.data (key % 128) b⟩ : L2Line)
    { s with l2 := mmod s.l2 (key / 128) upd, homeBad := mdel s.homeBad key }
  else { s with hbm := memPut s.hbm key b, homeBad := mdel s.homeBad key }

def homePuts (s : State) (key : Nat) (bs : List Byte) : State :=
  match bs with
  | [] => s
  | b :: r => homePuts (homePut s key b) (key + 1) r

/-- A word is written back to its home and deregistered, its version unchanged (R272): RECALL when `drop`. A word with an
uncorrectable error is poisoned there too (R286). -/
def writeBackWord (s : State) (word : Nat) (drop : Bool) : State :=
  match registrant s (word * 4) with
  | none => s
  | some c =>
    let bs := (List.range 4).map (fun i => regByte s c (word * 4 + i))
    let bad := wordBad (s.core c) word
    let s := homePuts s (word * 4) bs
    let s := if bad then
        { s.modCore c (fun k => { k with l1Bad := mdel k.l1Bad word }) with
          homeBad := (List.range 4).foldl (fun m i => mset m (word * 4 + i) true) s.homeBad }
      else s
    dropReg s word c drop

/-- Whether a warp waits at a fence, or to arrive at a barrier. -/
def Warp.fenced (x : Warp) : Bool :=
  x.holds.any (fun h => match h with
    | .fence .. | .fenceSc .. | .arrive .. => true
    | _ => false)
/-- The arrival of a message, and the key it is for. -/
def HomeMsg.event (b : HomeMsg) (id : Nat) : Event :=
  match b with
  | .register .. => .registration id
  | .notice .. => .readThroughNotice id
  | .through .. => .remoteWriteThrough (.sent id)
  | .red .. => .redPerform (.sent id)
  | .trig .. => .redTrigStep (.sent id)
def HomeMsg.key (b : HomeMsg) : Nat :=
  match b with
  | .register word _ | .notice word _ => word * 4
  | .through key _ | .red _ _ key _ _ | .trig key _ => key
/-- The port that a request to another device takes (R431, R433): the first that the route table enables for it and that has room in
its replay buffer of 256 entries. (DESIGN CHOICE, log 49) -/
def portFor (s : State) (dev : Nat) : Option Nat :=
  (mget s.routes dev (List.range 16)).find? (fun p =>
    let q := mget s.ports p UaPort.fresh
    decide (p < 4 * s.nDies) && !q.off && decide (q.replay.length < 256))
/-- The device whose memory a key names, of another package. -/
def keyDev (key : Nat) : Nat := key / 2 ^ 54 - 1
/-- A message has been acknowledged (R272): nobody waits for it any more; the fences of its core are looked at again
(R293). -/
def ackMsg (s : State) (m : Msg) : State :=
  let waits := s.warps.filter (fun e => e.2.unacked.contains m.id || (coreOf e.1 == coreOf m.warp && e.2.fenced))
  let s := { s with msgs := s.msgs.filter (fun n => n.id != m.id) }
  let s := match m.port with
    | none => s
    | some (p, n) =>
      let free := mmod s.ports p (fun q => { q with replay := q.replay.filter (fun e => e.1 != n) })
      (s.msgs.filter (fun m => m.port.isNone && !keyLocal m.body.key)).foldl (fun s m => s.after 0 (m.body.event m.id))
        { s with ports := free }
  waits.foldl (fun s e => (s.modWarp e.1 (fun x => { x with unacked := x.unacked.filter (· != m.id) })).after 0
    (.storeQueueExit e.1)) s
/-- The bytes of a registered word that its core has not written are those at the home (R291). -/
def L1Tag.merge (t : L1Tag) (i o : Nat) (home : Nat → Byte) : L1Tag :=
  match mfind t.part i with
  | none => t
  | some m =>
    { t with part := mdel t.part i, gone := t.gone &&& ~~~(BitVec.ofNat 128 (2 ^ i)),
             data := (List.range 4).foldl (fun d j => if m.testBit j then d else memPut d (o + j) (home j)) t.data }
/-- A registration at the home (R272): a recall from another registrant, then REG and a new version. -/
def registerWord (s : State) (word c : Nat) : State :=
  let s := if registrant s (word * 4) = some c then s else writeBackWord s word true
  let home := fun (j : Nat) => homeByte s (word * 4 + j)
  let s := s.modCore c (fun k =>
    modStash { k with l1 := mmod k.l1 (word / 128) (fun t => t.merge (word % 128) (word % 128 * 4) home) } (word * 4)
      (fun u => u.merge (word % 32) (word % 32 * 4) home))
  bumpVer { l2Touch s (word / 32) with words := mset s.words word (.reg c) } (word * 4)
/-- The parts of one store in one sector are seen together (R298): before another party reads or writes a sector in which a
core has a word registered, its registrations of the sector that are still on their way are handled. -/
def joinSector (s : State) (c : Option Nat) (sector : Nat) : State :=
  let owners := (List.range 8).filterMap (fun i => registrant s (sector * 32 + 4 * i))
  s.msgs.foldl (fun s m => match m.body with
    | .register word b =>
      if word / 8 = sector && owners.contains b && c != some b then ackMsg (registerWord s word b) m else s
    | _ => s) s
/-- The same for every sector of a range. -/
def joinSectors (s : State) (c : Option Nat) (key n : Nat) : State :=
  (List.range ((key + n - 1) / 32 + 1 - key / 32)).foldl (fun s i => joinSector s c (key / 32 + i)) s
/-- A registration that takes the word from another core finds that core's stores to the sector whole (R298). -/
def registerAt (s : State) (word c : Nat) : State :=
  registerWord (match registrant s (word * 4) with
    | some b => if b = c then s else joinSector s (some c) (word / 8)
    | none => s) word c
/-- Registrations that are still on their way are handled now: those of a core, of the words named. -/
def deliverRegs (s : State) (c : Nat) (p : Nat → Bool) : State :=
  s.msgs.foldl (fun s m => match m.body with
    | .register word b => if b = c && p word then ackMsg (registerAt s word c) m else s
    | _ => s) s
/-- A read by another party than the registrant moves the words to REGRD (R272). `c` is the reading core, if any. -/
def forwardRead (s : State) (c : Option Nat) (key n : Nat) : State :=
  let s := joinSectors s c key n
  (List.range ((key + n - 1) / 4 + 1 - key / 4)).foldl (fun s i =>
    match mfind s.words (key / 4 + i) with
    | some (.reg b) => if c = some b then s else { s with words := mset s.words (key / 4 + i) (.regrd b) }
    | _ => s) s

/-- Recalling every word that bytes `key` to `key + n − 1` touch. -/
def recallWords (s : State) (key n : Nat) : State :=
  (List.range ((key + n - 1) / 4 + 1 - key / 4)).foldl (fun s i => writeBackWord s (key / 4 + i) true) s

/-- A home-performed write (R272): recall, perform, UNREG, versions advance. -/
def homeWrite (s : State) (key : Nat) (bs : List Byte) : State :=
  if bs.isEmpty then s else bumpVers (homePuts (recallWords (joinSectors s none key bs.length) key bs.length) key bs) key bs.length

/-- A read performed at the home (R292): what every party that wrote before sees. -/
def homeRead (s : State) (c : Option Nat) (key n : Nat) : List Byte × State :=
  let s := forwardRead s c key n
  (cohBytes s key n, l2Touch s (key / 128))

/-- Whether a byte of the range has an uncorrectable error at its home or in its registrant's copy (R286). -/
def homeErr (s : State) (key n : Nat) : Bool :=
  (List.range n).any (fun i => mget s.homeBad (key + i) false ||
    (match registrant s (key + i) with
      | some c => wordBad (s.core c) ((key + i) / 4)
      | none => false))

/-! Translation (R278 to R283). -/

inductive WalkRes where
  | leaf (e : TlbEntry)
  | invalid
  | malformed
  deriving DecidableEq, Repr

/-- The page size of a leaf at a level (R278). -/
def pageBytes (lvl : Nat) : Nat := if lvl = 0 then 2 ^ 16 else if lvl = 1 then 2 ^ 21 else 2 ^ 30
/-- The index of a virtual address at a level (R278). -/
def tableIndex (lvl va : Nat) : Nat := if lvl = 0 then natBits va 20 16 else natBits va (12 + 9 * lvl + 8) (12 + 9 * lvl)

/-- A walk from a table at `lvl` (R278 to R280). -/
def walkFrom (s : State) (asid va b : Nat) : Nat → WalkRes
  | 0 => walkEntry s asid va 0 (leNat (cohBytes s (b + 8 * tableIndex 0 va) 8)) (fun _ => .malformed)
  | n + 1 => walkEntry s asid va (n + 1) (leNat (cohBytes s (b + 8 * tableIndex (n + 1) va) 8))
      (fun a => walkFrom s asid va a n)
where
  /-- One entry: `k` walks on from the next table. -/
  walkEntry (s : State) (asid va lvl e : Nat) (k : Nat → WalkRes) : WalkRes :=
    let addr := natBits e 53 8 * 256
    let dev := natBits e 63 54
    if !natBit e 0 then .invalid
    else if natBit e 1 then
      let sz := pageBytes lvl
      if lvl ≥ 3 || natBits e 7 6 == 3 || addr % sz != 0 || (dev == s.device && decide (addr + sz > 2 ^ 39))
      then .malformed
      else .leaf { asid := asid, base := va / sz * sz, size := sz, pa := addr, dev := dev, grain := natBits e 7 6,
                   wm := natBit e 5, x := natBit e 4, w := natBit e 3, r := natBit e 2 }
    else
      let align := if lvl = 1 then 256 else 4096
      if lvl = 0 || natBits e 7 2 != 0 || dev != 0 || addr % align != 0 || decide (addr + align > 2 ^ 39) then .malformed
      else k addr

/-- The descriptor of an address space, from any die that holds it (R413: Toltar writes it into every die). -/
def State.space (s : State) (asid : Nat) : Option AsDescriptor :=
  s.dies.findSome? (fun d => mfind d.2.spaces asid)

/-- A whole walk for an address space. -/
def walkAll (s : State) (asid va : Nat) : WalkRes :=
  match s.space asid with
  | none => .invalid
  | some d => if va ≥ 2 ^ 57 then .invalid else walkFrom s asid va d.root 4

/-- A TLB's entry for an address. -/
def tlbFind (l : List TlbEntry) (asid va : Nat) : Option TlbEntry :=
  l.find? (fun e => e.asid == asid && decide (e.base ≤ va) && decide (va < e.base + e.size))

/-- The translation a core holds: its own TLB's, else the die's (R283). -/
def coreXlate (s : State) (c asid va : Nat) : Option TlbEntry :=
  match tlbFind (s.core c).tlb asid va with
  | some e => some e
  | none => tlbFind (s.die (dieOfCore c)).tlb asid va

/-- Holding a translation in a core's TLB and its die's, the oldest leaving a full one. -/
def tlbInstall (s : State) (c : Nat) (e : TlbEntry) : State :=
  let s := s.modCore c (fun k => { k with tlb := (e :: k.tlb.filter (· ≠ e)).take 1024 })
  s.modDie (dieOfCore c) (fun d => { d with tlb := (e :: d.tlb.filter (· ≠ e)).take 16384 })

/-- The key of a virtual address under a translation. -/
def TlbEntry.key (s : State) (e : TlbEntry) (va : Nat) : Nat := physKey s e.dev (e.pa + (va - e.base))

/-- The permissions an access can need (R282). -/
structure Need where
  r : Bool
  w : Bool
  x : Bool
  wm : Bool
  deriving DecidableEq, Repr
def Need.ok (n : Need) (e : TlbEntry) : Bool := (!n.r || e.r) && (!n.w || e.w) && (!n.x || e.x) && (!n.wm || e.wm)
def needR : Need := ⟨true, false, false, false⟩
def needW : Need := ⟨false, true, false, false⟩
def needRW : Need := ⟨true, true, false, false⟩

/-- An access by hardware outside a core (HQS, Toltar, pipe unit) walks the tables itself: the translation of an
address with the permissions needed. (DESIGN CHOICE, log 19) -/
def xlateNow (s : State) (asid va : Nat) (n : Need) : Option TlbEntry :=
  match walkAll s asid va with
  | .leaf e => if n.ok e then some e else none
  | _ => none

/-- The addresses of the entries that a walk of an address reads, from a table at a level on. -/
def walkKeys (s : State) (va b : Nat) : Nat → List Nat
  | 0 => [b + 8 * tableIndex 0 va]
  | n + 1 =>
    let k := b + 8 * tableIndex (n + 1) va
    let e := leNat (cohBytes s k 8)
    k :: (if natBit e 0 && !natBit e 1 then walkKeys s va (natBits e 53 8 * 256) n else [])
/-- A walk is a read by another party of the registered words it meets (R272, R280). -/
def walkTouch (s : State) (asid va : Nat) : State :=
  match s.space asid with
  | none => s
  | some d => if va ≥ 2 ^ 57 then s else (walkKeys s va d.root 4).foldl (fun s k => forwardRead s none k 8) s
/-- What a read of `n` virtual bytes by hardware outside a core does to the words it meets (R272), and the record that
Toltar gets of a malformed entry (R280): kind 16 with the address, the space, the reader and the kind of R417. -/
def vTouch (s : State) (src kind asid va n : Nat) : State :=
  (List.range ((va + n - 1) / 65536 + 1 - va / 65536)).foldl (fun s i =>
    let a := max va ((va / 65536 + i) * 65536)
    let s := walkTouch s asid a
    match walkAll s asid a with
    | .leaf e => if e.r then forwardRead s none (e.key s a) (min (va + n) ((a / 65536 + 1) * 65536) - a) else s
    | .malformed => s.tell 16 [a, asid, src, kind]
    | .invalid => s) s

/-- What the walks of a unit without a core do for a write of `n` bytes (R272, R280). -/
def unitWalk (s : State) (asid va n : Nat) : State :=
  (List.range ((va + n - 1) / 65536 + 1 - va / 65536)).foldl (fun s i =>
    let a := max va ((va / 65536 + i) * 65536)
    match walkAll s asid a with
    | .malformed => (walkTouch s asid a).tell 16 [a, asid, 384, 1]
    | _ => walkTouch s asid a) s
/-- The same for a read by a unit of the package that has no core (R272, R280). -/
def unitTouch (s : State) (asid va n : Nat) : State := vTouch s 384 0 asid va n
/-- Reading `n` virtual bytes at their homes; none without translation or permission. An access is translated page
by page, and no page is smaller than 64 KiB (R278). -/
def vReadGo (s : State) (asid : Nat) (e : Option TlbEntry) (va : Nat) : Nat → Option (List Byte)
  | 0 => some []
  | n + 1 =>
    let e := if va % 65536 = 0 then xlateNow s asid va needR else e
    match e with
    | none => none
    | some t => (vReadGo s asid e (va + 1) n).map (fun l => cohByte s (t.key s va) :: l)
def vRead (s : State) (asid va n : Nat) : Option (List Byte) :=
  if n = 0 then some [] else vReadGo s asid (xlateNow s asid va needR) va n

/-- Writing virtual bytes at their homes as home-performed writes, page by page (R278); none without translation or permission of
any. -/
def vWriteGo (s : State) (asid va : Nat) (bs : List Byte) : Nat → Option State
  | 0 => some s
  | f + 1 =>
    if bs.isEmpty then some s else
    let n := min bs.length (65536 - va % 65536)
    match xlateNow s asid va needW with
    | none => none
    | some e => vWriteGo (homeWrite s (e.key s va) (bs.take n)) asid (va + n) (bs.drop n) f
def vWrite (s : State) (asid va : Nat) (bs : List Byte) : Option State :=
  vWriteGo (unitWalk s asid va bs.length) asid va bs (bs.length / 65536 + 2)

/-- The same, where a failed write is discarded. (DEDUCED, log 20) -/
def vWriteD (s : State) (asid va : Nat) (bs : List Byte) : State := (vWrite s asid va bs).getD s

/-! The L1 (R268 to R270). -/

/-- The mask of the sectors of the grain that holds offset `off`. -/
def grainSectors (g off : Nat) : BitVec 16 :=
  let n := grainBytes g / 32
  BitVec.ofNat 16 ((2 ^ n - 1) * 2 ^ (off / grainBytes g * n))

/-- Writing back every registered word of an L1 tag and removing the tag (R270, R272). (DESIGN CHOICE, log 14) -/
def l1Evict (s : State) (c region : Nat) : State :=
  match mfind (s.core c).l1 region with
  | none => s
  | some t =>
    let s := deliverRegs s c (fun word => word / 128 == region)
    let s := (List.range 128).foldl (fun s i => if t.reg.getLsbD i then writeBackWord s (region * 128 + i) false else s) s
    s.modCore c (fun k => { k with l1 := mdel k.l1 region })

/-- An L1 tag for a region, made if absent; a full set of eight evicts its lowest region first (R268).
(DESIGN CHOICE, log 14) -/
def l1Alloc (s : State) (c region g dev : Nat) : State :=
  if (mfind (s.core c).l1 region).isSome then s
  else
    let sets := max 1 ((s.core c).l1size / 512 / 8)
    let same := (s.core c).l1.filter (fun e => e.1 % sets == region % sets)
    let s := if same.length ≥ 8 then (match same with
      | e :: _ => l1Evict s c e.1
      | [] => s) else s
    let t : L1Tag :=
      { grain := g, valid := 0, fresh := 0, ver := [], reg := 0, part := [], gone := 0, wrote := [], data := [], dev := dev }
    s.modCore c (fun k => { k with l1 := mset k.l1 region t })

/-- The byte that a core's fill takes: its own registered byte, a byte of its own write-through that is still on the link,
the newest first (R290), else the home's. -/
def fillByte (s : State) (c key : Nat) : Byte :=
  match ownByte (s.core c) key with
  | some b => b
  | none =>
    if keyLocal key then cohByte s key else
    s.msgs.foldl (fun b m => match m.body with
      | .through a bs => if m.warp / 128 = c && decide (a ≤ key) && decide (key < a + bs.length) then bs.getD (key - a) 0 else b
      | _ => b) (cohByte s key)

/-- The mask of the words of the grain that holds offset `off`. -/
def grainWords (g off : Nat) : BitVec 128 :=
  let n := grainBytes g / 4
  BitVec.ofNat 128 ((2 ^ n - 1) * 2 ^ (off / grainBytes g * n))

/-- Filling the grain of a key from its home, keeping the core's own registered words (R269, R270); a word with an uncorrectable
error is not held (R286). -/
def l1Fill (s : State) (c key g dev : Nat) : State :=
  let s := l1Alloc s c (key / 512) g dev
  let n := grainBytes g
  let b := key / n * n
  let s := forwardRead s (some c) b n
  let bs := (List.range n).map (fun i => fillByte s c (b + i))
  let s := if keyLocal b then (List.range ((n + 127) / 128)).foldl (fun s i => l2Touch s (b / 128 + i)) s else s
  let v := grainVer s g b
  let bad := fun (key : Nat) => (ownByte (s.core c) key).isNone && homeErr s key 1
  let lost := (List.range (n / 4)).foldl (fun (m : BitVec 128) i =>
    if (List.range 4).any (fun j => bad (b + 4 * i + j)) then m ||| BitVec.ofNat 128 (2 ^ (b % 512 / 4 + i)) else m) 0
  let upd := fun (t : L1Tag) =>
      { t with valid := t.valid ||| grainSectors g (key % 512),
               fresh := t.fresh ||| BitVec.ofNat 16 (2 ^ (key % 512 / n)),
               ver := mset t.ver (key % 512 / n) v,
               gone := (t.gone &&& ~~~(grainWords g (key % 512))) ||| lost,
               data := memWrite t.data (b % 512) bs }
  s.modCore c (fun k => { k with l1 := mmod k.l1 (key / 512) upd })

/-- Whether a core's L1 may serve a byte to an ordinary load: a registered word, or a fresh grain (R270). -/
def l1Hit (s : State) (c key : Nat) : Bool :=
  match mfind (s.core c).l1 (key / 512) with
  | none => false
  | some t => t.own (key % 512) ||
      (t.valid.getLsbD (key % 512 / 32) && t.fresh.getLsbD (key % 512 / grainBytes t.grain) &&
        !t.gone.getLsbD (key % 512 / 4))
/-- Whether it holds a copy at all, fresh or stale (R187). -/
def l1Has (s : State) (c key : Nat) : Bool :=
  match mfind (s.core c).l1 (key / 512) with
  | none => false
  | some t => t.own (key % 512) || (t.valid.getLsbD (key % 512 / 32) && !t.gone.getLsbD (key % 512 / 4))
def l1Byte (s : State) (c key : Nat) : Byte :=
  match mfind (s.core c).l1 (key / 512) with
  | none => 0
  | some t => memByte t.data (key % 512)
/-- The version of a core's copy of a grain. -/
def l1Ver (s : State) (c key : Nat) : Option Nat :=
  match mfind (s.core c).l1 (key / 512) with
  | none => none
  | some t => mfind t.ver (key % 512 / grainBytes t.grain)

/-- A load's bytes of one sector, seen together (R298): all from the L1 copy where the coherence rules permit it for each, else
after a fill of the grain, which performs the load at its home (R293, R396). (DEDUCED, log 21) -/
def l1Run (s : State) (w c g dev : Nat) (keys : List Nat) : State :=
  match keys with
  | [] => s
  | k :: _ => if keys.all (l1Hit s c) then s else countFor (countFor (l1Fill s c k g dev) w 3 1) w 4 1

/-- Words whose registration, or notice of a write to a word read through, a store must send (R272). -/
def needsMsg (s : State) (c word : Nat) (wasReg : Bool) : Option Bool :=
  match mfind s.words word with
  | some (.reg b) => if b = c then none else some true
  | some (.regrd b) => if b = c then some false else some true
  | none => if wasReg then none else some true

/-- Whether the home of a byte stalls the accesses of a die: another die's partition that is being reset (R428), or another device
that does not answer (R433). -/
def homeDown (s : State) (die key : Nat) : Bool :=
  if keyLocal key then homeDie s key != die && (s.die (homeDie s key)).resetting else (mfind s.silent (keyDev key)).isSome
/-- A message that cannot reach its home (R428, R433): the home stalls, or no port has room for it. -/
def msgStuck (s : State) (m : Msg) : Bool :=
  homeDown s (dieOf m.warp) m.body.key ||
    (!keyLocal m.body.key && m.port.isNone && (portFor s (keyDev m.body.key)).isNone)

/-- Whether the home of a place is on a die that is being reset: what reaches it from outside waits (R428). -/
def homeStalls (s : State) (key : Nat) : Bool := keyLocal key && (s.die (homeDie s key)).resetting
/-- The same of any byte of a range: homes change at granules of 4 KiB (R271). -/
def rangeStalls (s : State) (key n : Nat) : Bool :=
  (List.range (n / 4096 + 2)).any (fun i => homeStalls s (min (key + 4096 * i) (key + n - 1)))

/-- Sending a message to a home; it arrives after the message latency. `w` waits for its acknowledgement. One to another device's
memory stands in its port's replay buffer until then (R433). -/
def sendMsg (s : State) (w : Nat) (body : HomeMsg) : State :=
  let id := s.nextId
  let port := if keyLocal body.key then none else
    (portFor s (keyDev body.key)).map (fun p => (p, (mget s.ports p UaPort.fresh).nextSeq))
  let s := match port with
    | none => s
    | some (p, n) =>
      let q := mget s.ports p UaPort.fresh
      { s with ports := mset s.ports p { q with nextSeq := n + 1, replay := q.replay ++ [(n, true)] } }
  let s := { s with msgs := s.msgs ++ [({ id := id, warp := w, body := body, fault := none, port := port } : Msg)] }
  ((s.usedId).modWarp w (fun x => { x with unacked := x.unacked ++ [id] })).after s.lat.hop (body.event id)

/-- What a store of a core's own warp sends for a word (R272): a registration or a notice; for a word whose registration
by the core is still on its way, the warp waits for that one. -/
def storeMsg (s : State) (c w word : Nat) (wasReg : Bool) : State :=
  match s.msgs.find? (fun m => m.body == .register word c) with
  | some m => s.modWarp w (fun x => { x with unacked := if x.unacked.contains m.id then x.unacked else x.unacked ++ [m.id] })
  | none =>
    match needsMsg s c word wasReg with
    | some true => sendMsg s w (.register word c)
    | some false => sendMsg s w (.notice word c)
    | none => s
/-- Writing bytes at offset `o` into a tag's copy; `reg` registers the words, noting which bytes of a word are its
own until its registration has reached the home (R291). -/
def L1Tag.write (t : L1Tag) (clk o : Nat) (bs : List Byte) (reg : Bool) : L1Tag :=
  let words := (List.range ((o + bs.length - 1) / 4 + 1 - o / 4)).map (o / 4 + ·)
  let bit := fun (i : Nat) => BitVec.ofNat 128 (2 ^ i)
  let mask := fun (i : Nat) =>
    (List.range 4).foldl (fun m j => if decide (o ≤ 4 * i + j) && decide (4 * i + j < o + bs.length) then m ||| 2 ^ j else m) 0
  let part := fun (p : NMap Nat) (i : Nat) =>
    let m := mask i ||| (if t.reg.getLsbD i then mget p i 15 else 0)
    if m = 15 then mdel p i else mset p i m
  { t with data := memWrite t.data o bs,
           reg := if reg then words.foldl (fun r i => r ||| bit i) t.reg else t.reg,
           gone := words.foldl (fun g i => if mask i = 15 then g &&& ~~~bit i else g) t.gone,
           part := if reg then words.foldl part t.part else t.part,
           wrote := if reg then words.foldl (fun m i => mset m i clk) t.wrote else t.wrote }
/-- A core's other copies of a location follow a store: its L1 copy that of a stash line, its stash lines, but for `except`, that of
the L1 or of one another (R184, R290). -/
def followStash (k : Core) (clk key : Nat) (bs : List Byte) (except : Option Nat) : Core :=
  { k with slines := k.slines.map (fun e =>
      if e.2.dev = key / 128 * 128 && some e.1 != except then (e.1, e.2.write clk (key % 128) bs false) else e) }
def followL1 (k : Core) (clk key : Nat) (bs : List Byte) : Core :=
  { k with l1 := mmod k.l1 (key / 512) (fun t => t.write clk (key % 512) bs false) }
/-- A core's copies of some words are given up: what the core reads next comes from their home (R290, R291). -/
def dropWords (s : State) (c key n : Nat) : State :=
  let words := (List.range ((key + n - 1) / 4 + 1 - key / 4)).map (key / 4 + ·)
  if (s.core c).l1.isEmpty && (s.core c).slines.isEmpty then s else
  s.modCore c (fun k => words.foldl (fun k wd =>
    modStash { k with l1 := mmod k.l1 (wd / 128) (fun t => { t with gone := t.gone ||| BitVec.ofNat 128 (2 ^ (wd % 128)) }) } (wd * 4)
      (fun u => { u with gone := u.gone ||| BitVec.ofNat 128 (2 ^ (wd % 32)) })) k)

/-- A global store of bytes inside one sector at the L1 (R168, R269, R270, R272), or its write-through (R274). -/
def l1Store (s : State) (c w key g dev : Nat) (bs : List Byte) : State :=
  if !keyLocal key then
    let upd := fun (t : L1Tag) => t.write s.clk (key % 512) bs false
    let s := if l1Has s c key then s.modCore c (fun k => { k with l1 := mmod k.l1 (key / 512) upd }) else s
    sendMsg (s.modCore c (fun k => followStash k s.clk key bs none)) w (.through key bs)
  else
    let whole := g == 0 && key % 32 == 0 && bs.length == 32
    let s := if l1Has s c key then s
      else if whole then
        let upd := fun (t : L1Tag) => { t with valid := t.valid ||| grainSectors g (key % 512) }
        (l1Alloc s c (key / 512) g dev).modCore c (fun k => { k with l1 := mmod k.l1 (key / 512) upd })
      else countFor (l1Fill s c key g dev) w 3 1
    let words := (List.range ((key + bs.length - 1) / 4 + 1 - key / 4)).map (key / 4 + ·)
    let old := match mfind (s.core c).l1 (key / 512) with
      | some t => t.reg
      | none => 0
    let s := words.foldl (fun s wd => storeMsg s c w wd (old.getLsbD (wd % 128))) s
    let upd := fun (t : L1Tag) => t.write s.clk (key % 512) bs true
    let full := words.filter (fun wd => decide (key ≤ wd * 4) && decide (wd * 4 + 4 ≤ key + bs.length))
    words.foldl (fun s wd => s.after 4096 (.l1Dryer c wd)) (s.modCore c (fun k =>
      followStash { k with l1 := mmod k.l1 (key / 512) upd, l1Bad := full.foldl (fun m wd => mdel m wd) k.l1Bad } s.clk key bs none))

/-- An acquire that widens past the core (R172, R270, R294): every grain of its L1 and every stash line goes stale. -/
def l1Invalidate (s : State) (c : Nat) : State :=
  let stale := fun (m : NMap L1Tag) => m.map (fun e => (e.1, { e.2 with fresh := 0 }))
  s.modCore c (fun k => { k with l1 := stale k.l1, slines := stale k.slines })

/-- Writing back and deregistering every word a core has registered, in L1 and stash (R267). -/
def writeBackCore (s : State) (c : Nat) : State :=
  let s := deliverRegs s c (fun _ => true)
  s.words.foldl (fun s e => if registrant s (e.1 * 4) = some c then writeBackWord s e.1 false else s) s

end Sys2Proof.Machine
end

