-- ==== Sys2Proof/Machine/Operands.lean ====
section
/-!
DEFINITION. Operands of warp instructions: ACT (R9, R133), the B operand (R85), the sources that trap or wait
(R29), the address forms of memory instructions (R157 to R166) with the causes they raise before any effect, and the
group a slot names (R160, R183).
-/

namespace Sys2Proof.Machine

/-- ACT: the path's lanes that pass the guard (R9, R133). -/
def IssueCtx.act (c : IssueCtx) (x : Warp) (i : Instr) : LaneMask := c.path &&& x.guardLanes (info i).guard

/-- Operand B of a long form for lane `l`: vector registers, or uniform ones with K = 1 and M[6] as bit 8 (R85). -/
def Warp.opB (x : Warp) (f : LongF) (n l : Nat) : Nat :=
  if f.k then x.sn n (boolNat (f.m.getLsbD 6) * 256 + f.b.toNat) else x.vn n f.b.toNat l
/-- The uniform register index in B (K = 1). -/
def bReg (f : LongF) : Nat := boolNat (f.m.getLsbD 6) * 256 + f.b.toNat

/-- The lanes a role's empty bits matter in: ACT, or for V2S its lane L (R134). -/
def roleLanes (i : Instr) (act : LaneMask) : LaneMask :=
  match i with
  | .v2sShort f => if act = 0 then 0 else laneBit (f.sub.toNat % 32)
  | .v2s f => if act = 0 then 0 else laneBit (f.m.toNat % 32)
  | _ => act

/-- The first register of a role that is empty in any of the lanes; the class as FADDR codes it (R367). -/
def emptyRole (vE : NMap LaneMask) (sE : NMap Bool) (lanes : LaneMask) (r : Role) : Option (Nat × Nat) :=
  if lanes = 0 then none else
  match r.cls with
  | .v => ((List.range r.cnt).find? (fun j => vEmptyIn vE (r.reg + j) &&& lanes != 0)).map (fun j => (0, r.reg + j))
  | .s => ((List.range r.cnt).find? (fun j => sEmptyIn sE (r.reg + j))).map (fun j => (1, r.reg + j))
  | _ => none

/-- The FADDR of FE_TRAP (R367). -/
def feAddr (e : Nat × Nat) : DWord := BitVec.ofNat 64 (8 * 2 ^ 60 + e.1 * 512 + e.2)

/-- FE_TRAP (R29): the first source with W = 0 that was empty before the group. -/
def feCause (c : IssueCtx) (x : Warp) (i : Instr) : Option DWord :=
  let act := c.act x i
  ((info i).roles.findSome? (fun r =>
    if r.rd && !r.w then emptyRole c.vE c.sE (roleLanes i act) r else none)).map feAddr

/-- Whether a source the instruction waits for, or a destination, is still empty, or a predicate it uses is still to
be written (R28, R29, R27). A predicate holds back in any lane of the path: a guard that is still to be written decides
ACT. (DESIGN CHOICE, log 61) -/
def mustWait (x : Warp) (path : LaneMask) (i : Instr) : Bool :=
  let g := (info i).guard
  let gw := match g with
    | .always => false
    | .lane p _ => x.pendingP p &&& path != 0
    | .uni q _ => x.pendingQ q
  let act := path &&& x.guardLanes g
  gw || (info i).roles.any (fun r => match r.cls with
    | .p => x.pendingP r.reg &&& path != 0
    | .q => x.pendingQ r.reg
    | .t => false
    | _ => (r.w || r.wr) && (emptyRole x.vE x.sE (roleLanes i act) r).isSome)

/-! Memory operands. -/

/-- The address operands of a memory instruction: space (0 global, 1 own operand store, 2 peer), access size, sign
extension, D and its registers, index, byte offset, T, swizzle, `ord`, and whether alignment is required (R163). -/
structure Shape where
  space  : Nat
  size   : Nat
  signed : Bool
  d      : Nat
  n      : Nat
  idx    : Option Nat
  off    : Int
  t      : Option Nat
  sw     : Nat
  ord    : Nat
  align  : Bool
  deriving DecidableEq, Repr

/-- The bytes of a memory type (R93 mt). -/
def mtSize (mt : Nat) : Nat := if mt ≤ 1 then 1 else if mt ≤ 3 then 2 else if mt = 4 then 4 else 8

/-- The shape of the long forms LD to LDW, WMLD and WMST: B is a signed offset in access units (R157). -/
def longShape (space unit : Nat) (signed : Bool) (n sw ord : Nat) (align : Bool) (f : LongF) : Shape :=
  { space := space, size := unit, signed := signed, d := f.d.toNat, n := n,
    idx := if f.k then none else some f.a.toNat, off := intOf 8 true f.b.toNat * unit, t := some f.t.toNat, sw := sw,
    ord := ord, align := align }
def mtShape (space sw ord : Nat) (align : Bool) (f : LongF) : Shape :=
  longShape space (mtSize f.ty) (f.ty == 1 || f.ty == 3) (mtRegs f.ty) sw ord align f
/-- The bytes of an atomic type (R93 at). -/
def atSize (ty : Nat) : Nat := 4 * tyRegs ty
/-- The shape of an atomic (R176): the index is always present, there is no offset. -/
def atomShape (space sw ord : Nat) (f : LongF) : Shape :=
  { space := space, size := atSize f.ty, signed := false, d := f.d.toNat, n := tyRegs f.ty, idx := some f.a.toNat,
    off := 0, t := some f.t.toNat, sw := sw, ord := ord, align := true }
/-- A short global form: the pair s(2 × vb) (R91); a short scratchpad form: va alone (R159). -/
def shortShape (space : Nat) (f : ShortV) : Shape :=
  { space := space, size := 4, signed := false, d := f.d.toNat, n := 1, idx := some f.a.toNat, off := 0,
    t := if space = 0 then some (2 * f.b.toNat) else none, sw := 0, ord := 0, align := space != 0 }

/-- The FADDR of a fault in a space (R161). -/
def spaceFaddr (sp : Space) (a : Nat) : DWord :=
  match sp with
  | .global => BitVec.ofNat 64 a
  | .spad => BitVec.ofNat 64 (2 ^ 60 + a)
  | .peer slot rank _ => BitVec.ofNat 64 (2 * 2 ^ 60 + slot * 2 ^ 36 + rank * 2 ^ 32 + a)

/-- The base operand: the pair, the register, or zero (R157 to R160). -/
def Shape.base (h : Shape) (x : Warp) : Nat :=
  match h.t with
  | none => 0
  | some t => if h.space = 0 then x.s64 t else (x.s t).toNat
/-- The index operand of a lane. -/
def Shape.index (h : Shape) (x : Warp) (l : Nat) : Nat :=
  match h.idx with
  | none => 0
  | some r => (x.v r l).toNat

/-- A lane's address from base and index (R157, R159, R160, R104). -/
def Shape.addr (h : Shape) (base idx : Nat) : Nat :=
  match h.space with
  | 0 => truncInt 64 (base + idx + h.off)
  | 1 => swizzle h.sw (truncInt 32 (base + idx + h.off))
  | _ => swizzle h.sw (truncInt 32 (idx + h.off))

/-- The core that rank `rank` of the group in slot `slot` names (R160). -/
def peerCore (s : State) (w : Nat) (x : Warp) (slot rank : Nat) : Option Nat :=
  match x.group? slot with
  | none => none
  | some g =>
    match mfind s.groups g with
    | none => none
    | some gi => if gi.spread then gi.cores[rank]? else if rank = 0 then some (coreOf w) else none

/-- The space an access reaches; a peer that does not exist is `none` (R160). -/
def Shape.spaceOf (h : Shape) (s : State) (w : Nat) (x : Warp) (base : Nat) : Space × Bool :=
  match h.space with
  | 0 => (.global, true)
  | 1 => (.spad, true)
  | _ =>
    let rank := base % 16
    let slot := base / 16 % 4
    match peerCore s w x slot rank with
    | some c => (.peer slot rank c, true)
    | none => (.peer slot rank 0, false)

/-- The core whose operand store a space names. -/
def Space.core (sp : Space) (own : Nat) : Nat :=
  match sp with
  | .peer _ _ c => c
  | _ => own

/-- The mapped window of the warp's group that holds a stash address (R183, R184). (DESIGN CHOICE, log 18) -/
def stashWin (s : State) (w : Nat) (x : Warp) (a : Nat) : Option Window :=
  let k := s.core (coreOf w)
  match x.group? 0 with
  | none => none
  | some g => k.wins.find? (fun wn => wn.gi == g && decide (k.spad + 128 * wn.off ≤ a) &&
      decide (a < k.spad + 128 * (wn.off + wn.len)))
/-- The global address of a stash address (R184). (DESIGN CHOICE, log 18) -/
def stashGlobal (k : Core) (wn : Window) (a : Nat) : Nat := wn.base + (a - k.spad - 128 * wn.off)

/-- The cause one lane's access meets before any effect (R158 to R163, R184): `load` marks the forms whose global
address check is precise, `stash` the forms that may reach the stash. -/
def laneCause (s : State) (w : Nat) (x : Warp) (h : Shape) (sp : Space) (ok load stash : Bool) (a : Nat) :
    Option (Nat × DWord) :=
  if h.align && a % h.size != 0 then some (0x06, spaceFaddr sp a) else
  match sp with
  | .global => if load && decide (a ≥ 2 ^ 57) then some (0x07, BitVec.ofNat 64 a) else none
  | .spad =>
    let k := s.core (coreOf w)
    if a + h.size ≤ k.spad then none
    else if stash && decide (k.spad ≤ a) && decide (a + h.size ≤ k.spad + k.stash) && (stashWin s w x a).isSome
    then none else some (0x08, spaceFaddr sp a)
  | .peer _ _ c => if ok && decide (a + h.size ≤ (s.core c).spad) then none else some (0x08, spaceFaddr sp a)

/-- The lower of two causes by code, the first on a tie (R368). -/
def lowerCause (a b : Option (Nat × DWord)) : Option (Nat × DWord) :=
  match a, b with
  | some p, some q => if q.1 < p.1 then some q else some p
  | some p, none => some p
  | none, q => q
def lowestCause (l : List (Option (Nat × DWord))) : Option (Nat × DWord) := l.foldl lowerCause none

/-- The extra bank passes of an operand-store access (R106). -/
def bankPasses (addrs : List Nat) : Nat :=
  let ws := (addrs.map (· / 8)).eraseDups
  ((List.range 64).foldl (fun m b => max m (ws.filter (fun a => a % 64 == b)).length) 0) - 1

/-- A loaded value extended into its registers (R162). -/
def extendLoad (size : Nat) (signed : Bool) (bs : List Byte) : Nat :=
  let v := leNat bs
  if signed then truncInt 32 (intOf (8 * size) true v) else v

end Sys2Proof.Machine
end

