-- ==== Sys2Proof/Machine/Accesses.lean ====
section
/-!
DEFINITION. The accesses of warps once they are issued: translation with its misses (R284), store forwarding (R167),
loads (R167, R187), stash lines (R184), stores as they leave the queue (R168), atomics (R177, R178).
-/

namespace Sys2Proof.Machine

/-- What became of an access: it waits for a translation, it fails with a cause, or it is performed. -/
inductive Got (α : Type) where
  | miss (va : Nat)
  | fail (code : Nat) (faddr : DWord)
  | ok (a : α)

/-! Translation (R284). -/

/-- The walk that resolves an access's miss, if one is under way. -/
def findWalk (s : State) (w seq va : Nat) : Option Walk :=
  s.walks.find? (fun k => k.src == w && k.seq == seq && decide (k.va / 65536 = va / 65536))

/-- The lowest of a die's 64 walkers that no walk holds (R283). -/
def freeWalker (s : State) (die : Nat) : Option Nat :=
  (List.range 64).find? (fun n => !s.walks.any (fun k => k.die == die && k.walker == some n))
/-- A miss starts a walk on a die, once (R284); with every walker busy it waits for one (R283). `kind` and `need` are those
of R417. -/
def startWalkOn (s : State) (die w seq va asid kind need : Nat) : State :=
  if (findWalk s w seq va).isSome then s
  else
    let n := freeWalker s die
    let k : Walk := { id := s.nextId, die := die, va := va, asid := asid, src := w, kind := kind, need := need,
                      seq := seq, declined := false, held := false, walker := n }
    let t := { s with walks := s.walks ++ [k] }.usedId
    if n.isSome then t.after s.lat.walk (.tableWalk s.nextId) else t
/-- The same on the die of a resident warp. -/
def startWalk (s : State) (w seq va asid kind need : Nat) : State := startWalkOn s (dieOf w) w seq va asid kind need

/-- The same, counted as a translation miss of the warp when it starts (R396 event 9). -/
def missWalk (s : State) (w seq va asid kind need : Nat) : State :=
  if (findWalk s w seq va).isSome then s else countFor (startWalk s w seq va asid kind need) w 9 1

/-- Walks that wait for a walker take those that are free, the earliest first (R283). -/
def giveWalkers (s : State) : State :=
  (s.walks.filter (fun k => k.walker.isNone && !k.declined)).foldl (fun s k =>
    match freeWalker s k.die with
    | none => s
    | some n =>
      let t : State := { s with walks := s.walks.map (fun (j : Walk) => if j.id = k.id then { j with walker := some n } else j) }
      t.after s.lat.walk (.tableWalk k.id)) s
/-- Walks that are over are forgotten, and their walkers freed. -/
def dropWalks (s : State) (p : Walk → Bool) : State :=
  if s.walks.any p then giveWalkers { s with walks := s.walks.filter (fun k => !p k) } else s
/-- The access is over: its walks are forgotten. -/
def endWalks (s : State) (w seq : Nat) : State := dropWalks s (fun k => k.src == w && k.seq == seq)

/-- The translation of an address for a warp's access: held, missing, or failed (R282, R284). -/
def xlate (s : State) (w seq asid va : Nat) (n : Need) : Got TlbEntry :=
  if va ≥ 2 ^ 57 then .fail 0x07 (BitVec.ofNat 64 va) else
  match coreXlate s (coreOf w) asid va with
  | some e => if n.ok e then .ok e else .fail 0x08 (BitVec.ofNat 64 va)
  | none =>
    match findWalk s w seq va with
    | some k => if k.declined then .fail 0x07 (BitVec.ofNat 64 va) else .miss va
    | none => .miss va

/-- Walks for translations that an issue waits for are numbered apart: a stash line that an STS is to write, a descriptor, a
message, a counter, a summary (R284). -/
def issueSeq : Nat := 10 ^ 12 - 1
/-- The instruction has issued: the walks for these addresses are forgotten. -/
def endIssue (s : State) (w : Nat) (vas : List Nat) : State :=
  dropWalks s (fun k => k.src == w && k.seq == issueSeq && vas.any (fun a => a / 65536 == k.va / 65536))

/-- An access of `n` bytes translates each of the one or two pages it touches (R163). -/
def xlateRange (s : State) (w seq asid va n : Nat) (nd : Need) : Got (TlbEntry × TlbEntry) :=
  match xlate s w seq asid va nd with
  | .miss v => .miss v
  | .fail c f => .fail c f
  | .ok e =>
    let last := va + n - 1
    if last / 65536 = va / 65536 then .ok (e, e) else
    match xlate s w seq asid (last / 65536 * 65536) nd with
    | .miss v => .miss v
    | .fail c f => .fail c f
    | .ok e2 => .ok (e, e2)

/-- The translation of byte `i` of such an access, and the byte's key. -/
def entryIn (es : TlbEntry × TlbEntry) (va i : Nat) : TlbEntry := if (va + i) / 65536 = va / 65536 then es.1 else es.2
def keyIn (s : State) (es : TlbEntry × TlbEntry) (va i : Nat) : Nat := (entryIn es va i).key s (va + i)

/-! The store queue seen by later loads (R167). -/

/-- The virtual address of the watermark of a 64-byte block (R58, R186). -/
def wmAddr (s : State) (asid ea : Nat) : Nat :=
  match s.space asid with
  | some d => d.wmbase + ea / 32
  | none => ea / 32

/-- Where a queued entry writes for a lane. -/
def entryTarget (s : State) (asid : Nat) (e : StoreEntry) (a : Nat) : Nat :=
  match e.kind with
  | .wmst => wmAddr s asid a
  | _ => a

/-- Whether two spaces name one store: global memory, or the same core's operand store. -/
def sameSpace (own : Nat) (p q : Space) : Bool :=
  match p, q with
  | .global, .global => true
  | .global, _ => false
  | _, .global => false
  | p, q => p.core own == q.core own

/-- The byte the newest earlier store of the warp still in its queue writes at an address; among lanes the highest
(R165). Only stores whose data the queue holds forward. (DEDUCED, log 13) -/
def fwdByte (s : State) (w : Nat) (x : Warp) (seq : Nat) (sp : Space) (a : Nat) : Option Byte :=
  (x.storeq.foldl (fun acc e =>
    if decide (e.seq < seq) && sameSpace (coreOf w) e.space sp && (match e.kind with
      | .store | .wmst => true
      | _ => false) then
      e.acc.foldl (fun acc l =>
        let t := entryTarget s x.asid e l.addr
        if decide (t ≤ a) && decide (a < t + l.bytes.length) then some (l.bytes.getD (a - t) 0) else acc) acc
    else acc) none)

/-- Whether an earlier reduction of the warp on these bytes is still queued or on its way: a load of them waits.
(DEDUCED, log 13) -/
def redAhead (s : State) (w : Nat) (x : Warp) (seq : Nat) (acc : List LaneAcc) (size : Nat) : Bool :=
  let hit := fun (a n : Nat) => acc.any (fun l => decide (l.addr < a + n) && decide (a < l.addr + size))
  x.storeq.any (fun e => decide (e.seq < seq) && (match e.kind with
    | .red _ _ | .redTrig => e.acc.any (fun l => hit l.addr e.size)
    | _ => false)) ||
  s.msgs.any (fun m => m.warp == w && (match m.body with
    | .red .. | .trig .. => x.unacked.contains m.id
    | _ => false))
/-- The pages that addresses of a space lie in (64 KiB, R278): with the physical page where one is mapped there. -/
def pagesIn (s : State) (w : Nat) (x : Warp) (sp : Space) (addrs : List Nat) : List (Bool × Nat × Nat) :=
  let c := coreOf w
  let k := s.core c
  let page := fun (asid va : Nat) => ((coreXlate s c asid va).orElse (fun _ => xlateNow s asid va ⟨false, false, false, false⟩)).map
    (fun e => e.key s va / 65536)
  match sp with
  | .global => ((addrs.map (· / 65536)).eraseDups).filterMap (fun p => (page x.asid (65536 * p)).map (fun q => (true, p, q)))
  | .spad => ((addrs.filter (fun a => decide (k.spad ≤ a))).filterMap (fun a => (stashWin s w x a).bind (fun wn =>
      let g := stashGlobal k wn a
      (page wn.asid g).map (fun q => (false, g / 65536, q))))).eraseDups
  | .peer .. => []
/-- The physical address that an address of a space reaches (R184). -/
def physOf (s : State) (w : Nat) (x : Warp) (sp : Space) (a : Nat) : Option Nat :=
  let c := coreOf w
  let key := fun (asid va : Nat) => ((coreXlate s c asid va).orElse (fun _ => xlateNow s asid va ⟨false, false, false, false⟩)).map
    (fun e => e.key s va)
  match sp with
  | .global => key x.asid a
  | .spad => if a < (s.core c).spad then none else (stashWin s w x a).bind (fun wn => key wn.asid (stashGlobal (s.core c) wn a))
  | .peer .. => none
/-- Whether an earlier store of the warp to the same bytes under another name (a stash window, a second address of the page) is
still queued: a load of them waits until it has left (R290). (DEDUCED, log 13) -/
def aliasAhead (s : State) (w : Nat) (x : Warp) (seq : Nat) (sp : Space) (acc : List LaneAcc) (size : Nat) : Bool :=
  let es := x.storeq.filter (fun e => decide (e.seq < seq))
  if es.isEmpty then false else
  let mine := pagesIn s w x sp (acc.map (·.addr))
  es.any (fun e =>
    let there := pagesIn s w x e.space (e.acc.map (fun l => entryTarget s x.asid e l.addr))
    mine.any (fun p => there.any (fun q => p.2.2 == q.2.2 && (p.1 != q.1 || p.2.1 != q.2.1))) &&
    e.acc.any (fun l => match physOf s w x e.space (entryTarget s x.asid e l.addr) with
      | none => false
      | some a => acc.any (fun m => match physOf s w x sp m.addr with
        | some b => decide (a < b + size) && decide (b < a + max 1 l.bytes.length)
        | none => false)))

/-! Stash lines (R184). -/

/-- A stash line that another window has filled from another place is given up: its registered words are written back
(R184, R272). (DESIGN CHOICE, log 18) -/
def stashYield (s : State) (c ln key : Nat) : State :=
  match mfind (s.core c).slines ln with
  | none => s
  | some t =>
    if t.dev = key / 128 * 128 then s else
    let s := deliverRegs s c (fun wd => wd / 32 == t.dev / 128)
    let s := (List.range 32).foldl (fun s j => if t.reg.getLsbD j then writeBackWord s (t.dev / 4 + j) false else s) s
    s.modCore c (fun k => { k with slines := mdel k.slines ln })
/-- Filling (or refreshing) a stash line from its home, keeping the core's registered words (R184, R270); a word with an
uncorrectable error is not held (R286). -/
def stashFill (s : State) (c ln key : Nat) : State :=
  let b := key / 128 * 128
  let s := stashYield s c ln key
  let s := forwardRead s (some c) b 128
  let bs := (List.range 128).map (fun i => fillByte s c (b + i))
  let old := (mfind (s.core c).slines ln).getD
    { grain := 1, valid := 0xF, fresh := 0, ver := [], reg := 0, part := [], gone := 0, wrote := [], data := [], dev := b }
  let bad := fun (key : Nat) => (ownByte (s.core c) key).isNone && homeErr s key 1
  let lost := (List.range 32).foldl (fun (m : BitVec 128) i =>
    if (List.range 4).any (fun j => bad (b + 4 * i + j)) then m ||| BitVec.ofNat 128 (2 ^ i) else m) 0
  let t : L1Tag :=
    { old with fresh := 1, gone := lost, ver := [(0, grainVer s 1 b)], dev := b, data := memWrite old.data 0 bs }
  s.modCore c (fun k => { k with slines := mset k.slines ln t })

/-- Whether a line filled from the place of `key` may serve its byte: the core's own, or fresh. -/
def stashReady (k : Core) (ln key : Nat) : Bool :=
  match mfind k.slines ln with
  | some t => t.dev == key / 128 * 128 && (t.own (key % 128) || (t.fresh.getLsbD 0 && !t.gone.getLsbD (key % 128 / 4)))
  | none => false

/-- A store into a filled stash line: the words register at home, as in L1 (R184, R272). -/
def stashStore (s : State) (c w ln key : Nat) (bs : List Byte) : State :=
  let o := key % 128
  if !keyLocal key then
    let upd := fun (t : L1Tag) => t.write s.clk o bs false
    sendMsg (s.modCore c (fun k => followStash (followL1 { k with slines := mmod k.slines ln upd } s.clk key bs) s.clk key bs (some ln))) w (.through key bs)
  else
    let words := (List.range ((o + bs.length - 1) / 4 + 1 - o / 4)).map (o / 4 + ·)
    let old := match mfind (s.core c).slines ln with
      | some t => t.reg
      | none => 0
    let s := words.foldl (fun s wd => storeMsg s c w (key / 128 * 32 + wd) (old.getLsbD wd)) s
    let upd := fun (t : L1Tag) => t.write s.clk o bs true
    let spadAt := stashAddr (s.core c) ln o
    let clean := fun (m : NMap Bool) => (List.range bs.length).foldl (fun m i => mdel m (spadAt + i)) m
    words.foldl (fun s wd => s.after 4096 (.l1Dryer c (key / 128 * 32 + wd)))
      (s.modCore c (fun k => followStash (followL1 { k with slines := mmod k.slines ln upd, eccBad := clean k.eccBad } s.clk key bs)
        s.clk key bs (some ln)))

/-- The translation of the stash line an STS of the warp writes at `a` (R184, R282): global address, space, and whether it
is held. -/
def stashXlate (s : State) (w : Nat) (x : Warp) (a : Nat) : Option (Nat × Nat × Got TlbEntry) :=
  let k := s.core (coreOf w)
  if a < k.spad then none else
  (stashWin s w x a).map (fun wn =>
    let g := stashGlobal k wn a
    (g, wn.asid, xlate s w issueSeq wn.asid g needRW))

/-- Writing back the registered words of a window's lines (R185). -/
def windowFlush (s : State) (c : Nat) (wn : Window) : State :=
  let s := deliverRegs s c (fun _ => true)
  (List.range wn.len).foldl (fun s i =>
    match mfind (s.core c).slines (wn.off + i) with
    | none => s
    | some t => (List.range 32).foldl (fun s j =>
        if t.reg.getLsbD j then writeBackWord s (t.dev / 4 + j) false else s) s) s

/-- Unmapping a window: its lines are dropped after the write-back (R185). -/
def windowUnmap (s : State) (c gi num : Nat) : State :=
  match (s.core c).wins.find? (fun wn => wn.gi == gi && wn.num == num) with
  | none => s
  | some wn =>
    (windowFlush s c wn).modCore c (fun k =>
      { k with wins := k.wins.filter (fun v => !(v.gi == gi && v.num == num)),
               slines := k.slines.filter (fun e => !(decide (wn.off ≤ e.1) && decide (e.1 < wn.off + wn.len))) })

/-! Loads. -/

/-- Whether a byte is served by the core's copy: a hit, or with `stale` any valid copy (R187). -/
def served (s : State) (c : Nat) (stale : Bool) (key : Nat) : Bool := l1Hit s c key || (stale && l1Has s c key)
/-- Whether a byte a core would read has an uncorrectable error where it reads it (R286). -/
def byteBad (s : State) (c : Nat) (stale : Bool) (key : Nat) : Bool :=
  if served s c stale key then mget (s.core c).l1Bad (key / 4) false else homeErr s key 1
/-- The bytes of one sector of a lane's load: the numbers, within the access, of those that no queued store gives. They are served
together (R298). -/
def loadRun (s : State) (w : Nat) (stale : Bool) (es : TlbEntry × TlbEntry) (va : Nat) (is : List Nat) : State :=
  let c := coreOf w
  match is with
  | [] => s
  | i :: _ =>
    if stale && is.all (fun i => l1Has s c (keyIn s es va i)) then s else
    let e := entryIn es va i
    l1Run s w c e.grain e.dev (is.map (keyIn s es va))
/-- One lane's global load: its bytes, each from the queue, the L1 or after a fill (R167). `stale` takes any valid L1
copy (R187). (DEDUCED, log 13) -/
def loadGlobal (s : State) (w seq : Nat) (stale : Bool) (va n : Nat) : Got (List Byte × State) :=
  let x := s.warpD w
  let c := coreOf w
  match xlateRange s w seq x.asid va n needR with
  | .miss v => .miss v
  | .fail a f => .fail a f
  | .ok es =>
    let fwd := fun (i : Nat) => fwdByte s w x seq .global (va + i)
    let is := (List.range n).filter (fun i => (fwd i).isNone)
    let runs := [is.filter (fun i => (va + i) / 32 == va / 32), is.filter (fun i => (va + i) / 32 != va / 32)]
    match is.find? (fun i => byteBad s c stale (keyIn s es va i)) with
    | some i => .fail 0x01 (BitVec.ofNat 64 (va + i))
    | none =>
      if runs.any (fun r => r.any (fun i => homeDown s (dieOf w) (keyIn s es va i)) &&
          !r.all (fun i => served s c stale (keyIn s es va i))) then .miss va else
      .ok (runs.foldl (fun (acc : List (Nat × Byte) × State) r =>
          let t := loadRun acc.2 w stale es va r
          (acc.1 ++ r.map (fun i => (i, l1Byte t c (keyIn t es va i))), t)) ([], s) |> fun r =>
        ((List.range n).map (fun i => (fwd i).getD ((r.1.find? (fun q => q.1 == i)).elim 0 (·.2))), r.2))

/-- One lane's load of its own scratchpad or stash (R159, R184); an error of the operand store is reported at a', one met
by the fill at the global address (R161, R286). -/
def loadOwn (s : State) (w seq a n : Nat) : Got (List Byte × State) :=
  let x := s.warpD w
  let c := coreOf w
  let k := s.core c
  let fwd := fun (s : State) (mem : Nat → Byte) =>
    ((List.range n).map (fun i => (fwdByte s w x seq .spad (a + i)).getD (mem i)), s)
  if a < k.spad then
    if (List.range n).any (fun i => mget k.eccBad (a + i) false) then .fail 0x01 (spaceFaddr .spad a)
    else .ok (fwd s (fun i => memByte k.opst (a + i)))
  else
    match stashWin s w x a with
    | none => .fail 0x08 (spaceFaddr .spad a)
    | some wn =>
      let g := stashGlobal k wn a
      let ln := (a - k.spad) / 128
      match xlate s w seq wn.asid g needR with
      | .miss v => .miss v
      | .fail cd f => .fail cd f
      | .ok e =>
        let key := e.key s g
        let need := (List.range n).filter (fun i => (fwdByte s w x seq .spad (a + i)).isNone)
        match need.find? (fun i => stashReady k ln (key + i) && mget k.eccBad (a + i) false),
          need.find? (fun i => !stashReady k ln (key + i) && homeErr s (key + i) 1) with
        | some _, _ => .fail 0x01 (spaceFaddr .spad a)
        | none, some i => .fail 0x01 (BitVec.ofNat 64 (g + i))
        | none, none =>
        let held := need.all (fun i => stashReady k ln (key + i))
        if !held && homeDown s (dieOf w) key then .miss g else
        let s1 := if held then s else stashFill s c ln key
        .ok (fwd s1 (fun i => match mfind (s1.core c).slines ln with
          | some t => memByte t.data (key % 128 + i)
          | none => 0))

/-- One lane's load of a peer's scratchpad (R160). -/
def loadPeer (s : State) (w seq : Nat) (sp : Space) (c a n : Nat) : Got (List Byte × State) :=
  let x := s.warpD w
  let k := s.core c
  if (List.range n).any (fun i => mget k.eccBad (a + i) false) then .fail 0x01 (spaceFaddr sp a)
  else .ok ((List.range n).map (fun i => (fwdByte s w x seq sp (a + i)).getD (memByte k.opst (a + i))), s)

def loadLane (s : State) (w seq : Nat) (sp : Space) (stale : Bool) (a n : Nat) : Got (List Byte × State) :=
  match sp with
  | .global => loadGlobal s w seq stale a n
  | .spad => loadOwn s w seq a n
  | .peer _ _ c => loadPeer s w seq sp c a n

/-- The loads of all lanes in ascending order; the first miss or failure is that of the lowest lane (R161). -/
def loadLanes (s : State) (w seq : Nat) (sp : Space) (stale : Bool) (n : Nat) :
    List LaneAcc → Got (List (Nat × List Byte) × State)
  | [] => .ok ([], s)
  | l :: r =>
    match loadLane s w seq sp stale l.addr n with
    | .miss v => .miss v
    | .fail c f => .fail c f
    | .ok (bs, s1) =>
      match loadLanes s1 w seq sp stale n r with
      | .miss v => .miss v
      | .fail c f => .fail c f
      | .ok (rest, s2) => .ok ((l.lane, bs) :: rest, s2)

/-- The value of a lane in a list of lane results. -/
def laneIn {α : Type} (d : α) (l : List (Nat × α)) (lane : Nat) : α :=
  match l.find? (fun e => e.1 == lane) with
  | some e => e.2
  | none => d

/-! Stores leaving the queue (R168, R169). -/

/-- The bytes of an access cut at 32-byte sectors (R163, R164, R298): address and bytes. -/
def sectorRuns (va : Nat) (bs : List Byte) : List (Nat × List Byte) :=
  let n := min bs.length (32 - va % 32)
  if bs.length ≤ n then (if bs.isEmpty then [] else [(va, bs)]) else [(va, bs.take n), (va + n, bs.drop n)]

/-- A global store of one lane. -/
def storeGlobal (s : State) (w : Nat) (es : TlbEntry × TlbEntry) (va : Nat) (bs : List Byte) : State :=
  (sectorRuns va bs).foldl (fun s r =>
    let e := entryIn es va (r.1 - va)
    l1Store s (coreOf w) w (keyIn s es va (r.1 - va)) e.grain e.dev r.2) s

/-- Writing bytes of a core's scratchpad. -/
def spadWrite (s : State) (c a : Nat) (bs : List Byte) : State :=
  let clean := fun (m : NMap Bool) => (List.range bs.length).foldl (fun m i => mdel m (a + i)) m
  s.modCore c (fun k => { k with opst := memWrite k.opst a bs, eccBad := clean k.eccBad })

/-- A store of one lane into its own scratchpad or stash. The stash line was found translated at issue. -/
def storeOwn (s : State) (w a : Nat) (bs : List Byte) : State :=
  let c := coreOf w
  let k := s.core c
  if a < k.spad then spadWrite s c a bs
  else
    match stashWin s w (s.warpD w) a with
    | none => s
    | some wn =>
      match xlateNow s wn.asid (stashGlobal k wn a) needRW with
      | none => s
      | some e =>
        let key := e.key s (stashGlobal k wn a)
        let ln := (a - k.spad) / 128
        let s := if (mfind k.slines ln).any (fun t => t.dev == key / 128 * 128) then s else stashFill s c ln key
        stashStore s c w ln key bs

/-! Atomics (R177, R178). -/

/-- The new value of one read-modify-write: `cmp` is D for .cas. Float forms keep subnormals and round to nearest. -/
def atomNew (op : AtomOp) (ty old b cmp : Nat) : Nat :=
  let n := if ty = 2 || ty = 3 then 64 else 32
  if ty = 4 then
    match op with
    | .add => (fp32.add .rn false old b).bits
    | .min => (fp32.minmax true false old b).bits
    | .max => (fp32.minmax false false old b).bits
    | _ => b
  else
    let sg := ty % 2 == 0
    match op with
    | .add => (old + b) % 2 ^ n
    | .min => if intOf n sg b < intOf n sg old then b else old
    | .max => if intOf n sg b > intOf n sg old then b else old
    | .and => old &&& b
    | .or => old ||| b
    | .xor => old ^^^ b
    | .exch => b
    | .cas => if old = cmp then b else old

/-- One read-modify-write at its home (R179, R180), in order of arrival (R75): the issuing core's registrations that are
still on their way come first (R290), the words are recalled, stores of others to the sector are whole (R298), and the issuing core
holds no older copy (R290, R291). -/
def rmwHome (s : State) (c key size : Nat) (f : Nat → Nat) : Nat × State :=
  let s := deliverRegs s c (fun wd => decide (key / 4 ≤ wd) && decide (wd ≤ (key + size - 1) / 4))
  let s := dropWords (recallWords (joinSectors s (some c) key size) key size) c key size
  let old := leNat ((List.range size).map (fun i => homeByte s (key + i)))
  (old, bumpVers (homePuts s key (leBytes size (f old))) key size)

/-- One read-modify-write of a scratchpad location. -/
def rmwSpad (s : State) (c a size : Nat) (f : Nat → Nat) : Nat × State :=
  let old := leNat (memRead (s.core c).opst a size)
  (old, spadWrite s c a (leBytes size (f old)))

/-- One step of RED.TRIG (R181): the new counter, and whether it went from 1 to 0. -/
def trigNew (old b : Nat) : Nat × Bool :=
  let low := old % 2 ^ 24
  let fl := (old / 2 ^ 24) ||| (b % 256)
  (fl * 2 ^ 24 + (low - 1), low == 1)

end Sys2Proof.Machine
end

