-- ==== Sys2Proof/Machine/Trace.lean ====
section
/-!
DEFINITION. The debug ring of a core (R389): records of samples, trace transfers, triggers and stops.
-/

namespace Sys2Proof.Machine

/-- A debug record (R387 to R389): warp, lane, kind, state and reason, pc, aux. (DEDUCED, log 52) -/
def debugRec (s : State) (w lane kind state reason pc aux : Nat) : List Byte :=
  leBytes 8 s.gtime ++ leBytes 2 w ++ leBytes 2 s.device ++ leBytes 1 lane ++ leBytes 1 kind ++ leBytes 1 state ++
    leBytes 1 reason ++ leBytes 8 (pc % 2 ^ 57) ++ leBytes 8 (aux % 2 ^ 57)

/-- Appending a record to a core's debug ring, which Toltar placed in HBM4E: a trace record overwritten before Toltar has read
it counts (R390). -/
def debugPut (s : State) (c : Nat) (bs : List Byte) : State :=
  let d := (s.core c).dbg
  if d.size = 0 then s else
  let a := d.base + 32 * (d.head % d.size)
  let full := decide (d.read + d.size ≤ d.head)
  let lost := full && homeByte s (a + 13) == 2
  (homeWrite s a bs).modCore c (fun k => { k with dbg := { k.dbg with
    head := d.head + 1, read := d.read + boolNat full, skipped := d.skipped + boolNat lost } })

/-- The state code of a lane in a debug record: 0 LIVE, 1 WAITING, 2 EXITED. -/
def laneState (x : Warp) (l : Nat) : Nat := if x.active.getLsbD l then 0 else if x.waiting.getLsbD l then 1 else 2

/-- Whether a core's trigger is capturing (R391). -/
def capturing (d : DebugBlock) : Bool := d.trig == .capturing || d.trig == .once

/-- A lane's program counter moves other than to the next issue group (R390): a kind-2 record if the lane is traced. -/
def traceMove (s : State) (w l src tgt : Nat) : State :=
  let d := (s.core (coreOf w)).dbg
  if capturing d && d.traced.any (fun e => e.2.warp == w && e.2.lane == l) then
    debugPut s (coreOf w) (debugRec s w l 2 (laneState (s.warpD w) l) 0 src tgt)
  else s
/-- The same for several lanes. -/
def traceMoves (s : State) (w : Nat) (m : LaneMask) (src tgt : Nat → Nat) : State :=
  (lanesOf m).foldl (fun s l => traceMove s w l (src l) (tgt l)) s

end Sys2Proof.Machine
end

