-- ==== Sys2Proof/Machine/Flags.lean ====
section
/-!
DEFINITION. Writing back: status flags (R52), the traps they enable (R53), the undo log (R394, R395), event counters
(R396) and causes that wait for their boundary (R495).
-/

namespace Sys2Proof.Machine

/-- The word offset of an address from the code base (R376). -/
def Warp.pcoff (x : Warp) (pc : Nat) : Nat := (((pc : Int) - x.codeBase) / 4 % 2 ^ 28).toNat

/-- Appending an undo entry while TMODE.dbg is 1 (R394): kind, flags, number, lanes, old full/empty bits, address, old
values. The ring of 4,096 entries of 160 bytes drops its oldest. -/
def undoPut (s : State) (w pc kind flags num lanes fe addr : Nat) (old : List Byte) : State :=
  let x := s.warpD w
  match x.undo with
  | none => s
  | some ring =>
    if !x.tmode.getLsbD 4 then s else
    let bs := leBytes 8 s.gtime ++ leBytes 4 (x.pcoff pc) ++ leBytes 1 kind ++ leBytes 1 flags ++ leBytes 2 num ++
      leBytes 4 lanes ++ leBytes 4 fe ++ leBytes 8 addr ++ padTo 128 old
    (vWriteD s x.asid (ring + 160 * (x.undoN % 4096)) bs).modWarp w (fun x => { x with undoN := x.undoN + 1 })

/-- The undo entry of one register write (R395): the destination of an issued instruction was full (R28, R35). -/
def undoReg (s : State) (w pc : Nat) (d : RegWrite) : State :=
  let x := s.warpD w
  match d with
  | .v r m _ => undoPut s w pc 1 0 r m.toNat m.toNat 0
      ((mget x.vreg r zeroVec).flatMap (fun v => leBytes 4 v.toNat))
  | .s r _ => undoPut s w pc 2 0 r 0 1 0 (leBytes 4 (x.s r).toNat)
  | .p n m _ => undoPut s w pc 3 0 n m.toNat 0 0 (leBytes 4 (x.p n).toNat)
  | .q n _ => undoPut s w pc 3 0 n 0 0 0 (leBytes 4 (boolNat (x.q n)))

/-- Writing registers back (R28), with their undo entries. -/
def writeRegs (s : State) (w pc : Nat) (ws : List RegWrite) : State :=
  let s := if (s.warpD w).tmode.getLsbD 4 then ws.foldl (fun s d => undoReg s w pc d) s else s
  s.modWarp w (fun x => x.writeAll ws)

/-- A cause waits for its boundary (R495). -/
def addPend (s : State) (w : Nat) (p : PendCause) : State :=
  (s.modWarp w (fun x => { x with pend := x.pend ++ [p] })).after (p.due - s.clk) (.trapEntry w)

/-- The flags raised in some lane that FPCTL enables as traps (R53). -/
def enabledRaised (en : Nat) (fl : List Nat) : Bool := fl.any (fun x => x &&& en != 0)

/-- FPCTL's trap enables, in flag order (R52: bits [13:8]). -/
def fpEnables (fpctl : Word) : Nat := natBits fpctl.toNat 13 8

/-- A finished result: registers and flags. -/
def finishResult (s : State) (w : Nat) (f : Flight) : State :=
  (writeRegs s w f.pc f.writes).modWarp w (fun x =>
    { x.addFlags f.lanes f.flags with flights := x.flights.filter (fun g => g.seq != f.seq) })

/-- Issuing a result of fixed latency (R28, R105): the destinations empty now, the values are written `lat` clk from
now. An instruction with ACT empty writes nothing (R83). A condition enabled in FPCTL holds the path until FP_TRAP is taken
once the result is written (R53, R495), outside handler mode (R375); it reports `adr`, the instruction's address or,
for the second of a fused pair, that of the first (R150). -/
def flyResult (s : State) (c : IssueCtx) (act : LaneMask) (ws : List RegWrite) (lat : Nat) (flags : List Nat)
    (adr : Nat) : State :=
  if act = 0 then s else
  let x := s.warpD c.warp
  let f : Flight :=
    { seq := x.nextSeq, pc := c.pc, w0 := c.w0, w1 := c.w1, lanes := act, kind := .result, writes := ws, acc := [],
      flags := flags, due := s.clk + lat, ucap := 0, ord := 0, fused := false,
      hmode := x.handler }
  let s := if enabledRaised (fpEnables c.fpctl) flags && !x.handler then
      addPend s c.warp { code := 0x0E, faddr := BitVec.ofNat 64 adr, lanes := c.path, due := s.clk + lat, entry := none }
    else s
  (s.modWarp c.warp (fun x =>
    { x.emptyAll ws with flights := x.flights ++ [f], nextSeq := x.nextSeq + 1 })).after lat (.resultWriteback c.warp f.seq)

end Sys2Proof.Machine
end

