-- ==== Sys2Proof/Machine/Save.lean ====
section
/-!
DEFINITION. The save area of a warp (R26), the special registers it holds (R42, R191), and what a core image says of a
warp (R399).
-/

namespace Sys2Proof.Machine

/-! The save area's sections (R26). -/

def pad64 (n : Nat) : Nat := (n + 63) / 64 * 64
def saveSpecial : Nat := 1024
def saveFpstat : Nat := 1216
def savePreds : Nat := 1344
def saveTiles : Nat := 1408
def saveUniBits : Nat := 1536
def saveUni : Nat := 1600
def saveVecBits (ns : Nat) : Nat := saveUni + pad64 (4 * ns)
def saveVec (nv ns : Nat) : Nat := saveVecBits ns + pad64 (4 * nv)
def saveBytes (nv ns : Nat) : Nat := saveVec nv ns + 128 * nv

/-! Special registers. -/

/-- The identifiers that have an entry in a state (R191). -/
def watchBits (x : Warp) (st : WatchState) : Nat :=
  (List.range 8).foldl (fun m i => if x.watch.any (fun e => e.wid == i && e.state == st) then m + 2 ^ i else m) 0

/-- The WATCH register (R191). -/
def watchReg (x : Warp) : Nat :=
  x.wauto.toNat * 2 ^ 24 + watchBits x .pending * 2 ^ 16 + watchBits x .struck * 256 + x.watch.length
/-- The value of a per-warp special register (R42). -/
def srRead (s : State) (w : Nat) (x : Warp) (n : Nat) : Nat :=
  match n with
  | 0x01 => w % 128
  | 0x02 => coreOf w % 96
  | 0x03 => dieOf w
  | 0x04 => s.device
  | 0x05 => x.stageReg.toNat
  | 0x06 => x.groups.toNat
  | 0x07 => x.prio.toNat
  | 0x08 => s.gtime
  | 0x09 => s.clock (dieOf w)
  | 0x0A => x.fpctl.toNat
  | 0x0C => x.trapbase.toNat
  | 0x0D => x.tmode.toNat
  | 0x0E => watchReg x
  | 0x0F => x.mctl.toNat
  | 0x10 => x.mstat.toNat
  | 0x11 => x.cause.toNat
  | 0x12 => x.faddr.toNat
  | _ => 0

/-! The whole area. -/

/-- The per-warp special registers of section 2, in order. -/
def savedRegs : List Nat := [1, 2, 3, 4, 5, 6, 7, 8, 9, 10, 12, 13, 14, 15, 16, 17, 18]
/-- One byte of predicates: registers 0 to 6, bit 7 set. -/
def predByte (f : Nat → Bool) : Byte :=
  BitVec.ofNat 8 (128 + (List.range 7).foldl (fun n i => n + boolNat (f i) * 2 ^ i) 0)
/-- Bits packed eight to a byte, lowest first. -/
def bitBytes (n : Nat) (f : Nat → Bool) : List Byte :=
  (List.range n).map (fun i => BitVec.ofNat 8 ((List.range 8).foldl (fun a j => a + boolNat (f (8 * i + j)) * 2 ^ j) 0))
/-- Sections 2 to 9. -/
def saveRest (s : State) (w : Nat) (x : Warp) : List Byte :=
  padTo 192 (savedRegs.flatMap (fun n => leBytes 8 (srRead s w x n))) ++
  padTo 128 (x.fpstat.flatMap (leBytes 4)) ++
  padTo 64 (allLanes.map (fun l => predByte (fun i => (x.p i).getLsbD l)) ++ [predByte x.q]) ++
  padTo 128 ((List.range 8).flatMap (fun i => leBytes 16 (mget x.tile i 0).toNat)) ++
  padTo 64 (bitBytes 48 (fun i => !sEmptyIn x.sE i)) ++
  padTo (pad64 (4 * x.ns)) ((List.range x.ns).flatMap (fun i => leBytes 4 (x.s i).toNat)) ++
  padTo (pad64 (4 * x.nv)) ((List.range x.nv).flatMap (fun i => leBytes 4 (~~~(vEmptyIn x.vE i)).toNat)) ++
  (List.range x.nv).flatMap (fun i => allLanes.flatMap (fun l => leBytes 4 (x.v i l).toNat))

/-- What a core image says of a warp (R399): source number, stage word, GROUPS, save area. -/
def warpNote (s : State) (src : Nat) (x : Warp) : List Byte :=
  leBytes 2 src ++ leBytes 4 x.stageReg.toNat ++ leBytes 8 x.groups.toNat ++
    (vRead s x.asid x.saveArea (saveBytes x.nv x.ns)).getD []
/-- The same of a warp that stands captured in its slot, whose control record alone is in memory: its other sections are
what its save would write. (DEDUCED, log 52) -/
def slotNote (s : State) (w : Nat) (x : Warp) : List Byte :=
  leBytes 2 w ++ leBytes 4 x.stageReg.toNat ++ leBytes 8 x.groups.toNat ++
    (vRead s x.asid x.saveArea saveSpecial).getD [] ++ saveRest s w x

end Sys2Proof.Machine
end

