-- ==== Sys2Proof/Machine/Ops.lean ====
section
/-!
DEFINITION. The shared operations of warps: ordering (R171 to R174), termination and retirement (R15, R210), capture
(R369 to R371), the control record (R376 to R378), TAKING A TRAP (`enterTrap`, R367, R368, R372, R384), RETURNING FROM
ONE (`returnFrom`, R213, R379), and issuing and re-issuing memory instructions (R167, R369).
-/

namespace Sys2Proof.Machine

/-- Running a meaning on the issuing group; without one, nothing happens. -/
def issuing (s : State) (k : IssueCtx → Warp → State) : Host.Outcome State Fault Refusal :=
  match s.issue with
  | none => .next s
  | some c => .next (k c (s.warpD c.warp))

/-! Ordering. -/

/-- Whether an issued instruction reads memory and has not yet performed. -/
def Pending.reads : Pending → Bool
  | .load .. | .watched .. | .wmLoad | .uload .. | .atom .. => true
  | _ => false

/-- Whether a FENCE scope (0 GROUP, 1 CORE, 2 PKG, 3 DOM) reaches past the core (R172). -/
def wideScope (s : State) (x : Warp) (scope : Nat) : Bool :=
  decide (2 ≤ scope) || (scope == 0 && (List.range 4).any (fun k => match x.group? k with
    | some g => (match mfind s.groups g with
      | some gi => gi.spread
      | none => false)
    | none => false))

/-- No load issued before `seq` is still to be performed. -/
def loadsDone (x : Warp) (seq : Nat) : Bool := !x.flights.any (fun f => decide (f.seq < seq) && f.kind.reads)

/-- Every load issued before `seq` has been performed, and every store has left the queue (R172). -/
def relDrained (x : Warp) (seq : Nat) : Bool := loadsDone x seq && !x.storeq.any (fun e => decide (e.seq < seq))
/-- The messages that the warps of a core sent before number `mark` are acknowledged; without a mark, all are (R293). -/
def coreAcked (s : State) (w : Nat) (mark : Option Nat) : Bool :=
  !s.msgs.any (fun m => coreOf m.warp == coreOf w && (match mark with
    | some n => decide (m.id < n)
    | none => true))
/-- The condition of FENCE.REL for what was issued before `seq` (R172, R293, R300). (DEDUCED, log 16) -/
def relDone (s : State) (w : Nat) (x : Warp) (seq : Nat) (wide : Bool) (mark : Option Nat) : Bool :=
  relDrained x seq && (!wide || (x.unacked.isEmpty && coreAcked s w mark))

/-- FENCE.ACQ's effect on the core (R172, R294). -/
def acquire (s : State) (w : Nat) (wide : Bool) : State := if wide then l1Invalidate s (coreOf w) else s

/-! Retirement and termination. -/

/-- The key under which a pre-empted warp stands in its groups. -/
def savedKey (id : Nat) : Nat := 10 ^ 6 + id

/-- A member leaves every group (R15); its barriers are then looked at again. -/
def leaveGroups (s : State) (key : Nat) (insts : List Nat) : State :=
  let s := { s with groups := s.groups.map (fun e =>
    (e.1, { e.2 with members := e.2.members.filter (· != key) })) }
  insts.foldl (fun s g => (List.range 16).foldl (fun s b => s.after 0 (.barrierPhaseComplete g b)) s) s

/-- Renaming a warp wherever commands and records name it: on pre-emption, resumption and retirement. -/
def rekeyWarp (s : State) (old new : Nat) : State :=
  let nm := fun (w : Nat) => if w = old then new else w
  let aw := fun (a : Await) => { a with warp := nm a.warp }
  let rc := fun (r : Record) => { r with spawner := nm r.spawner, wait := aw r.wait }
  let op := fun (o : PipeOp) => { o with warp := nm o.warp, wait := aw o.wait }
  let en := fun (e : PipeEntry) => { e with holder := nm e.holder }
  let ps := fun (q : PipeSt) => { q with entries := q.entries.map en, ops := q.ops.map op }
  let st := fun (g : Stage) => { g with ring := g.ring.map rc }
  let ctx := fun (k : RmeCtx) => { k with
    queue := k.queue.map (fun e => { e with warp := nm e.warp, bind := e.bind.map (fun b => (nm b.1, b.2)) })
    bindReg := k.bindReg.map (fun b => (nm b.1, b.2)) }
  let ev := fun (e : Event) => match e with
    | .svcAttest w => .svcAttest (nm w)
    | .svcDump w => .svcDump (nm w)
    | .svcMap w => .svcMap (nm w)
    | .svcUnmap w => .svcUnmap (nm w)
    | .svcLog w => .svcLog (nm w)
    | e => e
  { s with
    groups := s.groups.map (fun e => (e.1, { e.2 with
      members := e.2.members.map nm, arrived := e.2.arrived.map (fun a => (a.1, a.2.map nm)) }))
    plans := s.plans.map (fun e => (e.1, { e.2 with
      pipes := e.2.pipes.map (fun q => (q.1, ps q.2)), stages := e.2.stages.map st }))
    cores := s.cores.map (fun e => (e.1, { e.2 with
      chest := e.2.chest.map rc, bins := e.2.bins.map (fun b => (b.1, { b.2 with recs := b.2.recs.map rc })),
      rme := e.2.rme.map (fun k => (k.1, ctx k.2)), tce := e.2.tce.map (fun t => { t with warp := nm t.warp }),
      sumq := e.2.sumq.map (fun q => { q with warp := nm q.warp, wait := aw q.wait }) }))
    walks := s.walks.map (fun k => if decide (2 * 10 ^ 12 ≤ k.seq) then { k with src := nm k.src } else k)
    agenda := s.agenda.map (fun e => (e.1, ev e.2)) }
/-- The name of warps that are no more. -/
def deadKey : Nat := 10 ^ 9

/-- Walks of tensor copies and summaries are numbered apart. -/
def copySeq (wid : Nat) : Nat := 2 * 10 ^ 12 + wid
/-- They outlive the warp. -/
def engineWalk (k : Walk) : Bool := decide (copySeq 0 ≤ k.seq)

/-- The pipe unit looks for blocked stages of a plan one window from now (R349). -/
def watchDeadlock (s : State) (p : Nat) : State :=
  match mfind s.plans p with
  | none => s
  | some pl =>
    if s.agenda.any (fun e => match e.2 with
      | .deadlockReport q => q.plan == p
      | _ => false) then s
    else s.inTime (1000 * pl.window + 1) (.deadlockReport ⟨p, []⟩)

/-- A warp retires: its registers and slot return to the partition (R15). -/
def retireWarp (s : State) (w : Nat) : State :=
  let x := s.warpD w
  let s := dropWalks { s with warps := mdel s.warps w } (fun k => k.src == w && !engineWalk k)
  let s := rekeyWarp (leaveGroups s w x.insts) w deadKey
  let s := ((s.after 0 .planPlacement).after 0 (.stageEnd x.plan x.stage)).after 0 (.planStopped x.plan)
  ((s.after 0 (.deckleHandover x.plan)).after 0 (.warpFormation (coreOf w))).after 0 (.deadlockReport ⟨x.plan, []⟩)

/-! Slots of warps that are no more. -/

/-- Changing a pipe of a plan, and an entry of a pipe. -/
def State.modPipe (s : State) (p i : Nat) (f : PipeSt → PipeSt) : State :=
  s.modPlan p (fun q => { q with pipes := mmod q.pipes i f })
def PipeSt.modEntry (q : PipeSt) (seq : Nat) (f : PipeEntry → PipeEntry) : PipeSt :=
  { q with entries := q.entries.map (fun e => if e.seq = seq then f e else e) }
/-- A commit or an abandonment on a pipe whose consumer is another device's goes there as a remote write (R343), told as
report kind 7. -/
def tellCommit (s : State) (p pi : Nat) (q : PipeSt) (e : PipeEntry) : State :=
  match q.remote with
  | some (dev, false) =>
    s.tell 7 ([dev, p, pi, e.seq, e.status, e.producer, e.stamp, e.reserve] ++ e.offs ++ e.payload.map (fun (c : Host.Cell) => c.1 * 256 + c.2.toNat))
  | _ => s
/-- An entry becomes ABANDONED (R225, R228, R338): its payload is not defined. (DESIGN CHOICE, log 4) -/
def abandonSlot (p pi : Nat) (s : State) (e : PipeEntry) : State :=
  match (mfind s.plans p).bind (fun pl => mfind pl.pipes pi) with
  | none => s
  | some q =>
    let pay := memWrite [] 0 ((List.range q.bytes).map (fun i => Config.freeByte (s.free + i)))
    let f := { e with state := 1, status := 3, payload := pay }
    tellCommit ({ s with free := s.free + q.bytes }.modPipe p pi (fun q => q.modEntry e.seq (fun _ => f))) p pi q f
/-- The tensor copies of a warp still queued on any core whose destination, or source where `src` says so, is the slot a handle
names (R224, R231). -/
def copiesOn (s : State) (w h : Nat) (src : Bool) : List Nat :=
  s.cores.flatMap (fun c => (c.2.tce.filter (fun t => t.warp == w && (match vRead s t.asid t.desc 32 with
    | some d => (field d 17 1 == 3 && field d 8 8 % 2 ^ 28 == h % 2 ^ 28) ||
        (src && field d 16 1 == 3 && field d 0 8 % 2 ^ 28 == h % 2 ^ 28)
    | none => false))).map (·.wid))
/-- A handle (R222). -/
def pipeHandle (status pi slot seq : Nat) : Nat := status * 2 ^ 29 + pi % 64 * 2 ^ 22 + slot % 4096 * 2 ^ 10 + seq % 1024
/-- Slots a warp held when it exits (R228): reserved ones are ABANDONED, acquired ones released by the pipe unit; a slot
with an accepted PCMT or PREL is left to that command, and an acquired one that its queued copies name to the last of these
(R220). -/
def dropSlots (s : State) (w plan : Nat) : State :=
  match mfind s.plans plan with
  | none => s
  | some pl => pl.pipes.foldl (fun s q =>
    let asked := fun (k : Nat) (e : PipeEntry) => q.2.ops.any (fun o => o.kind == k && o.warp == w && o.seqNo == some e.seq)
    let s := (q.2.entries.filter (fun e => e.holder == w && e.state == 0 && !asked 1 e)).foldl (abandonSlot plan q.1) s
    let s := (q.2.entries.filter (fun e => e.holder == w && e.state == 2 && !asked 3 e &&
        (copiesOn s w (pipeHandle 0 q.1 e.slot e.seq) true).isEmpty)).foldl (fun s e =>
      s.modPipe plan q.1 (fun q => q.modEntry e.seq (fun e => { e with state := 3 }))) s
    (s.after 0 (.pacqFill plan q.1)).after 0 (.prelRecord plan q.1)) s

/-- Asking for a warp's termination at its next boundary (R210). -/
def askTerminate (s : State) (byToltar : Bool) (key : Nat) : State :=
  if key < 10 ^ 6 then
    (s.modWarp key (fun x => { x with termReq := true, byToltar := x.byToltar || byToltar })).after 1 (.warpTerminate key)
  else
    match s.saved.find? (fun v => savedKey v.id == key) with
    | none => s
    | some v =>
      let s := leaveGroups { s with saved := s.saved.filter (fun u => u.id != v.id) } key v.warp.insts
      let s := rekeyWarp (dropSlots s key v.warp.plan) key deadKey
      let s := if byToltar then s.modPlan v.warp.plan (fun p => { p with terminated := true }) else s
      s.after 0 (.stageEnd v.warp.plan v.warp.stage)

/-- The group instances in a warp's valid slots. -/
def Warp.groupList (x : Warp) : List Nat := (List.range 4).filterMap x.group?

/-- Terminating the members of groups (R210); a warp in no group alone (R375). -/
def terminateGroups (s : State) (w : Nat) (gs : List Nat) (byToltar : Bool) : State :=
  let ms := (gs.flatMap (fun g => match mfind s.groups g with
    | some gi => gi.members
    | none => [])).eraseDups
  (if gs.isEmpty then [w] else ms).foldl (fun s m => askTerminate s byToltar m) s

/-- The duties of a die (R421): 0 its fault queue, 1 queue numbers, 2 its delegation table, 3 the management endpoint.
While a duty has no owner, what waits on it stays (R423). -/
def dutyOwned (s : State) (die duty : Nat) : Bool := mget (s.die die).duties duty 0 != 0

/-- The supervisor external interrupt of the pair that owns a duty becomes pending (R417, R421): bit 9 of mip. -/
def svInterrupt (s : State) (die duty : Nat) : State :=
  match mget (s.die die).duties duty 0 with
  | 0 => s
  | h + 1 => { s with pairs := mmod s.pairs h (fun p => { p with csr := mset p.csr 0x344 (mget p.csr 0x344 0 ||| 0x200) }) }

/-- A change of Toltar's that peers or warps can see (R420): pair `h` writes its record, and the change takes effect when
`ev` comes again with the record in both copies. (DESIGN CHOICE, log 53) -/
def journaledBy (s : State) (h kind : Nat) (args : List Nat) (ev : Event) (eff : State → State) : State :=
  let is := fun (r : JournalRec) => r.kind == kind && r.args == args && !r.applied
  match (mget s.pairs h (Pair.fresh .spare)).journal.find? is with
  | some r =>
    if !r.mirrored then s else
    let mark := fun (q : JournalRec) => if is q then { q with applied := true } else q
    eff { s with pairs := mmod s.pairs h (fun p => { p with journal := p.journal.map mark }) }
  | none =>
    let r : JournalRec := { kind := kind, args := args, mirrored := false, applied := false }
    let s := { s with pairs := mmod s.pairs h (fun p => { p with journal := p.journal ++ [r] }) }
    (s.after s.lat.hop (.journalMirror h)).after s.lat.hop ev
/-- The same by the owner of a duty; without an owner nothing happens (R423). -/
def journaled (s : State) (die duty kind : Nat) (args : List Nat) (ev : Event) (eff : State → State) : State :=
  match mget (s.die die).duties duty 0 with
  | 0 => s
  | h + 1 => journaledBy s h kind args ev eff

/-- A trap, an SVC or an escalation goes to Toltar (R423): delivered to the owner of the die's delegation duty, or kept in order
of occurrence while there is none. (DESIGN CHOICE, log 9) -/
def tellToltar (s : State) (die kind : Nat) (args : List Nat) : State :=
  if dutyOwned s die 2 then svInterrupt (s.tell kind args) die 2
  else s.modDie die (fun d => { d with toltarq := d.toltarq ++ [⟨kind, args⟩] })
/-- Whether such an event, named by its kind and its first datum, has still to be delivered. -/
def undelivered (s : State) (kind key : Nat) : Bool :=
  s.dies.any (fun d => d.2.toltarq.any (fun r => r.kind == kind && r.args.head? == some key))
/-- What waited on a duty reaches its new owner (R423): the fault queue's interrupt; the held events, in arrival order. -/
def dutyCatchUp (s : State) (u : Nat × Nat) : State :=
  let d := s.die u.1
  if u.2 = 0 ∧ !d.fq.isEmpty then svInterrupt s u.1 0
  else if u.2 = 2 ∧ !d.toltarq.isEmpty then
    let s := d.toltarq.foldl (fun s r => s.tell r.kind r.args) s
    svInterrupt (s.modDie u.1 (fun d => { d with toltarq := [] })) u.1 2
  else s

/-- The record Toltar gets of a fault in handler mode: kind 1 with warp, cause and FADDR (R375). -/
def escalate (s : State) (w code : Nat) (faddr : DWord) : State :=
  let x := s.warpD w
  let s := { s with fallen := s.fallen ++ [(x.asid, w, code, faddr.toNat, slotNote s w x)] }
  let s := (tellToltar s (dieOf w) 1 [w, code, faddr.toNat]).modPlan x.plan (fun p => { p with terminated := true })
  let s := s.modWarp w (fun x => { x with pend := [] })
  (terminateGroups s w x.groupList true).after 0 (.coreImageDump x.asid)

/-! Capture. -/

/-- Whether an access needs the stash. -/
def stashAcc (s : State) (w : Nat) (acc : List LaneAcc) : Bool :=
  acc.any (fun l => decide ((s.core (coreOf w)).spad ≤ l.addr))

/-- A performed load's writes: the value of each lane, low half in the first register. -/
def loadWrites (f : Flight) (val : Nat → Nat) : List RegWrite :=
  f.writes.zipIdx.map (fun e => match e.1 with
    | .v r m _ => .v r m (laneVec (fun l => BitVec.ofNat 32 (val l / 2 ^ (32 * e.2))))
    | .s r _ => .s r (BitVec.ofNat 32 (val 0 / 2 ^ (32 * e.2)))
    | d => d)

/-- The replay entry of an issued instruction (R377). -/
def replayEntry (x : Warp) (f : Flight) (faulted reread : Bool) : BitVec 192 :=
  BitVec.ofNat 192 (f.w0.toNat + f.w1.toNat * 2 ^ 32 + f.lanes.toNat * 2 ^ 64 +
    (x.pcoff f.pc + boolNat faulted * 2 ^ 28 + boolNat reread * 2 ^ 30) * 2 ^ 96 + f.ucap.toNat * 2 ^ 128)

def Pending.isAtom : Pending → Bool
  | .atom .. => true
  | _ => false

/-- Capturing one issued instruction (R369): a result is written; an LDS that fills no stash line is performed; any
other becomes a replay entry, its destination full and holding the captured operand (R371). (DEDUCED, log 15) -/
def captureOne (w : Nat) (fault : Option Nat) (acc : State × List (BitVec 192) × Nat) (f : Flight) :
    State × List (BitVec 192) × Nat :=
  let s := acc.1
  let x := s.warpD w
  let faulted := decide (fault = some f.seq)
  let reps := acc.2.1 ++ [replayEntry x f faulted f.kind.isAtom]
  let idx := if faulted then acc.2.1.length else acc.2.2
  let again := (writeRegs s w f.pc f.writes, reps, idx)
  match f.kind with
  | .result => (finishResult s w f, acc.2)
  | .load .spad size signed =>
    if stashAcc s w f.acc then again else
    match loadLanes s w f.seq .spad false size f.acc with
    | .ok (vs, s1) =>
      (writeRegs s1 w f.pc (loadWrites f (fun l => extendLoad size signed (laneIn [] vs l))), acc.2)
    | _ => again
  | _ => again

/-- A global ATOM is past translation once its turn has come and every lane's translation is held and permits it
(R369, R370). (DEDUCED, log 15) -/
def atomSent (s : State) (w : Nat) (x : Warp) (f : Flight) : Bool :=
  x.storeq.isEmpty && loadsDone x f.seq && !x.pend.any (fun p => p.entry == some f.seq) &&
    f.acc.all (fun l => match xlate s w f.seq x.asid l.addr needRW with
      | .ok _ => true
      | _ => false)
/-- The instructions in flight that capture lets write back (R369). -/
def Flight.waitedFor (f : Flight) (s : State) (w : Nat) : Bool :=
  match f.kind with
  | .result => true
  | .load .spad .. => !stashAcc s w f.acc
  | _ => false
/-- Capture waits for every accepted LAUNCH and ENQ, for scratchpad and peer atomics and for a global one past translation
(R369). (DEDUCED, log 15) -/
def captureWaits (s : State) (w : Nat) (x : Warp) : Bool :=
  x.flights.any (fun f => match f.kind with
    | .launch .. | .enq .. => true
    | .atom _ _ .global _ => atomSent s w x f
    | .atom .. => true
    | _ => false)

/-- The watch table with some entries freed; the auto bit of an identifier whose last entry is freed clears (R190). -/
def Warp.keepWatch (x : Warp) (left : List WatchEntry) : Warp :=
  let gone := fun (i : Nat) => x.watch.any (fun e => e.wid == i) && !left.any (fun e => e.wid == i)
  { x with watch := left,
           wauto := x.wauto &&& ~~~(BitVec.ofNat 8 ((List.range 8).foldl (fun m i => if gone i then m + 2 ^ i else m) 0)) }

/-- A return from a trap under way. -/
def Hold.isReturn : Hold → Bool
  | .rett .. => true
  | _ => false
/-- An arrival that waits for the warp's earlier accesses (R205). -/
def Hold.isArrive : Hold → Bool
  | .arrive .. => true
  | _ => false
/-- The lanes that wait at BAR or BARW (R203). -/
def barHeld (x : Warp) : LaneMask :=
  x.holds.foldl (fun m h => match h with
    | .bar lanes .. => m ||| lanes
    | _ => m) 0
/-- The lanes of barw (R377): those that wait at BAR or BARW, with those that resumed at one and have not executed it again. -/
def barLanes (x : Warp) : LaneMask := maskOf (fun l => x.isolated.contains l) ||| barHeld x

/-- Whether an operation of a summary instruction, by XOP (R247), is a query. -/
def sumQuery (op : Nat) : Bool := op % 3 == 2
/-- The bytes of its summary (R248). -/
def sumSize (op : Nat) : Nat := if 3 ≤ op ∧ op ≤ 5 then 512 else 1024
/-- The address a register pair of a summary instruction gives. -/
def sumAddr (x : Warp) (r : Nat) (spad : Bool) : Nat := if spad then (x.s r).toNat else x.s64 r
/-- The queries of a warp leave its core's summary queue (R369). -/
def dropQueries (s : State) (w : Nat) : State :=
  let mine := fun (q : SumCmd) => sumQuery q.op && q.warp == w
  let gone := (s.core (coreOf w)).sumq.filter mine
  if gone.isEmpty then s else
  dropWalks (s.modCore (coreOf w) (fun k => { k with sumq := k.sumq.filter (fun q => !mine q) }))
    (fun k => gone.any (fun q => k.seq == copySeq q.wid))
/-- Capture (R369): the state with nothing in flight, the replay entries, the number of the faulting one (0xFF for
none), and the lanes that waited at a barrier; a cancelled LDW frees its watch entries. (DEDUCED, log 15 and 20) -/
def capture (s : State) (w : Nat) (fault : Option Nat) : State × List (BitVec 192) × Nat × LaneMask :=
  let x := s.warpD w
  let cancelled := fun (e : WatchEntry) => x.flights.any (fun f => f.seq == e.seq)
  let r := x.flights.foldl (captureOne w fault) (s, [], 0xFF)
  let s := r.1.modWarp w (fun x =>
    { x.keepWatch (x.watch.filter (fun e => !cancelled e)) with flights := [], holds := x.holds.filter Hold.isArrive, ffmas := [], isolated := [] })
  let s := (x.watch.filter (fun e => e.state == .pending)).foldl (fun s e => s.after s.lat.hop (.watchConfirm w e.grain)) s
  (dropQueries (dropWalks s (fun k => k.src == w && !engineWalk k && !x.storeq.any (fun e => e.seq == k.seq))) w, r.2.1, r.2.2,
    barLanes x)

/-! The control record (R376). -/

/-- A store-fault record's bytes (R378). -/
def sfBytes (r : SfRec) : List Byte := leBytes 8 r.addr.toNat ++ leBytes 4 r.lanes.toNat ++ leBytes 4 r.pc.toNat

def laneWords (f : Nat → Nat) : List Byte := allLanes.flatMap (fun l => leBytes 4 (f l))

/-- What a capture says beside the warp: replay entries, CAUSE and FADDR, the FADDR of the dropped causes, the lanes at
a barrier, bit 2 of the flags, and the struck lanes per watch identifier. -/
structure Captured where
  reps   : List (BitVec 192)
  cause  : Nat
  faddr  : Nat
  pfaddr : Nat
  barw   : Nat
  inHandler : Bool
  wmask  : Nat → Nat

def controlRecord (x : Warp) (k : Captured) : List Byte :=
  laneWords (fun l => x.pcoff (x.pc.getD l 0)) ++
  laneWords (fun l => (x.point.getD l 0 - x.codeBase) / 12) ++
  laneWords (fun l => (x.cmask.getD l 0).toNat) ++
  leBytes 4 x.active.toNat ++ leBytes 4 x.waiting.toNat ++ leBytes 4 x.exited.toNat ++
  leBytes 4 k.cause ++ leBytes 8 k.faddr ++ leBytes 4 (x.s 0).toNat ++ leBytes 4 (x.s 1).toNat ++
  (List.range 8).flatMap (fun i => leBytes 4 (k.wmask i)) ++
  leBytes 1 x.wauto.toNat ++ leBytes 1 (watchBits x .struck) ++ leBytes 1 k.reps.length ++ leBytes 1 x.sfq.length ++
  leBytes 4 (boolNat (!sEmptyIn x.sE 0) + 2 * boolNat (!sEmptyIn x.sE 1) + 4 * boolNat k.inHandler) ++
  leBytes 4 k.barw ++ leBytes 4 0 ++ leBytes 8 k.pfaddr ++
  padTo 288 (k.reps.flatMap (fun r => leBytes 24 r.toNat)) ++ padTo 256 (x.sfq.flatMap sfBytes) ++ leBytes 8 0

/-! Taking a trap. -/

/-- The pend bit of a dropped cause (R374): 0x0E to 0x12. -/
def pendBit (code : Nat) : Nat := if 0x0E ≤ code ∧ code ≤ 0x12 then 2 ^ (code - 0x0E) else 0

/-- Whether the stage's delegation word gives a cause to the warp's own handler (R384). -/
def delegated (s : State) (w : Nat) (x : Warp) (code : Nat) : Bool :=
  (mget (s.die (dieOf w)).deleg (16 * x.plan + x.stage) 0).getLsbD code && x.trapbase != 0

/-- Entering handler mode (R372): s0 and s1 name the control record; every lane that has not exited is LIVE at
TRAPBASE; the first group issues 32 clk after the record's write, which waits `delay` clk for the capture.
(DEDUCED, log 15) -/
def enterHandler (s : State) (w delay : Nat) : State :=
  let x := s.warpD w
  if ((x.trapbase.toNat : Int) - x.codeBase) % 12 ≠ 0 then
    escalate s w (x.cause.toNat % 256) x.faddr
  else
    let s := traceMoves s w (~~~x.exited) (fun l => x.pc.getD l 0) (fun _ => x.trapbase.toNat)
    s.modWarp w (fun x =>
      { x.writeAll (sWrites 2 0 x.saveArea) with
          active := ~~~x.exited, waiting := 0, pc := x.pc.map (fun _ => x.trapbase.toNat),
          age := List.replicate 32 0, aged := 0, point := List.replicate 32 0, cmask := List.replicate 32 0,
          laneWake := List.replicate 32 0, tmode := x.tmode ||| 1, wake := s.clk + delay + 32, captured := false,
          readySince := none, preTrapSeq := x.nextSeq, tokens := x.tokens.map (fun t => { t with preTrap := true }) })

/-- A trap with cause `code` at a boundary, its capture joined to replay entries, pend bits and pfaddr that stand
already (R379): the record is written into the save area; the warp's handler takes it, or Toltar (R384). In handler
mode it is a fault (R375), and so is any cause of a warp all of whose lanes have exited (R197; DESIGN CHOICE, log 66). -/
def trapWith (s : State) (w code : Nat) (faddr : DWord) (seq : Option Nat) (reps0 : List (BitVec 192))
    (pend0 : Nat) (pf0 : DWord) : State :=
  let x := s.warpD w
  if x.handler || x.active ||| x.waiting == 0 then escalate s w code faddr else
  let delay := x.flights.foldl (fun m f => if f.waitedFor s w then max m (f.due - s.clk) else m) 0
  let r := capture s w seq
  let x := r.1.warpD w
  let pend := x.pend.foldl (fun m p => m ||| pendBit p.code) pend0
  let pf := if pf0 ≠ 0 then pf0 else
    match x.pend.find? (fun p => pendBit p.code != 0) with
    | some p => p.faddr
    | none => 0
  let cause := code + r.2.2.1 * 256 + pend * 65536
  let reps := reps0 ++ r.2.1
  let rec_ := controlRecord x
    { reps := reps, cause := cause, faddr := faddr.toNat, pfaddr := pf.toNat, barw := r.2.2.2.toNat,
      inHandler := false, wmask := fun _ => 0 }
  let s := vWriteD r.1 x.asid x.saveArea rec_
  let s := if code = 1 then s.tell 13 [w, faddr.toNat] else s
  let toWarp := delegated s w x code
  let s := s.modWarp w (fun x =>
    { x with cause := BitVec.ofNat 32 cause, faddr := faddr, entryExited := x.exited, entryPc := x.pc, entryWaiting := x.waiting,
             entryNrep := reps.length, entryRep := reps, entryNsf := x.sfq.length, sfq := [], pend := [],
             captured := !toWarp, toltarPending := !toWarp })
  if toWarp then enterHandler s w delay else tellToltar s (dieOf w) 2 [w, code, faddr.toNat]

/-- The causes a warp could take now: those whose boundary has come, and STORE_FAULT while a record is pending that no
handler is at work on (R367, R375); once every lane has exited, any record (R197). -/
def readyCauses (s : State) (x : Warp) : List PendCause :=
  let sf := match x.sfq with
    | [] => []
    | r :: _ => if x.handler && x.exited != 0xFFFFFFFF && !x.sfq.any (·.hmode) then [] else
      [({ code := 0x0D, faddr := BitVec.ofNat 64 (r.addr.toNat % 2 ^ 57), lanes := 0, due := s.clk, entry := none }
        : PendCause)]
  sf ++ x.pend.filter (fun p => decide (p.due ≤ s.clk))

/-- The cause with the lowest code (R368). -/
def lowestPend (l : List PendCause) : Option PendCause :=
  l.foldl (fun m p => match m with
    | none => some p
    | some q => if p.code < q.code then some p else some q) none

/-- TAKING A TRAP at a boundary: the lowest cause, once capture can proceed (R368, R369). -/
def enterTrap (s : State) (w : Nat) : State :=
  let x := s.warpD w
  if x.captured || x.termReq || x.preRep.isSome then s else
  match lowestPend (readyCauses s x) with
  | none => s
  | some p =>
    if captureWaits s w x then s
    else trapWith (s.modWarp w (fun x => { x with pend := x.pend.erase p })) w p.code p.faddr p.entry [] 0 0

/-- Whether a warp stands between an FFMA and the EX2 that may fuse with it: one that issued in this clk, or in the last
with a path still to issue in this one (R149). -/
def ffmaOpen (s : State) (w : Nat) : Bool :=
  (s.warpD w).ffmas.any (fun n => n.clk == s.clk || (n.clk + 1 == s.clk && s.second.any (fun p => p.1 == w)))
/-- An at-issue cause (R367): the instruction and those after it in its group are cancelled, the lanes of the path
name its first word, and the trap is taken; between an FFMA and the EX2 that may fuse with it the next clk looks at it
again (R150). -/
def trapAtIssue (s : State) (c : IssueCtx) (code : Nat) (faddr : DWord) : State :=
  let s := { s with pend := [], issue := none }
  let s := s.modWarp c.warp (fun x =>
    { x.setPc c.path (fun _ => c.pc) with
        active := x.active ||| c.path, waiting := x.waiting &&& ~~~c.path, exited := x.exited &&& ~~~c.path })
  if ffmaOpen s c.warp then
    (s.modWarp c.warp (fun x =>
      { x with pend := { code := code, faddr := faddr, lanes := c.path, due := s.clk + 1, entry := none } :: x.pend })).after
        1 (.trapEntry c.warp)
  else enterTrap (s.modWarp c.warp (fun x =>
    { x with pend := { code := code, faddr := faddr, lanes := 0xFFFFFFFF, due := s.clk, entry := none } :: x.pend })) c.warp

/-- A replayable cause of an instruction in flight (R367, after translation or when data returns), for this boundary. -/
def trapInFlight (s : State) (w seq code : Nat) (faddr : DWord) : State :=
  let x := s.warpD w
  if x.pend.any (fun p => p.entry == some seq) then s else
  (s.modWarp w (fun x =>
    { x with pend := { code := code, faddr := faddr, lanes := 0xFFFFFFFF, due := s.clk, entry := some seq } :: x.pend })).after
      0 (.trapEntry w)

/-! Issuing memory instructions, and issuing them again from a replay entry. -/

/-- Putting an instruction in flight; its destinations empty (R28). -/
def fly (s : State) (w : Nat) (f : Flight) (ev : Event) : State :=
  (s.modWarp w (fun x =>
    { x.emptyAll f.writes with flights := x.flights ++ [f], nextSeq := max x.nextSeq (f.seq + 1) })).after
      (f.due - s.clk) ev

/-- A memory instruction that reads: its shape, and what it is for a warp's registers, lanes and space. -/
structure ReadOp where
  h    : Shape
  kind : Warp → List Nat → Space → Pending

/-- The extra latency unit: whether every byte of every lane is in the L1 now (R105: a load that hits takes 30 clk). -/
def hitsL1 (s : State) (w : Nat) (asid : Nat) (acc : List LaneAcc) (n : Nat) (stale : Bool) : Bool :=
  acc.all (fun l => (List.range n).all (fun i =>
    match coreXlate s (coreOf w) asid (l.addr + i) with
    | none => false
    | some e => l1Hit s (coreOf w) (e.key s (l.addr + i)) || (stale && l1Has s (coreOf w) (e.key s (l.addr + i)))))

/-- The clk until a reading instruction's first attempt (R105). (DESIGN CHOICE, log 2) -/
def readLatency (s : State) (w : Nat) (x : Warp) (sp : Space) (k : Pending) (size : Nat) (acc : List LaneAcc) : Nat :=
  let passes := bankPasses (acc.map (·.addr))
  match k, sp with
  | .atom .., .global => s.lat.hop
  | .watched .., _ => if hitsL1 s w x.asid acc size true then 30 else s.lat.miss
  | _, .global => if hitsL1 s w x.asid acc size false then 30 else s.lat.miss
  | _, .spad => if stashAcc s w acc then s.lat.miss else 24 + passes
  | _, .peer _ _ c => if c = coreOf w then 24 + passes else s.lat.hop + passes

/-- The event that performs a reading instruction. -/
def readEvent (w seq : Nat) (k : Pending) : Event :=
  match k with
  | .atom .. => .homeAtomic w seq
  | _ => .loadReturn w seq

/-- The flight of a reading instruction in the lanes `act`, from base and per-lane index. Until it is performed its
`writes` hold what a capture would leave in the destination (R371): the index for a load, the old value for an atomic
and for the second register of a pair. -/
def readFlight (s : State) (w : Nat) (x : Warp) (m : ReadOp) (sp : Space) (act : LaneMask) (base : Nat)
    (idx : Nat → Nat) (seq pc : Nat) (w0 w1 : Word) : Flight :=
  let acc := (lanesOf act).map (fun l => ({ lane := l, addr := m.h.addr base (idx l), bytes := [] } : LaneAcc))
  let k := m.kind x (lanesOf act) sp
  let old := fun (r : Nat) => RegWrite.v r act (mget x.vreg r zeroVec)
  let first := if k.isAtom then old m.h.d else .v m.h.d act (laneVec (fun l => BitVec.ofNat 32 (idx l)))
  { seq := seq, pc := pc, w0 := w0, w1 := w1, lanes := act, kind := k,
    writes := if m.h.n = 2 then [first, old (m.h.d + 1)] else [first], acc := acc, flags := [],
    due := s.clk + readLatency s w x sp k m.h.size acc,
    ucap := if k.isAtom then 0 else BitVec.ofNat 64 base, ord := m.h.ord, fused := false, hmode := x.handler }

/-- The grain a lane of an LDW touches: its key and code, none without translation or for a lane served from the
queue (R188). -/
def laneGrain (s : State) (w : Nat) (f : Flight) (l : LaneAcc) : Option (Nat × Nat) :=
  let x := s.warpD w
  if (fwdByte s w x f.seq .global l.addr).isSome then none else
  match coreXlate s (coreOf w) x.asid l.addr with
  | none => none
  | some e =>
    let key := e.key s l.addr
    some (key / grainBytes e.grain * grainBytes e.grain, e.grain)
/-- Whether a lane of an LDW of `n` bytes would take the L1 copy: it holds every byte of them (R187, R188). -/
def laneHeld (s : State) (w n : Nat) (l : LaneAcc) : Bool :=
  match coreXlate s (coreOf w) (s.warpD w).asid l.addr with
  | none => false
  | some e => (List.range n).all (fun i => l1Has s (coreOf w) (e.key s l.addr + i))
/-- The bytes of a watched load's lane. -/
def Pending.bytes (k : Pending) : Nat :=
  match k with
  | .watched size .. => size
  | _ => 0
/-- The watch entries an LDW makes (R188, R189): one per distinct grain in order of the lowest lane, as far as the table
has room; PENDING if a lane of it is served from the L1 copy. (DEDUCED, log 24) -/
def watchNew (s : State) (w : Nat) (f : Flight) (wid : Nat) : List WatchEntry :=
  let c := coreOf w
  let gs := f.acc.filterMap (fun l => (laneGrain s w f l).map (fun g => (l, g)))
  let es := gs.foldl (fun (acc : List WatchEntry) g =>
    let st : WatchState := if laneHeld s w f.kind.bytes g.1 then .pending else .confirmed
    if acc.any (fun e => e.grain == g.2.1) then
      acc.map (fun e => if e.grain == g.2.1 then
        { e with mask := e.mask ||| laneBit g.1.lane, state := if st = .pending then st else e.state } else e)
    else
      acc ++ [{ grain := g.2.1, wid := wid, mask := laneBit g.1.lane, state := st,
                ver := l1Ver s c g.2.1, size := g.2.2, seq := f.seq }]) []
  es.take (32 - (s.warpD w).watch.length)
/-- Making them (R188); WATCH.auto records lanes without one (R189). -/
def addWatches (s : State) (w : Nat) (f : Flight) (wid : Nat) : State :=
  let new := watchNew s w f wid
  let spare := fun (l : LaneAcc) => match laneGrain s w f l with
    | some g => !new.any (fun e => e.grain == g.1)
    | none => false
  s.modWarp w (fun x =>
    { x with watch := x.watch ++ new, wauto := if f.acc.any spare then x.wauto ||| BitVec.ofNat 8 (2 ^ wid) else x.wauto })
/-- At issue, if every lane has its translation. (DEDUCED, log 24) -/
def watchAtIssue (s : State) (w : Nat) (f : Flight) : State :=
  match f.kind with
  | .watched size signed wid _ =>
    if f.acc.all (fun l => (coreXlate s (coreOf w) (s.warpD w).asid l.addr).isSome) then
      (addWatches s w f wid).modWarp w (fun x => { x with
        flights := x.flights.map (fun g => if g.seq = f.seq then { g with kind := .watched size signed wid true } else g) })
    else s
  | _ => s
/-- The entries of an LDW of `n` bytes when it performs: PENDING for the grains of which the L1 serves a lane now (R188). -/
def refreshWatch (s : State) (w : Nat) (f : Flight) (n : Nat) : State :=
  let c := coreOf w
  let held := fun (e : WatchEntry) => f.acc.any (fun l => e.mask.getLsbD l.lane && laneHeld s w n l)
  s.modWarp w (fun x => { x with watch := x.watch.map (fun e =>
    if e.seq = f.seq then
      { e with state := if held e then .pending else .confirmed, ver := l1Ver s c e.grain }
    else e) })

/-- Issuing a load or atomic (R167, R177): the checks before any effect, then the flight. -/
def issueRead (s : State) (i : Instr) (m : ReadOp) : Host.Outcome State Fault Refusal :=
  issuing s (fun c x =>
    let act := c.act x i
    let base := m.h.base x
    let (sp, ok) := m.h.spaceOf s c.warp x base
    let stash := sp == .spad && !(m.kind x [] sp).isAtom
    let causes := (lanesOf act).map (fun l => laneCause s c.warp x m.h sp ok true stash (m.h.addr base (m.h.index x l)))
    match lowestCause (causes ++ [(feCause c x i).map (fun f => (0x09, f))]) with
    | some (code, fa) => trapAtIssue s c code fa
    | none =>
      if act = 0 then s else
      let f := readFlight s c.warp x m sp act base (m.h.index x) x.nextSeq c.pc c.w0 c.w1
      watchAtIssue (fly s c.warp f (readEvent c.warp f.seq f.kind)) c.warp f)

/-- A fence, DRAINST or MFENCE in flight until its condition holds (R172 to R174, R246). -/
def holdFlight (s : State) (w : Nat) (act : LaneMask) (h : Nat → Hold) (pc : Nat) (w0 w1 : Word) : State :=
  let x := s.warpD w
  let f : Flight :=
    { seq := x.nextSeq, pc := pc, w0 := w0, w1 := w1, lanes := act, kind := .hold, writes := [], acc := [],
      flags := [], due := s.clk, ucap := BitVec.ofNat 64 s.nextId, ord := 0, fused := false, hmode := x.handler }
  s.modWarp w (fun x => { x with flights := x.flights ++ [f], nextSeq := x.nextSeq + 1, holds := x.holds ++ [h x.nextSeq] })

/-! The reading instructions as data: what each is (R166, R176, R186, R187). -/

def loadOp (h : Shape) : ReadOp := { h := h, kind := fun _ _ sp => .load sp h.size h.signed }
/-- An atomic of any space: B is the operand (R176). -/
def atomOp (op : AtomOp) (h : Shape) (f : LongF) : ReadOp :=
  { h := h, kind := fun x ls sp => .atom op f.ty sp (ls.map (fun l => BitVec.ofNat 64 (x.opB f h.n l))) }
/-- WMLD's address operands (R186). -/
def wmShape (f : LongF) : Shape := longShape 0 64 false 1 0 0 true f

/-- The reading instruction an instruction is. -/
def readOpOf (i : Instr) : Option ReadOp :=
  match i with
  | .ldShort f => some (loadOp (shortShape 0 f))
  | .ldsShort f => some (loadOp (shortShape 1 f))
  | .ld f => some (loadOp (mtShape 0 0 f.lo (f.lo != 0) f))
  | .lds f => some (loadOp (mtShape 1 f.lo 0 true f))
  | .ldr f => some (loadOp (mtShape 2 f.lo 0 true f))
  | .ldw f =>
    let h := mtShape 0 0 0 true f
    some { h := h, kind := fun _ _ _ => .watched h.size h.signed f.lo false }
  | .wmld f => some { h := wmShape f, kind := fun _ _ _ => .wmLoad }
  | .atomAdd f => some (atomOp .add (atomShape 0 0 f.lo f) f)
  | .atomMin f => some (atomOp .min (atomShape 0 0 f.lo f) f)
  | .atomMax f => some (atomOp .max (atomShape 0 0 f.lo f) f)
  | .atomAnd f => some (atomOp .and (atomShape 0 0 f.lo f) f)
  | .atomOr f => some (atomOp .or (atomShape 0 0 f.lo f) f)
  | .atomXor f => some (atomOp .xor (atomShape 0 0 f.lo f) f)
  | .atomExch f => some (atomOp .exch (atomShape 0 0 f.lo f) f)
  | .atomCas f => some (atomOp .cas (atomShape 0 0 f.lo f) f)
  | .atomSpadAdd f => some (atomOp .add (atomShape 1 f.lo 0 f) f)
  | .atomSpadMin f => some (atomOp .min (atomShape 1 f.lo 0 f) f)
  | .atomSpadMax f => some (atomOp .max (atomShape 1 f.lo 0 f) f)
  | .atomSpadAnd f => some (atomOp .and (atomShape 1 f.lo 0 f) f)
  | .atomSpadOr f => some (atomOp .or (atomShape 1 f.lo 0 f) f)
  | .atomSpadXor f => some (atomOp .xor (atomShape 1 f.lo 0 f) f)
  | .atomSpadExch f => some (atomOp .exch (atomShape 1 f.lo 0 f) f)
  | .atomSpadCas f => some (atomOp .cas (atomShape 1 f.lo 0 f) f)
  | .atomPeerAdd f => some (atomOp .add (atomShape 2 f.lo 0 f) f)
  | .atomPeerMin f => some (atomOp .min (atomShape 2 f.lo 0 f) f)
  | .atomPeerMax f => some (atomOp .max (atomShape 2 f.lo 0 f) f)
  | .atomPeerAnd f => some (atomOp .and (atomShape 2 f.lo 0 f) f)
  | .atomPeerOr f => some (atomOp .or (atomShape 2 f.lo 0 f) f)
  | .atomPeerXor f => some (atomOp .xor (atomShape 2 f.lo 0 f) f)
  | .atomPeerExch f => some (atomOp .exch (atomShape 2 f.lo 0 f) f)
  | .atomPeerCas f => some (atomOp .cas (atomShape 2 f.lo 0 f) f)
  | _ => none

/-- The flight of an SLD from its effective address (R135, R371). -/
def sldFlight (s : State) (w : Nat) (x : Warp) (act : LaneMask) (sd size ea seq pc : Nat) (w0 w1 : Word) : Flight :=
  let acc := [({ lane := 0, addr := ea, bytes := [] } : LaneAcc)]
  { seq := seq, pc := pc, w0 := w0, w1 := w1, lanes := act, kind := .uload sd size,
    writes := sWrites (size / 4) sd (x.sn (size / 4) sd), acc := acc, flags := [],
    due := s.clk + (if hitsL1 s w x.asid acc size false then 30 else s.lat.miss), ucap := BitVec.ofNat 64 ea, ord := 0,
    fused := false, hmode := x.handler }

/-- The destination and bytes of an SLD. -/
def sldOf (i : Instr) : Option (Nat × Nat) :=
  match i with
  | .sldShort f => some (f.d.toNat, 4)
  | .sld f => some (f.d.toNat, if f.m.getLsbD 0 then 8 else 4)
  | _ => none

/-- The fence an instruction waits on while in flight (R172 to R174); MFENCE's M[0] names the context, M[2:1] its
kind (R241). -/
def holdOf (i : Instr) : Option (Nat → Hold) :=
  match i with
  | .fence f => some (fun q => .fence f.d.toNat (f.m.toNat % 4) q none)
  | .fenceSc f => some (fun q => .fenceSc (f.m.toNat % 4) q false none)
  | .drainst _ => some .drain
  | .mfence f => some (.mfence (mfenceCtx f) (mfenceKind f))
  | _ => none
where
  mfenceCtx (f : LongF) : Nat := natBits f.m.toNat 0 0
  mfenceKind (f : LongF) : Nat := natBits f.m.toNat 2 1

/-- A summary query goes to its core's queue (R250), and the instruction is in flight: captured, its first destination
holds the quantiles asked for, other destinations what they held (R371). (DEDUCED, log 43) -/
def askSummary (s : State) (w : Nat) (x : Warp) (op reg : Nat) (spad : Bool) (dst : Nat) (act : LaneMask) (v : Nat → Word)
    (seq pc : Nat) (w0 w1 : Word) : State :=
  let q : SumCmd :=
    { op := op, warp := w, reg := reg, wid := s.nextId, coin := 0, spad := spad, dst := dst, src := dst,
      acc := (lanesOf act).map (fun l => (l, v l)), wait := ⟨w, x.nextSeq, false, []⟩, seq := seq, asid := x.asid, lanes := act,
      pc := pc }
  let old := fun (r : Nat) => RegWrite.v r act (laneVec (fun l => if op = 2 then v l else x.v r l))
  let f : Flight :=
    { seq := seq, pc := pc, w0 := w0, w1 := w1, lanes := act, kind := .query,
      writes := if op = 5 then [old reg, old (reg + 1)] else [old reg], acc := [], flags := [], due := s.clk + 8,
      ucap := BitVec.ofNat 64 dst, ord := 0, fused := false, hmode := x.handler }
  fly (s.usedId.modCore (coreOf w) (fun k => { k with sumq := k.sumq ++ [q] })) w f (.summaryPerform (.core (coreOf w)))
/-- The query an instruction is: its operation and fields. -/
def queryOf (i : Instr) : Option (Nat × LongF) :=
  match i with
  | .skq f => some (2, f)
  | .hhtop f => some (5, f)
  | .dcest f => some (8, f)
  | _ => none

/-- Re-injecting one replay entry (R369, R377): decoded again, it acts from its captured operands for its lanes that
have not exited, or from the registers where reread is set. -/
def reinjectOne (w : Nat) (s : State) (e : BitVec 192) : State :=
  let x := s.warpD w
  let w0 := e.extractLsb' 0 32; let w1 := e.extractLsb' 32 32
  let lanes := e.extractLsb' 64 32 &&& ~~~x.exited
  let off := (e.extractLsb' 96 28).toNat
  let skip := e.getLsbD 125
  let reread := e.getLsbD 126
  let ucap := (e.extractLsb' 128 64).toNat
  let pc := x.codeBase + 4 * off
  if skip || lanes = 0 then s else
  match decode w0 (some w1) with
  | .error _ => s
  | .ok i =>
    match readOpOf i with
    | some m =>
      let base := if reread then m.h.base x else ucap
      let sp := (m.h.spaceOf s w x base).1
      let idx := if reread then m.h.index x else fun l => if m.h.idx.isSome then (x.v m.h.d l).toNat else 0
      let f := readFlight s w x m sp lanes base idx x.nextSeq pc w0 w1
      fly s w f (readEvent w f.seq f.kind)
    | none =>
      match sldOf i with
      | some (sd, size) => fly s w (sldFlight s w x lanes sd size ucap x.nextSeq pc w0 w1) (.loadReturn w x.nextSeq)
      | none =>
        match holdOf i, queryOf i with
        | some h, _ => holdFlight s w lanes h pc w0 w1
        | none, some (op, f) => askSummary s w x op f.d.toNat (f.m.getLsbD 2) ucap lanes (x.v f.d.toNat) x.nextSeq pc w0 w1
        | none, none => s

/-! Convergence (R199). -/

/-- Whether an address lies in the loop that the partition of a warp has captured (R45). -/
def inLoop (s : State) (w a : Nat) : Bool :=
  match mfind (s.core (coreOf w)).loops (partOf w) with
  | some (lo, hi) => decide (lo ≤ a) && decide (a < hi + 12)
  | none => false
/-- The clk in which lanes may issue that have moved to `t`, where `next` is the next clk (R45): four more unless they
fetch from the loop buffer. -/
def branchWake (s : State) (w next src t : Nat) : Nat := if inLoop s w src && inLoop s w t then next else next + 4

/-- Releasing every point whose lanes have all arrived or exited; from `next` on they may issue, or four clk later (R45).
Their program counters name the point already. (DESIGN CHOICE, log 61) -/
def releasePoints (s : State) (w next : Nat) : State :=
  let x := s.warpD w
  let at_ := fun (p : Nat) => maskOf (fun l => x.waiting.getLsbD l && x.point.getD l 0 == p)
  let need := fun (m : LaneMask) => (lanesOf m).foldl (fun u l => u ||| x.cmask.getD l 0) (0 : LaneMask)
  let free := maskOf (fun l => x.waiting.getLsbD l &&
    (let m := at_ (x.point.getD l 0); need m &&& ~~~(m ||| x.exited) == 0))
  if free = 0 then s else
  s.modWarp w (fun x =>
    { x.setPc free (fun l => x.point.getD l 0) with
        active := x.active ||| free, waiting := x.waiting &&& ~~~free,
        age := merge free (List.replicate 32 0) x.age 0,
        laneWake := merge free (x.point.map (fun p => branchWake s w next p p)) x.laneWake 0 })

/-- A warp all of whose lanes have exited waits for its stores and tokens; a store fault it has left goes to Toltar (R197). -/
def checkExit (s : State) (w : Nat) : State :=
  let x := s.warpD w
  if x.exited = 0xFFFFFFFF && !x.holds.contains .retire && !x.captured then
    let s := (s.modWarp w (fun x => { x with holds := x.holds ++ [.retire] })).after 0 (.warpRetire w)
    if (readyCauses s x).isEmpty then s else s.after 0 (.trapEntry w)
  else s

/-! Return (R213, R379). -/

/-- RETURNING FROM A TRAP: the record is read back as the handler (or Toltar) left it and checked; the lanes resume
from it, s0 and s1 come back, and the replay queue is injected again, or the warp traps again at once on what is still
pending; with every lane exited it retires. `ret` is the address reported if a check fails. (DEDUCED, log 17; ages and
delays: log 61) -/
def returnFrom (s : State) (w ret : Nat) : State :=
  let x := s.warpD w
  let bad := escalate s w 0x04 (BitVec.ofNat 64 ret)
  match vRead s x.asid x.saveArea 1024 with
  | none => bad
  | some r =>
    let f := field r
    let act := BitVec.ofNat 32 (f 0x180 4); let wait := BitVec.ofNat 32 (f 0x184 4)
    let exi := BitVec.ofNat 32 (f 0x188 4)
    let cause := f 0x18C 4
    let pend := cause / 65536 % 256
    let nrep := f 0x1C2 1; let nsf := f 0x1C3 1; let fl := f 0x1C4 4
    let entries := (List.range (min nrep 12)).map (fun i => BitVec.ofNat 192 (f (0x1D8 + 24 * i) 24))
    let kept := entries.filter (fun e => !e.getLsbD 125)
    let skipBit := BitVec.ofNat 192 (2 ^ 125)
    let same := fun (i : Nat) => (entries.getD i 0 ||| skipBit) == (x.entryRep.getD i 0 ||| skipBit)
    let ok := act &&& wait == 0 && act &&& exi == 0 && wait &&& exi == 0 && act ||| wait ||| exi == 0xFFFFFFFF &&
      x.entryExited &&& ~~~exi == 0 && decide (nrep ≤ x.entryNrep) && decide (nsf ≤ x.entryNsf) &&
      (List.range (min nrep 12)).all same && pend &&& (x.cause.toNat / 65536 % 256) == pend
    if !ok then bad else
    let pcs := allLanes.map (fun l => x.codeBase + 4 * (f (4 * l) 4 % 2 ^ 28))
    let pts := allLanes.map (fun l => x.codeBase + 12 * f (0x80 + 4 * l) 4)
    let fresh := wait &&& ~~~x.entryWaiting
    let live := maskOf (fun l => wait.getLsbD l && x.entryWaiting.getLsbD l && pcs.getD l 0 != pts.getD l 0)
    let recs := (List.range nsf).map (fun i => (
      { addr := BitVec.ofNat 64 (f (0x2F8 + 16 * i) 8),
        lanes := BitVec.ofNat 32 (f (0x2F8 + 16 * i + 8) 4), pc := BitVec.ofNat 32 (f (0x2F8 + 16 * i + 12) 4),
        hmode := false } : SfRec))
    let barw := maskOf (fun l => (f 0x1C8 4).testBit l && pcs.getD l 0 == x.entryPc.getD l 0)
    let back := fun (x : Warp) =>
      ((x.writeAll [.s 0 (BitVec.ofNat 32 (f 0x198 4)), .s 1 (BitVec.ofNat 32 (f 0x19C 4))]).setSE 0
        (!fl.testBit 0)).setSE 1 (!fl.testBit 1)
    let src := fun (l : Nat) => if x.captured then x.pc.getD l 0 else ret
    let masks := allLanes.map (fun l => if fresh.getLsbD l then laneBit l else BitVec.ofNat 32 (f (0x100 + 4 * l) 4))
    let s := s.modWarp w (fun x =>
      { back x with
          pc := pcs, point := merge fresh pcs pts 0,
          cmask := masks,
          active := act ||| live, waiting := wait &&& ~~~live, exited := exi,
          tmode := x.tmode &&& ~~~(0xB : Word), captured := false, toltarPending := false, sfq := recs ++ x.sfq,
          isolated := lanesOf barw, holds := x.holds.filter Hold.isArrive, age := List.replicate 32 0, aged := 0,
          laneWake := allLanes.map (fun l => branchWake s w (s.clk + 1) (src l) (pcs.getD l 0)), readySince := none,
          tokens := x.tokens.map (fun t => { t with preTrap := false }) })
    let s := traceMoves s w (~~~exi) src (fun l => pcs.getD l 0)
    let s := releasePoints s w (s.clk + 1)
    let pf := BitVec.ofNat 64 (f 0x1D0 8)
    if nsf = 0 && pend = 0 then checkExit (kept.foldl (reinjectOne w) s) w else
    match recs ++ x.sfq, (List.range 5).find? (fun b => pend.testBit b) with
    | q :: _, _ => trapWith s w 0x0D (BitVec.ofNat 64 (q.addr.toNat % 2 ^ 57)) none kept pend pf
    | [], some b =>
      let rest := pend - 2 ^ b
      trapWith s w (0x0E + b) pf none kept rest (if rest = 0 then 0 else pf)
    | [], none => s

/-! Arrivals (R203 to R205). -/

/-- The phase of a barrier. -/
def GroupInst.phase (g : GroupInst) (b : Nat) : Nat := mget g.phases b 0
/-- Arriving, once per phase (R204). -/
def arrive (s : State) (w gi slot b : Nat) : State :=
  match mfind s.groups gi with
  | none => s
  | some g =>
    if (mget g.arrived b []).contains w then s else
    let s := s.modGroup gi (fun g => { g with arrived := mset g.arrived b (mget g.arrived b [] ++ [w]) })
    (s.modWarp w (fun x => { x with barArr := mset x.barArr (16 * slot + b) (g.phase b) })).after 0
      (.barrierPhaseComplete gi b)

/-! Settling: what becomes possible once something of a warp has finished. -/

/-- Whether a matrix context's commands accepted before `bound` let an MFENCE go (R246): kind 0 waits for the MLOADs
and MLOOPs, kind 1 and 2 for all. -/
def mfenceDone (s : State) (w ctx kind bound : Nat) : Bool :=
  !(s.ctx (coreOf w) ctx).queue.any (fun e => decide (e.seq < bound) && (match e.cmd with
    | .mload .. => true
    | .mloop .. => kind != 0 || e.phase != 3
    | _ => kind != 0))

/-- Putting a hold in another's place. -/
def putHold (s : State) (w : Nat) (h g : Hold) : State := s.modWarp w (fun x => { x with holds := g :: x.holds.erase h })
/-- Dropping a hold and the flight it belongs to. -/
def endHold (s : State) (w : Nat) (h : Hold) (seq : Nat) : State :=
  s.modWarp w (fun x => { x with holds := x.holds.erase h, flights := x.flights.filter (fun f => f.seq != seq) })

/-- The room of the store-fault record queue (R380). -/
def sfRoom (x : Warp) : Nat := if x.handler || x.captured then 16 - x.entryNsf else 16
/-- A failed store without room for its record holds the store queue (R380), and neither DRAINST nor RETT of the handler
waits for it. (DEDUCED, log 30) -/
def storesHeld (x : Warp) : Bool :=
  x.storeq.head?.elim false (fun e => e.fail.isSome) && decide (sfRoom x ≤ x.sfq.length)

/-- Handler stores into the control record that stand behind held user stores are made before RETT reads the record, which
is taken as the handler left it (R213, R380). (DEDUCED, log 30) -/
def landRecord (s : State) (w : Nat) : State :=
  let x := s.warpD w
  let own := fun (e : StoreEntry) => e.hmode && e.space == .global && e.kind == .store &&
    e.acc.all (fun l => decide (x.saveArea ≤ l.addr) && decide (l.addr + l.bytes.length ≤ x.saveArea + 1024))
  let s := (x.storeq.filter own).foldl (fun s e => e.acc.foldl (fun s l => vWriteD s x.asid l.addr l.bytes) s) s
  s.modWarp w (fun x => { x with storeq := x.storeq.filter (fun e => !own e) })

/-- One hold, looked at (R172 to R174, R197, R246, R379). -/
def settleHold (w : Nat) (s : State) (h : Hold) : State :=
  let x := s.warpD w
  if !x.holds.contains h then s else
  match h with
  | .fence kind scope seq mark =>
    let wide := wideScope s x scope
    let m := some (mark.getD s.nextId)
    let ready := if kind = 0 then loadsDone x seq else relDone s w x seq wide m
    if ready then (if kind = 1 then endHold s w h seq else acquire (endHold s w h seq) w wide)
    else if kind != 0 && relDrained x seq then putHold s w h (.fence kind scope seq m) else s
  | .fenceSc scope seq false mark =>
    let m := some (mark.getD s.nextId)
    if relDone s w x seq true m then putHold s w h (.fenceSc scope seq true m)
    else if relDrained x seq then putHold s w h (.fenceSc scope seq false m) else s
  | .fenceSc _ _ true _ => s
  | .drain seq =>
    let left := x.storeq.filter (fun e => decide (e.seq < seq))
    if (left.isEmpty || (x.handler && storesHeld x)) && x.unacked.isEmpty then endHold s w h seq
    else s
  | .mfence ctx kind seq =>
    match x.flights.find? (fun f => f.seq == seq) with
    | some f => if mfenceDone s w ctx kind f.ucap.toNat then endHold s w h seq else s
    | none => endHold s w h seq
  | .bar .. => s
  | .arrive gi slot b seq mark =>
    let m := some (mark.getD s.nextId)
    if relDone s w x seq (wideScope s x 0) m then
      arrive (s.modWarp w (fun x => { x with holds := x.holds.erase h })) w gi slot b
    else if relDrained x seq then putHold s w h (.arrive gi slot b seq m) else s
  | .rett seq ret =>
    if !(x.flights.isEmpty && x.unacked.isEmpty) then s
    else if x.storeq.isEmpty then returnFrom (endHold s w h seq) w ret
    else if storesHeld x then returnFrom (landRecord (endHold s w h seq) w) w ret
    else s
  | .retire => s.after 0 (.warpRetire w)

/-- Whether a handler has yet to issue its first group (R383). (DEDUCED, log 29) -/
def handlerFresh (x : Warp) : Bool := x.handler && decide (x.lastIssue < x.wake)
/-- Whether the warp yields at its next boundary (R381, R383). -/
def preemptDue (x : Warp) : Bool :=
  x.preemptReq && !x.termReq && !x.captured && !x.tmode.getLsbD 1 && !storesHeld x && !handlerFresh x &&
    !x.holds.any (fun h => match h with
      | .rett .. | .retire => true
      | _ => false)

/-- Looking again at everything of a warp that waits: holds (twice, for what a return from a trap injects again), the first load, the store queue, a trap that could not be
captured yet, a pre-emption, a termination. -/
def settle (s : State) (w : Nat) : State :=
  if (mfind s.warps w).isNone then s else
  let s := (s.warpD w).holds.foldl (settleHold w) s
  let s := (s.warpD w).holds.foldl (settleHold w) s
  let x := s.warpD w
  let s := match x.flights.find? (fun f => f.kind.reads) with
    | some f => if f.due ≤ s.clk then s.after 0 (readEvent w f.seq f.kind) else s
    | none => s
  let s := if x.storeq.isEmpty then s else s.after 1 (.storeQueueExit w)
  let s := if (readyCauses s x).isEmpty then s else s.after 0 (.trapEntry w)
  if x.preemptReq then s.after 0 (.preempt w) else s

end Sys2Proof.Machine
end

