-- ==== Sys2Proof/Machine/Legal.lean ====
section
/-!
DEFINITION. The checks of an issue group before any of it issues (R81, R82, R22, R89): ILLEGAL_OP, ILLEGAL_CHAIN and
PRIV, as far as they depend on the warp; tile descriptors (R236, R238) and MLOOP parameters (R241).
-/

namespace Sys2Proof.Machine

/-! Tile descriptors (R236). -/

abbrev Tile := BitVec 128
def Tile.base (t : Tile) : Nat := (t.extractLsb' 0 19).toNat
def Tile.sw (t : Tile) : Nat := (t.extractLsb' 19 3).toNat
def Tile.rows (t : Tile) : Nat := (t.extractLsb' 32 12).toNat + 1
def Tile.cols (t : Tile) : Nat := (t.extractLsb' 48 13).toNat + 1
def Tile.stride (t : Tile) : Nat := (t.extractLsb' 64 19).toNat
def Tile.fmt (t : Tile) : Nat := (t.extractLsb' 83 8).toNat
def Tile.wmoff (t : Tile) : Nat := (t.extractLsb' 96 19).toNat
def Tile.wmv (t : Tile) : Bool := t.getLsbD 115

/-- The format codes of R59 other than ZERO and POISON. -/
def fmtKnown (c : Nat) : Bool := (1 ≤ c && c ≤ 3) || (8 ≤ c && c ≤ 12)

/-- The descriptor of four uniform registers. -/
def tileOf (x : Warp) (r : Nat) : Tile := x.s (r + 3) ++ x.s (r + 2) ++ x.s (r + 1) ++ x.s r
/-- R238's first check: reserved bits zero and an assigned format. -/
def tileOk (t : Tile) : Bool :=
  t.extractLsb' 22 10 == 0 && t.extractLsb' 44 4 == 0 && t.extractLsb' 61 3 == 0 && t.extractLsb' 91 5 == 0 &&
    t.extractLsb' 116 12 == 0 && fmtKnown t.fmt
/-- A warp's tile register. -/
def Warp.t (x : Warp) (r : Nat) : Tile := mget x.tile r 0

/-- The MLOOP parameter limits (R241). -/
def mloopOk (x : Warp) (f : LongF) : Bool :=
  let b := (bReg f)
  let p0 := (x.s b).toNat; let p1 := (x.s (b + 1)).toNat; let p2 := (x.s (b + 2)).toNat; let p3 := (x.s (b + 3)).toNat
  let st := p0 % 16; let pn := p0 / 16 % 256
  1 ≤ st && st ≤ 8 && f.a.toNat + st ≤ 8 && 1 ≤ pn && natBits p0 15 12 == 0 && natBits p0 31 25 == 0 &&
    p1 / 65536 % 128 == 0 && p2 / 65536 % 128 == 0 && natBits p3 7 6 == 0 && natBits p3 31 16 == 0 &&
    p3 / 256 % 256 + pn ≤ 256 &&
    (if f.m.getLsbD 2 then (x.group? (p3 / 16 % 4)).isSome else p3 % 16 == 0)

/-- The bytes of an element an MDRAIN mode writes (R244). -/
def drainSize (mode : Nat) : Nat := if mode = 0 then 4 else if mode = 1 then 2 else if mode = 2 then 4 else 8

/-! The group checks. -/

/-- A register role outside the declaration, or misaligned (R22, R23, R89). -/
def roleBad (x : Warp) (r : Role) : Bool :=
  match r.cls with
  | .v => decide (r.reg + r.cnt > x.nv) || (r.cnt == 2 && r.reg % 2 != 0)
  | .s => decide (r.reg + r.cnt > x.ns) || (decide (r.cnt = 2) && r.reg % 2 != 0) ||
      (decide (r.cnt = 4) && r.reg % 4 != 0)
  | _ => false

/-- ILLEGAL_OP for reasons the instruction's fields and the warp decide, register values apart, whatever the guard (R241;
DESIGN CHOICE, log 66). -/
def illegalHere (s : State) (w : Nat) (x : Warp) (i : Instr) : Bool :=
  (info i).roles.any (roleBad x) ||
  match i with
  | .bar f | .bara f | .barw f => (x.group? (f.m.toNat % 4)).isNone
  | .gterm f => if f.m.getLsbD 2 then f.m.toNat % 4 != 0 else (x.group? (f.m.toNat % 4)).isNone
  | .svc _ => decide (x.ns < 8)
  | .smap f => decide ((s.core (coreOf w)).windows ≤ f.d.toNat % 16) || (x.group? 0).isNone
  | .sflush f => f.d.getLsbD 4 && f.d.toNat % 16 != 0
  | .mload f => (x.t f.d.toNat).fmt == 0
  | .mloop f => (x.t f.d.toNat).fmt == 0
  | .mdrain f =>
    let t := x.t f.d.toNat
    t.fmt == 0 || decide (t.rows < 8) || decide (t.stride < 128 * drainSize (natBits f.m.toNat 3 2))
  | _ => false

/-- ILLEGAL_OP for the values in four uniform registers, once they and the guard are there to be seen (R82, R238,
R241). -/
def illegalValue (x : Warp) (i : Instr) : Bool :=
  let seen := fun (f : LongF) => !x.pendingQ f.g.toNat && (x.q f.g.toNat != f.n) &&
    (List.range 4).all (fun j => !sEmptyIn x.sE (bReg f + j))
  match i with
  | .mcfg f => seen f && !tileOk (tileOf x (bReg f))
  | .mloop f => seen f && !mloopOk x f
  | _ => false

/-- PRIV (R43, R213): RETT outside handler mode, a Handler register outside it, a write to a read-only register. -/
def privBad (x : Warp) (i : Instr) : Bool :=
  match i with
  | .rett _ => !x.handler
  | .mfsr f => !x.handler && (f.a == 0x0D || f.a == 0x11 || f.a == 0x12)
  | .mtsr f => !(f.a == 0x07 || f.a == 0x0A || f.a == 0x0B || f.a == 0x0C || f.a == 0x0F || f.a == 0x10 ||
      (f.a == 0x0D && x.handler))
  | _ => false

/-- Whether two written roles overlap; writes to p7 and q7 do not count (R81). -/
def rolesClash (a b : Role) : Bool :=
  a.wr && b.wr && a.cls == b.cls && decide (a.reg < b.reg + b.cnt) && decide (b.reg < a.reg + a.cnt) &&
    !((a.cls == .p || a.cls == .q) && a.reg == 7)

/-- The S-pipe instructions that can transfer control, which CHKW may not join (R81). -/
def transfers (i : Instr) : Bool :=
  match i with
  | .braShort _ | .bra _ | .brx _ | .call _ | .ret _ | .exitShort _ | .exit _ | .conv _ | .rett _ | .trapi _ | .svc _
  | .bkpt _ => true
  | _ => false
def isChkw (i : Instr) : Bool :=
  match i with
  | .chkw _ => true
  | _ => false

/-- Whether two members of a group clash (R81). The registers an instruction writes beyond its fields (SVC's s0 to s3)
are counted by `extra`. -/
def pairClash (a b : Instr) : Bool :=
  let extra := fun (i : Instr) => match i with
    | .svc _ => [({ cls := .s, reg := 0, cnt := 4, rd := false, wr := true, w := true } : Role)]
    | _ => []
  let ra := (info a).roles ++ extra a; let rb := (info b).roles ++ extra b
  (info a).pipe == (info b).pipe || ra.any (fun p => rb.any (rolesClash p)) ||
    (isChkw a && transfers b) || (isChkw b && transfers a)

def chainBad : List Instr → Bool
  | [] => false
  | a :: r => r.any (pairClash a) || chainBad r

end Sys2Proof.Machine
end

