-- ==== Sys2Proof/Machine/Issue.lean ====
section
/-!
DEFINITION. Paths and issue: fetch (R76 to R79, R175), issue groups (R80 to R83), readiness (R35), the choice of
warp and path (R36 to R38), the branch delays of R45.
-/

namespace Sys2Proof.Machine

/-! Fetch. -/

/-- Walks for fetches are numbered apart from the accesses of instructions. -/
def fetchSeq (pc : Nat) : Nat := 10 ^ 12 + pc / 65536

/-- The slot of an address (R76), and the address of its packet's first word. -/
def slotAt (x : Warp) (pc : Nat) : Nat := (((pc : Int) - x.codeBase) / 4 % 3).toNat
def packetStart (x : Warp) (pc : Nat) : Nat := (((pc : Int) - 4 * slotAt x pc) % 2 ^ 64).toNat

/-- The bytes of the packet of `pc`, if the core's instruction cache holds it (R175). -/
def heldPacket (s : State) (w : Nat) (x : Warp) (pc : Nat) : Option (List Byte) :=
  let p := packetStart x pc
  match coreXlate s (coreOf w) x.asid p with
  | some e => mfind (s.core (coreOf w)).icache (e.key s p)
  | none => none
/-- One instruction word: from the core's instruction cache, or memory (R175). -/
def fetchWord (s : State) (w pc : Nat) : Got Word :=
  let x := s.warpD w
  match xlate s w (fetchSeq pc) x.asid pc ⟨false, false, true, false⟩ with
  | .miss v => .miss v
  | .fail _ f => .fail 0x05 f
  | .ok e =>
    let key := e.key s pc
    let packet := heldPacket s w x pc
    let held := packet.isSome
    let bs := match packet with
      | some ln => (ln.drop (pc - packetStart x pc)).take 4
      | none => cohBytes s key 4
    if !held && homeDown s (dieOf w) key then .miss pc
    else if !held && homeErr s key 4 then .fail 0x01 (BitVec.ofNat 64 pc)
    else .ok (BitVec.ofNat 32 (leNat bs))

/-- The words from `pc`, `n` of them. -/
def fetchWords (s : State) (w pc : Nat) : Nat → Got (List Word)
  | 0 => .ok []
  | n + 1 =>
    match fetchWord s w pc with
    | .miss v => .miss v
    | .fail c f => .fail c f
    | .ok u =>
      match fetchWords s w (pc + 4) n with
      | .miss v => .miss v
      | .fail c f => .fail c f
      | .ok r => .ok (u :: r)

/-- The packet of `pc` as it has been fetched, all 12 bytes at one instant, is held (R175, R303); its words are read
through (R272). -/
def cachePacket (s : State) (w pc : Nat) : State :=
  let x := s.warpD w
  let p := packetStart x pc
  if (heldPacket s w x pc).isSome then s else
  match coreXlate s (coreOf w) x.asid p, fetchWords s w p 3 with
  | some e, .ok ws =>
    let s := vTouch s w 2 x.asid p 12
    s.modCore (coreOf w) (fun k => { k with icache := mset k.icache (e.key s p) (ws.flatMap (fun u => leBytes 4 u.toNat)) })
  | _, _ => s

/-! Issue groups. -/

/-- A member of an issue group: instruction, address, its two words. -/
abbrev Member := Instr × Nat × Word × Word

/-- The members from words at `pc` while the chain bit says so (R80): ILLEGAL_OP as none, a chain bit on the last word
of the packet as `open`. -/
def groupOf (pc : Nat) (ws : List Word) : Option (List Member × Bool × Nat) :=
  match ws with
  | [] => some ([], true, pc)
  | a :: r =>
    if a = 0 then some ([], false, pc) else
    match decode a r.head? with
    | .error _ => none
    | .ok i =>
      let two := i.words == 2
      let m : Member := (i, pc, a, if two then r.headD 0 else 0)
      let next := pc + 4 * i.words
      if !a.getLsbD 31 then some ([m], false, next) else
      let rest := if two then r.drop 1 else r
      match rest with
      | [] => some ([m], true, next)
      | b :: r2 =>
        if b = 0 then some ([m], false, next) else
        match decode b r2.head? with
        | .error _ => none
        | .ok j =>
          let two2 := j.words == 2
          let m2 : Member := (j, next, b, if two2 then r2.headD 0 else 0)
          let next2 := next + 4 * j.words
          if !b.getLsbD 31 then some ([m, m2], false, next2) else
          match (if two2 then r2.drop 1 else r2) with
          | [] => some ([m, m2], true, next2)
          | c :: r3 =>
            if c = 0 then some ([m, m2], false, next2) else
            match decode c r3.head? with
            | .error _ => none
            | .ok k => some ([m, m2, (k, next2, c, 0)], c.getLsbD 31, next2 + 4)

/-- What stands at a path's program counter. -/
inductive AtPc where
  | miss (va : Nat)
  | fault (code : Nat) (faddr : DWord)
  | skip (next : Nat)                              -- only NOPs up to the packet's end (R78)
  | group (ms : List Member) (next : Nat)


/-- Where a path goes on after a group that `next` follows, from the packet's words there: NOPs up to the packet's end cost
nothing (R78, R79). (DESIGN CHOICE, log 62) -/
def afterNops (rest : List Word) (next : Nat) : Nat := if rest.all (· == 0) then next + 4 * rest.length else next

/-- Fetching the packet, decoding and checking the group at `pc` (R76 to R82). (first word: DESIGN CHOICE, log 62) -/
def atPc (s : State) (w : Nat) (x : Warp) (pc : Nat) : AtPc :=
  let slot := slotAt x pc
  match fetchWords s w (packetStart x pc) 3 with
  | .miss v => .miss v
  | .fail c f => .fault c f
  | .ok packet =>
    let ws := packet.drop slot
    let lead := (ws.takeWhile (· == 0)).length
    if lead = ws.length then .skip (pc + 4 * (3 - slot)) else
    let here := BitVec.ofNat 64 (pc + 4 * lead)
    match groupOf (pc + 4 * lead) (ws.drop lead) with
    | none => .fault 0x02 here
    | some (ms, openEnd, next) =>
      let is := ms.map (·.1)
      if is.any (fun i => illegalHere s w x i || illegalValue x i) then .fault 0x02 here
      else if openEnd || chainBad is then .fault 0x03 here
      else if is.any (privBad x) then .fault 0x04 here
      else .group ms (afterNops (ws.drop ((next - pc) / 4)) next)

/-! Readiness. -/

/-- Store-queue entries an instruction takes (R168). -/
def takesStore (i : Instr) : Bool :=
  match i with
  | .stShort _ | .stsShort _ | .st _ | .sts _ | .str _ | .wmst _ | .sunmap _ | .sflush _ | .redAdd _ | .redMin _
  | .redMax _ | .redAnd _ | .redOr _ | .redXor _ | .redTrig _ | .smap _ => true
  | _ => false
/-- What a pending fence or acquire holds back (R172): loads, stores, atomics and fences, and the instructions whose engine or
home reads and writes memory for the warp or that fence its fetches (R176, R297, R299, R303). (DEDUCED, log 16) -/
def isAccess (i : Instr) : Bool :=
  takesStore i || (readOpOf i).isSome || (sldOf i).isSome || (holdOf i).isSome ||
  match i with
  | .tcopy _ | .ifence _ | .launch _ | .enq _ | .spawn _ | .skadd _ | .skmerge _ | .skq _ | .hhadd _ | .hhmerge _ | .hhtop _
  | .dcadd _ | .dcmerge _ | .dcest _ => true
  | _ => false
/-- The scope of a release an instruction performs before it acts, if any (R171). (DEDUCED, log 16) -/
def releaseScope (i : Instr) : Option Nat :=
  match i with
  | .st f | .redAdd f | .redMin f | .redMax f | .redAnd f | .redOr f | .redXor f | .redTrig f =>
    if f.lo = 0 then none else some (f.lo - 4)
  | .atomAdd f | .atomMin f | .atomMax f | .atomAnd f | .atomOr f | .atomXor f | .atomExch f | .atomCas f =>
    if f.lo = 0 then none else some (f.lo - 4)
  | _ => none

/-- Pipe operations of a core accepted and not performed (R219). -/
def pipeOpsOf (s : State) (c : Nat) : Nat :=
  s.plans.foldl (fun n p => n + p.2.pipes.foldl (fun m q => m + (q.2.ops.filter (fun o => o.core == c)).length) 0) 0

/-- Whether an instruction in flight may still change a special register that its program reads: FPSTAT (R27, R52), or
the watch table (R27, R188), whose entries an LDW makes when its translations are at hand. (DEDUCED, log 24) -/
def srPending (x : Warp) (n : Nat) : Bool :=
  match n with
  | 0x0B => x.flights.any (fun g => g.flags.any (· != 0))
  | 0x0E => x.flights.any (fun g => match g.kind with
    | .watched _ _ _ made => !made
    | _ => false)
  | _ => false

/-- Whether the queue an instruction enters has room: the store queue, or an engine's (R168, R219, R250). -/
def queueRoom (s : State) (w : Nat) (x : Warp) (i : Instr) : Bool :=
  let c := coreOf w
  let k := s.core c
  let acts := fun (f : LongF) => x.q f.g.toNat != f.n
  (!takesStore i || decide (x.storeq.length < 24)) &&
  match i with
  | .prsv f | .pcmt f | .pacq f | .prel f | .ppoll f | .pclose f => !acts f || decide (pipeOpsOf s c < 32)
  | .tcopy f => !acts f || decide (k.tce.length < 64)
  | .mload f | .mloop f | .mdrain f | .mzero f =>
    !acts f || decide ((s.ctx c (boolNat (f.m.getLsbD 0))).queue.length < 16)
  | .skadd _ | .skmerge _ | .skq _ | .hhadd _ | .hhmerge _ | .hhtop _ | .dcadd _ | .dcmerge _ | .dcest _ =>
    decide (k.sumq.length < 32)
  | _ => true

/-- The queues and other resources an instruction's description names (R35, R168, R190, R212, R219, R238, R250). -/
def hasRoom (s : State) (w : Nat) (x : Warp) (path : LaneMask) (i : Instr) : Bool :=
  let acts := fun (f : LongF) => x.q f.g.toNat != f.n
  queueRoom s w x i &&
  (match releaseScope i with
    | none => true
    | some sc => relDone s w x x.nextSeq (wideScope s x sc) x.relMark) &&
  match i with
  | .smap f => x.storeq.isEmpty || !(s.core (coreOf w)).wins.any (fun wn => wn.num == f.d.toNat && x.group? 0 == some wn.gi)
  | .chkw f =>
    let act := path &&& x.guardLanes (info i).guard
    !x.watch.any (fun e => e.wid == f.d.toNat / 16 && e.state == .pending && e.mask &&& act != 0) &&
    !x.flights.any (fun g => match g.kind with
      | .watched _ _ wid _ => wid == f.d.toNat / 16 && g.lanes &&& act != 0
      | _ => false)
  | .mfsr f | .mtsr f => !srPending x f.a.toNat
  | .svc f => !acts f || (List.range 8).all (fun r => !sEmptyIn x.sE r)
  | .tcopy f => !acts f || x.storeq.isEmpty
  | .mcfg f | .mrel f => !acts f || f.m.getLsbD 1 || mget x.busy f.d.toNat 0 == 0
  | _ => true

/-- Whether a peer operand names the issuing core (R105, R160). -/
def ownPeer (s : State) (w : Nat) (x : Warp) (t : Nat) : Bool :=
  let rank := (x.s t).toNat
  peerCore s w x (rank / 16 % 4) (rank % 16) == some (coreOf w)
/-- The row of R105's table with an issue interval that can be above one, and the interval. -/
def issueRow (s : State) (w : Nat) (x : Warp) (i : Instr) : Option (Nat × Nat) :=
  let wide := fun (f : LongF) => f.ty == 2 || f.ty == 3
  match i with
  | .iadd f | .isub f | .imin f | .imax f | .iabs f | .and f | .or f | .xor f | .shl f | .shr f | .sar f | .bfe f
  | .bfi f | .popc f | .clz f | .brev f | .lea f | .isetp f => if wide f then some (1, 2) else none
  | .imul f | .imulhi f | .imad f => if wide f then some (2, 4) else none
  | .cvt f => if ctBits (cvtDst f) == 64 || ctBits (cvtSrc f) == 64 then some (3, 2) else some (3, 1)
  | .rcp _ | .rsq _ | .sqrt _ | .ex2 _ | .lg2 _ | .rcpShort _ | .rsqShort _ | .sqrtShort _ | .ex2Short _ | .lg2Short _ =>
    some (4, 4)
  | .sin _ | .cos _ | .tanh _ | .sinShort _ | .cosShort _ | .tanhShort _ => some (5, 4)
  | .redux _ => some (6, 2)
  | .matchLanes _ => some (7, 4)
  | .lds _ | .ldsShort _ => some (8, 1)
  | .atomSpadAdd _ | .atomSpadMin _ | .atomSpadMax _ | .atomSpadAnd _ | .atomSpadOr _ | .atomSpadXor _
  | .atomSpadExch _ | .atomSpadCas _ => some (8, 1)
  | .ldr f | .atomPeerAdd f | .atomPeerMin f | .atomPeerMax f | .atomPeerAnd f | .atomPeerOr f | .atomPeerXor f
  | .atomPeerExch f | .atomPeerCas f => if ownPeer s w x f.t.toNat then some (8, 1) else none
  | _ => none
/-- Whether the pipe accepts an instruction of its row (R105). (DESIGN CHOICE, log 61) -/
def rowReady (s : State) (w : Nat) (x : Warp) (i : Instr) : Bool :=
  match issueRow s w x i with
  | none => true
  | some (r, _) => decide (mget (s.core (coreOf w)).rowFree (16 * partOf w + r) 0 ≤ s.clk)
/-- A row is held for its interval, and for `more` bank passes. (DEDUCED, log 16) -/
def holdRow (s : State) (w : Nat) (row n : Nat) : State :=
  s.modCore (coreOf w) (fun k => { k with rowFree := mset k.rowFree (16 * partOf w + row) (s.clk + n) })

/-- A guard as 8 × N + G; no guard counts as p7 (R149). -/
def guardCode : Guard → Nat
  | .always => 7
  | .lane p n => 8 * boolNat n + p
  | .uni q n => 16 + 8 * boolNat n + q
/-- The FFMA of the clk before that an instruction at `pc` fuses with, if it is such an EX2 (R149); the path's lanes must be
the same. (DESIGN CHOICE, log 61) -/
def fuses (s : State) (x : Warp) (path : LaneMask) (pc : Nat) (i : Instr) : Option FfmaNote :=
  let src := match i with
    | .ex2Short f => some f.a.toNat
    | .ex2 f => if f.w.getLsbD 2 then some f.a.toNat else none
    | _ => none
  x.ffmas.find? (fun n => n.clk + 1 == s.clk && n.next == pc && n.path == path && src == some n.vd &&
    n.guard == guardCode (info i).guard && !x.tmode.getLsbD 5)
/-- Whether a member would raise FE_TRAP now (R29). -/
def feNow (x : Warp) (path : LaneMask) (i : Instr) : Bool :=
  let lanes := roleLanes i (path &&& x.guardLanes (info i).guard)
  (info i).roles.any (fun r => r.rd && !r.w && (emptyRole x.vE x.sE lanes r).isSome)
/-- The FFMA that a group's EX2 fuses with: EX2 stands first, and no member raises FE_TRAP (R149). -/
def groupFuses (s : State) (x : Warp) (path : LaneMask) (ms : List Member) : Option FfmaNote :=
  match ms with
  | [] => none
  | m :: _ => if ms.any (fun k => feNow x path k.1) then none else fuses s x path m.2.1 m.1

/-- Whether a member's operands let it issue; a fused EX2, and no other member, does not wait for what
the FFMA `fused` is to write (R149). (DESIGN CHOICE, log 61) -/
def memberReady (s : State) (w : Nat) (x : Warp) (path : LaneMask) (fused : Option FfmaNote) (m : Member) : Bool :=
  let i := m.1
  let y := match fused with
    | some n => if n.next = m.2.1 then x.setVE n.vd (mget x.vE n.vd 0 &&& ~~~n.act) else x
    | none => x
  !mustWait y path i && hasRoom s w x path i

/-- A boundary at which a trap or a pre-emption is taken has come: no path issues until capture can go on (R369, R495),
but for a clk in which a fused pair puts it off (R150). -/
def boundaryDue (s : State) (w : Nat) (x : Warp) : Bool :=
  x.putOff != some s.clk && (!(readyCauses s x).isEmpty || (preemptDue x && captureWaits s w x))

/-- What keeps every path of a warp from issuing. In a stopped address space a warp that is asked to yield
goes on to its boundary (R381, R399). (DEDUCED, log 60) -/
def warpStopped (s : State) (w : Nat) (x : Warp) : Bool :=
  x.captured || x.termReq || x.preRep.isSome || decide (x.wake > s.clk) || boundaryDue s w x ||
    (s.stopped.contains x.asid && !x.preemptReq) ||
    (x.tmode.getLsbD 4 && !(x.flights.isEmpty && x.storeq.isEmpty && x.unacked.isEmpty))

/-- The same, and what an instruction of the warp does to the groups after it: YIELD (R200), DRAINST, MFENCE, a return or
a retirement under way, a global or peer ATOM (R174, R246, R370). They hold no path that issues in the same clk. -/
def warpHeld (s : State) (w : Nat) (x : Warp) : Bool :=
  warpStopped s w x || x.yielding ||
    x.holds.any (fun h => match h with
      | .drain _ | .mfence .. | .rett .. | .retire => true
      | _ => false) ||
    x.flights.any (fun f => match f.kind with
      | .atom _ _ .spad _ => false
      | .atom .. => true
      | _ => false)

/-- Whether a stop point names a lane of the path at this address (R392). -/
def atStop (s : State) (w : Nat) (x : Warp) (path : LaneMask) (pc : Nat) : Bool :=
  (s.core (coreOf w)).dbg.stops.any (fun e =>
    e.2.warp == w && e.2.addr == pc && path.getLsbD e.2.lane && !x.stopDone.contains (e.2.lane, pc))

/-- Whether a path is held: a delay of any of its lanes, a barrier, a stop point. (DESIGN CHOICE, log 61) -/
def pathHeld (s : State) (w : Nat) (x : Warp) (path : LaneMask) (pc : Nat) : Bool :=
  (lanesOf path).any (fun l => decide (x.laneWake.getD l 0 > s.clk)) ||
    barHeld x &&& path != 0 || atStop s w x path pc
/-- Whether a cause that waits for its boundary holds the path (R495); its FFMA's condition does not hold a fused EX2
(R150). -/
def causeHolds (x : Warp) (path : LaneMask) (fused : Option FfmaNote) : Bool :=
  x.pend.any (fun p => p.lanes &&& path != 0 && !(p.code == 0x0E && (match fused with
    | some n => p.faddr == BitVec.ofNat 64 n.pc
    | none => false)))

/-- What a path can do now. -/
inductive PathState where
  | wait
  | miss (va : Nat)
  | fault (code : Nat) (faddr : DWord)
  | skip (next : Nat)
  | stall (va asid kind need : Nat)      -- a translation for the issue is missing (R184, R284)
  | go (ms : List Member) (next : Nat)

/-- Whether the instructions in flight leave room (R32), and fences and acquires let the accesses go (R171, R172).
(DESIGN CHOICE, log 61) -/
def groupFits (x : Warp) (ms : List Member) : Bool :=
  decide (x.flights.length + (ms.filter (fun m => (info m.1).pipe != none)).length ≤ 12) &&
    (!ms.any (fun m => isAccess m.1) ||
      !(x.flights.any (fun f => f.ord != 0) || x.holds.any (fun h => match h with
        | .fence .. | .fenceSc .. => true
        | _ => false)))

/-- The shape of an STS (R159, R166). -/
def stsShape (i : Instr) : Option Shape :=
  match i with
  | .stsShort f => some (shortShape 1 f)
  | .sts f => some (mtShape 1 f.lo 0 true f)
  | _ => none
/-- The first translation that an STS still waits for: the first touch of a stash line fills it (R184). -/
def stashStall (s : State) (w : Nat) (x : Warp) (act : LaneMask) (i : Instr) : Option (Nat × Nat × Nat × Nat) :=
  (stsShape i).bind (fun h => (lanesOf act).findSome? (fun l =>
    (stashXlate s w x (h.addr (h.base x) (h.index x l))).bind (fun r => match r.2.2 with
      | .miss va => some (va, r.2.1, 3, 3)
      | _ => none)))
/-- A summary instruction with its operation. -/
def sumOf (i : Instr) : Option (Nat × LongF) :=
  match i with
  | .skadd f => some (0, f) | .skmerge f => some (1, f) | .skq f => some (2, f)
  | .hhadd f => some (3, f) | .hhmerge f => some (4, f) | .hhtop f => some (5, f)
  | .dcadd f => some (6, f) | .dcmerge f => some (7, f) | .dcest f => some (8, f)
  | _ => none
/-- The addresses that an instruction translates when it issues (R206, R208, R209, R231, R248), in the order of its checks:
address, alignment, and the kind and the need of a fault-queue entry (R417). -/
def issueAddrs (x : Warp) (i : Instr) : List (Nat × Nat × Nat × Nat) :=
  match i with
  | .spawn f => if f.m.getLsbD 0 && ((x.s64 (bReg f) : Int) - x.codeBase) % 12 == 0 then [(x.s64 f.t.toNat, 4, 0, 1)] else []
  | .launch f => [(x.s64 f.t.toNat, 64, 0, 1)]
  | .enq f => [(x.s64 f.t.toNat, 64, 0, 1), (x.s64 (bReg f), 64, 0, 1)]
  | .tcopy f => [(x.s64 (bReg f), 256, 4, 1)]
  | i => match sumOf i with
    | none => []
    | some (op, f) => if f.m.getLsbD 2 then [] else
      (sumAddr x (bReg f) false, sumSize op, 6, if sumQuery op then 1 else 3) ::
        (if op % 3 = 1 then [(sumAddr x (bReg f + 2) false, sumSize op, 6, 1)] else [])
/-- The first of them whose translation is missing, none before it being refused. -/
def issueMiss (s : State) (w : Nat) (x : Warp) : List (Nat × Nat × Nat × Nat) → Option (Nat × Nat × Nat × Nat)
  | [] => none
  | (va, align, kind, need) :: r =>
    if va % align ≠ 0 then none else
    match xlate s w issueSeq x.asid va (if need = 3 then needRW else needR) with
    | .miss v => some (v, x.asid, kind, need)
    | .fail .. => none
    | .ok _ => issueMiss s w x r
/-- The first translation that a group waits for before it issues (R284). -/
def issueStall (s : State) (w : Nat) (x : Warp) (path : LaneMask) (ms : List Member) : Option (Nat × Nat × Nat × Nat) :=
  ms.findSome? (fun m =>
    let act := path &&& x.guardLanes (info m.1).guard
    if act = 0 then none else stashStall s w x act m.1 <|> issueMiss s w x (issueAddrs x m.1))

/-- What a path can do, nothing of its warp holding it. One that a cause holds issues nothing and still passes NOPs, which
is no issue (R78, R495). -/
def pathFree (s : State) (w : Nat) (x : Warp) (path : LaneMask) (pc : Nat) : PathState :=
  if pathHeld s w x path pc then .wait else
  match atPc s w x pc with
  | .miss v => if causeHolds x path none then .wait else .miss v
  | .fault c f => if causeHolds x path none then .wait else .fault c f
  | .skip n => .skip n
  | .group ms next =>
    let fused := groupFuses s x path ms
    if !causeHolds x path fused && ms.all (memberReady s w x path fused) && groupFits x ms then
      (match issueStall s w x path ms with
      | some (va, asid, kind, need) => .stall va asid kind need
      | none => .go ms next)
    else .wait
def pathState (s : State) (w : Nat) (x : Warp) (path : LaneMask) (pc : Nat) : PathState :=
  if warpHeld s w x then .wait else pathFree s w x path pc

/-- The LIVE lanes by program counter (R35), lowest lane first; those that have issued in this clk join others only in
the next, and those that wait at a barrier are not joined by others that reach its instruction, which issue it themselves
(R204). (DEDUCED, log 25) -/
def pathsOf (x : Warp) : List (LaneMask × Nat) :=
  let bar := barHeld x
  (lanesOf x.active).foldl (fun acc l =>
    if acc.any (fun p => p.1.getLsbD l) then acc
    else acc ++ [(maskOf (fun j => x.active.getLsbD j && x.pc.getD j 0 == x.pc.getD l 0 &&
      x.moved.getLsbD j == x.moved.getLsbD l && bar.getLsbD j == bar.getLsbD l), x.pc.getD l 0)]) []

/-- Ready to issue; a path that only passes NOPs issues nothing (R78). -/
def PathState.ready : PathState → Bool
  | .wait | .miss _ | .skip _ | .stall .. => false
  | _ => true

/-- The age of a path (R37): the largest of its lanes'. -/
def pathAge (x : Warp) (path : LaneMask) : Nat := (lanesOf path).foldl (fun m l => max m (x.age.getD l 0)) 0

/-- A ready path, with what it can do. -/
abbrev ReadyPath := LaneMask × Nat × PathState
def readyPaths (s : State) (w : Nat) (x : Warp) : List ReadyPath :=
  (pathsOf x).filterMap (fun p =>
    let st := pathState s w x p.1 p.2
    if st.ready then some (p.1, p.2, st) else none)

/-- The best by a measure, ties to the earlier, which holds the lowest lane. (DEDUCED, log 25) -/
def best {α : Type} (f : α → Nat) : List α → Option α
  | [] => none
  | a :: r =>
    match best f r with
    | none => some a
    | some b => if f b > f a then some b else some a

/-- The primary path (R37). -/
def primaryPath (x : Warp) (l : List ReadyPath) : Option ReadyPath :=
  let old := l.filter (fun p => p.1 &&& x.aged != 0)
  if old.isEmpty then best (fun p => laneCount p.1) l else best (fun p => pathAge x p.1) old

/-- The pipes a path's group uses. -/
def PathState.uses (st : PathState) (p : Pipe) : Bool :=
  match st with
  | .go ms _ => ms.any (fun m => (info m.1).pipe == some p)
  | _ => false
def PathState.rowsReady (st : PathState) (s : State) (w : Nat) (x : Warp) : Bool :=
  match st with
  | .go ms _ => ms.all (fun m => rowReady s w x m.1)
  | _ => true

/-- The secondary path (R38): the largest of the rest, if it needs neither S nor M where the primary does. -/
def secondaryPath (prim : ReadyPath) (l : List ReadyPath) : Option ReadyPath :=
  match best (fun p => laneCount p.1) (l.filter (fun p => p.1 != prim.1)) with
  | none => none
  | some q =>
    if (prim.2.2.uses .S && q.2.2.uses .S) || (prim.2.2.uses .M && q.2.2.uses .M) then none else some q

/-- The ready paths of a warp that its partition's pipes accept now. A path whose row is still held is ready all the same:
it ages and counts as ready, and is not selected. (DESIGN CHOICE, log 61) -/
def issuable (s : State) (w : Nat) (x : Warp) : List ReadyPath :=
  (readyPaths s w x).filter (fun p => p.2.2.rowsReady s w x)

/-- The priority of a warp (R36). -/
def warpPrio (x : Warp) : Nat := if x.boost then 15 else x.prio.toNat % 16

/-- Whether the die's power controller permits issue in this clk (R446): it withholds `withheld` in sixteen. -/
def mayIssue (s : State) (w : Nat) : Bool := decide ((s.die (dieOf w)).withheld ≤ s.clk % 16)

/-- How a warp ranks within its partition: priority, then how long it has been ready. (DEDUCED, log 25) -/
def warpRank (s : State) (x : Warp) : Nat :=
  warpPrio x * 2 ^ 64 + (match x.readySince with
    | some t => s.clk - t
    | none => 0)

/-- The partition number used in `partDone`. -/
def partIdx (w : Nat) : Nat := w / 16

/-- A warp whose partition has still to select in this clk, with what it can issue. -/
def candidate (s : State) (e : Nat × Warp) : Option (Nat × Warp × List ReadyPath) :=
  if s.partDone.getLsbD (partIdx e.1) || !mayIssue s e.1 then none else
  let l := issuable s e.1 e.2
  if l.isEmpty then none else some (e.1, e.2, l)
/-- Partition selection (R36 to R41, R333): the first partition, in order, that has not selected in this clk and has a warp that can issue: that warp.
(DEDUCED, log 25) -/
def selectWarp (s : State) : Option (Nat × Warp × List ReadyPath) :=
  let cands := s.warps.filterMap (candidate s)
  match cands with
  | [] => none
  | c :: _ => best (fun e => warpRank s e.2.1) (cands.filter (fun e => partIdx e.1 == partIdx c.1))

/-! A fused pair and the boundary within it (R149, R150). -/

/-- Whether a ready path begins with an EX2 that fuses. -/
def fusedPath (s : State) (x : Warp) (p : ReadyPath) : Bool :=
  match p.2.2 with
  | .go ms _ => (groupFuses s x p.1 ms).isSome
  | _ => false
/-- Whether the warp's EX2 would issue in this clk, fused with the FFMA of the clk before: its partition has still to
select and would choose it, or it is the secondary path that issues next. -/
def wouldFuse (s : State) (w : Nat) : Bool :=
  if !(s.warpD w).ffmas.any (fun n => n.clk + 1 == s.clk) then false else
  let t := s.modWarp w (fun x => { x with putOff := some s.clk })
  let x := t.warpD w
  (match t.second with
    | some (v, path) => v == w && (match lanesOf path with
      | l :: _ => fusedPath t x (path, x.pc.getD l 0, pathFree t w x path (x.pc.getD l 0))
      | [] => false)
    | none => false) ||
  match best (fun e => warpRank t e.2.1) ((t.warps.filterMap (candidate t)).filter (fun e => partIdx e.1 == partIdx w)) with
  | none => false
  | some (v, y, l) => v == w && (match primaryPath y l with
    | none => false
    | some p => fusedPath t y p || (match secondaryPath p l with
      | some q => fusedPath t y q
      | none => false))
/-- The boundary is put off to the next clk, when the occurrence looks again. -/
def putOffBoundary (s : State) (w : Nat) (ev : Event) : State :=
  (s.modWarp w (fun x => { x with putOff := some s.clk })).after 1 ev

/-- A path at a packet that holds nothing more but NOPs (R78): warp, lanes, address, next packet. (DEDUCED, log 25) -/
def selectSkip (s : State) : Option (Nat × LaneMask × Nat × Nat) :=
  s.warps.findSome? (fun e =>
    if !mayIssue s e.1 then none else
    (pathsOf e.2).findSome? (fun p => match pathState s e.1 e.2 p.1 p.2 with
      | .skip next => some (e.1, p.1, p.2, next)
      | _ => none))

/-! Taken branches (R45). -/

/-- The address of packet `n + off`, `n` the packet of an instruction at `pc` (R79), of 57 bits. (DESIGN CHOICE, log 62) -/
def packetAt (x : Warp) (pc : Nat) (off : Int) : Nat :=
  ((x.codeBase + 12 * (((pc : Int) - x.codeBase) / 12 + off)) % 2 ^ 57).toNat
/-- The 24-bit and the 20-bit signed offsets of the long control forms and of CHKW: [23:0] and [19:0] of the first
word. -/
def off24 (f : LongF) : Int := intOf 24 true (f.d.toNat * 65536 + f.a.toNat * 256 + f.b.toNat)
def off20 (f : LongF) : Int := intOf 20 true (f.d.toNat % 16 * 65536 + f.a.toNat * 256 + f.b.toNat)

/-- Whether `n` words from `pc` on are NOPs. -/
def nopsAt (s : State) (w pc : Nat) : Nat → Bool
  | 0 => true
  | n + 1 => (match fetchWord s w pc with
    | .ok u => u == 0
    | _ => false) && nopsAt s w (pc + 4) n
/-- Whether `t` is where the next issue group begins after a group that `next` follows: nothing but NOPs lies between
(R45, R78). -/
def nextGroup (s : State) (w next t : Nat) : Bool :=
  t == next || (decide (next < t) && (t - next) % 4 == 0 && nopsAt s w next ((t - next) / 4))

/-- A taken branch of the lanes to `t` from a group at `pc`: one clk inside the captured loop, four more otherwise.
`back` marks a BRA whose offset is −1 to −127 packets, which captures its loop. -/
def takeBranch (s : State) (c : IssueCtx) (m : LaneMask) (t : Nat → Nat) (back : Bool) : State :=
  let x := s.warpD c.warp
  let stay := fun (l : Nat) => nextGroup s c.warp c.next (t l)
  let delay := fun (l : Nat) => if stay l then s.clk + 1 else branchWake s c.warp (s.clk + 1) c.pc (t l)
  let loop := fun (a : Nat) => inLoop s c.warp a
  let s := traceMoves s c.warp (maskOf (fun l => m.getLsbD l && !stay l)) (fun _ => c.pc) t
  let s := s.modWarp c.warp (fun x =>
    { x.setPc m t with laneWake := allLanes.map (fun l => if m.getLsbD l then delay l else x.laneWake.getD l 0) })
  let tgt := match lanesOf m with
    | l :: _ => t l
    | [] => 0
  if back && m != 0 && !(loop c.pc && loop tgt) then
    s.modCore (coreOf c.warp) (fun k => { k with loops := mset k.loops (partOf c.warp) (tgt, packetAt x c.pc 0) })
  else s

end Sys2Proof.Machine
end

