-- ==== Sys2Proof/Machine/Integer.lean ====
section
/-!
DEFINITION. The vector integer instructions (R112 to R126): one meaning each, over the operations of IntAlu.lean.
-/

namespace Sys2Proof.Machine

/-- What a lane-wise instruction of fixed latency does: FE_TRAP first (R29), then in each lane of ACT the value `val`
of `n` registers at `d`, and status flags, `lat` clk later (R28, R105). -/
def laneOp (s : State) (i : Instr) (d n lat : Nat) (val : IssueCtx → Warp → Nat → FRes) : Host.Outcome State Fault Refusal :=
  issuing s (fun c x =>
    match feCause c x i with
    | some fa => trapAtIssue s c 0x09 fa
    | none =>
      let act := c.act x i
      let r := allLanes.map (fun l => if act.getLsbD l then val c x l else ⟨0, 0⟩)
      flyResult s c act (vWrites n d act (fun l => (r.getD l ⟨0, 0⟩).bits)) lat (r.map (·.flags)) c.pc)

/-- A lane-wise integer result: no flags (R115). -/
def intLanes (s : State) (i : Instr) (d n lat : Nat) (val : Warp → Nat → Nat) : Host.Outcome State Fault Refusal :=
  laneOp s i d n lat (fun _ x l => ⟨val x l, 0⟩)

/-- A lane predicate computed per lane (R123, R141): the truth and the flags. -/
def predLanes (s : State) (i : Instr) (pd lat : Nat) (val : IssueCtx → Warp → Nat → Bool × Nat) :
    Host.Outcome State Fault Refusal :=
  issuing s (fun c x =>
    match feCause c x i with
    | some fa => trapAtIssue s c 0x09 fa
    | none =>
      let act := c.act x i
      let r := allLanes.map (fun l => if act.getLsbD l then val c x l else (false, 0))
      flyResult s c act [.p pd act (maskOf (fun l => (r.getD l (false, 0)).1))] lat (r.map (·.2)) c.pc)

/-- The latency of a vector integer instruction: `a` for types of 32 bits or less, `b` for 64-bit ones (R105). -/
def tyLat (ty a b : Nat) : Nat := if tyBits ty = 64 then b else a

/-- A short two-operand form (R117 to R119). -/
def shortInt (s : State) (i : Instr) (f : ShortV) (op : IntOp) (ty lat : Nat) : Host.Outcome State Fault Refusal :=
  intLanes s i f.d.toNat 1 lat (fun x l =>
    intOp op ty false (x.vn 1 f.a.toNat l) (x.vn 1 f.b.toNat l) (x.vn 1 f.d.toNat l))
def shortShift (s : State) (i : Instr) (f : ShortV) (op : ShiftOp) (ty : Nat) : Host.Outcome State Fault Refusal :=
  intLanes s i f.d.toNat 1 1 (fun x l => shiftOp op ty (x.vn 1 f.a.toNat l) (x.vn 1 f.b.toNat l))
def shortOne (s : State) (i : Instr) (f : ShortV) (op : Nat → Nat) : Host.Outcome State Fault Refusal :=
  intLanes s i f.d.toNat 1 1 (fun x l => op (x.vn 1 f.a.toNat l))

/-- A long two- or three-operand form: M[2] is .sat (R93, R116). -/
def longInt (s : State) (i : Instr) (f : LongF) (op : IntOp) (a b : Nat) : Host.Outcome State Fault Refusal :=
  let n := tyRegs f.ty
  intLanes s i f.d.toNat n (tyLat f.ty a b) (fun x l =>
    intOp op f.ty (f.m.getLsbD 2) (x.vn n f.a.toNat l) (x.opB f n l) (x.vn n f.t.toNat l))
/-- A long form whose B is a count or control in one register (R113). -/
def longCtl (s : State) (i : Instr) (f : LongF) (op : Nat → Nat → Nat → Nat) : Host.Outcome State Fault Refusal :=
  let n := tyRegs f.ty
  intLanes s i f.d.toNat n (tyLat f.ty 1 2) (fun x l => op (x.vn n f.a.toNat l) (x.opB f 1 l) (x.vn n f.t.toNat l))

/-- A class 0x71 form: N = 32, no .sat (R125). -/
def immInt (s : State) (i : Instr) (f : ImmV) (op : IntOp) (lat : Nat) : Host.Outcome State Fault Refusal :=
  intLanes s i f.d.toNat 1 lat (fun x l => intOp op 0 false (x.vn 1 f.a.toNat l) f.imm.toNat 0)
def immShift (s : State) (i : Instr) (f : ImmV) (op : ShiftOp) : Host.Outcome State Fault Refusal :=
  intLanes s i f.d.toNat 1 1 (fun x l => shiftOp op 1 (x.vn 1 f.a.toNat l) f.imm.toNat)

/-! The short forms (R91, R116). -/

/-- vd := va + vb (R117). -/
def execIaddShort (f : ShortV) (s : State) : Host.Outcome State Fault Refusal := shortInt s (.iaddShort f) f .add 0 1
/-- vd := va − vb (R117). -/
def execIsubShort (f : ShortV) (s : State) : Host.Outcome State Fault Refusal := shortInt s (.isubShort f) f .sub 0 1
/-- vd := low half of va × vb (R117). -/
def execImulShort (f : ShortV) (s : State) : Host.Outcome State Fault Refusal := shortInt s (.imulShort f) f .mul 0 4
/-- vd := high half of the signed product (R117). -/
def execImulhiS32Short (f : ShortV) (s : State) : Host.Outcome State Fault Refusal := shortInt s (.imulhiS32Short f) f .mulhi 0 4
/-- vd := high half of the unsigned product (R117). -/
def execImulhiZ32Short (f : ShortV) (s : State) : Host.Outcome State Fault Refusal := shortInt s (.imulhiZ32Short f) f .mulhi 1 4
/-- vd := va × vb + vd (R117). -/
def execImadShort (f : ShortV) (s : State) : Host.Outcome State Fault Refusal := shortInt s (.imadShort f) f .mad 0 4
/-- Signed minimum (R118). -/
def execIminS32Short (f : ShortV) (s : State) : Host.Outcome State Fault Refusal := shortInt s (.iminS32Short f) f .min 0 1
/-- Unsigned minimum (R118). -/
def execIminZ32Short (f : ShortV) (s : State) : Host.Outcome State Fault Refusal := shortInt s (.iminZ32Short f) f .min 1 1
/-- Signed maximum (R118). -/
def execImaxS32Short (f : ShortV) (s : State) : Host.Outcome State Fault Refusal := shortInt s (.imaxS32Short f) f .max 0 1
/-- Unsigned maximum (R118). -/
def execImaxZ32Short (f : ShortV) (s : State) : Host.Outcome State Fault Refusal := shortInt s (.imaxZ32Short f) f .max 1 1
/-- |va| (R118). -/
def execIabsShort (f : ShortV) (s : State) : Host.Outcome State Fault Refusal := shortInt s (.iabsShort f) f .abs 0 1
/-- va AND vb (R119). -/
def execAndShort (f : ShortV) (s : State) : Host.Outcome State Fault Refusal := shortInt s (.andShort f) f .and 1 1
/-- va OR vb (R119). -/
def execOrShort (f : ShortV) (s : State) : Host.Outcome State Fault Refusal := shortInt s (.orShort f) f .or 1 1
/-- va XOR vb (R119). -/
def execXorShort (f : ShortV) (s : State) : Host.Outcome State Fault Refusal := shortInt s (.xorShort f) f .xor 1 1
/-- va shifted left by vb[7:0] (R119). -/
def execShlShort (f : ShortV) (s : State) : Host.Outcome State Fault Refusal := shortShift s (.shlShort f) f .shl 1
/-- Logical right shift (R119). -/
def execShrShort (f : ShortV) (s : State) : Host.Outcome State Fault Refusal := shortShift s (.shrShort f) f .shr 1
/-- Arithmetic right shift (R119). -/
def execSarShort (f : ShortV) (s : State) : Host.Outcome State Fault Refusal := shortShift s (.sarShort f) f .sar 0
/-- The number of 1 bits of va (R120). -/
def execPopcShort (f : ShortV) (s : State) : Host.Outcome State Fault Refusal := shortOne s (.popcShort f) f (popcOp 1)
/-- Leading zeros of va (R120). -/
def execClzShort (f : ShortV) (s : State) : Host.Outcome State Fault Refusal := shortOne s (.clzShort f) f (clzOp 1)
/-- va with its bits reversed (R120). -/
def execBrevShort (f : ShortV) (s : State) : Host.Outcome State Fault Refusal := shortOne s (.brevShort f) f (brevOp 1)
/-! The long forms (R94, R116). -/
/-- R117. -/
def execIadd (f : LongF) (s : State) : Host.Outcome State Fault Refusal := longInt s (.iadd f) f .add 1 2
/-- R117. -/
def execIsub (f : LongF) (s : State) : Host.Outcome State Fault Refusal := longInt s (.isub f) f .sub 1 2
/-- R117. -/
def execImul (f : LongF) (s : State) : Host.Outcome State Fault Refusal := longInt s (.imul f) f .mul 4 8
/-- R117. -/
def execImulhi (f : LongF) (s : State) : Host.Outcome State Fault Refusal := longInt s (.imulhi f) f .mulhi 4 8
/-- R117; vc is T. -/
def execImad (f : LongF) (s : State) : Host.Outcome State Fault Refusal := longInt s (.imad f) f .mad 4 8
/-- R118. -/
def execImin (f : LongF) (s : State) : Host.Outcome State Fault Refusal := longInt s (.imin f) f .min 1 2
/-- R118. -/
def execImax (f : LongF) (s : State) : Host.Outcome State Fault Refusal := longInt s (.imax f) f .max 1 2
/-- R118. -/
def execIabs (f : LongF) (s : State) : Host.Outcome State Fault Refusal := longInt s (.iabs f) f .abs 1 2
/-- R119. -/
def execAnd (f : LongF) (s : State) : Host.Outcome State Fault Refusal := longInt s (.and f) f .and 1 2
/-- R119. -/
def execOr (f : LongF) (s : State) : Host.Outcome State Fault Refusal := longInt s (.or f) f .or 1 2
/-- R119. -/
def execXor (f : LongF) (s : State) : Host.Outcome State Fault Refusal := longInt s (.xor f) f .xor 1 2
/-- R119. -/
def execShl (f : LongF) (s : State) : Host.Outcome State Fault Refusal := longCtl s (.shl f) f (fun a k _ => shiftOp .shl f.ty a k)
/-- R119. -/
def execShr (f : LongF) (s : State) : Host.Outcome State Fault Refusal := longCtl s (.shr f) f (fun a k _ => shiftOp .shr f.ty a k)
/-- R119. -/
def execSar (f : LongF) (s : State) : Host.Outcome State Fault Refusal := longCtl s (.sar f) f (fun a k _ => shiftOp .sar f.ty a k)
/-- R121. -/
def execBfe (f : LongF) (s : State) : Host.Outcome State Fault Refusal := longCtl s (.bfe f) f (fun a k _ => bfeOp f.ty a k)
/-- R121; vc is T. -/
def execBfi (f : LongF) (s : State) : Host.Outcome State Fault Refusal := longCtl s (.bfi f) f (fun a k c => bfiOp f.ty a k c)
/-- R120. -/
def execPopc (f : LongF) (s : State) : Host.Outcome State Fault Refusal := 
  intLanes s (.popc f) f.d.toNat 1 (tyLat f.ty 1 2) (fun x l => popcOp f.ty (x.vn (tyRegs f.ty) f.a.toNat l))
/-- R120. -/
def execClz (f : LongF) (s : State) : Host.Outcome State Fault Refusal := 
  intLanes s (.clz f) f.d.toNat 1 (tyLat f.ty 1 2) (fun x l => clzOp f.ty (x.vn (tyRegs f.ty) f.a.toNat l))
/-- R120. -/
def execBrev (f : LongF) (s : State) : Host.Outcome State Fault Refusal := 
  intLanes s (.brev f) f.d.toNat (tyRegs f.ty) (tyLat f.ty 1 2) (fun x l => brevOp f.ty (x.vn (tyRegs f.ty) f.a.toNat l))
/-- va + vb × 2^sh (R122). -/
def execLea (f : LongF) (s : State) : Host.Outcome State Fault Refusal := 
  intLanes s (.lea f) f.d.toNat (tyRegs f.ty) (tyLat f.ty 1 2) (fun x l =>
    leaOp f.ty f.lo (x.vn (tyRegs f.ty) f.a.toNat l) (x.opB f 1 l))
/-- The comparison of Src(va) and Src(vb) into the predicate D (R123). -/
def execIsetp (f : LongF) (s : State) : Host.Outcome State Fault Refusal := 
  predLanes s (.isetp f) f.d.toNat (tyLat f.ty 1 2) (fun _ x l =>
    (icompare f.lo (srcOf f.ty (x.vn (tyRegs f.ty) f.a.toNat l)) (srcOf f.ty (x.opB f (tyRegs f.ty) l)), 0))
/-- va where the predicate T is true, else vb (R124). -/
def execSel (f : LongF) (s : State) : Host.Outcome State Fault Refusal := 
  intLanes s (.sel f) f.d.toNat 1 1 (fun x l =>
    if (x.p f.t.toNat).getLsbD l then x.vn 1 f.a.toNat l else x.opB f 1 l)
/-! The immediate forms (R95, R125). -/
/-- R125. -/
def execIaddImm (f : ImmV) (s : State) : Host.Outcome State Fault Refusal := immInt s (.iaddImm f) f .add 1
/-- R125. -/
def execImulImm (f : ImmV) (s : State) : Host.Outcome State Fault Refusal := immInt s (.imulImm f) f .mul 4
/-- R125. -/
def execAndImm (f : ImmV) (s : State) : Host.Outcome State Fault Refusal := immInt s (.andImm f) f .and 1
/-- R125. -/
def execOrImm (f : ImmV) (s : State) : Host.Outcome State Fault Refusal := immInt s (.orImm f) f .or 1
/-- R125. -/
def execXorImm (f : ImmV) (s : State) : Host.Outcome State Fault Refusal := immInt s (.xorImm f) f .xor 1
/-- R125. -/
def execShlImm (f : ImmV) (s : State) : Host.Outcome State Fault Refusal := immShift s (.shlImm f) f .shl
/-- R125. -/
def execShrImm (f : ImmV) (s : State) : Host.Outcome State Fault Refusal := immShift s (.shrImm f) f .shr
/-- R125. -/
def execSarImm (f : ImmV) (s : State) : Host.Outcome State Fault Refusal := immShift s (.sarImm f) f .sar

end Sys2Proof.Machine
end

