-- ==== Sys2Proof/Machine/FloatOps.lean ====
section
/-!
DEFINITION. The floating-point, conversion, special-function and cross-lane instructions (R136 to R156): one meaning
each, over the operations of Float.lean. FPCTL is read as it stood before the group.
-/

namespace Sys2Proof.Machine

/-- FPCTL.ftz at issue (R51). -/
def ftzOf (c : IssueCtx) : Bool := c.fpctl.getLsbD 0

/-- The FFMA whose EX2 may issue in the next clk (R149): it must be the last of its group. -/
def noteFfma (s : State) (i : Instr) (vd : Nat) (o : Host.Outcome State Fault Refusal) : Host.Outcome State Fault Refusal :=
  match o, s.issue with
  | .next t, some c =>
    let act := c.act (s.warpD c.warp) i
    if s.pend.isEmpty && t.issue.isSome && act != 0 then
      let n := fun (x : Warp) => ({ clk := s.clk, seq := x.nextSeq - 1, pc := c.pc, next := c.pc + 4 * i.words, path := c.path,
                                    guard := guardCode (info i).guard, act := act, vd := vd } : FfmaNote)
      .next (t.modWarp c.warp (fun x => { x with ffmas := x.ffmas.filter (fun m => m.clk == s.clk) ++ [n x] }))
    else o
  | _, _ => o

/-- A short FP32 form (R138): round to nearest; vc is vd. -/
def shortF (s : State) (i : Instr) (f : ShortV) (op : Bool → Nat → Nat → Nat → FRes) : Host.Outcome State Fault Refusal :=
  laneOp s i f.d.toNat 1 4 (fun c x l => op (ftzOf c) (x.vn 1 f.a.toNat l) (x.vn 1 f.b.toNat l) (x.vn 1 f.d.toNat l))
/-- A long one: M[1:0] is the rounding mode, T names vc (R138). -/
def longF (s : State) (i : Instr) (f : LongF) (op : RMode → Bool → Nat → Nat → Nat → FRes) :
    Host.Outcome State Fault Refusal :=
  laneOp s i f.d.toNat 1 4 (fun c x l =>
    op (RMode.of (f.m.toNat % 4)) (ftzOf c) (x.vn 1 f.a.toNat l) (x.opB f 1 l) (x.vn 1 f.t.toNat l))
/-- A class 0x71 one: the immediate is an FP32 pattern (R139). -/
def immF (s : State) (i : Instr) (f : ImmV) (op : Bool → Nat → Nat → Nat → FRes) : Host.Outcome State Fault Refusal :=
  laneOp s i f.d.toNat 1 4 (fun c x l => op (ftzOf c) (x.vn 1 f.a.toNat l) f.imm.toNat (x.vn 1 f.d.toNat l))

/-- The format M[3] names (R143). -/
def halfFmt (f16 : Bool) : FFmt := if f16 then fp16 else bf16
def hadd (t : FFmt) (r : RMode) (z : Bool) (a b c : Nat) : FRes := packed2 (fun a b _ => t.add r z a b) a b c
def hmul (t : FFmt) (r : RMode) (z : Bool) (a b c : Nat) : FRes := packed2 (fun a b _ => t.mul r z a b) a b c
def hfma (t : FFmt) (r : RMode) (z : Bool) (a b c : Nat) : FRes := packed2 (fun a b c => t.fma r z a b c) a b c

/-- A special function (R147, R148): the bits come from Config.special where they lie within the spec's bound. -/
def specialLane (fn : SpecialFn) (k : Nat) (z : Bool) (a : Nat) : FRes := specialOp fn z (Config.special k a z) a
/-- The FFMA that an EX2 fuses with and its rounded result (R150). -/
def fusedInput (s : State) (c : IssueCtx) (x : Warp) (i : Instr) : Option (FfmaNote × LaneVec) :=
  match fuses s x c.path c.pc i with
  | none => none
  | some n =>
    match x.flights.find? (fun f => f.seq == n.seq) with
    | some f => (match f.writes with
      | [.v _ _ vals] => some (n, vals)
      | _ => none)
    | none => none
/-- An EX2 that writes its FFMA's vd fused: the FFMA's result is never seen in the EX2's lanes (R150). -/
def coverFfma (s : State) (w seq d : Nat) (act : LaneMask) : State :=
  let cut := fun (r : RegWrite) => match r with
    | .v k m vals => if k = d then .v k (m &&& ~~~act) vals else r
    | r => r
  s.modWarp w (fun x =>
    { x with flights := x.flights.map (fun f => if f.seq = seq then { f with writes := f.writes.map cut } else f) })
/-- Whether a waiting cause is the FP_TRAP that the first of a fused pair has raised. -/
def ffmaCause (n : FfmaNote) (p : PendCause) : Bool := p.code == 0x0E && p.faddr == BitVec.ofNat 64 n.pc && p.lanes == n.path
/-- A special function over the lanes of ACT. -/
def specialLanes (s : State) (i : Instr) (d a lat : Nat) (fn : SpecialFn) (k : Nat) : Host.Outcome State Fault Refusal :=
  laneOp s i d 1 lat (fun c x l => specialLane fn k (ftzOf c) (x.vn 1 a l))
/-- EX2, fused with the FFMA before it or not (R149, R150): fused, it takes the FFMA's result, and what the pair
raises is reported at the FFMA once both have completed. -/
def ex2Lanes (s : State) (i : Instr) (d a : Nat) : Host.Outcome State Fault Refusal :=
  issuing s (fun c x =>
    let act := c.act x i
    let fly := fun (s : State) (inp : Nat → Nat) (adr : Nat) =>
      let r := allLanes.map (fun l => if act.getLsbD l then specialLane .ex2 3 (ftzOf c) (inp l) else ⟨0, 0⟩)
      flyResult s c act (vWrites 1 d act (fun l => (r.getD l ⟨0, 0⟩).bits)) 12 (r.map (·.flags)) adr
    match fusedInput s c x i with
    | none =>
      (match feCause c x i with
      | some fa => trapAtIssue s c 0x09 fa
      | none => fly s (x.vn 1 a) c.pc)
    | some (n, vals) =>
      let inp := fun (l : Nat) => if n.act.getLsbD l then (laneGet vals l).toNat else x.vn 1 a l
      let t := coverFfma (s.modWarp c.warp (fun x => { x with pend := x.pend.filter (fun p => !ffmaCause n p) })) c.warp n.seq d act
      let t := fly t inp n.pc
      match x.pend.find? (ffmaCause n) with
      | none => t
      | some p =>
        if (t.warpD c.warp).pend.any (ffmaCause n) then t else addPend t c.warp { p with due := s.clk + 12 })

/-- R139. -/
def execFaddShort (f : ShortV) (s : State) : Host.Outcome State Fault Refusal := shortF s (.faddShort f) f (fun z a b _ => fp32.add .rn z a b)
/-- R139. -/
def execFsubShort (f : ShortV) (s : State) : Host.Outcome State Fault Refusal := shortF s (.fsubShort f) f (fun z a b _ => fp32.sub .rn z a b)
/-- R139. -/
def execFmulShort (f : ShortV) (s : State) : Host.Outcome State Fault Refusal := shortF s (.fmulShort f) f (fun z a b _ => fp32.mul .rn z a b)
/-- R140. -/
def execFminShort (f : ShortV) (s : State) : Host.Outcome State Fault Refusal := shortF s (.fminShort f) f (fun z a b _ => fp32.minmax true z a b)
/-- R140. -/
def execFmaxShort (f : ShortV) (s : State) : Host.Outcome State Fault Refusal := shortF s (.fmaxShort f) f (fun z a b _ => fp32.minmax false z a b)
/-- R139: vd := va × vb + vd, rounded once. -/
def execFfmaShort (f : ShortV) (s : State) : Host.Outcome State Fault Refusal := 
  noteFfma s (.ffmaShort f) f.d.toNat (shortF s (.ffmaShort f) f (fun z a b c => fp32.fma .rn z a b c))
/-- R143. -/
def execHadd2Bf16Short (f : ShortV) (s : State) : Host.Outcome State Fault Refusal := shortF s (.hadd2Bf16Short f) f (hadd bf16 .rn)
/-- R143. -/
def execHadd2F16Short (f : ShortV) (s : State) : Host.Outcome State Fault Refusal := shortF s (.hadd2F16Short f) f (hadd fp16 .rn)
/-- R143. -/
def execHmul2Bf16Short (f : ShortV) (s : State) : Host.Outcome State Fault Refusal := shortF s (.hmul2Bf16Short f) f (hmul bf16 .rn)
/-- R143. -/
def execHmul2F16Short (f : ShortV) (s : State) : Host.Outcome State Fault Refusal := shortF s (.hmul2F16Short f) f (hmul fp16 .rn)
/-- R143. -/
def execHfma2Bf16Short (f : ShortV) (s : State) : Host.Outcome State Fault Refusal := shortF s (.hfma2Bf16Short f) f (hfma bf16 .rn)
/-- R143. -/
def execHfma2F16Short (f : ShortV) (s : State) : Host.Outcome State Fault Refusal := shortF s (.hfma2F16Short f) f (hfma fp16 .rn)
/-- R139. -/
def execFadd (f : LongF) (s : State) : Host.Outcome State Fault Refusal := longF s (.fadd f) f (fun r z a b _ => fp32.add r z a b)
/-- R139. -/
def execFsub (f : LongF) (s : State) : Host.Outcome State Fault Refusal := longF s (.fsub f) f (fun r z a b _ => fp32.sub r z a b)
/-- R139. -/
def execFmul (f : LongF) (s : State) : Host.Outcome State Fault Refusal := longF s (.fmul f) f (fun r z a b _ => fp32.mul r z a b)
/-- R139: va × vb + vc, rounded once. -/
def execFfma (f : LongF) (s : State) : Host.Outcome State Fault Refusal := noteFfma s (.ffma f) f.d.toNat (longF s (.ffma f) f (fun r z a b c => fp32.fma r z a b c))
/-- R140. -/
def execFmin (f : LongF) (s : State) : Host.Outcome State Fault Refusal := longF s (.fmin f) f (fun _ z a b _ => fp32.minmax true z a b)
/-- R140. -/
def execFmax (f : LongF) (s : State) : Host.Outcome State Fault Refusal := longF s (.fmax f) f (fun _ z a b _ => fp32.minmax false z a b)
/-- The comparison into the predicate D (R141). -/
def execFsetp (f : LongF) (s : State) : Host.Outcome State Fault Refusal := 
  predLanes s (.fsetp f) f.d.toNat 4 (fun c x l => fcompare f.lo (ftzOf c) (x.vn 1 f.a.toNat l) (x.opB f 1 l))
/-- R142. -/
def execFrnd (f : LongF) (s : State) : Host.Outcome State Fault Refusal := longF s (.frnd f) f (fun r z a _ _ => frndOp r z a)
/-- R143. -/
def execHadd2 (f : LongF) (s : State) : Host.Outcome State Fault Refusal := longF s (.hadd2 f) f (hadd (halfFmt (f.m.getLsbD 3)))
/-- R143. -/
def execHmul2 (f : LongF) (s : State) : Host.Outcome State Fault Refusal := longF s (.hmul2 f) f (hmul (halfFmt (f.m.getLsbD 3)))
/-- R143. -/
def execHfma2 (f : LongF) (s : State) : Host.Outcome State Fault Refusal := longF s (.hfma2 f) f (hfma (halfFmt (f.m.getLsbD 3)))
/-- R139. -/
def execFaddImm (f : ImmV) (s : State) : Host.Outcome State Fault Refusal := immF s (.faddImm f) f (fun z a b _ => fp32.add .rn z a b)
/-- R139. -/
def execFmulImm (f : ImmV) (s : State) : Host.Outcome State Fault Refusal := immF s (.fmulImm f) f (fun z a b _ => fp32.mul .rn z a b)
/-- R139: vd := va × imm + vd. -/
def execFfmaImm (f : ImmV) (s : State) : Host.Outcome State Fault Refusal := 
  noteFfma s (.ffmaImm f) f.d.toNat (immF s (.ffmaImm f) f (fun z a b c => fp32.fma .rn z a b c))
/-- The operand of CVT that its part field selects (R145), from the source. -/
def cvtSource (f : LongF) (x : Nat) : Nat :=
  let sb := ctBits (cvtSrc f)
  let part := natBits f.m.toNat 4 3
  if ctBits (cvtDst f) ≥ 32 && decide (sb < 32) then x / 2 ^ (sb * part) % 2 ^ sb else x % 2 ^ sb
/-- The result placed into vd: a narrow destination leaves vd's other bits (R145). -/
def cvtPlace (f : LongF) (old res : Nat) : Nat :=
  let db := ctBits (cvtDst f)
  let part := natBits f.m.toNat 4 3
  if db < 32 then old - old / 2 ^ (db * part) % 2 ^ db * 2 ^ (db * part) + res % 2 ^ db * 2 ^ (db * part) else res
/-- Conversion (R144 to R146). -/
def execCvt (f : LongF) (s : State) : Host.Outcome State Fault Refusal := 
  laneOp s (.cvt f) f.d.toNat (if ctBits (cvtDst f) = 64 then 2 else 1) 4 (fun c x l =>
    let src := cvtSource f (x.vn (if ctBits (cvtSrc f) = 64 then 2 else 1) f.a.toNat l)
    let r := cvtOp (cvtSrc f) (cvtDst f) (RMode.of (f.m.toNat % 4)) (f.m.getLsbD 2) (ftzOf c) src
    ⟨cvtPlace f (x.vn 1 f.d.toNat l) r.bits, r.flags⟩)
/-! Special functions (R147, R148). -/
/-- R147, R148. -/
def execRcpShort (f : ShortV) (s : State) : Host.Outcome State Fault Refusal := specialLanes s (.rcpShort f) f.d.toNat f.a.toNat 12 .rcp 0
/-- R147, R148. -/
def execRcp (f : LongF) (s : State) : Host.Outcome State Fault Refusal := specialLanes s (.rcp f) f.d.toNat f.a.toNat 12 .rcp 0
/-- R147, R148. -/
def execRsqShort (f : ShortV) (s : State) : Host.Outcome State Fault Refusal := specialLanes s (.rsqShort f) f.d.toNat f.a.toNat 12 .rsq 1
/-- R147, R148. -/
def execRsq (f : LongF) (s : State) : Host.Outcome State Fault Refusal := specialLanes s (.rsq f) f.d.toNat f.a.toNat 12 .rsq 1
/-- R147, R148. -/
def execSqrtShort (f : ShortV) (s : State) : Host.Outcome State Fault Refusal := specialLanes s (.sqrtShort f) f.d.toNat f.a.toNat 12 .sqrt 2
/-- R147, R148. -/
def execSqrt (f : LongF) (s : State) : Host.Outcome State Fault Refusal := specialLanes s (.sqrt f) f.d.toNat f.a.toNat 12 .sqrt 2
/-- R147 to R150. -/
def execEx2Short (f : ShortV) (s : State) : Host.Outcome State Fault Refusal := ex2Lanes s (.ex2Short f) f.d.toNat f.a.toNat
/-- R147 to R150. -/
def execEx2 (f : LongF) (s : State) : Host.Outcome State Fault Refusal := ex2Lanes s (.ex2 f) f.d.toNat f.a.toNat
/-- R147, R148. -/
def execLg2Short (f : ShortV) (s : State) : Host.Outcome State Fault Refusal := specialLanes s (.lg2Short f) f.d.toNat f.a.toNat 12 .lg2 4
/-- R147, R148. -/
def execLg2 (f : LongF) (s : State) : Host.Outcome State Fault Refusal := specialLanes s (.lg2 f) f.d.toNat f.a.toNat 12 .lg2 4
/-- R57, R148. -/
def execSinShort (f : ShortV) (s : State) : Host.Outcome State Fault Refusal := specialLanes s (.sinShort f) f.d.toNat f.a.toNat 16 .sin 5
/-- R57, R148. -/
def execSin (f : LongF) (s : State) : Host.Outcome State Fault Refusal := specialLanes s (.sin f) f.d.toNat f.a.toNat 16 .sin 5
/-- R57, R148. -/
def execCosShort (f : ShortV) (s : State) : Host.Outcome State Fault Refusal := specialLanes s (.cosShort f) f.d.toNat f.a.toNat 16 .cos 6
/-- R57, R148. -/
def execCos (f : LongF) (s : State) : Host.Outcome State Fault Refusal := specialLanes s (.cos f) f.d.toNat f.a.toNat 16 .cos 6
/-- R147, R148. -/
def execTanhShort (f : ShortV) (s : State) : Host.Outcome State Fault Refusal := specialLanes s (.tanhShort f) f.d.toNat f.a.toNat 16 .tanh 7
/-- R147, R148. -/
def execTanh (f : LongF) (s : State) : Host.Outcome State Fault Refusal := specialLanes s (.tanh f) f.d.toNat f.a.toNat 16 .tanh 7
/-! Cross-lane instructions (R151 to R156). -/

/-- A cross-lane result: `val` sees ACT. -/
def crossLanes (s : State) (i : Instr) (d lat : Nat) (val : IssueCtx → Warp → LaneMask → Nat → FRes) :
    Host.Outcome State Fault Refusal :=
  laneOp s i d 1 lat (fun c x l => val c x (c.act x i) l)
/-- The lane SHFL reads (R152). -/
def shflLane (mode l c : Nat) : Int :=
  match mode with
  | 0 => c
  | 1 => (l : Int) - c
  | 2 => (l : Int) + c
  | _ => (l ^^^ c : Nat)
/-- va of the lane the operand names, where that lane is in ACT, else its own (R152). -/
def execShfl (f : LongF) (s : State) : Host.Outcome State Fault Refusal := 
  crossLanes s (.shfl f) f.d.toNat 6 (fun _ x act l =>
    let j := shflLane (f.m.toNat % 4) l (x.opB f 1 l % 256)
    ⟨if 0 ≤ j ∧ j ≤ 31 ∧ act.getLsbD j.toNat then x.vn 1 f.a.toNat j.toNat else x.vn 1 f.a.toNat l, 0⟩)
/-- ALL, ANY and UNI into the predicate D, BALLOT into vd (R153). -/
def execVote (f : LongF) (s : State) : Host.Outcome State Fault Refusal := 
  if f.m.toNat % 4 = 3 then
    crossLanes s (.vote f) f.d.toNat 3 (fun _ x act _ => ⟨(x.p f.a.toNat &&& act).toNat, 0⟩)
  else
    predLanes s (.vote f) f.d.toNat 3 (fun c x _ =>
      let act := c.act x (.vote f)
      let t := x.p f.a.toNat &&& act
      (match f.m.toNat % 4 with
        | 0 => t == act
        | 1 => t != 0
        | _ => t == act || t == 0, 0))
/-- REDUX over the lanes of ACT (R154, R74). -/
def reduxOp (ty op : Nat) (ftz : Bool) (x : Warp) (a : Nat) (act : LaneMask) : FRes :=
  let vs := (lanesOf act).map (fun l => x.vn 1 a l)
  if ty = 2 then
    if op = 0 then reduxTree ftz 5 (allLanes.map (fun l => if act.getLsbD l then x.vn 1 a l else 2 ^ 31))
    else
      let fl := vs.foldl (fun m v => m ||| (fp32.unpack v).sigFlag) 0
      ⟨(match vs with
        | [] => 0
        | v :: r => r.foldl (fun m u => (fp32.minmax (op == 1) ftz m u).bits) (fp32.minmax (op == 1) ftz v v).bits), fl⟩
  else
    let bin := fun (p q : Nat) => match op with
      | 0 => intOp .add ty false p q 0
      | 1 => intOp .min ty false p q 0
      | 2 => intOp .max ty false p q 0
      | 3 => p &&& q
      | 4 => p ||| q
      | _ => p ^^^ q
    ⟨(match vs with
      | [] => 0
      | v :: r => r.foldl bin v), 0⟩
/-- One result of va over ACT, in every lane of ACT (R154). -/
def execRedux (f : LongF) (s : State) : Host.Outcome State Fault Refusal := 
  crossLanes s (.redux f) f.d.toNat (if f.ty = 2 then 14 else 8) (fun c x act _ =>
    reduxOp f.ty f.lo (ftzOf c) x f.a.toNat act)
/-- Bytes of va and vb chosen by the nibbles of vsel (R155). -/
def execPrmt (f : LongF) (s : State) : Host.Outcome State Fault Refusal := 
  intLanes s (.prmt f) f.d.toNat 1 2 (fun x l => prmtOp (x.vn 1 f.a.toNat l) (x.opB f 1 l) (x.vn 1 f.t.toNat l))
/-- The lanes of ACT whose va matches (R156). -/
def execMatchLanes (f : LongF) (s : State) : Host.Outcome State Fault Refusal := 
  crossLanes s (.matchLanes f) f.d.toNat 10 (fun _ x act l =>
    let n := 1 + f.m.toNat % 2
    ⟨(maskOf (fun j => act.getLsbD j && x.vn n f.a.toNat j == x.vn n f.a.toNat l)).toNat, 0⟩)

end Sys2Proof.Machine
end

