-- ==== Sys2Proof/Machine/Uniform.lean ====
section
/-!
DEFINITION. The uniform instructions (R127 to R135): each acts once per issue whose guard passes.
-/

namespace Sys2Proof.Machine

/-- A uniform result of one register (R130): once per issue when ACT is not empty. -/
def uniOp (s : State) (i : Instr) (lat : Nat) (val : Warp → List RegWrite) : Host.Outcome State Fault Refusal :=
  issuing s (fun c x =>
    match feCause c x i with
    | some fa => trapAtIssue s c 0x09 fa
    | none => flyResult s c (c.act x i) (val x) lat [] c.pc)

/-- sd := sd op sb, 32 bits (R130). -/
def shortUni (s : State) (i : Instr) (f : ShortA) (lat : Nat) (op : Nat → Nat → Nat) : Host.Outcome State Fault Refusal :=
  uniOp s i lat (fun x => sWrites 1 f.d.toNat (op (x.sn 1 f.d.toNat) (x.sn 1 f.b.toNat)))
/-- sd := sa op sb (R130). -/
def longUni (s : State) (i : Instr) (f : UniF) (lat : Nat) (op : Nat → Nat → Nat) : Host.Outcome State Fault Refusal :=
  uniOp s i lat (fun x => sWrites 1 f.d.toNat (op (x.sn 1 f.a.toNat) (x.sn 1 f.t.toNat)))
/-- sd := sd op imm (R130). -/
def immUni (s : State) (i : Instr) (f : ImmU) (lat : Nat) (op : Nat → Nat → Nat) : Host.Outcome State Fault Refusal :=
  uniOp s i lat (fun x => sWrites 1 f.d.toNat (op (x.sn 1 f.d.toNat) f.imm.toNat))
/-- A uniform comparison into q (R131); `z` reads unsigned. -/
def setUni (s : State) (i : Instr) (q cmp : Nat) (z : Bool) (val : Warp → Nat × Nat) : Host.Outcome State Fault Refusal :=
  uniOp s i 2 (fun x =>
    let ab := val x
    [.q q (icompare cmp (intOf 32 (!z) ab.1) (intOf 32 (!z) ab.2))])

/-- S2V (R133): a uniform value into vd in ACT. -/
def toLanes (s : State) (i : Instr) (d src : Nat) : Host.Outcome State Fault Refusal :=
  intLanes s i d 1 3 (fun x _ => (x.s src).toNat)
/-- V2S (R134): one lane's va into sd, whatever the lane's state. -/
def fromLane (s : State) (i : Instr) (d va lane : Nat) : Host.Outcome State Fault Refusal :=
  uniOp s i 3 (fun x => sWrites 1 d (x.v va lane).toNat)

/-- SLD (R135): one access of `size` bytes at the effective address `ea` gives, into `sd`. -/
def uniLoad (s : State) (i : Instr) (sd size : Nat) (ea : Warp → Nat) : Host.Outcome State Fault Refusal :=
  issuing s (fun c x =>
    let act := c.act x i
    let a := ea x
    let bad := if act = 0 then none
      else if a % size ≠ 0 then some (0x06, BitVec.ofNat 64 a)
      else if a ≥ 2 ^ 57 then some (0x07, BitVec.ofNat 64 a) else none
    match lowerCause bad ((feCause c x i).map (fun f => (0x09, f))) with
    | some (code, fa) => trapAtIssue s c code fa
    | none =>
      if act = 0 then s
      else fly s c.warp (sldFlight s c.warp x act sd size a x.nextSeq c.pc c.w0 c.w1) (.loadReturn c.warp x.nextSeq))

/-- R130. -/
def execSaddShort (f : ShortA) (s : State) : Host.Outcome State Fault Refusal := shortUni s (.saddShort f) f 2 (fun a b => intOp .add 1 false a b 0)
/-- R130; M[2] is .sat. -/
def execSadd (f : UniF) (s : State) : Host.Outcome State Fault Refusal := longUni s (.sadd f) f 2 (fun a b => intOp .add f.ty (f.m.getLsbD 2) a b 0)
/-- R130. -/
def execSaddImm (f : ImmU) (s : State) : Host.Outcome State Fault Refusal := immUni s (.saddImm f) f 2 (fun a b => intOp .add 1 false a b 0)
/-- R130. -/
def execSsubShort (f : ShortA) (s : State) : Host.Outcome State Fault Refusal := shortUni s (.ssubShort f) f 2 (fun a b => intOp .sub 1 false a b 0)
/-- R130; M[2] is .sat. -/
def execSsub (f : UniF) (s : State) : Host.Outcome State Fault Refusal := longUni s (.ssub f) f 2 (fun a b => intOp .sub f.ty (f.m.getLsbD 2) a b 0)
/-- R130. -/
def execSmulShort (f : ShortA) (s : State) : Host.Outcome State Fault Refusal := shortUni s (.smulShort f) f 4 (fun a b => intOp .mul 1 false a b 0)
/-- R130; M[2] is .sat. -/
def execSmul (f : UniF) (s : State) : Host.Outcome State Fault Refusal := longUni s (.smul f) f 4 (fun a b => intOp .mul f.ty (f.m.getLsbD 2) a b 0)
/-- R130. -/
def execSmulImm (f : ImmU) (s : State) : Host.Outcome State Fault Refusal := immUni s (.smulImm f) f 4 (fun a b => intOp .mul 1 false a b 0)
/-- R130. -/
def execSandShort (f : ShortA) (s : State) : Host.Outcome State Fault Refusal := shortUni s (.sandShort f) f 2 (fun a b => intOp .and 1 false a b 0)
/-- R130. -/
def execSand (f : UniF) (s : State) : Host.Outcome State Fault Refusal := longUni s (.sand f) f 2 (fun a b => intOp .and 1 false a b 0)
/-- R130. -/
def execSandImm (f : ImmU) (s : State) : Host.Outcome State Fault Refusal := immUni s (.sandImm f) f 2 (fun a b => intOp .and 1 false a b 0)
/-- R130. -/
def execSorShort (f : ShortA) (s : State) : Host.Outcome State Fault Refusal := shortUni s (.sorShort f) f 2 (fun a b => intOp .or 1 false a b 0)
/-- R130. -/
def execSor (f : UniF) (s : State) : Host.Outcome State Fault Refusal := longUni s (.sor f) f 2 (fun a b => intOp .or 1 false a b 0)
/-- R130. -/
def execSorImm (f : ImmU) (s : State) : Host.Outcome State Fault Refusal := immUni s (.sorImm f) f 2 (fun a b => intOp .or 1 false a b 0)
/-- R130. -/
def execSxorShort (f : ShortA) (s : State) : Host.Outcome State Fault Refusal := shortUni s (.sxorShort f) f 2 (fun a b => intOp .xor 1 false a b 0)
/-- R130. -/
def execSxor (f : UniF) (s : State) : Host.Outcome State Fault Refusal := longUni s (.sxor f) f 2 (fun a b => intOp .xor 1 false a b 0)
/-- R130. -/
def execSxorImm (f : ImmU) (s : State) : Host.Outcome State Fault Refusal := immUni s (.sxorImm f) f 2 (fun a b => intOp .xor 1 false a b 0)
/-- R130. -/
def execSshlShort (f : ShortA) (s : State) : Host.Outcome State Fault Refusal := shortUni s (.sshlShort f) f 2 (fun a b => shiftOp .shl 1 a b)
/-- R130: logical. -/
def execSshrShort (f : ShortA) (s : State) : Host.Outcome State Fault Refusal := shortUni s (.sshrShort f) f 2 (fun a b => shiftOp .shr 1 a b)
/-- sd := sb (R130). -/
def execSmovShort (f : ShortA) (s : State) : Host.Outcome State Fault Refusal := shortUni s (.smovShort f) f 2 (fun _ b => b)
/-- R130. -/
def execSshl (f : UniF) (s : State) : Host.Outcome State Fault Refusal := longUni s (.sshl f) f 2 (fun a b => shiftOp .shl 1 a b)
/-- R130: arithmetic for .s32, logical for .z32. -/
def execSshr (f : UniF) (s : State) : Host.Outcome State Fault Refusal := 
  longUni s (.sshr f) f 2 (fun a b => if f.ty = 0 then shiftOp .sar 0 a b else shiftOp .shr 1 a b)
/-- sd := sa (R130). -/
def execSmov (f : UniF) (s : State) : Host.Outcome State Fault Refusal := longUni s (.smov f) f 2 (fun a _ => a)
/-- The field of sa that sb names (R132). -/
def execSbfe (f : UniF) (s : State) : Host.Outcome State Fault Refusal := longUni s (.sbfe f) f 2 (fun a b => bfeOp f.ty a b)
/-- R130. -/
def execSshlImm (f : ImmU) (s : State) : Host.Outcome State Fault Refusal := immUni s (.sshlImm f) f 2 (fun a b => shiftOp .shl 1 a b)
/-- R130; bit 0 of the second word: 0 arithmetic, 1 logical (R97). -/
def execSshrImm (f : ImmU) (s : State) : Host.Outcome State Fault Refusal := 
  immUni s (.sshrImm f) f 2 (fun a b => if f.x.getLsbD 0 then shiftOp .shr 1 a b else shiftOp .sar 0 a b)
/-- sd := imm (R130). -/
def execSmovImm (f : ImmU) (s : State) : Host.Outcome State Fault Refusal := immUni s (.smovImm f) f 2 (fun _ b => b)
/-- Signed comparison of sd and sb (R131). -/
def execSsetpS32Short (f : ShortU) (s : State) : Host.Outcome State Fault Refusal := 
  setUni s (.ssetpS32Short f) (natBits f.sub.toNat 2 0) (natBits f.sub.toNat 5 3) false (fun x =>
    (x.sn 1 f.d.toNat, x.sn 1 f.b.toNat))
/-- Unsigned comparison of sd and sb (R131). -/
def execSsetpZ32Short (f : ShortU) (s : State) : Host.Outcome State Fault Refusal := 
  setUni s (.ssetpZ32Short f) (natBits f.sub.toNat 2 0) (natBits f.sub.toNat 5 3) true (fun x =>
    (x.sn 1 f.d.toNat, x.sn 1 f.b.toNat))
/-- Comparison of sa and sb by ty (R131). -/
def execSsetp (f : UniF) (s : State) : Host.Outcome State Fault Refusal := 
  setUni s (.ssetp f) (f.d.toNat % 8) (natBits f.m.toNat 2 0) (f.ty == 1) (fun x =>
    (x.sn 1 f.a.toNat, x.sn 1 f.t.toNat))
/-- Comparison of sd and imm (R131, R97). -/
def execSsetpImm (f : ImmU) (s : State) : Host.Outcome State Fault Refusal := 
  setUni s (.ssetpImm f) (natBits f.x.toNat 6 4) (natBits f.x.toNat 3 1) (f.x.getLsbD 0) (fun x =>
    (x.sn 1 f.d.toNat, f.imm.toNat))
/-- R133. -/
def execS2vShort (f : ShortU) (s : State) : Host.Outcome State Fault Refusal := toLanes s (.s2vShort f) f.d.toNat f.b.toNat
/-- R133. -/
def execS2v (f : UniF) (s : State) : Host.Outcome State Fault Refusal := toLanes s (.s2v f) f.d.toNat f.a.toNat
/-- R134. -/
def execV2sShort (f : ShortU) (s : State) : Host.Outcome State Fault Refusal := fromLane s (.v2sShort f) f.d.toNat f.b.toNat (f.sub.toNat % 32)
/-- R134. -/
def execV2s (f : UniF) (s : State) : Host.Outcome State Fault Refusal := fromLane s (.v2s f) f.d.toNat f.a.toNat (f.m.toNat % 32)
/-- R135. -/
def execSldShort (f : ShortU) (s : State) : Host.Outcome State Fault Refusal := 
  uniLoad s (.sldShort f) f.d.toNat 4 (fun x => truncInt 64 (x.s64 f.b.toNat + 4 * f.sub.toNat))
/-- R135. -/
def execSld (f : UniF) (s : State) : Host.Outcome State Fault Refusal := 
  uniLoad s (.sld f) f.d.toNat (if f.m.getLsbD 0 then 8 else 4) (fun x =>
    truncInt 64 (x.s64 f.a.toNat + intOf 32 true (x.s f.t.toNat).toNat))

end Sys2Proof.Machine
end

