-- ==== Sys2Proof/Machine/MemoryOps.lean ====
section
/-!
DEFINITION. Memory, atomic, fence, stash and watch instructions (R157 to R193): what each does when it issues. What
happens to it afterwards is in WarpEvents.lean.
-/

namespace Sys2Proof.Machine

/-- A store takes its entry in the queue (R168). -/
def pushStore (s : State) (c : IssueCtx) (kind : StoreKind) (sp : Space) (size : Nat) (acc : List LaneAcc) : State :=
  let x := s.warpD c.warp
  let e : StoreEntry :=
    { seq := x.nextSeq, kind := kind, space := sp, size := size, acc := acc, pc := c.pc, hmode := x.handler,
      stuck := false, fail := none }
  (s.modWarp c.warp (fun x => { x with storeq := x.storeq ++ [e], nextSeq := x.nextSeq + 1 })).after 1
    (.storeQueueExit c.warp)

/-- An STS that reaches the stash: its line's translation must allow the fill and the write, precisely (R184, R282).
(DESIGN CHOICE, log 18) -/
def stashCause (s : State) (w : Nat) (x : Warp) (sp : Space) (a : Nat) : Option (Nat × DWord) :=
  if sp != .spad then none else
  match stashXlate s w x a with
  | some (_, _, .fail code fa) => some (code, fa)
  | _ => none

/-- Issuing a store or reduction (R165, R168, R169): the checks before any effect, then one queue entry with the bytes
of every lane of ACT. -/
def issueStore (s : State) (i : Instr) (h : Shape) (kind : StoreKind) (data : Warp → Nat → List Byte) :
    Host.Outcome State Fault Refusal :=
  issuing s (fun c x =>
    let act := c.act x i
    let base := h.base x
    let (sp, ok) := h.spaceOf s c.warp x base
    let ad := fun (l : Nat) => h.addr base (h.index x l)
    let causes := (lanesOf act).map (fun l => lowerCause (laneCause s c.warp x h sp ok false true (ad l))
      (stashCause s c.warp x sp (ad l)))
    let s := if h.space = 1 then endWalks s c.warp issueSeq else s
    match lowestCause (causes ++ [(feCause c x i).map (fun f => (0x09, f))]) with
    | some (code, fa) => trapAtIssue s c code fa
    | none =>
      if act = 0 then s else
      let acc := (lanesOf act).map (fun l => ({ lane := l, addr := ad l, bytes := data x l } : LaneAcc))
      let passes := bankPasses (acc.map (·.addr))
      let s := if h.space = 1 then countFor s c.warp 7 passes else s
      pushStore s c kind sp h.size acc)

/-- Issuing a reading instruction of the table, an LDS, or an LDR or atomic of the own scratchpad, holding its row for its
bank passes (R105). -/
def issueLoad (s : State) (i : Instr) : Host.Outcome State Fault Refusal :=
  match readOpOf i with
  | none => .next s
  | some m =>
    match issueRead s i m, s.issue, s.issue.bind (fun c => issueRow s c.warp (s.warpD c.warp) i) with
    | .next t, some c, some (8, _) =>
      let x := t.warpD c.warp
      let passes := match x.flights.getLast? with
        | some f => if f.seq = (s.warpD c.warp).nextSeq then bankPasses (f.acc.map (·.addr)) else 0
        | none => 0
      .next (countFor (holdRow t c.warp 8 (1 + passes)) c.warp 7 passes)
    | o, _, _ => o

/-- The data of a store: the low bytes of vd (R162). -/
def storeData (h : Shape) (x : Warp) (l : Nat) : List Byte := leBytes h.size (x.vn h.n h.d l)
/-- The operand of a reduction (R176). -/
def redData (f : LongF) (h : Shape) (x : Warp) (l : Nat) : List Byte := leBytes h.size (x.opB f h.n l)

/-- A fence, DRAINST or MFENCE (R172 to R174, R246): nothing when ACT is empty, else it waits until its condition
holds. -/
def issueHold (s : State) (i : Instr) (h : Nat → Hold) : Host.Outcome State Fault Refusal :=
  issuing s (fun c x =>
    let act := c.act x i
    if act = 0 then s else settle (holdFlight s c.warp act h c.pc c.w0 c.w1) c.warp)

/-- R166, R167. -/
def execLdShort (f : ShortV) (s : State) : Host.Outcome State Fault Refusal := issueLoad s (.ldShort f)
/-- R159, R167. -/
def execLdsShort (f : ShortV) (s : State) : Host.Outcome State Fault Refusal := issueLoad s (.ldsShort f)
/-- R166, R167, R171. -/
def execLd (f : LongF) (s : State) : Host.Outcome State Fault Refusal := issueLoad s (.ld f)
/-- R159, R167. -/
def execLds (f : LongF) (s : State) : Host.Outcome State Fault Refusal := issueLoad s (.lds f)
/-- R160, R167. -/
def execLdr (f : LongF) (s : State) : Host.Outcome State Fault Refusal := issueLoad s (.ldr f)
/-- R187. -/
def execLdw (f : LongF) (s : State) : Host.Outcome State Fault Refusal := issueLoad s (.ldw f)
/-- R186. -/
def execWmld (f : LongF) (s : State) : Host.Outcome State Fault Refusal := issueLoad s (.wmld f)
/-- R166, R168. -/
def execStShort (f : ShortV) (s : State) : Host.Outcome State Fault Refusal := 
  issueStore s (.stShort f) (shortShape 0 f) .store (storeData (shortShape 0 f))
/-- R159, R168. -/
def execStsShort (f : ShortV) (s : State) : Host.Outcome State Fault Refusal := 
  issueStore s (.stsShort f) (shortShape 1 f) .store (storeData (shortShape 1 f))
/-- R166, R168, R171. -/
def execSt (f : LongF) (s : State) : Host.Outcome State Fault Refusal := 
  issueStore s (.st f) (mtShape 0 0 f.lo (f.lo != 0) f) .store (storeData (mtShape 0 0 f.lo (f.lo != 0) f))
/-- R159, R168. -/
def execSts (f : LongF) (s : State) : Host.Outcome State Fault Refusal := 
  issueStore s (.sts f) (mtShape 1 f.lo 0 true f) .store (storeData (mtShape 1 f.lo 0 true f))
/-- R160, R168. -/
def execStr (f : LongF) (s : State) : Host.Outcome State Fault Refusal := 
  issueStore s (.str f) (mtShape 2 f.lo 0 true f) .store (storeData (mtShape 2 f.lo 0 true f))
/-- Bits [15:0] of the data register to the watermark of the block (R186). -/
def execWmst (f : LongF) (s : State) : Host.Outcome State Fault Refusal := 
  issueStore s (.wmst f) (wmShape f) .wmst (fun x l => leBytes 2 (x.v f.d.toNat l).toNat)
/-- R176 to R179. -/
def execAtomAdd (f : LongF) (s : State) : Host.Outcome State Fault Refusal := issueLoad s (.atomAdd f)
/-- R176 to R179. -/
def execAtomMin (f : LongF) (s : State) : Host.Outcome State Fault Refusal := issueLoad s (.atomMin f)
/-- R176 to R179. -/
def execAtomMax (f : LongF) (s : State) : Host.Outcome State Fault Refusal := issueLoad s (.atomMax f)
/-- R176 to R179. -/
def execAtomAnd (f : LongF) (s : State) : Host.Outcome State Fault Refusal := issueLoad s (.atomAnd f)
/-- R176 to R179. -/
def execAtomOr (f : LongF) (s : State) : Host.Outcome State Fault Refusal := issueLoad s (.atomOr f)
/-- R176 to R179. -/
def execAtomXor (f : LongF) (s : State) : Host.Outcome State Fault Refusal := issueLoad s (.atomXor f)
/-- R176 to R179. -/
def execAtomExch (f : LongF) (s : State) : Host.Outcome State Fault Refusal := issueLoad s (.atomExch f)
/-- R176 to R179. -/
def execAtomCas (f : LongF) (s : State) : Host.Outcome State Fault Refusal := issueLoad s (.atomCas f)
/-- R176 to R179. -/
def execAtomSpadAdd (f : LongF) (s : State) : Host.Outcome State Fault Refusal := issueLoad s (.atomSpadAdd f)
/-- R176 to R179. -/
def execAtomSpadMin (f : LongF) (s : State) : Host.Outcome State Fault Refusal := issueLoad s (.atomSpadMin f)
/-- R176 to R179. -/
def execAtomSpadMax (f : LongF) (s : State) : Host.Outcome State Fault Refusal := issueLoad s (.atomSpadMax f)
/-- R176 to R179. -/
def execAtomSpadAnd (f : LongF) (s : State) : Host.Outcome State Fault Refusal := issueLoad s (.atomSpadAnd f)
/-- R176 to R179. -/
def execAtomSpadOr (f : LongF) (s : State) : Host.Outcome State Fault Refusal := issueLoad s (.atomSpadOr f)
/-- R176 to R179. -/
def execAtomSpadXor (f : LongF) (s : State) : Host.Outcome State Fault Refusal := issueLoad s (.atomSpadXor f)
/-- R176 to R179. -/
def execAtomSpadExch (f : LongF) (s : State) : Host.Outcome State Fault Refusal := issueLoad s (.atomSpadExch f)
/-- R176 to R179. -/
def execAtomSpadCas (f : LongF) (s : State) : Host.Outcome State Fault Refusal := issueLoad s (.atomSpadCas f)
/-- R176 to R179. -/
def execAtomPeerAdd (f : LongF) (s : State) : Host.Outcome State Fault Refusal := issueLoad s (.atomPeerAdd f)
/-- R176 to R179. -/
def execAtomPeerMin (f : LongF) (s : State) : Host.Outcome State Fault Refusal := issueLoad s (.atomPeerMin f)
/-- R176 to R179. -/
def execAtomPeerMax (f : LongF) (s : State) : Host.Outcome State Fault Refusal := issueLoad s (.atomPeerMax f)
/-- R176 to R179. -/
def execAtomPeerAnd (f : LongF) (s : State) : Host.Outcome State Fault Refusal := issueLoad s (.atomPeerAnd f)
/-- R176 to R179. -/
def execAtomPeerOr (f : LongF) (s : State) : Host.Outcome State Fault Refusal := issueLoad s (.atomPeerOr f)
/-- R176 to R179. -/
def execAtomPeerXor (f : LongF) (s : State) : Host.Outcome State Fault Refusal := issueLoad s (.atomPeerXor f)
/-- R176 to R179. -/
def execAtomPeerExch (f : LongF) (s : State) : Host.Outcome State Fault Refusal := issueLoad s (.atomPeerExch f)
/-- R176 to R179. -/
def execAtomPeerCas (f : LongF) (s : State) : Host.Outcome State Fault Refusal := issueLoad s (.atomPeerCas f)
/-- R177, R180. -/
def execRedAdd (f : LongF) (s : State) : Host.Outcome State Fault Refusal := 
  issueStore s (.redAdd f) (atomShape 0 0 f.lo f) (.red .add f.ty) (redData f (atomShape 0 0 f.lo f))
/-- R177, R180. -/
def execRedMin (f : LongF) (s : State) : Host.Outcome State Fault Refusal := 
  issueStore s (.redMin f) (atomShape 0 0 f.lo f) (.red .min f.ty) (redData f (atomShape 0 0 f.lo f))
/-- R177, R180. -/
def execRedMax (f : LongF) (s : State) : Host.Outcome State Fault Refusal := 
  issueStore s (.redMax f) (atomShape 0 0 f.lo f) (.red .max f.ty) (redData f (atomShape 0 0 f.lo f))
/-- R177, R180. -/
def execRedAnd (f : LongF) (s : State) : Host.Outcome State Fault Refusal := 
  issueStore s (.redAnd f) (atomShape 0 0 f.lo f) (.red .and f.ty) (redData f (atomShape 0 0 f.lo f))
/-- R177, R180. -/
def execRedOr (f : LongF) (s : State) : Host.Outcome State Fault Refusal := 
  issueStore s (.redOr f) (atomShape 0 0 f.lo f) (.red .or f.ty) (redData f (atomShape 0 0 f.lo f))
/-- R177, R180. -/
def execRedXor (f : LongF) (s : State) : Host.Outcome State Fault Refusal := 
  issueStore s (.redXor f) (atomShape 0 0 f.lo f) (.red .xor f.ty) (redData f (atomShape 0 0 f.lo f))
/-- R181: the flag byte is bits [7:0] of B. -/
def execRedTrig (f : LongF) (s : State) : Host.Outcome State Fault Refusal := 
  issueStore s (.redTrig f) (atomShape 0 0 f.lo f) .redTrig (fun x l => leBytes 1 (x.opB f 1 l))
/-- R172. -/
def execFence (f : LongF) (s : State) : Host.Outcome State Fault Refusal := issueHold s (.fence f) (fun q => .fence f.d.toNat (f.m.toNat % 4) q none)
/-- R173. -/
def execFenceSc (f : LongF) (s : State) : Host.Outcome State Fault Refusal := issueHold s (.fenceSc f) (fun q => .fenceSc (f.m.toNat % 4) q false none)
/-- R174. -/
def execDrainst (f : LongF) (s : State) : Host.Outcome State Fault Refusal := issueHold s (.drainst f) .drain
/-- IFENCE (R175): the partition's loop buffer and the core's instruction cache are emptied. -/
def execIfence (f : LongF) (s : State) : Host.Outcome State Fault Refusal :=
  issuing s (fun c x =>
    if c.act x (.ifence f) = 0 then s
    else s.modCore (coreOf c.warp) (fun k => { k with loops := mdel k.loops (partOf c.warp), icache := [] }))
/-- One lane of PREFETCH (R182): dropped unless aligned, translated and readable. (DEDUCED, log 22) -/
def prefetchLane (s : State) (w asid size lvl a : Nat) : State :=
  if a % size ≠ 0 ∨ a ≥ 2 ^ 57 then s else
  match coreXlate s (coreOf w) asid a with
  | none => s
  | some e =>
    let key := e.key s a
    if !e.r then s
    else if lvl = 1 then (if keyLocal key then l2Touch s (key / 128) else s)
    else if l1Hit s (coreOf w) key then s else l1Fill s (coreOf w) key e.grain e.dev
/-- PREFETCH (R182): M[1:0] is the level. -/
def execPrefetch (f : LongF) (s : State) : Host.Outcome State Fault Refusal :=
  issuing s (fun c x =>
    match feCause c x (.prefetch f) with
    | some fa => trapAtIssue s c 0x09 fa
    | none =>
      let h := mtShape 0 0 0 false f
      (lanesOf (c.act x (.prefetch f))).foldl (fun s l =>
        prefetchLane s c.warp x.asid h.size (f.m.toNat % 4) (h.addr (h.base x) (h.index x l))) s)
/-- The one access of an entry that writes back windows. -/
def noAccess : List LaneAcc := [{ lane := 0, addr := 0, bytes := [] }]
/-- SMAP (R183): the checks, then the mapping. A window that is mapped already is first unmapped as by SUNMAP: one entry of
the store queue does both, and the warp's later instructions wait for it. (DESIGN CHOICE, log 18) -/
def execSmap (f : LongF) (s : State) : Host.Outcome State Fault Refusal :=
  issuing s (fun c x =>
    let act := c.act x (.smap f)
    let k := s.core (coreOf c.warp)
    let base := x.s64 f.t.toNat
    let sz := (x.s (bReg f)).toNat
    let off := sz % 65536; let len := sz / 65536
    let num := f.d.toNat
    let clash := fun (g : Nat) => k.wins.any (fun v =>
      v.gi == g && v.num != num && decide (v.off < off + len) && decide (off < v.off + v.len))
    let bad := if act = 0 then none
      else if base % 128 ≠ 0 then some (0x06, BitVec.ofNat 64 base)
      else match x.group? 0 with
        | none => none
        | some g => if len = 0 || decide ((off + len) * 128 > k.stash) || clash g
          then some (0x08, spaceFaddr .spad (k.spad + 128 * off)) else none
    match lowerCause bad ((feCause c x (.smap f)).map (fun fa => (0x09, fa))) with
    | some (code, fa) => trapAtIssue s c code fa
    | none =>
      match (if act = 0 then none else x.group? 0) with
      | none => s
      | some g =>
        if k.wins.any (fun wn => wn.gi == g && wn.num == num) then
          let s := pushStore s c (.sflush [num] true (some (num, base, off, len))) .spad 0 noAccess
          settle (s.modWarp c.warp (fun x => { x with holds := x.holds ++ [.drain x.nextSeq], nextSeq := x.nextSeq + 1 })) c.warp
        else
          let wn : Window := { gi := g, num := num, base := base, off := off, len := len, asid := x.asid }
          s.modCore (coreOf c.warp) (fun k => { k with wins := k.wins ++ [wn] }))
/-- SUNMAP and SFLUSH as one queue entry (R185). -/
def issueFlush (s : State) (i : Instr) (nums : List Nat) (unmap : Bool) : Host.Outcome State Fault Refusal :=
  issuing s (fun c x => if c.act x i = 0 then s else pushStore s c (.sflush nums unmap none) .spad 0 noAccess)
/-- Write-back and unmapping of window D[3:0] (R185). -/
def execSunmap (f : LongF) (s : State) : Host.Outcome State Fault Refusal := issueFlush s (.sunmap f) [f.d.toNat % 16] true
/-- Write-back of a window, or with D[4] of every window (R185). -/
def execSflush (f : LongF) (s : State) : Host.Outcome State Fault Refusal := 
  issueFlush s (.sflush f) (if f.d.getLsbD 4 then List.range 16 else [f.d.toNat % 16]) false
/-- The watch entries after the lanes of an identifier have been checked (R190). -/
def dropWatch (x : Warp) (wid : Nat) (act : LaneMask) : Warp :=
  let left := (x.watch.map (fun e => if e.wid == wid then { e with mask := e.mask &&& ~~~act } else e)).filter
    (fun e => e.mask != 0)
  x.keepWatch left
/-- CHKW (R190): the struck lanes branch to the repair code. It issues once no entry it concerns is pending. -/
def execChkw (f : LongF) (s : State) : Host.Outcome State Fault Refusal :=
  issuing s (fun c x =>
    let act := c.act x (.chkw f)
    let wid := f.d.toNat / 16
    let struck := x.watch.foldl (fun m e => if e.wid == wid && e.state == .struck then m ||| e.mask else m) (0 : LaneMask) &&& act
    takeBranch (s.modWarp c.warp (fun x => dropWatch x wid act)) c struck (fun _ => packetAt x c.pc (off20 f)) false)

end Sys2Proof.Machine
end

