-- ==== Sys2Proof/Machine/Control.lean ====
section
/-!
DEFINITION. Control flow, convergence, barriers, creation of work, termination, traps, special registers, stamps and
counters (R194 to R218).
-/

namespace Sys2Proof.Machine

/-- NOP (R78): it has no effect; where only NOPs stand up to the packet's end the path moves to the next packet in one
clk. -/
def execNop (s : State) : Host.Outcome State Fault Refusal :=
  issuing s (fun c _ => s.modWarp c.warp (fun x =>
    { x.setPc c.path (fun _ => c.next) with
        laneWake := merge c.path (List.replicate 32 (s.clk + 1)) x.laneWake 0, moved := x.moved ||| c.path }))

/-! Branches (R194, R195). -/

/-- The lanes a short BRA or EXIT names (R194). -/
def shortAct (c : IssueCtx) (x : Warp) (f : ShortB) : LaneMask := c.path &&& x.guardLanes (.lane f.p.toNat f.n)

/-- A BRA to packet n + off, which captures its loop if it goes back by up to 127 packets (R45). -/
def braTo (s : State) (c : IssueCtx) (act : LaneMask) (off : Int) : State :=
  takeBranch s c act (fun _ => packetAt (s.warpD c.warp) c.pc off) (decide (-127 ≤ off) && decide (off ≤ -1))
def execBraShort (f : ShortB) (s : State) : Host.Outcome State Fault Refusal :=
  issuing s (fun c x => braTo s c (shortAct c x f) (intOf 20 true f.off.toNat))
def execBra (f : LongF) (s : State) : Host.Outcome State Fault Refusal :=
  issuing s (fun c x => braTo s c (c.act x (.bra f)) (off24 f))

/-- A branch of ACT to addresses, each of which must begin a packet (R79, R195); all their bits become the pc.
(DESIGN CHOICE, log 62) -/
def branchTo (s : State) (i : Instr) (t : Warp → Nat → Nat) : Host.Outcome State Fault Refusal :=
  issuing s (fun c x =>
    let act := c.act x i
    let bad := (lanesOf act).find? (fun l => ((t x l : Int) - x.codeBase) % 12 != 0)
    match lowerCause (bad.map (fun l => (0x06, BitVec.ofNat 64 (t x l)))) ((feCause c x i).map (fun f => (0x09, f))) with
    | some (code, fa) => trapAtIssue s c code fa
    | none => takeBranch s c act (t x) false)
def execBrx (f : LongF) (s : State) : Host.Outcome State Fault Refusal :=
  branchTo s (.brx f) (fun x l => if f.m.getLsbD 0 then x.s64 f.t.toNat else x.vn 2 f.a.toNat l)
def execRet (f : LongF) (s : State) : Host.Outcome State Fault Refusal :=
  branchTo s (.ret f) (fun x l => x.vn 2 f.a.toNat l)
/-- CALL (R195, R196): the link is the packet after CALL's. -/
def execCall (f : LongF) (s : State) : Host.Outcome State Fault Refusal :=
  issuing s (fun c x =>
    let act := c.act x (.call f)
    let s := flyResult s c act (vWrites 2 f.t.toNat act (fun _ => packetAt x c.pc 1)) 1 [] c.pc
    takeBranch s c act (fun _ => packetAt x c.pc (off24 f)) false)

/-! Exit and convergence (R197 to R199). -/

/-- Lanes exit; points are looked at again in this clk, the released lanes issue from the next (R199). -/
def exitLanes (s : State) (w : Nat) (act : LaneMask) : State :=
  if act = 0 then s else
  let s := s.modWarp w (fun x =>
    { x with exited := x.exited ||| act, active := x.active &&& ~~~act, waiting := x.waiting &&& ~~~act })
  checkExit (s.after 1 (.convRelease w)) w
def execExitShort (f : ShortB) (s : State) : Host.Outcome State Fault Refusal :=
  issuing s (fun c x => exitLanes s c.warp (shortAct c x f))
def execExit (f : LongF) (s : State) : Host.Outcome State Fault Refusal :=
  issuing s (fun c x => exitLanes s c.warp (c.act x (.exit f)))
def execConv (f : LongF) (s : State) : Host.Outcome State Fault Refusal :=
  issuing s (fun c x =>
    match feCause c x (.conv f) with
    | some fa => trapAtIssue s c 0x09 fa
    | none =>
      let act := c.act x (.conv f)
      if act = 0 then s else
      let p := packetAt x c.pc (off24 f)
      let masks := allLanes.map (fun l => if act.getLsbD l then x.s f.t.toNat ||| laneBit l else x.cmask.getD l 0)
      (s.modWarp c.warp (fun x =>
        { x.setPc act (fun _ => p) with
            point := merge act (List.replicate 32 p) x.point 0, cmask := masks,
            active := x.active &&& ~~~act, waiting := x.waiting ||| act })).after 1 (.convRelease c.warp))

/-! Scheduling controls (R200, R201). -/

/-- YIELD: the warp is not ready for the next 16 clk. -/
def yieldWarp (s : State) (w : Nat) : State :=
  (s.modWarp w (fun x => { x with yielding := true, yieldEnd := s.clk + 17 })).after 17 (.yieldExpiry w)
def execYieldShort (_f : ShortB) (s : State) : Host.Outcome State Fault Refusal :=
  issuing s (fun c _ => yieldWarp s c.warp)
def execYield (f : LongF) (s : State) : Host.Outcome State Fault Refusal :=
  issuing s (fun c x => if c.act x (.yield f) = 0 then s else yieldWarp s c.warp)
def execSetpri (f : LongF) (s : State) : Host.Outcome State Fault Refusal :=
  issuing s (fun c x =>
    match feCause c x (.setpri f) with
    | some fa => trapAtIssue s c 0x09 fa
    | none =>
      if c.act x (.setpri f) = 0 then s else
      let p := if f.k then (x.s (bReg f)).toNat % 16 else f.m.toNat % 16
      let s := undoPut s c.warp c.pc 5 0 7 0 0 0 (leBytes 8 x.prio.toNat)
      s.modWarp c.warp (fun x => { x with prio := BitVec.ofNat 32 p }))

/-! Barriers (R202 to R205). -/

/-- Lanes wait for a phase, their program counters naming the instruction (R204, R377); if it has completed they pass
and acquire at GROUP scope (R205). -/
def waitPhase (s : State) (c : IssueCtx) (lanes : LaneMask) (gi b phase : Nat) : State :=
  if lanes = 0 then s else
  match mfind s.groups gi with
  | none => s
  | some g =>
    if g.phase b > phase then acquire s c.warp (wideScope s (s.warpD c.warp) 0)
    else s.modWarp c.warp (fun x =>
      { x.setPc lanes (fun _ => c.pc) with holds := x.holds ++ [.bar lanes gi b phase c.next] })
/-- The lanes that resumed at a BAR or BARW they had waited at: they act as BARW (R377). -/
def isolatedIn (x : Warp) (path : LaneMask) : LaneMask := path &&& maskOf (fun l => x.isolated.contains l)
/-- The phase of the warp's last arrival at a barrier, if any. -/
def lastArrival (x : Warp) (slot b : Nat) : Option Nat := mfind x.barArr (16 * slot + b)
/-- BARW for some lanes: no wait without an arrival. -/
def barWait (s : State) (c : IssueCtx) (x : Warp) (lanes : LaneMask) (gi slot b : Nat) : State :=
  match lastArrival x slot b with
  | none => if lanes = 0 then s else acquire s c.warp (wideScope s x 0)
  | some ph => waitPhase s c lanes gi b ph
/-- The resumed lanes have passed their barrier instruction, whether its guard let it act or not (R377). -/
def clearIsolated (s : State) (w : Nat) (path : LaneMask) : State :=
  s.modWarp w (fun x => { x with isolated := x.isolated.filter (fun l => !path.getLsbD l) })
/-- An arrival as FENCE.REL orders it (R205): at once, or when the warp's earlier accesses, those of its own group too,
have drained; once in a phase (R204). (DEDUCED, log 16) -/
def arriveAfter (s : State) (w gi slot b : Nat) : State :=
  let x := s.warpD w
  let waits := x.holds.any (fun h => match h with
    | .arrive g _ c _ _ => g == gi && c == b
    | _ => false)
  let been := match mfind s.groups gi with
    | some g => (mget g.arrived b []).contains w
    | none => true
  if waits || been then s
  else if relDone s w x x.nextSeq (wideScope s x 0) none then arrive s w gi slot b
  else
    let ph := (mfind s.groups gi).elim 0 (fun g => g.phase b)
    s.modWarp w (fun x =>
      { x with barArr := mset x.barArr (16 * slot + b) ph, holds := x.holds ++ [.arrive gi slot b x.nextSeq none] })
/-- A barrier instruction: `arr` arrives, `wt` waits. -/
def barrier (s : State) (i : Instr) (f : LongF) (arr wt : Bool) : Host.Outcome State Fault Refusal :=
  issuing s (fun c x =>
    let act := c.act x i
    let b := f.d.toNat; let slot := f.m.toNat % 4
    match (if act = 0 then none else x.group? slot) with
    | none => clearIsolated s c.warp c.path
    | some gi =>
      let iso := if wt then isolatedIn x act else 0
      let rest := act &&& ~~~iso
      let s := barWait s c x iso gi slot b
      let s := clearIsolated s c.warp act
      if !arr then barWait s c x rest gi slot b
      else if rest = 0 then s
      else
        let s := arriveAfter s c.warp gi slot b
        if !wt then s else
        match mfind s.groups gi with
        | some g => waitPhase s c rest gi b (g.phase b)
        | none => s)
def execBar (f : LongF) (s : State) : Host.Outcome State Fault Refusal := barrier s (.bar f) f true true
def execBara (f : LongF) (s : State) : Host.Outcome State Fault Refusal := barrier s (.bara f) f true false
def execBarw (f : LongF) (s : State) : Host.Outcome State Fault Refusal := barrier s (.barw f) f false true

/-! Creating work (R206 to R209). -/

/-- A precise check of an address that hardware will read for a warp (R206, R208): aligned, translated, readable; the group
has waited for the translation (R284). (DESIGN CHOICE, log 19) -/
def readableCause (s : State) (w asid a align : Nat) : Option (Nat × DWord) :=
  if a % align ≠ 0 then some (0x06, BitVec.ofNat 64 a) else
  match xlate s w issueSeq asid a needR with
  | .fail code fa => some (code, fa)
  | _ => none
/-- A counter must also be homed on this device (R206). (DESIGN CHOICE, log 19) -/
def counterCause (s : State) (w asid a : Nat) : Option (Nat × DWord) :=
  match readableCause s w asid a 4 with
  | some e => some e
  | none =>
    match xlate s w issueSeq asid a needR with
    | .ok e => if e.dev = s.device then none else some (0x08, BitVec.ofNat 64 a)
    | _ => none

/-- The stage of a running plan. -/
def State.stage? (s : State) (p st : Nat) : Option Stage :=
  match mfind s.plans p with
  | some q => q.stages[st]?
  | none => none
def State.modStage (s : State) (p st : Nat) (f : Stage → Stage) : State :=
  s.modPlan p (fun q => { q with stages := q.stages.zipIdx.map (fun e => if e.2 = st then f e.1 else e.1) })

/-- The 64 bytes of a record (R328). -/
def recordBytes (r : Record) : List Byte :=
  leBytes 8 (r.pc % 2 ^ 57 + boolNat (!r.ready && r.armed.isSome) * 2 ^ 57) ++
    ((List.range 12).flatMap (fun j => leBytes 4 (r.args.getD j 0).toNat)) ++
    leBytes 8 (r.armed.getD 0 / 4 % 2 ^ 55 + r.status % 256 * 2 ^ 55)
/-- A record in the ring as its bytes there say it: its pc, its arguments and, once READY, its status (R328).
(DEDUCED, log 37) -/
def recordOf (r : Record) (b : List Byte) : Record :=
  { r with pc := field b 0 8 % 2 ^ 57, args := (List.range 12).map (fun j => BitVec.ofNat 32 (field b (8 + 4 * j) 4))
           status := if r.ready then field b 56 8 / 2 ^ 55 % 256 else r.status, place := none }
/-- Whether the overflow ring takes one more record (R329). -/
def ringRoom (g : Stage) : Bool := g.oring != 0 && decide (g.ring.length < g.oringsz)
/-- A record goes to the tail of the ring (R328, R329): its bytes stand in memory there. -/
def ringPush (s : State) (p st : Nat) (r : Record) : State :=
  match s.stage? p st with
  | none => s
  | some g =>
    let a := g.oring + 64 * (g.ringN % g.oringsz)
    vWriteD (s.modStage p st (fun g => { g with ring := g.ring ++ [{ r with place := some a }], ringN := g.ringN + 1 })) r.asid a
      (recordBytes r)
/-- A record as it leaves the ring. -/
def ringTake (s : State) (r : Record) : Record :=
  match r.place with
  | none => r
  | some a => match vRead s r.asid a 64 with
    | some b => recordOf r b
    | none => { r with place := none }
/-- Placing one record (R206, R329): the chest, else the ring; false when both are full. -/
def placeRecord (s : State) (c p st : Nat) (r : Record) : Bool × State :=
  if (s.core c).chest.length < 512 then (true, s.modCore c (fun k => { k with chest := k.chest ++ [r] }))
  else
    match s.stage? p st with
    | none => (false, s)
    | some g =>
      if ringRoom g then (true, ringPush s p st r) else (false, s)
/-- The records of the lanes in ascending order; the lanes that found no room (R206). -/
def placeRecords (s : State) (w : Nat) (pc : Nat) (ctr : Option Nat) (a : Nat) (ls : List Nat) : LaneMask × State :=
  ls.foldl (fun acc l =>
    let s := acc.2
    let x := s.warpD w
    let r : Record :=
      { id := s.nextId, pc := pc, args := (List.range 12).map (fun j => x.v (a + j) l), armed := ctr, asid := x.asid,
        status := 0, ready := false, eligible := false, regd := false, readyAt := 0, readyClk := 0, spawner := w,
        wait := ⟨w, x.nextSeq, false, []⟩, place := none }
    let q := placeRecord s.usedId (coreOf w) x.plan x.stage r
    if q.1 then (acc.1, (q.2.after 1 (.recordEligible r.id)).after 0 (.ringToChest x.plan x.stage))
    else (acc.1 ||| laneBit l, s)) (0, s)
/-- SPAWN (R206): every check before any record; then the records, and FULL in the lanes that found no room. -/
def execSpawn (f : LongF) (s : State) : Host.Outcome State Fault Refusal :=
  issuing s (fun c x =>
    let act := c.act x (.spawn f)
    let t := x.s64 (bReg f)
    let ctr := if f.m.getLsbD 0 then some (x.s64 f.t.toNat) else none
    let bad := if act = 0 then none
      else if ((t : Int) - x.codeBase) % 12 ≠ 0 then some (0x06, BitVec.ofNat 64 t)
      else match ctr with
        | some a => counterCause s c.warp x.asid a
        | none => none
    let s := endIssue s c.warp ctr.toList
    match lowerCause bad ((feCause c x (.spawn f)).map (fun fa => (0x09, fa))) with
    | some (code, fa) => trapAtIssue s c code fa
    | none =>
      let r := placeRecords s c.warp t ctr f.a.toNat (lanesOf act)
      let s := undoPut r.2 c.warp c.pc 6 0 0 act.toNat 0 0 []
      flyResult s c act [.p f.d.toNat act r.1] 1 [] c.pc)

/-- LAUNCH and ENQ in flight until the HQS has answered (R208, R209). -/
def hqsFlight (s : State) (c : IssueCtx) (act : LaneMask) (q : Nat) (k : Pending) (ev : Nat → Event) : State :=
  let x := s.warpD c.warp
  let f : Flight :=
    { seq := x.nextSeq, pc := c.pc, w0 := c.w0, w1 := c.w1, lanes := act, kind := k, writes := [.q q false], acc := [],
      flags := [], due := s.clk + s.lat.hop, ucap := 0, ord := 0, fused := false, hmode := x.handler }
  fly (undoPut s c.warp c.pc 6 0 0 0 0 0 []) c.warp f (ev f.seq)
def execLaunch (f : LongF) (s : State) : Host.Outcome State Fault Refusal :=
  issuing s (fun c x =>
    let act := c.act x (.launch f)
    let a := x.s64 f.t.toNat
    let bad := if act = 0 then none else readableCause s c.warp x.asid a 64
    let s := endIssue s c.warp [a]
    match lowerCause bad ((feCause c x (.launch f)).map (fun fa => (0x09, fa))) with
    | some (code, fa) => trapAtIssue s c code fa
    | none =>
      if act = 0 then s
      else hqsFlight s c act f.d.toNat (.launch (f.m.getLsbD 0) a) (fun _ => .launchAccept (dieOf c.warp)))
def execEnq (f : LongF) (s : State) : Host.Outcome State Fault Refusal :=
  issuing s (fun c x =>
    let act := c.act x (.enq f)
    let q := x.s64 f.t.toNat; let m := x.s64 (bReg f)
    let bad := if act = 0 then none else lowerCause (readableCause s c.warp x.asid q 64) (readableCause s c.warp x.asid m 64)
    let s := endIssue s c.warp [q, m]
    match lowerCause bad ((feCause c x (.enq f)).map (fun fa => (0x09, fa))) with
    | some (code, fa) => trapAtIssue s c code fa
    | none => if act = 0 then s else hqsFlight s c act f.d.toNat (.enq q m) (fun n => .enqStep c.warp n))

/-- GTERM (R210): Toltar gets one record per named group, kind 3; a warp in no group goes alone. -/
def execGterm (f : LongF) (s : State) : Host.Outcome State Fault Refusal :=
  issuing s (fun c x =>
    if c.act x (.gterm f) = 0 then s else
    let gs := if f.m.getLsbD 2 then x.groupList else (x.group? (f.m.toNat % 4)).toList
    let s := gs.foldl (fun s g => s.tell 3 [g, c.warp]) s
    terminateGroups s c.warp gs false)

/-! Traps and services (R211 to R213). -/

/-- The word after the issue group of `i`, the rest of which is still to issue. -/
def afterGroup (s : State) (c : IssueCtx) (i : Instr) : Nat :=
  match s.pend.getLast? with
  | none => c.pc + 4 * i.words
  | some m => m.2.1 + 4 * m.1.words
/-- A trap taken after issue, at the next boundary (R495); the lanes name the word after the group, were it a NOP (R211). -/
def trapAfter (s : State) (i : Instr) (code : Nat) : Host.Outcome State Fault Refusal :=
  issuing s (fun c x =>
    if c.act x i = 0 then s
    else addPend (s.modWarp c.warp (fun x => x.setPc c.path (fun _ => afterGroup s c i))) c.warp
      { code := code, faddr := BitVec.ofNat 64 c.pc, lanes := c.path, due := s.clk + 1, entry := none })
def execTrapi (f : LongF) (s : State) : Host.Outcome State Fault Refusal := trapAfter s (.trapi f) 0x10
def execBkpt (f : LongF) (s : State) : Host.Outcome State Fault Refusal := trapAfter s (.bkpt f) 0x11
/-- RETT (R83, R213, R379): after its group, once the handler's work has drained, the warp returns. -/
def execRett (f : LongF) (s : State) : Host.Outcome State Fault Refusal :=
  issuing s (fun c x =>
    if c.act x (.rett f) = 0 then s
    else s.modWarp c.warp (fun x => { x with holds := x.holds ++ [.rett x.nextSeq c.pc] }))

/-- The event that serves a request of this number (R418); an unknown number is answered with the LOG requests. -/
def svcEvent (w n : Nat) : Event :=
  match n with
  | 1 => .svcAttest w
  | 2 => .svcDump w
  | 0x10 => .svcMap w
  | 0x11 => .svcUnmap w
  | _ => .svcLog w
/-- SVC (R212): s0 to s7 are read, s0 to s3 empty, and the request goes to Toltar (R423), kind 32. -/
def execSvc (f : LongF) (s : State) : Host.Outcome State Fault Refusal :=
  issuing s (fun c x =>
    if c.act x (.svc f) = 0 then s else
    let n := f.a.toNat * 256 + f.b.toNat
    let id := s.nextId
    let args := (List.range 8).map x.s
    let toks := (List.range 4).map (fun r => ({ reg := r, id := id, preTrap := false } : Token))
    let s := undoPut s c.warp c.pc 6 0 0 0 0 0 []
    let upd := fun (x : Warp) =>
      let y := (List.range 4).foldl (fun x r => x.setSE r true) x
      { y with
          svc := x.svc ++ [⟨n, id, args, ⟨c.warp, x.nextSeq, false, []⟩⟩], tokens := x.tokens ++ toks }
    (tellToltar ((s.usedId).modWarp c.warp upd) (dieOf c.warp) 32 [id, c.warp, n]).after s.lat.toltar (svcEvent c.warp n))

/-! Special registers (R42, R43, R214). -/

def execMfsr (f : LongF) (s : State) : Host.Outcome State Fault Refusal :=
  issuing s (fun c x =>
    let act := c.act x (.mfsr f)
    let n := f.a.toNat
    if srPerLane n then
      flyResult s c act (vWrites 1 f.d.toNat act (fun l => if n = 0 then l else x.fpstat.getD l 0)) 6 [] c.pc
    else flyResult s c act (sWrites (srRegs n) f.t.toNat (srRead s c.warp x n)) 6 [] c.pc)

/-- A k field of MCTL as it is stored (R240). -/
def mctlK (k : Nat) : Nat := if k = 0 then 0 else if k < 4 then 4 else if k > 16 then 16 else k
/-- A write of TMODE.nopre (R373, R381): a 1 holds pre-emption for 4,096 clk from the write, unless spent. -/
def writeNopre (s : State) (w : Nat) (v : Bool) : State :=
  let x := s.warpD w
  if v then
    if x.tmode.getLsbD 3 then s
    else (s.modWarp w (fun x => { x with tmode := x.tmode ||| 2, nopreEnd := s.clk + 4096 })).after 4096 (.nopreExpiry w)
  else
    let s := s.modWarp w (fun x => { x with tmode := x.tmode &&& ~~~(2 : Word) })
    if x.preemptReq then s.after 0 (.preempt w) else s
/-- Writing a per-warp special register (R42, R43): reserved bits are ignored. -/
def srWrite (s : State) (w n v : Nat) : State :=
  match n with
  | 0x07 => s.modWarp w (fun x => { x with prio := BitVec.ofNat 32 (v % 16) })
  | 0x0A => s.modWarp w (fun x => { x with fpctl := BitVec.ofNat 32 (v &&& 0x3F01) })
  | 0x0C => s.modWarp w (fun x => { x with trapbase := BitVec.ofNat 64 (v / 16 * 16) })
  | 0x0D => writeNopre s w (v.testBit 1)
  | 0x0F =>
    let v := v / 65536 % 2 * 65536 + mctlK (natBits v 12 8) * 256 + mctlK (v % 32)
    s.modWarp w (fun x => { x with mctl := BitVec.ofNat 32 v })
  | 0x10 => s.modWarp w (fun x => { x with mstat := x.mstat &&& ~~~(BitVec.ofNat 32 v) })
  | _ => s
def execMtsr (f : LongF) (s : State) : Host.Outcome State Fault Refusal :=
  issuing s (fun c x =>
    match feCause c x (.mtsr f) with
    | some fa => trapAtIssue s c 0x09 fa
    | none =>
      let act := c.act x (.mtsr f)
      let n := f.a.toNat
      if act = 0 then s else
      if n = 0x0B then
        let s := (lanesOf act).foldl (fun s l =>
          undoPut s c.warp c.pc 5 0 n (laneBit l).toNat 0 0 (leBytes 4 (x.fpstat.getD l 0))) s
        s.modWarp c.warp (fun x => { x with fpstat := merge act (allLanes.map (fun l => x.opB f 1 l % 64)) x.fpstat 0 })
      else
        let s := undoPut s c.warp c.pc 5 0 n 0 0 0 (leBytes 8 (srRead s c.warp x n))
        srWrite s c.warp n (x.sn (srRegs n) (bReg f)))

/-! Stamps and counters (R215, R216). -/

/-- The entry of a pipe that a handle of the warp names (R222, R339): pipe index and entry, the lower sequence first.
`prod` and `cons` say which roles count. A handle whose bit 28 is set, or of status REVOKED, CLOSED, 6 or 7, names none. -/
def heldEntry (s : State) (w : Nat) (x : Warp) (h : Nat) (prod cons : Bool) : Option (Nat × PipeEntry) :=
  let pi := natBits h 27 22
  if natBit h 28 || natBit h 31 then none else
  match mfind s.plans x.plan with
  | none => none
  | some p =>
    match mfind p.pipes pi with
    | none => none
    | some q =>
      (q.entries.find? (fun e => e.holder == w && e.slot == natBits h 21 10 && e.seq % 1024 == h % 1024 &&
        ((prod && e.state == 0 && q.src == x.stage) || (cons && e.state == 2 && q.dst == x.stage)))).map (fun e => (pi, e))
/-- Writing a stamp field: the ns since the reservation, saturated (R215). -/
def stampField (s : State) (fld : Nat) (e : PipeEntry) : PipeEntry :=
  { e with offs := e.offs.zipIdx.map (fun o => if o.2 = fld then min (s.gtime - e.reserve) (2 ^ 32 - 1) else o.1) }
/-- The stamp record of an entry (R397). -/
def stampBytes (p pi : Nat) (e : PipeEntry) : List Byte :=
  leBytes 8 e.reserve ++ e.offs.flatMap (leBytes 4) ++ leBytes 8 e.seq ++ leBytes 1 pi ++ leBytes 1 p ++
    leBytes 1 e.status ++ leBytes 1 (boolNat e.wasSpilled + 2 * boolNat e.restarted) ++ leBytes 2 e.producer ++
    leBytes 2 e.consumer ++ leBytes 8 0

/-- The bytes of one slot (R334). -/
def footprint (bytes : Nat) : Nat := 128 + 128 * ((bytes + 127) / 128)
/-- A spilled entry's stamp record is written in its spill entry, in place (R347). -/
def stampSpill (s : State) (p pi : Nat) (e : PipeEntry) : State :=
  match e.spilled, mfind s.plans p with
  | some x, some pl =>
    (match mfind pl.pipes pi with
    | some q => vWriteD s pl.asid (q.spill + footprint q.bytes * x + 64) (stampBytes p pi e)
    | none => s)
  | _, _ => s
def execStamp (f : LongF) (s : State) : Host.Outcome State Fault Refusal :=
  issuing s (fun c x =>
    let act := c.act x (.stamp f)
    let h := (x.s (bReg f)).toNat
    match feCause c x (.stamp f) with
    | some fa => trapAtIssue s c 0x09 fa
    | none =>
      if act = 0 then s else
      match heldEntry s c.warp x h true true with
      | none => trapAtIssue s c 0x0C (BitVec.ofNat 64 (natBits h 27 22))
      | some (pi, e) =>
        let e2 := stampField s (f.m.toNat % 8) e
        stampSpill (s.modPipe x.plan pi (fun q => q.modEntry e.seq (fun _ => e2))) x.plan pi e2)

/-- A counter set as it stands before it is configured. -/
def CounterSet.fresh : CounterSet := { event := 0, isGlobal := false, started := false, count := 0, switches := 0, base := 0 }
/-- The package-wide count of an event (R396): for clk, the clk themselves. (DEDUCED, log 21) -/
def totalOf (s : State) (ev : Nat) : Nat := if ev = 0 then s.clk else mget s.totals ev 0
def execCntstart (f : LongF) (s : State) : Host.Outcome State Fault Refusal :=
  issuing s (fun c x =>
    if c.act x (.cntstart f) = 0 then s else
    let n := f.m.toNat % 16
    let k := mget x.ctr n CounterSet.fresh
    s.modWarp c.warp (fun x =>
      { x with ctr := mset x.ctr n { k with started := true, count := 0, switches := 0, base := totalOf s k.event } }))
/-- The count of a set as it stands; a stopped set keeps its last. -/
def counterNow (s : State) (k : CounterSet) : Nat :=
  min (if k.isGlobal && k.started then totalOf s k.event - k.base else k.count) (2 ^ 48 - 1)
/-- The result of CNTSTOP (R216). (DEDUCED, log 21) -/
def counterResult (s : State) (k : CounterSet) : Nat :=
  if !k.started then 2 ^ 63 else min k.switches 255 * 2 ^ 48 + counterNow s k
def execCntstop (f : LongF) (s : State) : Host.Outcome State Fault Refusal :=
  issuing s (fun c x =>
    let act := c.act x (.cntstop f)
    if act = 0 then s else
    let n := f.m.toNat % 16
    let k := mget x.ctr n CounterSet.fresh
    let s := flyResult s c act (sWrites 2 f.t.toNat (counterResult s k)) 6 [] c.pc
    s.modWarp c.warp (fun x => { x with ctr := mset x.ctr n { k with started := false, count := counterNow s k } }))

end Sys2Proof.Machine
end

