-- ==== Sys2Proof/Machine/Crypto.lean ====
section
/-!
DEFINITION. SM3 and HMAC-SM3, which tag notifies (R310) and measure images (R411). The spec names the algorithms; their
steps are those of the published standard.
-/

namespace Sys2Proof.Machine

def sm3p0 (x : Word) : Word := x ^^^ x.rotateLeft 9 ^^^ x.rotateLeft 17
def sm3p1 (x : Word) : Word := x ^^^ x.rotateLeft 15 ^^^ x.rotateLeft 23
/-- The initial value. -/
def sm3iv : List Word :=
  [0x7380166F, 0x4914B2B9, 0x172442D7, 0xDA8A0600, 0xA96F30BC, 0x163138AA, 0xE38DEE4D, 0xB0FB0E4E]
/-- A big-endian word of a block. -/
def beWord (b : List Byte) (i : Nat) : Word := b.getD i 0 ++ b.getD (i + 1) 0 ++ b.getD (i + 2) 0 ++ b.getD (i + 3) 0
/-- The 68 message words of a block. -/
def sm3expand (w : List Word) : Nat → List Word
  | 0 => w
  | n + 1 =>
    let j := w.length
    let g := fun (k : Nat) => w.getD (j - k) 0
    sm3expand (w ++ [sm3p1 (g 16 ^^^ g 9 ^^^ (g 3).rotateLeft 15) ^^^ (g 13).rotateLeft 7 ^^^ g 6]) n
/-- One round of the compression. -/
def sm3round (w : List Word) (v : List Word) (j : Nat) : List Word :=
  match v with
  | [a, b, c, d, e, f, g, h] =>
    let t : Word := if j < 16 then 0x79CC4519 else 0x7A879D8A
    let ss1 := (a.rotateLeft 12 + e + t.rotateLeft (j % 32)).rotateLeft 7
    let ss2 := ss1 ^^^ a.rotateLeft 12
    let ff := if j < 16 then a ^^^ b ^^^ c else (a &&& b) ||| (a &&& c) ||| (b &&& c)
    let gg := if j < 16 then e ^^^ f ^^^ g else (e &&& f) ||| (~~~e &&& g)
    let tt1 := ff + d + ss2 + (w.getD j 0 ^^^ w.getD (j + 4) 0)
    let tt2 := gg + h + ss1 + w.getD j 0
    [tt1, a, b.rotateLeft 9, c, sm3p0 tt2, e, f.rotateLeft 19, g]
  | v => v
def sm3block (v : List Word) (b : List Byte) : List Word :=
  let w := sm3expand ((List.range 16).map (fun i => beWord b (4 * i))) 52
  List.zipWith (· ^^^ ·) ((List.range 64).foldl (sm3round w) v) v
/-- A big-endian number of `n` bytes. -/
def beBytes (n x : Nat) : List Byte := (leBytes n x).reverse
/-- The padded message. -/
def sm3pad (m : List Byte) : List Byte :=
  m ++ [0x80] ++ List.replicate ((119 - m.length % 64) % 64) 0 ++ beBytes 8 (8 * m.length)
/-- The 32-byte digest. (PRESUMED, log 26) -/
def sm3 (m : List Byte) : List Byte :=
  let p := sm3pad m
  ((List.range (p.length / 64)).foldl (fun v i => sm3block v ((p.drop (64 * i)).take 64)) sm3iv).flatMap
    (fun w => beBytes 4 w.toNat)
/-- HMAC-SM3 with a key of up to 64 bytes. (PRESUMED, log 26) -/
def hmacSm3 (key m : List Byte) : List Byte :=
  let k := padTo 64 key
  sm3 (k.map (· ^^^ 0x5C) ++ sm3 (k.map (· ^^^ 0x36) ++ m))

end Sys2Proof.Machine
end

