-- ==== Sys2Proof/Machine/WarpEvents.lean ====
section
/-!
DEFINITION. What happens to a warp's instructions after they have issued: results, loads, atomics and stores (R28,
R167 to R181, R186 to R191), messages at their homes (R272 to R275), convergence, barriers, ageing, retirement and
termination (R15, R36, R37, R197 to R205, R210). An occurrence whose condition does not hold changes nothing.
-/

namespace Sys2Proof.Machine

/-- An occurrence that changes the state by a function. -/
abbrev done (s : State) : Host.Outcome State Fault Refusal := .next s

/-- An issued instruction of a warp by number. -/
def flight? (s : State) (w seq : Nat) : Option Flight := (s.warpD w).flights.find? (fun f => f.seq == seq)

/-! Results and loads. -/

/-- The end of a fixed latency (R28): the result is written and its destination full. -/
def execResultWriteback (w seq : Nat) (s : State) : Host.Outcome State Fault Refusal :=
  match flight? s w seq with
  | some f => if f.kind = .result && decide (f.due ≤ s.clk) then done (settle (finishResult s w f) w) else done s
  | none => done s

/-- A read that has performed: its registers, its walks ended, an acquire where it carries one (R171). -/
def finishRead (s : State) (w : Nat) (f : Flight) (ws : List RegWrite) : State :=
  let s := writeRegs (endWalks s w f.seq) w f.pc ws
  let s := s.modWarp w (fun x => { x with flights := x.flights.filter (fun g => g.seq != f.seq) })
  let s := if f.ord = 0 then s else acquire s w (wideScope s (s.warpD w) (f.ord - 4))
  settle s w

/-- The space a read is of. -/
def Pending.space (k : Pending) : Space :=
  match k with
  | .load sp _ _ | .atom _ _ sp _ => sp
  | _ => .global
/-- Whether a read may perform now: due, and no earlier read or reduction of the warp still to perform. -/
def readTurn (s : State) (w : Nat) (f : Flight) (size : Nat) : Bool :=
  let x := s.warpD w
  let sp := f.kind.space
  let acc := if f.kind = .wmLoad then f.acc.map (fun l => { l with addr := wmAddr s x.asid l.addr }) else f.acc
  decide (f.due ≤ s.clk) && loadsDone x f.seq && !redAhead s w x f.seq acc size && !aliasAhead s w x f.seq sp acc size &&
    !x.pend.any (fun p => p.entry == some f.seq)

/-- A miss of an access in flight (R284). -/
def readMiss (s : State) (w : Nat) (f : Flight) (va kind need : Nat) : State :=
  missWalk s w f.seq va (s.warpD w).asid kind need

/-- The outcome of an ordinary load of the lanes. -/
def performLoad (s : State) (w : Nat) (f : Flight) (sp : Space) (size : Nat) (signed : Bool) : State :=
  match loadLanes s w f.seq sp false size f.acc with
  | .miss va => readMiss s w f va (if sp = .global then 0 else 3) 1
  | .fail code fa => trapInFlight s w f.seq code fa
  | .ok (vs, s1) => finishRead s1 w f (loadWrites f (fun l => extendLoad size signed (laneIn [] vs l)))

/-- A watermark load of one lane (R186): the data address must be translated and watermarked, the watermark's own page
readable. -/
def wmLane (s : State) (w seq ea : Nat) : Got (List Byte × State) :=
  let x := s.warpD w
  match xlate s w seq x.asid ea ⟨false, false, false, false⟩ with
  | .miss v => .miss v
  | .fail c f => .fail c f
  | .ok e => if e.wm then loadGlobal s w seq false (wmAddr s x.asid ea) 2 else .fail 0x08 (BitVec.ofNat 64 ea)
def wmLanes (s : State) (w seq : Nat) : List LaneAcc → Got (List (Nat × List Byte) × State)
  | [] => .ok ([], s)
  | l :: r =>
    match wmLane s w seq l.addr with
    | .miss v => .miss v
    | .fail c f => .fail c f
    | .ok (bs, s1) =>
      match wmLanes s1 w seq r with
      | .miss v => .miss v
      | .fail c f => .fail c f
      | .ok (rest, s2) => .ok ((l.lane, bs) :: rest, s2)
def performWm (s : State) (w : Nat) (f : Flight) : State :=
  match wmLanes s w f.seq f.acc with
  | .miss va => readMiss s w f va 5 1
  | .fail code fa => trapInFlight s w f.seq code fa
  | .ok (vs, s1) => finishRead s1 w f (loadWrites f (fun l => leNat (laneIn [] vs l)))

/-- A watched load (R187 to R189). Its entries were made at issue, or are made now if a translation was missing then;
a lane whose entry is PENDING takes any valid copy, the others load ordinarily. (DEDUCED, log 24) -/
def performWatched (s : State) (w : Nat) (f : Flight) (size : Nat) (signed : Bool) (wid : Nat) (made : Bool) : State :=
  let s0 := if made then refreshWatch s w f size else addWatches s w f wid
  let mine := (s0.warpD w).watch.filter (fun e => e.seq == f.seq && e.state == .pending)
  let stale := fun (l : LaneAcc) => mine.any (fun e => e.mask.getLsbD l.lane)
  match loadLanes s w f.seq .global true size (f.acc.filter stale) with
  | .miss va => readMiss s w f va 0 1
  | .fail code fa => trapInFlight s w f.seq code fa
  | .ok (v1, s1) =>
    match loadLanes s1 w f.seq .global false size (f.acc.filter (fun l => !stale l)) with
    | .miss va => readMiss s w f va 0 1
    | .fail code fa => trapInFlight s w f.seq code fa
    | .ok (v2, s2) =>
      let y := s0.warpD w
      let s3 := s2.modWarp w (fun x => { x with watch := y.watch, wauto := y.wauto })
      let s4 := mine.foldl (fun s e => s.after s.lat.hop (.watchConfirm w e.grain)) s3
      finishRead s4 w f (loadWrites f (fun l => extendLoad size signed (laneIn [] (v1 ++ v2) l)))

/-- Data of a load returns (R167, R135, R186, R187). -/
def execLoadReturn (w seq : Nat) (s : State) : Host.Outcome State Fault Refusal :=
  match flight? s w seq with
  | none => done s
  | some f =>
    match f.kind with
    | .load sp size signed => if readTurn s w f size then done (performLoad s w f sp size signed) else done s
    | .watched size signed wid made =>
      if readTurn s w f size then done (performWatched s w f size signed wid made) else done s
    | .wmLoad => if readTurn s w f 2 then done (performWm s w f) else done s
    | .uload _ size => if readTurn s w f size then done (performLoad s w f .global size false) else done s
    | _ => done s

/-- The value a flight's destination had at issue, in a lane. -/
def oldValue (f : Flight) (l : Nat) : Nat :=
  f.writes.zipIdx.foldl (fun a e => match e.1 with
    | .v _ _ vals => a + (laneGet vals l).toNat * 2 ^ (32 * e.2)
    | _ => a) 0

/-- One lane's atomic at its place. -/
def atomLane (w : Nat) (s : State) (f : Flight) (op : AtomOp) (ty : Nat) (sp : Space) (l : LaneAcc) (b : Nat) : Nat × State :=
  let fn := fun old => atomNew op ty old b (oldValue f l.lane)
  let size := atSize ty
  match sp with
  | .global =>
    match coreXlate s (coreOf w) (s.warpD w).asid l.addr with
    | some e => rmwHome s (coreOf w) (e.key s l.addr) size fn
    | none => (0, s)
  | .spad => rmwSpad s (coreOf w) l.addr size fn
  | .peer _ _ c => rmwSpad s c l.addr size fn
/-- All lanes in ascending order (R178), each an undo entry with the value it read (R395). -/
def atomLanes (w : Nat) (s : State) (f : Flight) (op : AtomOp) (ty : Nat) (sp : Space) :
    List (LaneAcc × DWord) → List (Nat × Nat) × State
  | [] => ([], s)
  | (l, b) :: r =>
    let q := atomLane w s f op ty sp l b.toNat
    let s := if sp = .global then countFor q.2 w 4 1 else q.2
    let s := undoPut s w f.pc 4 0 (atSize ty) (laneBit l.lane).toNat 0 (spaceFaddr sp l.addr).toNat (leBytes (atSize ty) q.1)
    let t := atomLanes w s f op ty sp r
    ((l.lane, q.1) :: t.1, t.2)
/-- The first lane of an atomic that cannot be performed (R167, R284, R286). -/
def atomCheck (s : State) (w : Nat) (f : Flight) (sp : Space) (size : Nat) : List LaneAcc → Got Unit
  | [] => .ok ()
  | l :: r =>
    match sp with
    | .global =>
      (match xlate s w f.seq (s.warpD w).asid l.addr needRW with
      | .miss v => .miss v
      | .fail c fa => .fail c fa
      | .ok e =>
          if homeDown s (dieOf w) (e.key s l.addr) then .miss l.addr
          else match (List.range size).find? (fun i => homeErr s (e.key s l.addr + i) 1) with
            | some i => .fail 0x01 (BitVec.ofNat 64 (l.addr + i))
            | none => atomCheck s w f sp size r)
    | _ =>
      if (List.range size).any (fun i => mget (s.core (sp.core (coreOf w))).eccBad (l.addr + i) false)
      then .fail 0x01 (spaceFaddr sp l.addr) else atomCheck s w f sp size r
/-- An atomic performs at its home or in a scratchpad (R177 to R179), once the warp's store queue is empty. -/
def execHomeAtomic (w seq : Nat) (s : State) : Host.Outcome State Fault Refusal :=
  match flight? s w seq with
  | none => done s
  | some f =>
    match f.kind with
    | .atom op ty sp opnd =>
      if !(readTurn s w f (atSize ty) && (s.warpD w).storeq.isEmpty) then done s else
      (match atomCheck s w f sp (atSize ty) f.acc with
      | .miss va => done (readMiss s w f va 0 3)
      | .fail code fa => done (trapInFlight s w f.seq code fa)
      | .ok _ =>
        let r := atomLanes w s f op ty sp (f.acc.zip opnd)
        done (finishRead r.2 w f (loadWrites f (laneIn 0 r.1))))
    | _ => done s

/-! Stores (R168, R169). -/

/-- What a queued store's lane meets: performed, or failing with a reason and an address (R378). -/
structure LaneFail where
  lane   : Nat
  reason : Nat
  addr   : Nat

/-- The translation a store lane needs, its misses and failures (R169, R186). -/
def storeXlate (s : State) (w : Nat) (e : StoreEntry) (l : LaneAcc) : Got (TlbEntry × TlbEntry) ⊕ LaneFail :=
  let x := s.warpD w
  let fails := fun (g : Got (TlbEntry × TlbEntry)) => match g with
    | .fail 0x08 fa => Sum.inr (⟨l.lane, 2, fa.toNat⟩ : LaneFail)
    | .fail 0x01 fa => .inr ⟨l.lane, 3, fa.toNat⟩
    | .fail _ fa => .inr ⟨l.lane, 1, fa.toNat⟩
    | g => .inl g
  match e.kind with
  | .wmst =>
    (match xlate s w e.seq x.asid l.addr ⟨false, false, false, false⟩ with
    | .miss v => .inl (.miss v)
    | .fail _ _ => .inr ⟨l.lane, 1, l.addr⟩
    | .ok t => if t.wm then fails (xlateRange s w e.seq x.asid (wmAddr s x.asid l.addr) 2 needW)
        else .inr ⟨l.lane, 4, l.addr⟩)
  | _ => fails (xlateRange s w e.seq x.asid l.addr e.size needW)

/-- The kind of a store in its fault record (R378). -/
def recKind (k : StoreKind) : Nat :=
  match k with
  | .store => 0
  | .red .. => 1
  | .redTrig => 2
  | .wmst => 3
  | .sflush .. => 4

/-- The entry leaves the queue; what waited for it is looked at again. -/
def popStore (s : State) (w seq : Nat) : State :=
  settle ((endWalks s w seq).modWarp w (fun x => { x with storeq := x.storeq.filter (fun e => e.seq != seq) })) w

/-- A reduction's lanes by location, ascending lanes within one (R178, R180). -/
def byLocation (l : List (Nat × Nat × DWord)) : List (Nat × List (Nat × DWord)) :=
  l.foldl (fun acc e =>
    if acc.any (fun a => a.1 == e.1) then acc.map (fun a => if a.1 == e.1 then (a.1, a.2 ++ [(e.2.1, e.2.2)]) else a)
    else acc ++ [(e.1, [(e.2.1, e.2.2)])]) []

/-- The undo entry of a lane's memory write (R395); reductions, write-throughs and WMST log no old value. -/
def undoMem (s : State) (w : Nat) (e : StoreEntry) (l : LaneAcc) (key : Option Nat) : State :=
  let unknown := match e.kind, key with
    | .store, some k => !keyLocal k
    | .store, none => false
    | _, _ => true
  let c := coreOf w
  let old := match key with
    | some k => (List.range l.bytes.length).map (fun i => if l1Has s c (k + i) then l1Byte s c (k + i) else cohByte s (k + i))
    | none => memRead (s.core (e.space.core (coreOf w))).opst l.addr l.bytes.length
  undoPut s w e.pc 4 (boolNat unknown) l.bytes.length (laneBit l.lane).toNat 0 (spaceFaddr e.space l.addr).toNat
    (if unknown then [] else old)

/-- The record of a store whose lanes fail (R378): the lowest address, the reason. -/
def storeRec (x : Warp) (e : StoreEntry) (addr reason : Nat) (lanes : LaneMask) : SfRec :=
  { addr := BitVec.ofNat 64 (addr % 2 ^ 57 + recKind e.kind * 2 ^ 57 + reason * 2 ^ 60), lanes := lanes,
    pc := BitVec.ofNat 32 (x.pcoff e.pc), hmode := e.hmode }
/-- The messages sent from number `n` on carry the record they would leave (R433). -/
def tagMsgs (s : State) (n : Nat) (e : StoreEntry) (r : SfRec) : State :=
  { s with msgs := s.msgs.map (fun m =>
      if n ≤ m.id && m.fault.isNone && !keyLocal m.body.key then { m with fault := some (e.seq, r) } else m) }
/-- The aligned 32-byte sectors of 32-byte-grain pages of this package that the lanes of one store cover whole (R269): key,
device and bytes, the highest lane's where lanes meet (R165). -/
def wholeSectors (s : State) (ls : List (LaneAcc × (TlbEntry × TlbEntry))) : List (Nat × Nat × List Byte) :=
  if !ls.any (fun p => p.2.1.grain == 0) then [] else
  let bytes : NMap Byte := ls.foldl (fun m p => p.1.bytes.zipIdx.foldl (fun m b => mset m (keyIn s p.2 p.1.addr b.2) b.1) m) []
  let secs := (ls.filterMap (fun p =>
    if p.2.1.grain == 0 && keyLocal (keyIn s p.2 p.1.addr 0) then some (keyIn s p.2 p.1.addr 0 / 32, p.2.1.dev) else none)).eraseDups
  secs.filterMap (fun q =>
    let bs := (List.range 32).filterMap (fun i => mfind bytes (q.1 * 32 + i))
    if bs.length = 32 then some (q.1 * 32, q.2, bs) else none)
/-- Performing the lanes of a global entry whose translations hold; under TMODE.dbg a whole sector is filled first (R395). -/
def storeLanes (s : State) (w : Nat) (e : StoreEntry) (ls : List (LaneAcc × (TlbEntry × TlbEntry))) : State :=
  let x := s.warpD w
  let one := fun (l : LaneAcc) (s t : State) => tagMsgs t s.nextId e (storeRec x e (entryTarget s x.asid e l.addr) 3 (laneBit l.lane))
  let group := fun (g : Nat × List (Nat × DWord)) (s t : State) =>
    let addr := match ls.find? (fun p => p.2.1.key s p.1.addr == g.1) with
      | some p => p.1.addr
      | none => 0
    tagMsgs t s.nextId e (storeRec x e addr 3 (g.2.foldl (fun m v => m ||| laneBit v.1) 0))
  let s := ls.foldl (fun s p => undoMem s w e p.1 (some (p.2.1.key s (entryTarget s x.asid e p.1.addr)))) s
  match e.kind with
  | .store =>
    let s := (if x.tmode.getLsbD 4 then [] else wholeSectors s ls).foldl (fun s q => l1Store s (coreOf w) w q.1 0 q.2.1 q.2.2) s
    ls.foldl (fun s p => one p.1 s (storeGlobal s w p.2 p.1.addr p.1.bytes)) s
  | .wmst => ls.foldl (fun s p => one p.1 s (storeGlobal s w p.2 (wmAddr s x.asid p.1.addr) p.1.bytes)) s
  | .red op ty =>
    (byLocation (ls.map (fun p => (p.2.1.key s p.1.addr, p.1.lane, BitVec.ofNat 64 (leNat p.1.bytes))))).foldl
      (fun s g => group g s (sendMsg s w (.red op ty g.1 e.size g.2))) s
  | .redTrig =>
    (byLocation (ls.map (fun p => (p.2.1.key s p.1.addr, p.1.lane, BitVec.ofNat 64 (leNat p.1.bytes))))).foldl
      (fun s g => group g s (sendMsg s w (.trig g.1 g.2))) s
  | .sflush .. => s

/-- A global entry at the head of the queue; one whose translation is missing waits there for the walk (R168, R284, R290).
(DEDUCED, log 65) -/
def exitGlobal (s : State) (w : Nat) (e : StoreEntry) : State :=
  let rs := e.acc.map (fun l => (l, storeXlate s w e l))
  match rs.findSome? (fun r => match r.2 with
    | .inl (.miss v) => some v
    | .inl (.ok es) =>
      let key := keyIn s es r.1.addr 0
      if homeDown s (dieOf w) key && !l1Has s (coreOf w) key then some r.1.addr else none
    | _ => none) with
  | some v => missWalk s w e.seq v (s.warpD w).asid (if e.kind = .wmst then 5 else 1) 2
  | none =>
    let ok := rs.filterMap (fun r => match r.2 with
      | .inl (.ok es) => some (r.1, es)
      | _ => none)
    let bad := rs.filterMap (fun r => match r.2 with
      | .inr f => some f
      | _ => none)
    let s := storeLanes s w e ok
    match bad with
    | [] => popStore s w e.seq
    | f :: _ =>
      let x := s.warpD w
      let r := storeRec x e f.addr f.reason (bad.foldl (fun m b => m ||| laneBit b.lane) 0)
      (s.modWarp w (fun x =>
        { x with storeq := x.storeq.map (fun g => if g.seq = e.seq then { g with fail := some r, acc := [] } else g) })).after
          0 (.storeFaultRecord w e.seq)

/-- A window's lines that hold registered words: line number and tag. -/
def dirtyLines (s : State) (c : Nat) (wn : Window) : List (Nat × L1Tag) :=
  (List.range wn.len).filterMap (fun i => ((mfind (s.core c).slines (wn.off + i)).filter (fun t => t.reg != 0)).map
    (fun t => (i, t)))
/-- SFLUSH, SUNMAP and the unmapping of SMAP at the head of the queue (R183, R185). The page of each line that holds
registered words must be translated and allow the write-back (R282, R284); a line of which it does not is not written
back, and the lowest such line gives the record (R169, R378). (DESIGN CHOICE, log 18) -/
def exitFlush (s : State) (w : Nat) (e : StoreEntry) (nums : List Nat) (unmap : Bool)
    (map : Option (Nat × Nat × Nat × Nat)) : State :=
  let x := s.warpD w
  let c := coreOf w
  match x.group? 0 with
  | none => popStore s w e.seq
  | some g =>
    let s := deliverRegs s c (fun _ => true)
    let wins := (s.core c).wins.filter (fun wn => wn.gi == g && nums.contains wn.num)
    let lines := wins.flatMap (fun wn => (dirtyLines s c wn).map (fun l =>
      (wn.base + 128 * l.1, wn.asid, l.2, xlate s w e.seq wn.asid (wn.base + 128 * l.1) needW)))
    match lines.findSome? (fun l => match l.2.2.2 with
      | .miss va => some (va, l.2.1)
      | _ => none) with
    | some (va, asid) => missWalk s w e.seq va asid 1 2
    | none =>
      let words := fun (t : L1Tag) => (List.range 32).filter (fun j => t.reg.getLsbD j)
      let one := fun (s : State) (l : Nat × Nat × L1Tag × Got TlbEntry) => match l.2.2.2 with
        | .ok e => if e.key s l.1 ≠ l.2.2.1.dev then s else (words l.2.2.1).foldl (fun s j => writeBackWord s (l.2.2.1.dev / 4 + j) false) s
        | _ => if unmap then (words l.2.2.1).foldl (fun s j => dropReg s (l.2.2.1.dev / 4 + j) c true) s else s
      let s := lines.foldl one s
      let s := if unmap then wins.foldl (fun s wn => windowUnmap s c g wn.num) s else s
      let s := match map with
        | some (num, base, off, len) =>
          let wn : Window := { gi := g, num := num, base := base, off := off, len := len, asid := x.asid }
          s.modCore c (fun k => { k with wins := k.wins ++ [wn] })
        | none => s
      let bad := lines.filterMap (fun l => match l.2.2.2 with
        | .fail code _ => some (l.1 + 4 * ((words l.2.2.1).headD 0), if code = 0x08 then 2 else 1)
        | _ => none)
      match bad with
      | [] => popStore s w e.seq
      | f :: r =>
        let low := r.foldl (fun (m q : Nat × Nat) => if q.1 < m.1 then q else m) f
        let rc := storeRec x e low.1 low.2 1
        (s.modWarp w (fun x =>
          { x with storeq := x.storeq.map (fun q => if q.seq = e.seq then { q with fail := some rc } else q) })).after
            0 (.storeFaultRecord w e.seq)

/-- The oldest store-queue entry leaves (R168), after every earlier load of the warp has performed. -/
def execStoreQueueExit (w : Nat) (s : State) : Host.Outcome State Fault Refusal :=
  let x := s.warpD w
  match x.storeq with
  | [] => done (settle s w)
  | e :: _ =>
    if e.fail.isSome then done (s.after 0 (.storeFaultRecord w e.seq))
    else if !loadsDone x e.seq then done s
    else
      match e.kind, e.space with
      | .sflush nums unmap map, _ => done (exitFlush s w e nums unmap map)
      | _, .global => done (exitGlobal s w e)
      | _, .spad =>
        let s := e.acc.foldl (fun s l => storeOwn (undoMem s w e l none) w l.addr l.bytes) s
        done (popStore s w e.seq)
      | _, .peer _ _ c =>
        let s := e.acc.foldl (fun s l => spadWrite (undoMem s w e l none) c l.addr l.bytes) s
        done (popStore s w e.seq)

/-- A failed store's record enters the queue (R169, R380); a terminated warp's goes to Toltar, kind 4 (R210). -/
def execStoreFaultRecord (w id : Nat) (s : State) : Host.Outcome State Fault Refusal :=
  let x := s.warpD w
  match x.storeq.find? (fun e => e.seq == id) with
  | none => done s
  | some e =>
    match e.fail with
    | none => done s
    | some r =>
      if x.termReq then done (popStore (s.tell 4 [w, r.addr.toNat, r.pc.toNat]) w id)
      else if x.sfq.length < sfRoom x then
        done ((popStore (s.modWarp w (fun x => { x with sfq := x.sfq ++ [r] })) w id).after 0 (.trapEntry w))
      else done s

/-! Messages at their homes (R272, R274, R180, R181). -/

def msg? (s : State) (id : Nat) : Option Msg :=
  s.msgs.find? (fun m => m.id == id && !msgStuck s m)
/-- Acknowledging a message and looking again at its warp. -/
def acked (s : State) (m : Msg) : State := settle (ackMsg s m) m.warp

/-- A read of a registered word by another party: REGRD (R272). -/
def execForwardedRead (word : Nat) (s : State) : Host.Outcome State Fault Refusal :=
  done (forwardRead s none (word * 4) 4)

/-- Changing every continuation record, in chests and rings. -/
def mapRecords (s : State) (f : Record → Record) : State :=
  { s with cores := s.cores.map (fun e => (e.1, { e.2 with chest := e.2.chest.map f })),
           plans := s.plans.map (fun e =>
             (e.1, { e.2 with stages := e.2.stages.map (fun g => { g with ring := g.ring.map f }) })) }
/-- The physical key of a record's counter. -/
def counterKey (s : State) (r : Record) : Option Nat :=
  match r.armed with
  | none => none
  | some va =>
    match walkAll s r.asid va with
    | .leaf e => some (e.key s va)
    | _ => none
/-- Every continuation record, in chests and rings. -/
def allRecords (s : State) : List Record :=
  s.cores.flatMap (fun e => e.2.chest) ++ s.plans.flatMap (fun e => e.2.stages.flatMap (fun g => g.ring))
/-- Records become READY in the given order (R330): their numbers say when. -/
def makeReady (s : State) (ids : List Nat) (status : Option Nat) : State :=
  let n := s.nextId
  let upd := fun (r : Record) => if ids.contains r.id then
      { r with ready := true, status := status.getD r.status, readyAt := n + ids.idxOf r.id, readyClk := s.clk } else r
  let t := { mapRecords s upd with nextId := n + ids.length }
  let t := (allRecords t).foldl (fun t r => match r.place with
    | some a => if ids.contains r.id then vWriteD t r.asid a (recordBytes r) else t
    | none => t) t
  t.cores.foldl (fun t e => if e.2.chest.any (fun r => ids.contains r.id) then t.after 0 (.warpFormation e.1) else t) t
/-- Inserting by a rising measure. -/
def insertBy {α : Type} (f : α → Nat) (a : α) : List α → List α
  | [] => [a]
  | b :: r => if f a < f b then a :: b :: r else b :: insertBy f a r
def sortBy {α : Type} (f : α → Nat) (l : List α) : List α := l.foldl (fun acc a => insertBy f a acc) []
/-- Releasing the records registered at a counter (R181), in their order of registration (R330). -/
def releaseArmed (s : State) (key flags : Nat) : State :=
  let hit := (allRecords s).filter (fun r => r.regd && !r.ready && counterKey s r == some key)
  makeReady s ((sortBy (·.readyAt) hit).map (·.id)) (some flags)
/-- RED.TRIG's steps at the home (R181). -/
def trigStep (c key : Nat) (s : State) (v : Nat × DWord) : State :=
  let r := rmwHome s c key 4 (fun old => (trigNew old v.2.toNat).1)
  let n := trigNew r.1 v.2.toNat
  if n.2 then releaseArmed r.2 key (n.1 / 2 ^ 24) else r.2
/-- A message arrives at its home: a registration (R272), a notice of a write to a read word, a write-through (R274),
the operations of one reduction on one location in lane order (R178), a counter's steps (R181). -/
def atHome (s : State) (m : Msg) : State :=
  match m.body with
  | .register word c => acked (registerAt s word c) m
  | .notice word c =>
    let s1 := bumpVer s (word * 4)
    let s2 := if mfind s.words word = some (.regrd c) then { s1 with words := mset s1.words word (.reg c) } else s1
    acked s2 m
  | .through key bs => acked (homeWrite s key bs) m
  | .red op ty key size vals =>
    acked (vals.foldl (fun s v => (rmwHome s (coreOf m.warp) key size (fun old => atomNew op ty old v.2.toNat 0)).2) s) m
  | .trig key vals => acked (vals.foldl (trigStep (coreOf m.warp) key) s) m
/-- The message of this number arrives, if it is still on its way. -/
def msgArrive (s : State) (id : Nat) : State :=
  match msg? s id with
  | some m => atHome s m
  | none => s
/-- Everything on its way to a home arrives, the earliest first (R299). (DEDUCED, log 59) -/
def arriveAll (s : State) : State := s.msgs.foldl (fun s m => msgArrive s m.id) s

/-- A write of another device, of at most 256 bytes (R431): to this one's memory it is a home-performed write (R272, R274),
acknowledged, kind 42; to the notify aperture (R415) it rings a queue if it is 64 bytes at a multiple of 64, and is counted if not. -/
def peerWrite (s : State) (dev pa : Nat) (bs : List Byte) : State :=
  if bs = [] ∨ 256 < bs.length then s
  else if pa + bs.length ≤ 2 ^ 39 then (homeWrite s pa bs).tell 42 [dev, pa, bs.length]
  else if 2 ^ 40 - 2 ^ 16 ≤ pa ∧ pa < 2 ^ 40 then
    if bs.length = 64 ∧ pa % 64 = 0 then s.after 0 (.notify bs) else { s with notifyErr := s.notifyErr + 1 }
  else s
/-- No core: another device's accesses find none of its registrations here. -/
def noCore : Nat := 384
/-- The operations of another device's reduction or atomic on one location (R177, R178, R274), each indivisible; the values
found go back to it, kind 28 with the device, the address and the values. -/
def peerAtomic (s : State) (dev pa op ty : Nat) (vals : List Nat) : State :=
  let size := if ty = 2 || ty = 3 then 8 else 4
  let ops := [AtomOp.add, .min, .max, .and, .or, .xor, .exch, .cas]
  if pa % size ≠ 0 ∨ pa + size > 2 ^ 39 then s else
  match ops[op]? with
  | none => s
  | some .cas =>
    let r := rmwHome s noCore pa size (fun old => atomNew .cas ty old (vals.getD 1 0) (vals.getD 0 0))
    r.2.tell 28 [dev, pa, r.1]
  | some o =>
    let r := vals.foldl (fun (acc : List Nat × State) v =>
      let q := rmwHome acc.2 noCore pa size (fun old => atomNew o ty old v 0)
      (acc.1 ++ [q.1], q.2)) ([], s)
    r.2.tell 28 ([dev, pa] ++ r.1)

def execRegistration (id : Nat) (s : State) : Host.Outcome State Fault Refusal := done (msgArrive s id)
def execReadThroughNotice (id : Nat) (s : State) : Host.Outcome State Fault Refusal := done (msgArrive s id)
/-- Another device's request waits while its home stalls (R428); one of the additions of R432 from a device that is not a
BR880 is dropped and counted. -/
def peerRequest (s : State) (x : Inbound) (ev : Event) (f : Nat → Nat → Nat → Nat → List Nat → State) :
    Host.Outcome State Fault Refusal :=
  match x with
  | .sent id => done (msgArrive s id)
  | .peer dev pa op ty vals => if rangeStalls s pa (max 1 vals.length) then done (s.after 64 ev) else done (f dev pa op ty vals)
  | .foreign _ => done { s with foreign := s.foreign + 1 }
/-- A write-through reaches its home (R274): one of this package's another device, or another device's this one. -/
def execRemoteWriteThrough (x : Inbound) (s : State) : Host.Outcome State Fault Refusal :=
  peerRequest s x (.remoteWriteThrough x) (fun dev pa _ _ vals => peerWrite s dev pa (vals.map (BitVec.ofNat 8)))
/-- A reduction reaches its home (R180); another device's may be an atomic (R274). -/
def execRedPerform (x : Inbound) (s : State) : Host.Outcome State Fault Refusal :=
  peerRequest s x (.redPerform x) (peerAtomic s)
/-- The steps of a RED.TRIG reach their home (R181). -/
def execRedTrigStep (x : Inbound) (s : State) : Host.Outcome State Fault Refusal :=
  peerRequest s x (.redTrigStep x) (fun _ pa _ _ vals =>
    if pa % 4 ≠ 0 ∨ pa + 4 > 2 ^ 39 then s
    else vals.foldl (fun s v => trigStep noCore pa s (0, BitVec.ofNat 64 v)) s)

/-! Caches (R270, R273, R275). -/

/-- The clk at which a core last wrote a registered word. -/
def wroteAt (s : State) (c word : Nat) : Option Nat :=
  let l1 := (mfind (s.core c).l1 (word / 128)).bind (fun t => if t.reg.getLsbD (word % 128) then mfind t.wrote (word % 128) else none)
  (stashLinesOf (s.core c) (word * 4)).foldl (fun m e =>
    if !e.2.reg.getLsbD (word % 32) then m else
    match m, mfind e.2.wrote (word % 32) with
    | some a, some b => some (max a b)
    | some a, none => some a
    | none, b => b) l1
/-- The L1 dryer (R273): a registered word aged 4,096 clk is written back, its copy staying. (DESIGN CHOICE, log 14) -/
def execL1Dryer (core word : Nat) (s : State) : Host.Outcome State Fault Refusal :=
  match wroteAt s core word with
  | some t => if t + 4096 ≤ s.clk && registrant s (word * 4) == some core then done (writeBackWord s word false) else done s
  | none => done s
/-- The home-slice dryer (R273): the line stays, clean. (DESIGN CHOICE, log 14) -/
def execL2Dryer (line : Nat) (s : State) : Host.Outcome State Fault Refusal :=
  match mfind s.l2 line with
  | none => done s
  | some ln =>
    let t := writeLine s line ln
    done { t with l2 := mset t.l2 line { ln with dirty := 0 } }
/-- Evicting an L2 line (R275): recalls, write-back, and new versions for a later refill. (DESIGN CHOICE, log 14) -/
def execL2Eviction (line : Nat) (s : State) : Host.Outcome State Fault Refusal :=
  match mfind s.l2 line with
  | none => done s
  | some ln => done (evictLine s line ln)
def execL1Eviction (core region : Nat) (s : State) : Host.Outcome State Fault Refusal := done (l1Evict s core region)

/-- A pending watch of a grain whose load has been performed is compared with the home's version (R188). (DEDUCED, log 24) -/
def execWatchConfirm (w grain : Nat) (s : State) : Host.Outcome State Fault Refusal :=
  let x := s.warpD w
  let judge := fun (e : WatchEntry) =>
    if e.grain == grain && e.state == .pending && !x.flights.any (fun f => f.seq == e.seq) then
      { e with state := if e.ver == some (grainVer s e.size grain) then .confirmed else .struck }
    else e
  let t := s.modWarp w (fun x => { x with watch := x.watch.map judge })
  let n := ((x.watch.map judge).filter (fun e => e.state == .struck)).length - (x.watch.filter (fun e => e.state == .struck)).length
  done (countFor t w 5 n)

/-! Convergence, barriers and time (R36, R37, R199, R200, R203). -/

def execConvRelease (w : Nat) (s : State) : Host.Outcome State Fault Refusal := done (releasePoints s w s.clk)
/-- A window job's next arrival is announced when the phase of the frame before it completes (R441). -/
def announceFrames (s : State) (gi bar ph : Nat) : State :=
  s.dies.foldl (fun s d => d.2.decs.foldl (fun s e =>
    match e.2.arrive with
    | none => s
    | some (g, b, p0) =>
      if g ≠ gi ∨ b ≠ bar ∨ p0 + e.2.told ≠ ph + 1 then s else
      (s.modGroup gi (fun x => { x with engines := mset x.engines (16 * (ph + 1) + bar) (mget x.engines (16 * (ph + 1) + bar) 0 + 1) })).modDie
        d.1 (fun x => { x with decs := mmod x.decs e.1 (fun d => { d with told := d.told + 1 }) })) s) s
/-- A phase completes (R203): the waiting paths go on in the next clk and acquire (R204, R205). -/
def execBarrierPhaseComplete (gi bar : Nat) (s : State) : Host.Outcome State Fault Refusal :=
  match mfind s.groups gi with
  | none => done s
  | some g =>
    let ph := g.phase bar
    if g.members.isEmpty || !g.members.all (fun m => (mget g.arrived bar []).contains m) ||
        mget g.engines (16 * ph + bar) 0 != 0 then done s
    else
      let s := s.modGroup gi (fun g =>
        { g with phases := mset g.phases bar (ph + 1), arrived := mdel g.arrived bar, engines := mdel g.engines (16 * ph + bar) })
      let s := announceFrames s gi bar ph
      done (s.warps.foldl (fun s e =>
        e.2.holds.foldl (fun s h => match h with
          | .bar lanes g2 b p next =>
            if g2 = gi ∧ b = bar ∧ p = ph then
              let s := s.modWarp e.1 (fun x =>
                { x.setPc lanes (fun _ => next) with
                    holds := x.holds.erase h, laneWake := merge lanes (List.replicate 32 (s.clk + 1)) x.laneWake 0 })
              acquire s e.1 (wideScope s (s.warpD e.1) 0)
            else s
          | _ => s) s) s)
/-- 1,024 clk without an issue (R36): priority 15 for the next issue. -/
def execPriorityBoost (w : Nat) (s : State) : Host.Outcome State Fault Refusal :=
  match mfind s.warps w with
  | none => done s
  | some x =>
    if s.clk ≥ x.lastIssue + 1024 then done (s.modWarp w (fun x => { x with boost := true }))
    else if s.agenda.any (fun e => e.2 == .priorityBoost w) then done s
    else done (s.after (x.lastIssue + 1024 - s.clk) (.priorityBoost w))
/-- A path reaches the age limit (R37): its lanes make it eligible as primary. -/
def execPathAgeLimit (w lane : Nat) (s : State) : Host.Outcome State Fault Refusal :=
  let x := s.warpD w
  match (pathsOf x).find? (fun p => p.1.getLsbD lane) with
  | some p => if pathAge x p.1 ≥ 64 then done (s.modWarp w (fun x => { x with aged := x.aged ||| p.1 })) else done s
  | none => done s
def execYieldExpiry (w : Nat) (s : State) : Host.Outcome State Fault Refusal :=
  done (s.modWarp w (fun x => if x.yieldEnd ≤ s.clk then { x with yielding := false } else x))

/-- A heartbeat tick (R173): the drained FENCE.SCs of its domain acquire and let go, in order of source number. -/
def execHeartbeatTick (dom : Bool) (s : State) : Host.Outcome State Fault Refusal :=
  done (s.warps.foldl (fun s e =>
    e.2.holds.foldl (fun s h => match h with
      | .fenceSc scope seq true _ =>
        if (scope == 3) == dom then settle (acquire (endHold s e.1 h seq) e.1 (wideScope s e.2 scope)) e.1 else s
      | _ => s) s) s)

/-! Retirement and termination (R197, R210). -/

/-- A warp whose lanes have all exited retires once its stores and tokens are done (R197). -/
def execWarpRetire (w : Nat) (s : State) : Host.Outcome State Fault Refusal :=
  match mfind s.warps w with
  | none => done s
  | some x =>
    if x.exited = 0xFFFFFFFF && x.holds.contains .retire && x.storeq.isEmpty && x.unacked.isEmpty && x.tokens.isEmpty &&
        x.flights.isEmpty && x.sfq.isEmpty then done (retireWarp (dropSlots s w x.plan) w)
    else done s
/-- A terminated warp (R210): all lanes exit, what is in flight is dropped, accepted commands' tokens are discarded, and
it retires once its stores are done. -/
def execWarpTerminate (w : Nat) (s : State) : Host.Outcome State Fault Refusal :=
  match mfind s.warps w with
  | none => done s
  | some x =>
    if !x.termReq then done s else
    let s := s.modWarp w (fun x =>
      { x with active := 0, waiting := 0, exited := 0xFFFFFFFF, flights := [], holds := [.retire], tokens := [],
               watch := [], wauto := 0, pend := [], sfq := [], captured := false, entryRep := [] })
    let s := dropQueries (dropWalks s (fun k => k.src == w && !engineWalk k && !x.storeq.any (fun e => e.seq == k.seq))) w
    let s := if x.byToltar then s.modPlan x.plan (fun p => { p with terminated := true }) else s
    done (settle (dropSlots s w x.plan) w)

/-! Traps (R372, R381, R384). -/

/-- A boundary (R367, R368), unless it lies within a fused pair (R150). -/
def execTrapEntry (w : Nat) (s : State) : Host.Outcome State Fault Refusal :=
  if !(readyCauses s (s.warpD w)).isEmpty && wouldFuse s w then done (putOffBoundary s w (.trapEntry w))
  else done (enterTrap s w)
/-- A write of 1 to TMODE.nopre (R381). -/
def execTmodeNopreWrite (w : Nat) (s : State) : Host.Outcome State Fault Refusal :=
  if (s.warpD w).handler then done (writeNopre s w true) else done s
/-- The hold ends (R381): nopre clears, spent sets, a held request is taken. -/
def execNopreExpiry (w : Nat) (s : State) : Host.Outcome State Fault Refusal :=
  let x := s.warpD w
  if x.tmode.getLsbD 1 && decide (x.nopreEnd ≤ s.clk) then
    let s := s.modWarp w (fun x => { x with tmode := (x.tmode &&& ~~~(2 : Word)) ||| 8 })
    done (if x.preemptReq then s.after 0 (.preempt w) else s)
  else done s
/-- Toltar's decision on a delegated trap (R384): it may first change the record. (DESIGN CHOICE, log 9) -/
def execToltarReturn (w : Nat) (act : ToltarAction) (edits : List (Nat × Byte)) (s : State) :
    Host.Outcome State Fault Refusal :=
  let x := s.warpD w
  if !x.captured || x.holds.any Hold.isReturn || !dutyOwned s (dieOf w) 2 || undelivered s 2 w then done s else
  let s := edits.foldl (fun s e => if e.1 < 1024 then vWriteD s x.asid (x.saveArea + e.1) [e.2] else s) s
  match act with
  | .ret => done (settle (s.modWarp w (fun x => { x with holds := x.holds ++ [.rett x.nextSeq 0] })) w)
  | .handler => done (enterHandler s w 0)
  | .terminate =>
    let s := s.modWarp w (fun x => { x with captured := false })
    done (terminateGroups s w x.groupList true)

end Sys2Proof.Machine
end

