-- ==== Sys2Proof/Machine/Tokens.lean ====
section
/-!
DEFINITION. Tokens of engine commands (R31, R219): taken at issue, filled when the engine completes, in the warp's
registers, in the control record of a trap (R372) or in the save area of a pre-empted warp (R26, R381); and waiting for
a warp's earlier stores to be acknowledged (R206, R224, R251).
-/

namespace Sys2Proof.Machine

/-- Setting bit `i` of the bits at `a`. -/
def setBitAt (s : State) (asid a i : Nat) : State :=
  let s := unitTouch s asid (a + i / 8) 1
  match vRead s asid (a + i / 8) 1 with
  | some [b] => vWriteD s asid (a + i / 8) [b ||| BitVec.ofNat 8 (2 ^ (i % 8))]
  | _ => s

/-! Tokens. -/

/-- Taking a token for an accepted command (R31): the register is emptied; the command's identifier. -/
def takeToken (s : State) (c : IssueCtx) (reg : Nat) : Nat × State :=
  let s := undoPut s c.warp c.pc 6 0 0 0 0 0 []
  let id := s.nextId
  (id, (s.usedId).modWarp c.warp (fun x =>
    { x.setSE reg true with tokens := x.tokens ++ [{ reg := reg, id := id, preTrap := false }] }))

/-- The control record's copy of s0 or s1 (R372, R376). -/
def fillRecord (s : State) (x : Warp) (r : Nat) (v : Word) : State :=
  setBitAt (vWriteD s x.asid (x.saveArea + 0x198 + 4 * r) (leBytes 4 v.toNat)) x.asid (x.saveArea + 0x1C4) r

/-- Filling one destination of a resident warp: s0 and s1 of a command accepted before the handler was entered go to the
control record, as they do while Toltar holds the trap. -/
def fillOne (w id : Nat) (s : State) (d : RegWrite) : State :=
  let x := s.warpD w
  match d with
  | .s r v =>
    if r ≤ 1 && (x.captured || (x.handler && x.tokens.any (fun t => t.id == id && t.reg == r && t.preTrap)))
    then fillRecord s x r v
    else s.modWarp w (fun x => x.writeDest d)
  | _ => s.modWarp w (fun x => x.writeDest d)

/-- Filling one destination in the save area of a pre-empted warp, value and full bit together (R381). -/
def fillSaved (v : Saved) (id : Nat) (s : State) (d : RegWrite) : State :=
  let x := v.warp
  let a := x.saveArea
  match d with
  | .s r val =>
    if r ≤ 1 && x.handler && x.tokens.any (fun t => t.id == id && t.reg == r && t.preTrap) then
      let put := fun (u : Saved) =>
        let rec_ := u.record.take (0x198 + 4 * r) ++ leBytes 4 val.toNat ++ u.record.drop (0x19C + 4 * r)
        let fl := BitVec.ofNat 8 (field rec_ 0x1C4 1) ||| BitVec.ofNat 8 (2 ^ r)
        { u with record := rec_.take 0x1C4 ++ [fl] ++ rec_.drop 0x1C5 }
      { s with saved := s.saved.map (fun u => if u.id = v.id then put u else u) }
    else setBitAt (vWriteD s x.asid (a + saveUni + 4 * r) (leBytes 4 val.toNat)) x.asid (a + saveUniBits) r
  | .v r m vals =>
    (lanesOf m).foldl (fun s l =>
      setBitAt (vWriteD s x.asid (a + saveVec x.nv x.ns + 128 * r + 4 * l) (leBytes 4 (laneGet vals l).toNat)) x.asid
        (a + saveVecBits x.ns + 4 * r) l) s
  | .p .. | .q .. => s

/-- Completing a command: its destinations are filled wherever its warp now is; the token of a terminated warp is
discarded (R210). -/
def fillToken (s : State) (id : Nat) (ds : List RegWrite) : State :=
  match s.warps.find? (fun e => e.2.tokens.any (fun t => t.id == id)) with
  | some (w, _) =>
    let s := ds.foldl (fillOne w id) s
    settle (s.modWarp w (fun x => { x with tokens := x.tokens.filter (fun t => t.id != id) })) w
  | none =>
    match s.saved.find? (fun v => v.warp.tokens.any (fun t => t.id == id)) with
    | some v =>
      let s := ds.foldl (fillSaved v id) s
      { s with saved := s.saved.map (fun u =>
          if u.id = v.id then { u with warp := { u.warp with tokens := u.warp.tokens.filter (fun t => t.id != id) } }
          else u) }
    | none => s

/-- Whether a warp still lives, resident or pre-empted. -/
def warpAlive (s : State) (key : Nat) : Bool :=
  if key < 10 ^ 6 then (mfind s.warps key).isSome else s.saved.any (fun v => savedKey v.id == key)
/-- A warp by its name, resident or pre-empted. -/
def warpByKey (s : State) (key : Nat) : Option Warp :=
  if key < 10 ^ 6 then mfind s.warps key else (s.saved.find? (fun v => savedKey v.id == key)).map (·.warp)

/-! Waiting for earlier stores. -/

/-- From now on, the stores a warp has issued are waited for. -/
def newAwait (x : Warp) (w : Nat) : Await := { warp := w, seq := x.nextSeq, drained := false, ids := [] }
/-- Looking again: once the stores have left the queue, the messages still on their way are noted. -/
def Await.look (a : Await) (s : State) : Await :=
  if a.drained then a else
  match mfind s.warps a.warp with
  | none => { a with drained := true }
  | some x => if x.storeq.any (fun e => decide (e.seq < a.seq)) then a else { a with drained := true, ids := x.unacked }
/-- Every store has been acknowledged. -/
def Await.isDone (a : Await) (s : State) : Bool := a.drained && a.ids.all (fun i => !s.msgs.any (fun m => m.id == i))

end Sys2Proof.Machine
end

