-- ==== Sys2Proof/Machine/Pipes.lean ====
section
/-!
DEFINITION. Pipes (R221 to R229, R334 to R352): the six instructions, what the pipe unit does with them, spilling, the
search for deadlocks and their drain, and the far end of a pipe between two devices.
-/

namespace Sys2Proof.Machine

/-! Handles, ends and slots. -/

/-- Whether this package holds the producer's or the consumer's end (R341). -/
def PipeSt.prodHere (q : PipeSt) : Bool :=
  match q.remote with
  | some (_, consumer) => !consumer
  | none => true
def PipeSt.consHere (q : PipeSt) : Bool :=
  match q.remote with
  | some (_, consumer) => consumer
  | none => true

def State.pipe? (s : State) (p pi : Nat) : Option PipeSt :=
  match mfind s.plans p with
  | some q => mfind q.pipes pi
  | none => none

/-- Every sequence below `lowDone` has been released or spilled: moving it up (R338). -/
def advanceLow (q : PipeSt) : Nat → PipeSt
  | 0 => q
  | n + 1 =>
    if mget q.released (q.lowDone % q.depth) 0 > q.lowDone then advanceLow { q with lowDone := q.lowDone + 1 } n else q
/-- A pinned slot has been vacated by a sequence (R338, R340). -/
def markVacated (q : PipeSt) (slot seq : Nat) : PipeSt :=
  let q := { q with released := mset q.released slot (max (mget q.released slot 0) (seq + 1)) }
  advanceLow q (q.depth + 1)
/-- Whether the pinned slot of sequence `n` is free for it (R338, R342). -/
def slotFree (q : PipeSt) (n : Nat) : Bool :=
  (q.matched || q.consHere) &&
    (decide (n < q.depth) ||
      (decide (n - q.depth < mget q.released (n % q.depth) 0) && decide (n - q.depth ≤ q.lowDone)))

/-- The stamp record of a vacated entry is written (R336, R398), where the producer's plan is of this device; one that cannot be
is told to Toltar, kind 5. -/
def writeStamp (s : State) (p pi : Nat) (e : PipeEntry) : State :=
  match mfind s.plans p with
  | none => s
  | some pl =>
    if e.stamp = 0 || !((mfind pl.pipes pi).map (·.prodHere)).getD true then s else
    match vWrite s pl.asid e.stamp (stampBytes p pi e) with
    | some t => t
    | none => s.tell 5 [p, pi, e.seq]
/-- The producer's device hears of a vacate (R343): report kind 6, with the fields of a `VacateMark`. -/
def tellVacate (s : State) (p pi : Nat) (q : PipeSt) (e : PipeEntry) (left : Bool) : State :=
  match q.remote with
  | some (dev, true) => s.tell 6 [dev, p, pi, e.slot, e.seq, boolNat left, e.status, e.consumer, e.offs.getD 6 0xFFFFFFFF,
      e.offs.getD 7 0xFFFFFFFF, boolNat e.wasSpilled, boolNat e.restarted]
  | _ => s
/-- An entry leaves the pipe (R338, R347, R398): its slot or spill entry is free, its stamp record is written once, and
the producer's device hears of it (R343). -/
def vacate (s : State) (p pi : Nat) (e : PipeEntry) : State :=
  match mfind s.plans p with
  | none => s
  | some pl =>
    let s := writeStamp (stampSpill s p pi e) p pi e
    let s := s.modPipe p pi (fun q =>
      let q := { q with entries := q.entries.filter (fun f => f.seq != e.seq) }
      match e.spilled with
      | some x => { q with spillUse := mdel q.spillUse x }
      | none => markVacated q e.slot e.seq)
    match pl.pipes.find? (fun q => q.1 == pi) with
    | some (_, q) => tellVacate s p pi q e true
    | none => s

/-! The instructions (R221). -/

/-- The slots a warp holds, and the PRSVs and PACQs it waits for (R221: at most 8). -/
def pipeCount (s : State) (w plan : Nat) : Nat :=
  match mfind s.plans plan with
  | none => 0
  | some p => p.pipes.foldl (fun n q =>
      n + (q.2.entries.filter (fun e => e.holder == w && (e.state == 0 || e.state == 2))).length +
        (q.2.ops.filter (fun o => o.warp == w && (o.kind == 0 || o.kind == 2))).length) 0

/-- Whether PIPE_FAULT holds (R221, R224): kinds 0 PRSV, 1 PCMT, 2 PACQ, 3 PREL, 4 PPOLL, 5 PCLOSE. -/
def pipeBad (s : State) (w : Nat) (x : Warp) (kind pi h : Nat) : Bool :=
  match s.pipe? x.plan pi with
  | none => true
  | some q =>
    let prod := q.prodHere && q.src == x.stage
    let cons := q.consHere && q.dst == x.stage
    let held := fun (a b : Bool) => match heldEntry s w x h a b with
      | some (i, _) => i == pi
      | none => false
    match kind with
    | 0 => !prod || decide (8 ≤ pipeCount s w x.plan)
    | 1 => !prod || decide (2 < natBits h 31 29) || !held true false
    | 2 => !cons || decide (8 ≤ pipeCount s w x.plan)
    | 3 => !cons || !held false true
    | _ => !prod && !cons

/-- The sequence a PACQ is given at acceptance (R225). (DEDUCED, log 32) -/
def giveSeq (q : PipeSt) : Nat × PipeSt :=
  match q.cHoles with
  | n :: r => (n, { q with cHoles := r })
  | [] => (q.nextC, { q with nextC := q.nextC + 1 })

/-- The pipe unit's event for an accepted operation. -/
def pipeEvent (kind p pi : Nat) : Event :=
  match kind with
  | 0 => .prsvFill p pi
  | 1 => .pcmtCommit p pi
  | 2 => .pacqFill p pi
  | 3 => .prelRecord p pi
  | 4 => .ppollSnapshot p (.here pi)
  | _ => .pcloseRecord p pi

/-- Accepting an operation of warp `w` (R219, R223, R225); a waiting PRSV or PACQ may come to be part of a deadlock. -/
def acceptPipe (s : State) (c : IssueCtx) (x : Warp) (kind pi reg h : Nat) : State :=
  let t := takeToken s c reg
  match mfind s.plans x.plan with
  | none => s
  | some p =>
    let seqNo := match kind with
      | 1 => (heldEntry s c.warp x h true false).map (fun e => e.2.seq)
      | 3 => (heldEntry s c.warp x h false true).map (fun e => e.2.seq)
      | _ => none
    let put := fun (q : PipeSt) =>
      let g := if kind = 2 then giveSeq q else (0, q)
      let op : PipeOp :=
        { kind := kind, warp := c.warp, src := c.warp, stage := x.stage, reg := reg, wid := t.1, handle := h, core := coreOf c.warp,
          seqNo := if kind = 2 then some g.1 else seqNo, wait := newAwait x c.warp,
          tces := if kind = 1 then copiesOn s c.warp h false else [], order := p.stamps, time := s.gtime,
          status := natBits h 31 29 }
      { g.2 with ops := g.2.ops ++ [op] }
    let s := t.2.modPipe x.plan pi put
    let s := if kind = 0 then s.modPlan x.plan (fun p => { p with stamps := p.stamps + 1 }) else s
    let s := s.after s.lat.pipe (pipeEvent kind x.plan pi)
    if kind = 0 || kind = 2 then watchDeadlock s x.plan else s

/-- A pipe instruction: the checks, then acceptance. -/
def pipeOp (s : State) (i : Instr) (f : LongF) (kind : Nat) : Host.Outcome State Fault Refusal :=
  issuing s (fun c x =>
    let act := c.act x i
    let pi := f.m.toNat % 64
    let h := if kind = 1 || kind = 3 then (x.s (bReg f)).toNat else 0
    match feCause c x i with
    | some fa => trapAtIssue s c 0x09 fa
    | none =>
      if act = 0 then s
      else if pipeBad s c.warp x kind pi h then trapAtIssue s c 0x0C (BitVec.ofNat 64 pi)
      else acceptPipe s c x kind pi f.t.toNat h)

def execPrsv (f : LongF) (s : State) : Host.Outcome State Fault Refusal := pipeOp s (.prsv f) f 0
def execPcmt (f : LongF) (s : State) : Host.Outcome State Fault Refusal := pipeOp s (.pcmt f) f 1
def execPacq (f : LongF) (s : State) : Host.Outcome State Fault Refusal := pipeOp s (.pacq f) f 2
def execPrel (f : LongF) (s : State) : Host.Outcome State Fault Refusal := pipeOp s (.prel f) f 3
def execPpoll (f : LongF) (s : State) : Host.Outcome State Fault Refusal := pipeOp s (.ppoll f) f 4
def execPclose (f : LongF) (s : State) : Host.Outcome State Fault Refusal := pipeOp s (.pclose f) f 5

/-! The pipe unit. -/

/-- Completing an operation: it leaves the pipe's list and its token fills; the stage's last fill is noted (R348). -/
def pipeDone (s : State) (p pi : Nat) (o : PipeOp) (val : Nat) : State :=
  let st := match s.pipe? p pi with
    | some q => if o.kind ≤ 1 then q.src else q.dst
    | none => 16
  let s := s.modPipe p pi (fun q => { q with ops := q.ops.filter (fun a => a.wid != o.wid) })
  let s := if o.kind ≤ 3 then watchDeadlock (s.modStage p st (fun g => { g with lastFill := s.gtime })) p else s
  fillToken s o.wid [.s o.reg (BitVec.ofNat 32 val)]

/-- Whether a video decoder, by its source number (R386), is at work: the producer of its reservations (R353). -/
def decoderBusy (s : State) (src : Nat) : Bool :=
  let n := src - 49152
  decide (49152 ≤ src) && decide (544 ≤ n % 4096) && decide (n % 4096 < 548) &&
    (mfind (s.die (n / 4096)).decs (n % 4096 - 544)).isSome
/-- Reserving the next sequence for a PRSV or a decoder (R223, R336, R338, R353); a producer that is no more leaves it
ABANDONED (R210, R228). -/
def reserveFor (s : State) (p pi : Nat) (q : PipeSt) (o : PipeOp) : State :=
  let n := q.nextP
  let alive := warpAlive s o.warp || decoderBusy s o.warp
  let ring := match mfind s.plans p with
    | some pl => if pl.sring = 0 ∨ pl.sringsz = 0 then 0 else pl.sring + 64 * (o.order % pl.sringsz)
    | none => 0
  let e : PipeEntry :=
    { seq := n, slot := n % q.depth, status := 0, state := 0, spilled := none,
      wasSpilled := false, producer := o.src, consumer := 0xFFFF, holder := o.warp, stamp := ring,
      reserve := s.gtime, offs := List.replicate 8 0xFFFFFFFF, restarted := false, bad := false, payload := [] }
  let s := s.modPipe p pi (fun q => { q with nextP := n + 1, entries := q.entries ++ [e] })
  let s := if alive then s else abandonSlot p pi s e
  pipeDone (s.after 0 (.pacqFill p pi)) p pi o (pipeHandle 0 pi (n % q.depth) n)

/-- A PRSV that ends without an entry gives its number back (R476): those accepted after it that still wait move up.
(DEDUCED, log 32) -/
def dropOrder (s : State) (p k : Nat) : State :=
  s.modPlan p (fun pl =>
    let later := pl.pipes.flatMap (fun q => (q.2.ops.filter (fun o => o.kind == 0 && decide (k < o.order))).map (·.order))
    let before := fun (n : Nat) => later.foldl (fun m a => if a < n then max m a else m) k
    let last := later.foldl max k
    let up := fun (o : PipeOp) => if o.kind = 0 ∧ k < o.order then { o with order := before o.order } else o
    { pl with stamps := if last + 1 = pl.stamps then last else pl.stamps,
              pipes := pl.pipes.map (fun q => (q.1, { q.2 with ops := q.2.ops.map up })) })
/-- The head of the reservation order (R223); none while it waits. -/
def prsvHead (s : State) (p pi : Nat) : Option State :=
  match s.pipe? p pi with
  | none => none
  | some q =>
    match q.ops.find? (fun o => o.kind == 0) with
    | none => none
    | some o =>
      if (s.core o.core).revoked then some (dropOrder (pipeDone s p pi o (pipeHandle 4 pi 0 0)) p o.order)
      else if q.pClosed || q.cClosed then some (dropOrder (pipeDone s p pi o (pipeHandle 5 pi 0 0)) p o.order)
      else if slotFree q q.nextP then some (reserveFor s p pi q o)
      else none
/-- Repeating a pipe step while it can be taken, at most once per accepted operation. -/
def pipeRun (f : State → Option State) (s : State) : Nat → State
  | 0 => s
  | n + 1 =>
    match f s with
    | none => s
    | some t => pipeRun f t n
def pipeOpCount (s : State) (p pi : Nat) : Nat :=
  match s.pipe? p pi with
  | some q => q.ops.length
  | none => 0
def execPrsvFill (p pipe : Nat) (s : State) : Host.Outcome State Fault Refusal :=
  done (pipeRun (fun s => prsvHead s p pipe) s (pipeOpCount s p pipe))

/-- Looking again at the stores an operation waits for. -/
def lookOps (s : State) (p pi : Nat) : State :=
  s.modPipe p pi (fun q => { q with ops := q.ops.map (fun o => { o with wait := o.wait.look s }) })
/-- A copy that has not completed. -/
def copyPending (s : State) (id : Nat) : Bool := s.cores.any (fun c => c.2.tce.any (fun t => t.wid == id))

/-- Performing a commit (R224): nothing is delivered if the consumer's end has closed; to another device it goes as a
remote write (R343). An entry that is no longer RESERVED, its storage having been reset (R344), stays as it is. -/
def commitOp (s : State) (p pi : Nat) (q : PipeSt) (o : PipeOp) : State :=
  match q.entries.find? (fun e => some e.seq == o.seqNo) with
  | none => pipeDone s p pi o 0
  | some e =>
    let e5 := stampField s 5 e
    if e.state != 0 then pipeDone s p pi o 0
    else if q.cClosed then
      pipeDone (vacate s p pi { e5 with status := o.status }) p pi o (pipeHandle 5 pi 0 0)
    else
      let f := { e5 with status := o.status, state := 1 }
      let s := tellCommit (s.modPipe p pi (fun q => q.modEntry e.seq (fun _ => f))) p pi q f
      pipeDone (s.after 0 (.pacqFill p pi)) p pi o 0
/-- The first commit of a pipe that is due. -/
def commitHead (s : State) (p pi : Nat) : Option State :=
  match s.pipe? p pi with
  | none => none
  | some q =>
    (q.ops.find? (fun o => o.kind == 1 && o.wait.isDone s && !o.tces.any (copyPending s))).map (commitOp s p pi q)
/-- Commits whose stores and copies have completed take effect; the others are looked at again. -/
def execPcmtCommit (p pipe : Nat) (s : State) : Host.Outcome State Fault Refusal :=
  let s := lookOps s p pipe
  let t := pipeRun (fun s => commitHead s p pipe) s (pipeOpCount s p pipe)
  match t.pipe? p pipe with
  | some q => done (if q.ops.any (fun o => o.kind == 1) then t.after t.lat.pipe (.pcmtCommit p pipe) else t)
  | none => done t

/-- A PACQ that leaves unfilled passes its sequence to the one behind it (R225). -/
def passSeq (q : PipeSt) (wid : Nat) : PipeSt :=
  let ws := q.ops.filter (fun o => o.kind == 2)
  let later := ws.dropWhile (fun o => o.wid != wid)
  let nums := later.filterMap (·.seqNo)
  let new := (later.drop 1).zip nums
  let upd := fun (o : PipeOp) => match new.find? (fun e => e.1.wid == o.wid) with
    | some (_, n) => { o with seqNo := some n }
    | none => o
  let ops := q.ops.map upd
  match nums.getLast? with
  | none => q
  | some n =>
    if n + 1 = q.nextC then { q with ops := ops, nextC := n }
    else { q with ops := ops, cHoles := q.cHoles.takeWhile (· < n) ++ [n] ++ q.cHoles.dropWhile (· < n) }

/-- Delivering an entry to a PACQ (R225): an acquire of the payload at PKG scope; a warp that is no more releases it. -/
def deliver (s : State) (p pi : Nat) (e : PipeEntry) (o : PipeOp) : State :=
  let alive := warpAlive s o.warp
  let e6 := stampField s 6 e
  let e7 := { e6 with state := if alive then 2 else 3, holder := o.warp, consumer := o.src }
  let s := stampSpill (s.modPipe p pi (fun q => q.modEntry e.seq (fun _ => e7))) p pi e7
  let s := if alive ∧ o.warp < 10 ^ 6 then acquire s o.warp true else s
  let s := if alive then s else s.after 0 (.prelRecord p pi)
  pipeDone s p pi o (pipeHandle e.status pi e.slot e.seq)

/-- What one waiting PACQ gets now, if anything (R225, R228). (DEDUCED, log 32) -/
def pacqOne (s : State) (p pi : Nat) (q : PipeSt) (o : PipeOp) : Option State :=
  let leave := fun (st : Nat) =>
    pipeDone (s.modPipe p pi (fun q => passSeq q o.wid)) p pi o (pipeHandle st pi 0 0)
  if (s.core o.core).revoked then some (leave 4)
  else if q.cClosed then some (leave 5)
  else match q.entries.find? (fun e => some e.seq == o.seqNo && e.state == 1) with
    | some e => some (deliver s p pi e o)
    | none =>
      if q.pClosed && !q.entries.any (fun e => e.state == 0) && decide (q.nextP ≤ o.seqNo.getD 0) then some (leave 5) else none
def pacqHead (s : State) (p pi : Nat) : Option State :=
  match s.pipe? p pi with
  | none => none
  | some q => if q.consHere then (q.ops.filter (fun o => o.kind == 2)).findSome? (pacqOne s p pi q) else none
def execPacqFill (p pipe : Nat) (s : State) : Host.Outcome State Fault Refusal :=
  done (pipeRun (fun s => pacqHead s p pipe) s (pipeOpCount s p pipe))

/-- Releases are recorded (R226), and entries released at exit leave (R228). -/
def releaseHead (s : State) (p pi : Nat) : Option State :=
  match s.pipe? p pi with
  | none => none
  | some q =>
    match q.ops.find? (fun o => o.kind == 3) with
    | some o =>
      let t := match q.entries.find? (fun e => some e.seq == o.seqNo) with
        | some e => vacate s p pi (stampField s 7 e)
        | none => s
      some (pipeDone t p pi o 0)
    | none => (q.entries.find? (fun e => e.state == 3)).map (fun e => vacate s p pi (stampField s 7 e))
def execPrelRecord (p pipe : Nat) (s : State) : Host.Outcome State Fault Refusal :=
  let n := match s.pipe? p pipe with
    | some q => q.ops.length + q.entries.length
    | none => 0
  done ((pipeRun (fun s => releaseHead s p pipe) s n).after 0 (.prsvFill p pipe))

/-- Slots filled and not yet assigned, and slots free (R227). -/
def pipeFilled (q : PipeSt) : Nat :=
  (q.entries.filter (fun e => e.state == 1 && (decide (q.nextC ≤ e.seq) || q.cHoles.contains e.seq))).length
def pipeFree (q : PipeSt) : Nat := ((List.range q.depth).filter (fun i => slotFree q (q.nextP + i))).length
/-- The oldest PPOLL of a pipe gets its snapshot, with the counts of the consumer's and the producer's side. -/
def pollWith (s : State) (p pi filled free : Nat) : Option State :=
  match s.pipe? p pi with
  | none => none
  | some q =>
    (q.ops.find? (fun o => o.kind == 4)).map (fun o =>
      pipeDone s p pi o ((if q.pClosed || q.cClosed then 5 else 0) * 2 ^ 29 + filled % 8192 * 2 ^ 13 + free % 8192))
/-- Both counts are here, or the far side is closed or lost. -/
def pollHead (s : State) (p pi : Nat) : Option State :=
  match s.pipe? p pi with
  | none => none
  | some q => if q.remote.isNone || q.pClosed || q.cClosed then pollWith s p pi (pipeFilled q) (pipeFree q) else none
/-- PPOLL (R227, R340): free is the producer's side's count, filled the consumer's; of a place-1 pipe the peer is asked for its own,
kind 36, and tells it; a peer that asks is told this side's, kind 37. (DEDUCED, log 38) -/
def execPpollSnapshot (p : Nat) (x : PollAt) (s : State) : Host.Outcome State Fault Refusal :=
  match x with
  | .here pi =>
    let t := pipeRun (fun s => pollHead s p pi) s (pipeOpCount s p pi)
    (match t.pipe? p pi with
    | some q => match q.remote with
      | some (dev, _) => done (if q.ops.any (fun o => o.kind == 4) then t.tell 36 [dev, p, pi] else t)
      | none => done t
    | none => done t)
  | .answer pi n =>
    (match s.pipe? p pi with
    | some q =>
      let r := if q.consHere then pollWith s p pi (pipeFilled q) n else pollWith s p pi n (pipeFree q)
      done (if q.remote.isNone then s else r.getD s)
    | none => done s)
  | .asked dev pi =>
    match s.pipe? p pi with
    | some q => done (s.tell 37 [dev, p, pi, if q.consHere then pipeFilled q else pipeFree q])
    | none => done s

/-- Closing the consumer's end frees what is committed and not acquired (R228). -/
def closeCons (s : State) (p pi : Nat) : State :=
  let s := s.modPipe p pi (fun q => { q with cClosed := true })
  match s.pipe? p pi with
  | none => s
  | some q => (q.entries.filter (fun e => e.state == 1)).foldl (fun s e => vacate s p pi e) s
def closeProd (s : State) (p pi : Nat) : State := s.modPipe p pi (fun q => { q with pClosed := true })
/-- The waiting operations are looked at again. -/
def pipeAgain (s : State) (p pi : Nat) : State :=
  let s := (s.after 0 (.prsvFill p pi)).after 0 (.pacqFill p pi)
  match s.pipe? p pi with
  | some q => if q.ops.any (fun o => o.kind == 4) && (q.pClosed || q.cClosed) then s.after 0 (.ppollSnapshot p (.here pi)) else s
  | none => s
def closeHead (s : State) (p pi : Nat) : Option State :=
  match s.pipe? p pi with
  | none => none
  | some q =>
    match q.ops.find? (fun o => o.kind == 5) with
    | none => none
    | some o =>
      let t := if q.prodHere && q.src == o.stage then closeProd s p pi else closeCons s p pi
      let t := match q.remote with
        | some (dev, _) => t.tell 30 [dev, p, pi]
        | none => t
      some (pipeDone t p pi o 0)
def execPcloseRecord (p pipe : Nat) (s : State) : Host.Outcome State Fault Refusal :=
  done (pipeAgain (pipeRun (fun s => closeHead s p pipe) s (pipeOpCount s p pipe)) p pipe)

/-! The far end (R342 to R344). -/

/-- What a consumer's device sends of its end when its plan starts (R342): report kind 29 with the peer, its own device,
the plan slot, the pipe, the fields compared, the index its entry gives the far end (R341), and the vacated table. -/
def tellEnd (s : State) (p pi : Nat) (q : PipeSt) : State :=
  match q.remote with
  | some (dev, _) => s.tell 29 ([dev, s.device, p, pi, boolNat q.prodHere, q.depth, q.bytes, q.rows, q.cols, q.fmt,
      if q.prodHere then q.dst else q.src] ++
      (List.range q.depth).map (fun i => mget q.released i 0))
  | none => s
/-- The peer's entry arrives (R342): the two match, or both ends close and Toltar hears of it, kind 8; so too if the index it gives
the far end is no stage here (R341: DEDUCED, log 38); a peer whose end has been closed closes that end here (R228). -/
def execPipeMatch (p pipe : Nat) (peer : PeerPipe) (s : State) : Host.Outcome State Fault Refusal :=
  match s.pipe? p pipe with
  | none => done s
  | some q =>
    match q.remote with
    | none => done s
    | some (dev, consumer) =>
      let far := fun (s : State) =>
        if !peer.closed then s else if consumer then closeProd s p pipe else closeCons s p pipe
      if peer.dev = dev ∧ peer.names = s.device ∧ peer.prod = consumer ∧ peer.depth = q.depth ∧ peer.bytes = q.bytes ∧ peer.rows = q.rows ∧
          peer.cols = q.cols ∧ peer.fmt = q.fmt ∧ (s.stage? p peer.stage).isSome then
        let take := fun (q : PipeSt) => peer.vacated.zipIdx.foldl (fun q e => if e.1 = 0 then q else markVacated q e.2 (e.1 - 1)) q
        done (pipeAgain (far (s.modPipe p pipe (fun q =>
          { (if consumer then q else take q) with matched := true }))) p pipe)
      else done (pipeAgain ((closeProd (closeCons s p pipe) p pipe).tell 8 [p, pipe]) p pipe)
/-- What a vacate from the consumer's device adds to the record of its entry (R397). -/
def markOver (m : VacateMark) (e : PipeEntry) : PipeEntry :=
  if e.seq ≠ m.seq then e else
  { e with status := m.status % 4, consumer := m.consumer, offs := (e.offs.set 6 m.acquire).set 7 m.release,
           wasSpilled := m.spilled, restarted := m.restarted }
/-- The consumer's device tells of a vacate (R343): the slot is free; the entry, or an earlier one of the slot that the write
covers, has left the pipe and its stamp record is written (R336, R398), but for one that has been spilled and lives on. -/
def execPipeVacateMirror (p pipe slot : Nat) (mark : VacateMark) (s : State) : Host.Outcome State Fault Refusal :=
  match s.pipe? p pipe with
  | none => done s
  | some q =>
    if q.remote.isSome && q.prodHere && decide (slot < q.depth) then
      let gone := fun (e : PipeEntry) => e.slot == slot &&
        ((e.seq == mark.seq && mark.left) || (decide (e.seq < mark.seq) && !e.wasSpilled))
      let t := (q.entries.filter gone).foldl (fun s e => writeStamp s p pipe (markOver mark e)) s
      let upd := fun (q : PipeSt) =>
        markVacated { q with entries := (q.entries.filter (fun e => !gone e)).map (markOver mark) } slot mark.seq
      done (pipeAgain (t.modPipe p pipe upd) p pipe)
    else done s
/-- A remote commit arrives and counts as filled (R343). -/
def execCommitArrival (p pipe seq : Nat) (mark : CommitMark) (payload : List Byte) (s : State) : Host.Outcome State Fault Refusal :=
  match s.pipe? p pipe with
  | none => done s
  | some q =>
    if q.remote.isNone || !q.consHere || q.entries.any (fun e => e.seq == seq) then done s else
    let e : PipeEntry :=
      { seq := seq, slot := seq % q.depth, status := mark.status % 4, state := 1, spilled := none, wasSpilled := false,
        producer := mark.producer, consumer := 0xFFFF, holder := deadKey, stamp := mark.stamp, reserve := mark.reserve,
        offs := (List.range 8).map (fun i => mark.offs.getD i 0xFFFFFFFF), restarted := false, bad := false, payload := memWrite [] 0 (payload.take q.bytes) }
    let s := s.modPipe p pipe (fun q =>
      { q with
        nextP := max q.nextP (seq + 1)
        entries := q.entries.takeWhile (fun f => decide (f.seq < seq)) ++ [e] ++ q.entries.dropWhile (fun f => decide (f.seq < seq)) })
    done (if q.cClosed then vacate s p pipe e else s.after 0 (.pacqFill p pipe))
/-- At the consumer's device, sequences whose commits have not arrived are not delivered (R344): the PACQs that wait are
given the entries that are there, in order, and behind them sequences that none will bear. -/
def closeGaps (q : PipeSt) : PipeSt :=
  let have_ := (q.entries.filter (fun e => e.state == 1)).map (·.seq)
  let ws := (q.ops.filter (fun o => o.kind == 2)).zipIdx
  let give := fun (i : Nat) => have_.getD i (q.nextP + (i - have_.length))
  let upd := fun (o : PipeOp) => match ws.find? (fun e => e.1.wid == o.wid) with
    | some (_, i) => { o with seqNo := some (give i) }
    | none => o
  { q with ops := q.ops.map upd, cHoles := have_.drop ws.length, nextC := q.nextP + (ws.length - have_.length) }
/-- The path between the ends is lost (R344): each end takes the other for closed. (DEDUCED, log 37) -/
def loseLink (s : State) (p pi : Nat) : State :=
  match s.pipe? p pi with
  | none => s
  | some q =>
    if q.remote.isNone then s else
    pipeAgain (s.modPipe p pi (fun q => if q.consHere then closeGaps { q with pClosed := true } else { q with cClosed := true })) p pi
def execPipeLinkLoss (p pipe : Nat) (s : State) : Host.Outcome State Fault Refusal := done (loseLink s p pipe)

/-! Spilling (R345, R346). -/

/-- The header of an entry (R336). -/
def slotHeader (pi : Nat) (q : PipeSt) (e : PipeEntry) (loc : Nat) : List Byte :=
  leBytes 8 e.seq ++ leBytes 1 e.status ++ leBytes 1 loc ++ leBytes 1 pi ++ leBytes 1 q.fmt ++ leBytes 2 q.rows ++
    leBytes 2 q.cols ++ leBytes 4 q.bytes ++ leBytes 2 e.producer ++ leBytes 2 0 ++ leBytes 8 e.stamp ++ leBytes 32 0
/-- Spilling one entry (R346), and whether it spilled; none if the pipe cannot spill. A translation or ECC failure leaves the
entry pinned and is told to Toltar, kind 9. -/
def spillOne (s : State) (p pi : Nat) : Option (Bool × State) :=
  match mfind s.plans p, s.pipe? p pi with
  | some pl, some q =>
    let assigned := fun (e : PipeEntry) => q.ops.any (fun o => o.kind == 2 && o.seqNo == some e.seq)
    (match q.entries.find? (fun e => e.state == 1 && e.spilled.isNone && !assigned e),
        (List.range q.spillN).find? (fun x => !mget q.spillUse x false) with
    | some e, some x =>
      if q.entries.any (fun f => f.slot == e.slot && f.spilled.isSome) then none else
      let a := q.spill + footprint q.bytes * x
      let img := slotHeader pi q e 1 ++ stampBytes p pi { e with wasSpilled := true } ++ memRead e.payload 0 q.bytes
      (match if e.bad then none else vWrite s pl.asid a img with
      | none => some (false, s.tell 9 [p, pi, e.seq])
      | some t =>
        let upd := fun (q : PipeSt) =>
          let q := q.modEntry e.seq (fun e => { e with spilled := some x, wasSpilled := true })
          markVacated { q with spillUse := mset q.spillUse x true } e.slot e.seq
        some (true, pipeAgain (tellVacate (t.modPipe p pi upd) p pi q { e with wasSpilled := true } false) p pi))
    | _, _ => none)
  | _, _ => none

/-! Deadlock (R348 to R350). -/

/-- The live warps of a stage, resident and pre-empted, by name. -/
def stageWarps (s : State) (p st : Nat) : List Nat :=
  (s.warps.filter (fun e => e.2.plan == p && e.2.stage == st)).map (·.1) ++
    (s.saved.filter (fun v => v.warp.plan == p && v.warp.stage == st)).map (fun v => savedKey v.id)
/-- The waiting operations of a stage, a decoder's reservations among them (R348, R353): pipe, its state, operation, the
sequence waited for. (DEDUCED, log 38) -/
def stageWaits (pl : Plan) (st : Nat) : List (Nat × PipeSt × PipeOp × Nat) :=
  pl.pipes.flatMap (fun e =>
    let q := e.2
    let prsv := (q.ops.filter (fun o => o.kind == 0 && q.src == st)).zipIdx.map (fun o => (e.1, q, o.1, q.nextP + o.2))
    let pacq := (q.ops.filter (fun o => o.kind == 2 && q.dst == st)).map (fun o => (e.1, q, o, o.seqNo.getD 0))
    prsv ++ pacq)
/-- The GTIME since which a stage has been blocked, if it is (R348). -/
def blockedSince (s : State) (p : Nat) (pl : Plan) (st : Nat) : Option Nat :=
  let ws := stageWarps s p st
  let ops := (stageWaits pl st).map (fun e => e.2.2.1)
  if ws.isEmpty || !ws.all (fun w => ops.any (fun o => o.warp == w)) then none
  else
    let start := fun (w : Nat) => ((ops.filter (fun o => o.warp == w)).map (·.time)).foldl min s.gtime
    some ((ws.map start).foldl max ((pl.stages.map (·.lastFill)).getD st 0))
/-- A stage of the domain (R349): device, plan slot, stage index. -/
abbrev Node := Nat × Nat × Nat
/-- The stages of other devices that their Toltars describe, found by device and index. -/
def farNode (far : List FarStage) (dev st : Nat) : Option Node :=
  (far.find? (fun g => g.dev == dev && g.stage == st)).map (fun g => (g.dev, g.plan, g.stage))
/-- The edges of a stage: pipe, kind of wait, sequence waited for, and the stage at the far end, if it is known. Edges to
the far end of a place-1 pipe reach the peer's stage (R348). (DEDUCED, log 38) -/
def nodeWaits (s : State) (far : List FarStage) (n : Node) : List (Nat × Nat × Nat × Option Node) :=
  if n.1 = s.device then
    match mfind s.plans n.2.1 with
    | none => []
    | some pl => (stageWaits pl n.2.2).map (fun e =>
        let st := if e.2.2.1.kind = 0 then e.2.1.dst else e.2.1.src
        (e.1, e.2.2.1.kind, e.2.2.2, match e.2.1.remote with
          | none => some (n.1, n.2.1, st)
          | some (dev, _) => farNode far dev st))
  else match far.find? (fun g => (g.dev, g.plan, g.stage) == n) with
    | none => []
    | some g => g.waits.map (fun a => (a.pipe, a.kind, a.seq, some (a.dev, a.plan, a.stage)))
/-- Whether a stage has been blocked longer than its plan's window. -/
def nodeBlocked (s : State) (far : List FarStage) (n : Node) : Bool :=
  if n.1 = s.device then
    match mfind s.plans n.2.1 with
    | none => false
    | some pl => (blockedSince s n.2.1 pl n.2.2).any (fun t => decide (t + 1000 * pl.window < s.gtime))
  else (far.find? (fun g => (g.dev, g.plan, g.stage) == n)).any (fun g => g.since.any (fun t => decide (t + g.window < s.gtime)))
/-- The stages reachable along edges; none if an edge's far end is not known. -/
def reachable (s : State) (far : List FarStage) (acc : List Node) : Nat → Option (List Node)
  | 0 => some acc
  | n + 1 =>
    let es := acc.flatMap (fun st => (nodeWaits s far st).map (fun e => e.2.2.2))
    if es.any (·.isNone) then none else reachable s far (acc ++ es.filterMap id).eraseDups n
/-- The set of stages blocked longer than their windows that a stage reaches (R349). -/
def blockedSet (s : State) (far : List FarStage) (n : Node) : Option (List Node) :=
  (reachable s far [n] (16 + far.length)).filter (fun l => l.all (nodeBlocked s far))
/-- The lowest stage of a set: by device, then plan slot, then index. -/
def lowNode : List Node → Node
  | [] => (0, 0, 0)
  | [n] => n
  | n :: r =>
    let m := lowNode r
    if n.1 < m.1 ∨ (n.1 = m.1 ∧ (n.2.1 < m.2.1 ∨ (n.2.1 = m.2.1 ∧ n.2.2 ≤ m.2.2))) then n else m
/-- The stage an edge leaves. -/
def ProbeEdge.node (e : ProbeEdge) : Node := (e.dev, e.plan, e.stage)
/-- The probe's walk from a stage (R349): the edges of the cycle it closes, empty where it closes none. -/
def probeWalk (s : State) (far : List FarStage) (n : Node) (seen : List ProbeEdge) : Nat → List ProbeEdge
  | 0 => []
  | k + 1 =>
    if seen.any (fun e => e.node == n) then seen.dropWhile (fun e => e.node != n) else
    match nodeWaits s far n with
    | (pi, kind, sq, some nxt) :: _ =>
      probeWalk s far nxt (seen ++ [{ dev := n.1, plan := n.2.1, stage := n.2.2, pipe := pi, kind := kind, seq := sq }]) k
    | _ => []
/-- The cycle that the probe of a set finds. -/
def probeCycle (s : State) (far : List FarStage) (l : List Node) : List ProbeEdge :=
  probeWalk s far (lowNode l) [] (l.length + 1)
/-- A set of a plan's that is to be reported: nothing more is of a cycle recorded as unresolved (R350). -/
def reportable (s : State) (p : Nat) (pl : Plan) (far : List FarStage) : Option (List Node) :=
  (List.range pl.stages.length).findSome? (fun st =>
    (blockedSet s far (s.device, p, st)).filter (fun l => !pl.unresolved.contains (probeCycle s far l)))
/-- When a stage of the plan that is blocked will next have been so for longer than the window. -/
def watchNext (s : State) (p : Nat) (pl : Plan) : State :=
  let due := (List.range pl.stages.length).filterMap (fun st =>
    ((blockedSince s p pl st).map (· + 1000 * pl.window)).filter (fun t => decide (s.gtime ≤ t)))
  match due with
  | [] => s
  | t :: r => s.inTime (r.foldl min t - s.gtime + 1) (.deadlockReport ⟨p, []⟩)
/-- What the peers' Toltars say of their stages is kept (R349). -/
def noteFar (s : State) (set : BlockedSet) : State :=
  if set.far.isEmpty then s else s.modPlan set.plan (fun q => { q with far := set.far })
/-- Whether a cycle has an edge of another device. -/
def crosses (s : State) (c : List ProbeEdge) : Bool := c.any (fun e => e.dev != s.device)
/-- Whether a probe of the plan still has its window to be confirmed in. -/
def probing (s : State) (pl : Plan) : Bool := pl.probe.isSome && decide (s.gtime ≤ pl.reported.getD 0 + 1000 * pl.window)
/-- A blocked set is reported to Toltar, kind 10, which sends its probe; while another of the plan is followed, it waits.
`set.far` is what the peers' Toltars say of their stages. -/
def execDeadlockReport (set : BlockedSet) (s : State) : Host.Outcome State Fault Refusal :=
  let p := set.plan
  let s := noteFar s set
  match mfind s.plans p with
  | none => done s
  | some pl =>
    if pl.drain.isSome || probing s pl then done (s.after s.lat.toltar (.deadlockReport ⟨p, []⟩)) else
    if s.gtime < pl.quiet then done (s.untilTime pl.quiet (.deadlockReport ⟨p, []⟩)) else
    match reportable s p pl pl.far with
    | none => done (watchNext s p pl)
    | some l =>
      let s := (s.tell 10 (p :: l.flatMap (fun n => [n.1, n.2.1, n.2.2]))).modPlan p (fun q =>
        { q with reported := some s.gtime, probe := none })
      done (s.after s.lat.toltar (.deadlockProbe ⟨p, []⟩))
/-- An edge as a report names it. -/
def ProbeEdge.data (e : ProbeEdge) : List Nat := [e.dev, e.plan, e.stage, e.pipe, e.kind, e.seq]
/-- The probe's first pass finds a cycle; the second confirms it if every edge still waits at the same sequence. Across devices it
passes through the peers' Toltars: they are asked, kind 38, and their answer is the second pass; without one the report
is repeated. -/
def execDeadlockProbe (set : BlockedSet) (s : State) : Host.Outcome State Fault Refusal :=
  let p := set.plan
  let s := noteFar s set
  match mfind s.plans p with
  | none => done s
  | some pl =>
    let again := (s.modPlan p (fun q => { q with probe := none, quiet := s.gtime + 1000 * pl.window + 1 })).inTime
      (1000 * pl.window + 1) (.deadlockReport ⟨p, []⟩)
    match pl.probe with
    | none =>
      (match reportable s p pl pl.far with
      | none => done again
      | some l =>
        let c := probeCycle s pl.far l
        if c.isEmpty then done again else
        let s := s.modPlan p (fun q => { q with probe := some c })
        if crosses s c then
          done ((s.tell 38 (p :: c.flatMap ProbeEdge.data)).inTime (1000 * pl.window + 1) (.deadlockReport ⟨p, []⟩))
        else done (s.after s.lat.toltar (.deadlockProbe ⟨p, []⟩)))
    | some c =>
      let holds := fun (e : ProbeEdge) =>
        (nodeWaits s pl.far e.node).any (fun a => a.1 == e.pipe && a.2.1 == e.kind && a.2.2.1 == e.seq)
      if pl.drain.isSome || (crosses s c && set.far.isEmpty) then done s
      else if c.all holds then
        done ((s.modPlan p (fun q => { q with drain := some ⟨0, false, none, false⟩ })).after 0 (.deadlockDrain (.turn p)))
      else done again
/-- A full pipe of a cycle (R350): device and die of storage and pipe index as one number, the plan here that stores it,
if it is stored here, and its index. -/
abbrev FullPipe := Nat × Option Nat × Nat
/-- Where the pipe of an edge is stored (R341): for a place-1 pipe on the consumer's device. -/
def storedAt (s : State) (e : ProbeEdge) (nxt : Node) : FullPipe :=
  let key := fun (dev die : Nat) => (dev * 4 + die) * 64 + e.pipe
  let here := fun (plan : Nat) => match s.pipe? plan e.pipe with
    | some q => if q.consHere then (key s.device q.die, some plan, e.pipe) else (key (q.remote.elim 0 (·.1)) 0, none, e.pipe)
    | none => (key e.dev 0, none, e.pipe)
  if e.dev = s.device then here e.plan
  else if nxt.1 = s.device then here nxt.2.1 else (key e.dev 0, none, e.pipe)
/-- The full pipes of a cycle in the order of its edges, from the lowest on (R350). -/
def fullPipes (s : State) (c : List ProbeEdge) : List FullPipe :=
  let nxt := (c.drop 1 ++ c.take 1).map ProbeEdge.node
  let l := ((c.zip nxt).filter (fun e => e.1.kind == 0)).map (fun e => storedAt s e.1 e.2)
  let low := match l with
    | [] => 0
    | f :: r => r.foldl (fun m g => min m g.1) f.1
  l.dropWhile (fun f => f.1 != low) ++ l.takeWhile (fun f => f.1 != low)
/-- Whether a stage had a pipe token fill within 1 µs after a spill. -/
def filledSince (s : State) (p st t : Nat) : Bool :=
  (s.stage? p st).any (fun g => decide (t ≤ g.lastFill) && decide (g.lastFill ≤ t + 1000))
/-- The drain of a plan ends; another blocked set may wait (R349). -/
def endDrain (s : State) (p : Nat) : State :=
  (s.modPlan p (fun q => { q with drain := none, probe := none })).after 0 (.deadlockReport ⟨p, []⟩)
/-- The next turn of a drain (R350): a spill, or the next pipe; the drain ends once a token of the cycle has filled, or when
a whole round spilled nothing, which Toltar records, kind 11. A pipe stored on a peer is spilled there, kind 31, and the peers of a
cycle are asked after a spill whether a token of theirs has filled, kind 40; their answer is awaited. (DEDUCED, log 38) -/
def drainTurn (s : State) (p : Nat) (pl : Plan) (d : Drain) (c : List ProbeEdge) : State :=
  let go := fun (s : State) (d : Drain) => s.modPlan p (fun q => { q with drain := some d })
  let filled := fun (t : Nat) => c.any (fun e => e.dev == s.device && filledSince s e.plan e.stage t)
  let next :=
    let l := fullPipes s c
    match l[d.pos]? with
    | none =>
      if d.any then (go s ⟨0, false, none, false⟩).after 0 (.deadlockDrain (.turn p))
      else ((endDrain s p).modPlan p (fun q => { q with unresolved := c :: pl.unresolved })).tell 11 [p]
    | some (key, none, pi) => go (s.tell 31 (p :: key :: pi :: c.flatMap ProbeEdge.data)) ⟨d.pos + 1, d.any, none, true⟩
    | some (_, some pp, pi) =>
      match spillOne s pp pi with
      | some (true, t) => (go t ⟨d.pos + 1, true, some s.gtime, false⟩).inTime 1000 (.deadlockDrain (.turn p))
      | some (false, t) => (go t ⟨d.pos + 1, d.any, none, false⟩).after 0 (.deadlockDrain (.turn p))
      | none => (go s ⟨d.pos + 1, d.any, none, false⟩).after 0 (.deadlockDrain (.turn p))
  if d.asked then s else
  match d.last with
  | none => next
  | some t =>
    if filled t then endDrain s p
    else if s.gtime < t + 1000 then s.untilTime (t + 1000) (.deadlockDrain (.turn p))
    else if crosses s c then go (s.tell 40 (p :: t :: c.flatMap ProbeEdge.data)) { d with last := none, asked := true }
    else next
/-- A turn of a drain, and a peer's part in one. -/
def execDeadlockDrain (x : DrainTurn) (s : State) : Host.Outcome State Fault Refusal :=
  match x with
  | .turn p =>
    (match mfind s.plans p with
    | none => done s
    | some pl => match pl.drain, pl.probe with
      | some d, some c => done (drainTurn s p pl d c)
      | _, _ => done s)
  | .told p spilled filled =>
    (match mfind s.plans p with
    | none => done s
    | some pl => match pl.drain with
      | none => done s
      | some d =>
        if !d.asked then done s
        else if filled then done (endDrain s p)
        else done ((s.modPlan p (fun q => { q with drain := some { d with any := d.any || spilled, asked := false } })).after 0
          (.deadlockDrain (.turn p))))
  | .asked dev p pi stages =>
    (match spillOne s p pi with
    | some (true, t) => done (t.inTime 1000 (.deadlockDrain (.judged dev p pi s.gtime stages)))
    | some (false, t) => done (t.tell 39 [dev, p, pi, 2])
    | none => done (s.tell 39 [dev, p, pi, 2]))
  | .judged dev p pi t stages =>
    if s.gtime < t + 1000 then done (s.untilTime (t + 1000) (.deadlockDrain x))
    else done (s.tell 39 [dev, p, pi, boolNat (stages.any (fun st => filledSince s p st t))])

end Sys2Proof.Machine
end

