-- ==== Sys2Proof/Machine/Tce.lean ====
section
/-!
DEFINITION. The tensor copy engine (R230 to R235): TCOPY, the descriptor, and the copy.
-/

namespace Sys2Proof.Machine

/-- A descriptor (R231): dimensions as extent, source stride, destination stride. -/
structure CopyDesc where
  src : Nat
  dst : Nat
  sspace : Nat
  dspace : Nat
  esize : Nat
  conv : Nat
  wmode : Nat
  wmconst : Nat
  swm : Nat
  dwm : Nat
  ssw : Nat
  dsw : Nat
  dims : List (Nat × Int × Int)
  deriving DecidableEq, Repr

/-- Reading a descriptor; none where it breaks R231 or the element sizes of R232. -/
def copyDesc (b : List Byte) : Option CopyDesc :=
  let f := field b
  let nd := f 19 1
  let dim := fun (j : Nat) => (f (64 + 16 * j) 4, intOf 48 true (f (68 + 16 * j) 6), intOf 48 true (f (74 + 16 * j) 6))
  let d : CopyDesc :=
    { src := f 0 8, dst := f 8 8, sspace := f 16 1, dspace := f 17 1, esize := 2 ^ f 18 1, conv := f 20 1, wmode := f 21 1,
      wmconst := f 22 2, swm := f 24 4, dwm := f 28 4, ssw := f 32 1 % 8, dsw := f 32 1 / 8 % 8,
      dims := (List.range nd).map dim }
  if d.sspace ≤ 3 && d.dspace ≤ 3 && f 18 1 ≤ 3 && 1 ≤ nd && nd ≤ 12 && d.conv ≤ 2 && d.wmode ≤ 2 && f 32 1 < 64 &&
      f 33 23 == 0 && d.dims.all (fun e => 1 ≤ e.1) && f (64 + 16 * nd) (192 - 16 * nd) == 0 &&
      (d.conv != 1 || d.esize == 4) && (d.conv != 2 || d.esize == 2) then some d else none

/-- The bytes of a destination element. -/
def CopyDesc.dsize (d : CopyDesc) : Nat := if d.conv = 1 then 2 else if d.conv = 2 then 4 else d.esize

/-- The offsets of every tuple from the given dimensions, innermost first: source and destination. -/
def copyOffsets : List (Nat × Int × Int) → List (Int × Int)
  | [] => [(0, 0)]
  | (n, a, b) :: r =>
    (copyOffsets r).flatMap (fun o => (List.range n).map (fun (i : Nat) => (o.1 + i * a, o.2 + i * b)))

/-- What a copy needs to know: the core, the issuer's name and address space, and its warp, or what the command keeps of one
that is no more (R220). -/
structure CopyEnv where
  core : Nat
  warp : Nat
  asid : Nat
  seq  : Nat
  x    : Option Warp
/-- The issuer of a queued copy. -/
def TceCmd.issuer (t : TceCmd) (s : State) : Warp :=
  (warpByKey s t.warp).getD
    { Warp.fresh with asid := t.asid, plan := t.plan, stage := t.stage, groups := t.groups, insts := t.insts }
/-- The slot a handle of the issuer names (R231): one it holds, or one that was ABANDONED when it was terminated, since
its copies still run (R220). -/
def copySlot (s : State) (v : CopyEnv) (x : Warp) (h : Nat) : Option (Nat × PipeEntry) :=
  match heldEntry s v.warp x h true true with
  | some r => some r
  | none =>
    (s.pipe? x.plan (natBits h 27 22)).bind (fun q => (q.entries.find? (fun e => e.holder == v.warp && e.state == 1 &&
      e.status == 3 && e.slot == natBits h 21 10 && e.seq % 1024 == h % 1024)).map (fun e => (natBits h 27 22, e)))

/-- Where one byte lies: a memory key, an operand-store address of a core, or a payload byte of an entry. -/
inductive CopyPlace where
  | mem (key : Nat) (e : TlbEntry)
  | spad (core addr : Nat)
  | slot (plan pi seq off : Nat)

/-- A global byte (R234, R284): PAGE is code 2, PROT code 3. -/
def copyGlobal (s : State) (v : CopyEnv) (va : Nat) (n : Need) : Got CopyPlace :=
  let fa := BitVec.ofNat 64 va
  if va ≥ 2 ^ 57 then .fail 2 fa else
  match coreXlate s v.core v.asid va with
  | some e =>
    if !n.ok e then .fail 3 fa
    else if homeDown s (dieOfCore v.core) (e.key s va) then .miss va else .ok (.mem (e.key s va) e)
  | none =>
    match findWalk s v.warp v.seq va with
    | some k => if k.declined then .fail 2 fa else .miss va
    | none => .miss va
/-- A byte of a space at an address that holds a base and an offset (R231); RANGE is code 4. `sw` is the swizzle. -/
def copyPlace (s : State) (v : CopyEnv) (space base : Nat) (off : Int) (sw : Nat) (n : Need) : Got CopyPlace :=
  let range := fun (a : Int) => Got.fail 4 (BitVec.ofInt 64 a)
  match space with
  | 0 => copyGlobal s v (truncInt 64 (base + off)) n
  | 1 =>
    let a := (base % 2 ^ 19 : Nat) + off
    let b := swizzle sw a.toNat
    if a < 0 ∨ b ≥ (s.core v.core).spad then range a else .ok (.spad v.core b)
  | 2 =>
    let a := (base % 2 ^ 32 : Nat) + off
    let b := swizzle sw a.toNat
    match v.x.bind (fun x => peerCore s (128 * v.core) x (natBits base 37 36) (natBits base 35 32)) with
    | some c => if a < 0 ∨ b ≥ (s.core c).spad then range a else .ok (.spad c b)
    | none => range a
  | _ =>
    let o := (base / 2 ^ 32 : Nat) + off
    match v.x.bind (fun x => (copySlot s v x (base % 2 ^ 32)).map (fun e => (x, e))) with
    | none => range o
    | some (x, pi, e) =>
      match s.pipe? x.plan pi with
      | none => range o
      | some q =>
        if o < 0 ∨ o.toNat ≥ q.bytes then range o else
        match e.spilled with
        | none => .ok (.slot x.plan pi e.seq o.toNat)
        | some k => copyGlobal s v (q.spill + footprint q.bytes * k + 128 + o.toNat) n

/-- Reading a byte; ECC is code 5 (R286). -/
def copyRead (s : State) (p : CopyPlace) : Option Byte :=
  match p with
  | .mem key _ => if homeErr s key 1 then none else some (cohByte s key)
  | .spad c a => if mget (s.core c).eccBad a false then none else some (memByte (s.core c).opst a)
  | .slot pl pi sq o => match s.pipe? pl pi with
    | none => some 0
    | some q => match q.entries.find? (fun e => e.seq == sq) with
      | some e => if e.bad then none else some (memByte e.payload o)
      | none => some 0
/-- A registered word the engine reads was forwarded by its home (R272, R299). -/
def copyForwarded (s : State) (p : CopyPlace) : State :=
  match p with
  | .mem key _ => forwardRead s none key 1
  | _ => s
/-- The cores whose own copies a copy's writes make stale: that of the engine, and that of the issuer, which may have been
resumed on another (R235, R382). -/
def CopyEnv.cores (v : CopyEnv) : List Nat :=
  if v.warp = deadKey ∨ coreOf v.warp = v.core then [v.core] else [v.core, coreOf v.warp]
/-- A core's own copies of a byte the engine writes, in L1 and stash, go stale (R235, R299). -/
def staleIn (s : State) (c key : Nat) : State :=
  s.modCore c (fun k => modStash { k with
    l1 := mmod k.l1 (key / 512) (fun t =>
      { t with fresh := t.fresh &&& ~~~(BitVec.ofNat 16 (2 ^ (key % 512 / grainBytes t.grain))) }) } key
    (fun u => { u with fresh := 0 }))
def staleCopy (s : State) (cs : List Nat) (key : Nat) : State := cs.foldl (fun s c => staleIn s c key) s
def copyWrite (s : State) (cs : List Nat) (p : CopyPlace) (b : Byte) : State :=
  match p with
  | .mem key _ => staleCopy (homeWrite s key [b]) cs key
  | .spad c a => spadWrite s c a [b]
  | .slot pl pi sq o => s.modPipe pl pi (fun q => q.modEntry sq (fun e => { e with payload := memPut e.payload o b }))

/-- The places of `n` bytes from an offset. -/
def copyPlaces (s : State) (v : CopyEnv) (space base sw : Nat) (need : Need) (off : Int) : Nat → Got (List CopyPlace)
  | 0 => .ok []
  | n + 1 =>
    match copyPlace s v space base off sw need with
    | .miss a => .miss a
    | .fail c f => .fail c f
    | .ok p =>
      match copyPlaces s v space base sw need (off + 1) n with
      | .miss a => .miss a
      | .fail c f => .fail c f
      | .ok r => .ok (p :: r)

/-- A watermark's two places (R233): that of the block `x` in which `base + off` of a side lies, at (x − base) >> 5 from
the watermark base of an operand store. -/
def copyMark (s : State) (v : CopyEnv) (space base wm : Nat) (need : Need) (off : Int) : Got (List CopyPlace) :=
  let low : Int := (if space = 1 then base % 2 ^ 19 else base % 2 ^ 32 : Nat)
  let a : Int := (wm : Int) + ((low + off) / 64 * 64 - low) / 32
  if space = 0 then
    copyPlaces s v 0 (wmAddr s v.asid (truncInt 64 (base + off) / 64 * 64)) 0 need 0 2
  else if space = 1 ∧ (a < 0 ∨ 2 ^ 19 < a + 2) then .fail 4 (BitVec.ofInt 64 a)
  else copyPlaces s v space (base / 2 ^ 32 * 2 ^ 32) 0 need a 2

/-- The converted element (R232). -/
def copyConvert (conv : Nat) (bs : List Byte) : List Byte :=
  match conv with
  | 1 => leBytes 2 (cvtFF 8 10 .rn false false (leNat bs)).bits
  | 2 => leBytes 4 (cvtFF 10 8 .rn false false (leNat bs)).bits
  | _ => bs

/-- The progress of a copy: the state, the flags of the token, and what stopped it. -/
structure CopyRun where
  s    : State
  bits : Nat
  stop : Option (Nat × DWord)

/-- The address of an offset in a space, as a failure reports it. -/
def copyAddr (space base : Nat) (off : Int) : DWord :=
  match space with
  | 0 => BitVec.ofNat 64 (truncInt 64 (base + off))
  | 1 => BitVec.ofInt 64 ((base % 2 ^ 19 : Nat) + off)
  | 2 => BitVec.ofInt 64 ((base % 2 ^ 32 : Nat) + off)
  | _ => BitVec.ofInt 64 ((base / 2 ^ 32 : Nat) + off)
/-- Copying the bytes of some places, converted; `at_` is the address of the first. (ECC's address: DEDUCED, log 35) -/
def copyBytes (r : CopyRun) (cs : List Nat) (conv : Nat) (at_ : DWord) (src dst : Got (List CopyPlace)) : CopyRun :=
  match src, dst with
  | .fail cd f, _ => { r with stop := some (cd, f) }
  | _, .fail cd f => { r with stop := some (cd, f) }
  | .ok ps, .ok qs =>
    let bs := ps.map (copyRead r.s)
    if bs.any (·.isNone) then { r with stop := some (5, at_ + BitVec.ofNat 64 (bs.findIdx (·.isNone))) } else
    let s := ps.foldl copyForwarded r.s
    { r with s := (qs.zip (copyConvert conv (bs.map (·.getD 0)))).foldl (fun s e => copyWrite s cs e.1 e.2) s }
  | _, _ => r

/-- A format code that R59 assigns. (DEDUCED, log 35) -/
def codeAssigned (c : Nat) : Bool := c == 0 || c == 0xFF || fmtKnown c
/-- Carrying a block's watermark (R59, R233). -/
def copyMarkOver (r : CopyRun) (cs : List Nat) (src dst : Got (List CopyPlace)) : CopyRun :=
  match src, dst with
  | .fail cd f, _ => { r with stop := some (cd, f) }
  | _, .fail cd f => { r with stop := some (cd, f) }
  | .ok ps, .ok qs =>
    let bs := ps.map (copyRead r.s)
    if bs.any (·.isNone) then { r with stop := some (5, 0) } else
    let code := ((bs.head?.bind id).getD 0).toNat
    let out := if codeAssigned code then bs.map (·.getD 0) else [0xFF, (bs.getD 1 none).getD 0]
    { r with
      s := (qs.zip out).foldl (fun s e => copyWrite s cs e.1 e.2) r.s
      bits := r.bits ||| (if codeAssigned code then 0 else 2 ^ 16) ||| (if codeAssigned code && code != 0xFF then 0 else 2 ^ 15) }
  | _, _ => r
/-- Setting a destination block's watermark (wmode 2). -/
def copyMarkSet (r : CopyRun) (cs : List Nat) (wm : Nat) (dst : Got (List CopyPlace)) : CopyRun :=
  match dst with
  | .fail cd f => { r with stop := some (cd, f) }
  | .ok qs => { r with s := (qs.zip (leBytes 2 wm)).foldl (fun s e => copyWrite s cs e.1 e.2) r.s }
  | .miss _ => r

/-- The offset of an element's last byte, where that lies in another block than its first (R58). -/
def copyOther (d : CopyDesc) (off : Int) : Option Int :=
  let a := (d.dst : Int) + off
  if (a + d.dsize - 1) / 64 = a / 64 then none else some (off + d.dsize - 1)

/-- One element, with the watermark of the block it begins (wmode 1) or of those it reaches (wmode 2). -/
def copyElement (v : CopyEnv) (d : CopyDesc) (r : CopyRun) (o : Int × Int) : CopyRun :=
  if r.stop.isSome then r else
  let src := copyPlaces r.s v d.sspace d.src d.ssw needR o.1 d.esize
  let dst := copyPlaces r.s v d.dspace d.dst d.dsw needW o.2 d.dsize
  let r := copyBytes r v.cores d.conv (copyAddr d.sspace d.src o.1) src dst
  if r.stop.isSome then r else
  let so := (d.src : Int) + o.1
  if d.wmode = 1 ∧ so % 64 = 0 then
    copyMarkOver r v.cores (copyMark r.s v d.sspace d.src d.swm needR o.1) (copyMark r.s v d.dspace d.dst d.dwm needW o.2)
  else if d.wmode = 2 then
    let r := copyMarkSet r v.cores d.wmconst (copyMark r.s v d.dspace d.dst d.dwm needW o.2)
    match copyOther d o.2 with
    | some q => if r.stop.isSome then r else copyMarkSet r v.cores d.wmconst (copyMark r.s v d.dspace d.dst d.dwm needW q)
    | none => r
  else r

/-- The translation a list of places still waits for. -/
def gotMissing (g : Got (List CopyPlace)) : Option Nat :=
  match g with
  | .miss a => some a
  | _ => none
/-- The first translation still missing among an element's own bytes. -/
def copyMissing (s : State) (v : CopyEnv) (d : CopyDesc) (o : Int × Int) : Option Nat :=
  gotMissing (copyPlaces s v d.sspace d.src d.ssw needR o.1 d.esize) <|>
    gotMissing (copyPlaces s v d.dspace d.dst d.dsw needW o.2 d.dsize)
/-- The first translation still missing among an element's watermarks. -/
def copyMarkMissing (s : State) (v : CopyEnv) (d : CopyDesc) (o : Int × Int) : Option Nat :=
  (if d.wmode = 1 then gotMissing (copyMark s v d.sspace d.src d.swm needR o.1) else none) <|>
  (if d.wmode = 0 then none else gotMissing (copyMark s v d.dspace d.dst d.dwm needW o.2)) <|>
  (if d.wmode = 2 then (copyOther d o.2).bind (fun q => gotMissing (copyMark s v d.dspace d.dst d.dwm needW q))
    else none)

/-- Whether a side that must carry watermarks can (R233). -/
def copyMarked (s : State) (v : CopyEnv) (space base : Nat) (off : Int) : Bool :=
  match space with
  | 0 => match coreXlate s v.core v.asid (truncInt 64 (base + off)) with
    | some e => e.wm
    | none => true
  | 3 => false
  | _ => true
/-- The block rules of R233. (DEDUCED, log 35) -/
def copyWmOk (s : State) (v : CopyEnv) (d : CopyDesc) (offs : List (Int × Int)) : Bool :=
  let starts := copyOffsets (d.dims.drop 1)
  match d.wmode with
  | 0 => true
  | 1 => d.conv == 0 && (match d.dims with
      | (n, a, b) :: _ => a == d.esize && b == d.esize && n * d.esize % 64 == 0
      | [] => false) &&
      starts.all (fun o => ((d.src : Int) + o.1) % 64 == 0 && ((d.dst : Int) + o.2) % 64 == 0) &&
      offs.all (fun o => copyMarked s v d.sspace d.src o.1 && copyMarked s v d.dspace d.dst o.2)
  | _ => offs.all (fun o => copyMarked s v d.dspace d.dst o.2 && (copyOther d o.2).all (copyMarked s v d.dspace d.dst))

/-- Ending a copy (R234): the result is written, then the token fills; a failure is told to Toltar, kind 12. -/
def copyEnd (s : State) (t : TceCmd) (core code bits : Nat) (addr : DWord) : State :=
  let s := vWriteD s t.asid (t.desc + 56) (leBytes 8 addr.toNat)
  let s := match xlateNow s t.asid (t.desc + 56) needW with
    | some e => staleCopy s (CopyEnv.cores ⟨core, t.warp, t.asid, 0, none⟩) (e.key s (t.desc + 56))
    | none => s
  let s := if code < 2 then s else s.tell 12 [core, t.warp, code, addr.toNat]
  let s := s.modCore core (fun k => { k with tce := k.tce.filter (fun u => u.wid != t.wid) })
  let s := match warpByKey s t.warp with
    | some x => if x.termReq then dropSlots s t.warp t.plan else s
    | none => dropSlots s t.warp t.plan
  let s := if (s.core core).tce.isEmpty then s else s.after s.lat.tce (.tcopyComplete core)
  fillToken (dropWalks s (fun k => k.seq == copySeq t.wid)) t.wid
    [.s t.reg (BitVec.ofNat 32 (code * 2 ^ 24 + bits))]

/-- Running a queued copy: it stalls while a translation is missing (R284). What has left a store queue of the package
is seen (R299). -/
def copyRun (s : State) (core : Nat) (t : TceCmd) : State :=
  let s := arriveAll s
  let v : CopyEnv := { core := core, warp := t.warp, asid := t.asid, seq := copySeq t.wid, x := some (t.issuer s) }
  let walk := fun (va : Nat) => startWalkOn s (dieOfCore core) t.warp (copySeq t.wid) va t.asid 4 3
  match copyPlaces s v 0 t.desc 0 needR 0 256 with
  | .miss va => walk va
  | .fail code fa => copyEnd s t core code 0 fa
  | .ok ps =>
    let bs := ps.map (copyRead s)
    if bs.any (·.isNone) then copyEnd s t core 5 0 (BitVec.ofNat 64 (t.desc + bs.findIdx (·.isNone))) else
    let s := ps.foldl copyForwarded s
    match copyDesc (bs.map (·.getD 0)) with
    | none => copyEnd s t core 1 0 0
    | some d =>
      let offs := copyOffsets d.dims
      match offs.findSome? (copyMissing s v d) with
      | some va => walk va
      | none =>
        if !copyWmOk s v d offs then copyEnd s t core 1 0 0 else
        match offs.findSome? (copyMarkMissing s v d) with
        | some va => walk va
        | none =>
          let r := offs.foldl (copyElement v d) { s := s, bits := 0, stop := none }
          match r.stop with
          | none => copyEnd r.s t core 0 r.bits 0
          | some (code, fa) => copyEnd r.s t core code r.bits fa

/-- TCOPY (R230): the warp's store queue has drained before it issues. -/
def execTcopy (f : LongF) (s : State) : Host.Outcome State Fault Refusal :=
  issuing s (fun c x =>
    let act := c.act x (.tcopy f)
    let a := x.s64 (bReg f)
    let bad := if act = 0 then none else readableCause s c.warp x.asid a 256
    let s := endIssue s c.warp [a]
    match lowerCause bad ((feCause c x (.tcopy f)).map (fun fa => (0x09, fa))) with
    | some (code, fa) => trapAtIssue s c code fa
    | none =>
      if act = 0 then s else
      let t := takeToken s c f.t.toNat
      let q : TceCmd := { warp := c.warp, reg := f.t.toNat, wid := t.1, desc := a, asid := x.asid, seq := x.nextSeq,
                          plan := x.plan, stage := x.stage, groups := x.groups, insts := x.insts }
      (t.2.modCore (coreOf c.warp) (fun k => { k with tce := k.tce ++ [q] })).after s.lat.tce
        (.tcopyComplete (coreOf c.warp)))

/-- The engine works on its oldest copy. -/
def execTcopyComplete (core : Nat) (s : State) : Host.Outcome State Fault Refusal :=
  match (s.core core).tce with
  | [] => done s
  | t :: _ => done (copyRun s core t)

end Sys2Proof.Machine
end

