-- ==== Sys2Proof/Machine/Plans.lean ====
section
/-!
DEFINITION. Plans (R316 to R327): reading records, slots, placement of cores and warps, ends, stopping and restart, the
deckle; and continuation records on their way to warps (R206, R207, R328 to R332).
-/

namespace Sys2Proof.Machine

/-! Records (R316 to R319). -/

/-- Whether a number is a power of two from `2^a` to `2^b`. -/
def powIn (n a b : Nat) : Bool := (List.range (b + 1)).any (fun k => decide (a ≤ k) && n == 2 ^ k)
/-- Every byte of a range is zero. -/
def zeros (b : List Byte) (i n : Nat) : Bool := ((b.drop i).take n).all (· == 0)

/-- A plan header (R316); percentages and times with their defaults filled in. -/
structure PlanHdr where
  nstages : Nat
  npipes  : Nat
  hi      : Nat
  lo      : Nat
  epoch   : Nat
  window  : Nat
  cword   : Nat
  sring   : Nat
  sringsz : Nat
  deriving DecidableEq, Repr
def orElse (n d : Nat) : Nat := if n = 0 then d else n
def planHdr (b : List Byte) : PlanHdr :=
  let f := field b
  { nstages := f 0 1, npipes := f 1 1, hi := orElse (f 2 1) 75, lo := orElse (f 3 1) 25, epoch := orElse (f 4 4) 50,
    window := orElse (f 8 4) 200, cword := f 16 8, sring := f 24 8, sringsz := f 32 4 }
def planHdrOk (b : List Byte) : Bool :=
  let h := planHdr b
  decide (1 ≤ h.nstages) && decide (h.nstages ≤ 16) && decide (h.npipes ≤ 64) && decide (h.hi ≤ 100) &&
    decide (h.lo < h.hi) && zeros b 12 4 && h.cword % 8 == 0 && h.sring % 64 == 0 &&
    (h.sringsz == 0 || powIn h.sringsz 4 20) && zeros b 36 92

/-- A stage before it has cores, from its entry and group table (R317, R319). -/
def stageOf (b : List Byte) (table : List (Nat × Nat × Nat)) : Stage :=
  let f := field b
  { cbase := f 0 8, entry := f 8 4, trapbase := f 16 8 / 16 * 16, gtab := f 24 8, oring := f 32 8, oringsz := f 40 4,
    cmin := f 44 2, cinit := f 46 2, cmax := f 48 2, warps := f 50 1, prio := f 51 1 % 16, vregs := f 52 2, sregs := f 54 2,
    l1 := f 56 1 * 4096, spad := f 57 1 * 4096, stash := f 58 1 * 4096, windows := f 59 1, dies := f 60 1, table := table,
    unit := (table.find? (fun e => e.1 == 2)).elim 1 (fun e => e.2.1), cores := [], ring := [], ringN := 0, placedN := 0,
    ended := false, lastFill := 0 }
/-- The fields of an entry (R317); `single` marks STAGE_LAUNCH's, which names a completion word. -/
def stageOk (b : List Byte) (single : Bool) (g : Stage) : Bool :=
  let f := field b
  g.cbase % 4096 == 0 && zeros b 12 4 && g.gtab % 32 == 0 && g.oring % 64 == 0 &&
    (g.oringsz == 0 || powIn g.oringsz 6 20) && decide (1 ≤ g.cmin) && decide (g.cmin ≤ g.cinit) &&
    decide (g.cinit ≤ g.cmax) && decide (g.cmax ≤ 384) && g.cmin % g.unit == 0 && g.cinit % g.unit == 0 &&
    g.cmax % g.unit == 0 && decide (1 ≤ g.warps) && decide (g.warps ≤ 128) && decide (f 51 1 < 16) &&
    decide (1 ≤ g.vregs) && decide (g.vregs ≤ 256) && decide (1 ≤ g.sregs) && decide (g.sregs ≤ 384) &&
    decide (16 ≤ f 56 1) && f 56 1 + f 57 1 + f 58 1 == 128 && decide (g.windows ≤ 16) && decide (1 ≤ g.dies) &&
    decide (g.dies < 16) && f 61 1 == 0 && decide (f 62 2 ≤ 256) &&
    (if single then f 64 8 % 8 == 0 else f 64 8 == 0) && zeros b 72 56
/-- The table of a stage entry; none if it cannot be read. -/
def tableOf (s : State) (asid : Nat) (b : List Byte) : Option (List (Nat × Nat × Nat) × Bool) :=
  let n := min (field b 62 2) 256
  match (if n = 0 then some [] else vRead s asid (field b 24 8) (32 * n)) with
  | none => none
  | some t =>
    let es := (List.range n).map (fun i => (field t (32 * i) 1, field t (32 * i + 1) 1, field t (32 * i + 16) 16))
    let ok := (List.range n).all (fun i =>
      let k := field t (32 * i) 1; let c := field t (32 * i + 1) 1
      decide (k ≤ 2) && zeros t (32 * i + 2) 14 &&
        (if k = 1 then c == 1 else if k = 2 then decide (2 ≤ c) && decide (c ≤ 16) else true))
    let used := es.filter (fun e => e.1 != 0)
    let few := (List.range 128).all (fun w => decide ((used.filter (fun e => e.2.2.testBit w)).length ≤ 4))
    let sp := used.filter (fun e => e.1 == 2)
    some (es, ok && few && sp.all (fun e => some e.2.1 == sp.head?.map (·.2.1)))

/-- Whether a die can take work: it is up and not being reset. -/
def dieUsable (s : State) (d : Nat) : Bool := (s.die d).up && !(s.die d).resetting
/-- The dies a stage may use. -/
def stageDies (s : State) (g : Stage) : List Nat := (List.range s.nDies).filter (fun d => g.dies.testBit d && dieUsable s d)
/-- Whether a core is mapped out (R428). -/
def coreLost (s : State) (c : Nat) : Bool := (s.die (dieOfCore c)).lost.contains c
/-- The free cores of a die, lowest first (R322). -/
def freeCores (s : State) (d : Nat) : List Nat :=
  ((List.range 96).map (96 * d + ·)).filter (fun c => (s.core c).owner.isNone && !coreLost s c)

/-- Reading stage entry `i`: none unreadable, else the stage and whether it is right. -/
def readStage (s : State) (asid a : Nat) (single : Bool) : Option (Stage × Bool × Nat) :=
  match vRead s asid a 128 with
  | none => none
  | some b =>
    match tableOf s asid b with
    | none => none
    | some (t, ok) =>
      let g := stageOf b t
      let wide := g.unit == 1 || !(stageDies s g).all (fun d => decide ((freeCores s d).length < g.unit))
      some (g, ok && stageOk b single g && wide, field b 64 8)

/-- A pipe as it starts (R318, R334, R341). -/
def pipeNew (b : List Byte) (dev : Nat) (stages : List Stage) : PipeSt :=
  let f := field b
  let w := f 14 2
  let consumer := w.testBit 15
  let low := fun (n : Nat) => (List.range 4).find? (fun d => n.testBit d)
  let die := if f 13 1 = 0 then w % 4 else ((stages[f 1 1]?).bind (fun g => low g.dies)).getD 0
  let _ := dev
  { src := f 0 1, dst := f 1 1, depth := f 2 2, bytes := f 4 4, rows := f 8 2, cols := f 10 2, fmt := f 12 1,
    remote := if f 13 1 = 0 then none else some (w % 1024, consumer), die := die, slice0 := 0, spill := f 16 8,
    spillN := f 24 8 / footprint (f 4 4), spillUse := [], nextP := 0, nextC := 0, cHoles := [], released := [], lowDone := 0,
    entries := [], ops := [], pClosed := false, cClosed := false, matched := f 13 1 == 0 }
/-- A spill area is mapped to this device's memory, readable and writable (R345). -/
def spillOk (s : State) (asid a n : Nat) : Bool :=
  (List.range (n / 65536 + 2)).all (fun i =>
    let va := if i = 0 then a else (a / 65536 + i) * 65536
    decide (va ≥ a + n) || (match walkAll s asid va with
      | .leaf e => e.r && e.w && e.dev == s.device
      | _ => false))
/-- The fields of a pipe entry (R318, R341, R345). -/
def pipeEntryOk (s : State) (asid : Nat) (b : List Byte) (stages : List Stage) : Bool :=
  let f := field b
  let q := pipeNew b s.device stages
  let w := f 14 2
  let n := stages.length
  let cons := q.consHere
  f 0 1 != f 1 1 && (decide (q.src < n) || !q.prodHere) && (decide (q.dst < n) || !cons) &&
    decide (1 ≤ q.depth) && decide (q.depth ≤ 4096) && q.bytes % 64 == 0 && decide (64 ≤ q.bytes) &&
    decide (q.bytes ≤ 65536) && fmtKnown q.fmt && decide (f 13 1 ≤ 1) && zeros b 32 32 &&
    (if f 13 1 = 0 then decide (w < s.nDies) && ((stages[q.dst]?).elim false (fun g => g.dies.testBit w))
     else natBits w 14 10 == 0) &&
    (if cons then f 16 8 % 64 == 0 && f 24 8 % footprint q.bytes == 0 && (f 24 8 == 0 || spillOk s asid (f 16 8) (f 24 8))
     else f 16 8 == 0 && f 24 8 == 0)
/-- The lines a pipe takes in each slice of its die (R334). -/
def pipeLines (q : PipeSt) : Nat := (q.depth * (footprint q.bytes / 128) + 1 + 63) / 64
/-- The lines the pipes of a plan take on a die, where their storage is here. -/
def linesOn (pipes : NMap PipeSt) (d : Nat) : Nat :=
  (pipes.filter (fun q => q.2.die == d && q.2.consHere)).foldl (fun n q => n + pipeLines q.2) 0
/-- Taking or giving back pinned lines (R335); what a slice then has no room for leaves it (R2, R276). -/
def pinLines (s : State) (pipes : NMap PipeSt) (give : Bool) : State :=
  let s := (List.range s.nDies).foldl (fun s d => s.modDie d (fun x =>
    { x with pinned := if give then x.pinned - linesOn pipes d else x.pinned + linesOn pipes d })) s
  if give || s.l2.length ≤ 2048 then s else s.l2.foldl (fun s e => l2Trim s e.1 0) s
/-- Whether new pipes fit the pinned budget of every die. -/
def pipesFit (s : State) (pipes : NMap PipeSt) : Bool :=
  (List.range s.nDies).all (fun d => decide ((s.die d).pinned + linesOn pipes d ≤ 6144))

/-! Commands in progress (R313). -/

/-- The commands of a queue started before one. -/
def earlierWork (s : State) (q : Nat) (e : Event) : Bool :=
  (s.work.takeWhile (fun w => !(w.queue == q && w.instr == e))).any (fun w => w.queue == q)
/-- A command completes: those that wait for it are looked at again. -/
def completeWork (s : State) (q : Nat) (p : QueueWork → Bool) : State :=
  match s.work.find? (fun w => w.queue == q && p w) with
  | none => s
  | some w =>
    let s := { s with work := s.work.filter (fun v => v.order != w.order) }
    s.work.foldl (fun s v => if v.queue != q then s else
      match v.instr with
      | .signal .. | .cmdFence _ => s.after 0 v.instr
      | _ => s) s
/-- A command completes by what it is. -/
def completeCmd (s : State) (q : Nat) (e : Event) : State := completeWork s q (fun w => w.instr == e)

/-- The number under which a die's device-launch queue starts the commands of an address space (R315). -/
def launchQueue (die asid : Nat) : Nat := 16384 + 4 * asid + die
/-- The address space of a queue or launch queue. -/
def queueAsid (s : State) (q : Nat) : Nat :=
  if q ≥ 16384 then (q - 16384) / 4 else
  match s.slots.find? (fun e => e.2.queue == q) with
  | some (_, k) => k.asid
  | none => match mfind s.queues q with
    | some a => field (cohBytes s a 64) 12 2 % 4096
    | none => 0
/-- The accepted feature words of a queue; a launch by a core has the published ones (R314). (DEDUCED, log 34) -/
def queueFeat (s : State) (q : Nat) : List Word :=
  if q ≥ 16384 then s.feat else
  match s.slots.find? (fun e => e.2.queue == q) with
  | some (_, k) => k.feat
  | none => match mfind s.queues q with
    | some a => (List.range 4).map (fun i => BitVec.ofNat 32 (field (cohBytes s a 64) (48 + 4 * i) 4))
    | none => s.feat
def featBit (s : State) (q i : Nat) : Bool := ((queueFeat s q).headD 0).getLsbD i

/-- The completion word (R320). -/
def completionWord (code slot detail placed dropped : Nat) : List Byte :=
  leBytes 8 (code + slot * 2 ^ 8 + detail * 2 ^ 16 + placed * 2 ^ 24 + min dropped 0xFFFF * 2 ^ 32)
/-- A plan's smallest placed count and the lowest stage that has it. -/
def planPlaced (pl : Plan) : Nat × Nat :=
  let l := pl.stages.map (·.placedN)
  let m := l.foldl min 128
  (m, l.idxOf m)
/-- Writing a plan's completion word. -/
def writeCword (s : State) (p : Nat) (pl : Plan) (code : Nat) : State :=
  let d := planPlaced pl
  vWriteD s pl.asid pl.cword (completionWord code p d.2 d.1 pl.dropped)
/-- The number of a start command that acts: of several alike in progress, the first that has started no plan yet. -/
def workOrder (s : State) (q : Nat) (e : Event) : Nat :=
  let has := fun (o : Nat) => s.plans.any (fun p => p.2.order == o && p.2.queue == q) ||
    s.waitPlans.any (fun p => p.order == o && p.queue == q)
  match s.work.find? (fun w => w.queue == q && w.instr == e && !has w.order) with
  | some w => w.order
  | none => s.nextId
/-- A start command that starts nothing completes (R313). -/
def endStart (s : State) (q : Nat) (e : Event) : State := completeWork s q (fun w => w.order == workOrder s q e)
/-- A start that fails (R313, R320). -/
def failStart (s : State) (q asid cword code detail : Nat) (e : Event) : State :=
  endStart (vWriteD s asid cword (completionWord code 0 detail 0 0)) q e

/-! Launching warps (R20, R25, R323, R324). -/

/-- The vector registers a warp takes of its partition (R21, R25). -/
def roundV (nv : Nat) : Nat := (nv + 7) / 8 * 8
/-- The resident warps of a partition. -/
def partWarps (s : State) (core part : Nat) : NMap Warp := s.warps.filter (fun e => e.1 / 16 == core * 8 + part)
def partRoom (s : State) (core part nv : Nat) : Bool :=
  decide ((partWarps s core part).foldl (fun n e => n + roundV e.2.nv) 0 + roundV nv ≤ 1024)
def freeSlot (s : State) (core part : Nat) : Option Nat :=
  (List.range 16).find? (fun k => (mfind s.warps (core * 128 + part * 16 + k)).isNone)
/-- How many warps a partition can hold. -/
def partHold (nv : Nat) : Nat := min 16 (1024 / roundV nv)

/-- The save areas that the warps of a space have. -/
def savesOf (s : State) (asid : Nat) : List Nat :=
  (s.warps.filter (fun e => e.2.asid == asid)).map (fun e => e.2.saveArea) ++
    (s.saved.filter (fun v => v.warp.asid == asid)).map (fun v => v.warp.saveArea)
/-- Whether the region that Toltar reserves in a space has save areas for `n` more warps (R382); without them none is placed or
formed. (DESIGN CHOICE, log 31) -/
def saveRoom (s : State) (asid n : Nat) : Bool :=
  decide ((savesOf s asid).length + n ≤ (s.space asid).elim 0 (fun d => d.saveLen / 65536))
/-- The save area Toltar gives a new warp (R382): the lowest block of the space's region that none of its warps has.
(DESIGN CHOICE, log 31) -/
def newSaveArea (s : State) (asid : Nat) : Nat :=
  let base := (s.space asid).elim 0 (·.saveBase)
  let used := savesOf s asid
  let n := ((List.range (used.length + 1)).find? (fun i => !used.contains (base + 65536 * i))).getD 0
  base + 65536 * n

/-- A warp of a stage with nothing decided but what its stage gives it (R20, R315). -/
def stageWarp (s : State) (p st : Nat) (pl : Plan) (g : Stage) : Warp :=
  { Warp.fresh with
    asid := pl.asid, plan := p, stage := st, restart := pl.restart, nv := g.vregs, ns := g.sregs, codeBase := g.cbase,
    prio := BitVec.ofNat 32 g.prio, trapbase := BitVec.ofNat 64 g.trapbase, lastIssue := s.clk, formed := true,
    saveArea := newSaveArea s pl.asid }
/-- A warp launched for a stage (R20). -/
def launchedWarp (s : State) (p st : Nat) (pl : Plan) (g : Stage) (li : Nat) : Warp :=
  let w := stageWarp s p st pl g
  { w with
    localIdx := some li, pc := List.replicate 32 (g.cbase + 12 * g.entry), active := 0xFFFFFFFF, exited := 0,
    sreg := (pl.args.take 12).zipIdx.foldl (fun m e => mput m e.2 e.1 0) [] }
/-- A resident warp appears; its 1,024 clk begin (R36). -/
def placeWarp (s : State) (w : Nat) (x : Warp) : State := (s.setWarp w x).after (x.lastIssue + 1024 - s.clk) (.priorityBoost w)

/-- The local indices launched on a core (R323). -/
def launchedIdx (g : Stage) : List Nat := (List.range g.warps).filter (fun li => decide (li / 8 < partHold g.vregs))
def sourceOf (core li : Nat) : Nat := core * 128 + li % 8 * 16 + li / 8

/-- The group instances of one unit (R324): table index, spread, cores, members. -/
def unitGroups (g : Stage) (unit : List Nat) : List (Nat × Bool × List Nat × List Nat) :=
  let members := fun (c mask : Nat) => ((launchedIdx g).filter (fun li => mask.testBit li)).map (sourceOf c)
  g.table.zipIdx.flatMap (fun e =>
    match e.1.1 with
    | 1 => unit.map (fun c => (e.2, false, [c], members c e.1.2.2))
    | 2 => [(e.2, true, unit, unit.flatMap (fun c => members c e.1.2.2))]
    | _ => [])
/-- Forming one instance: its members take their next group slot. -/
def formGroup (p st : Nat) (s : State) (d : Nat × Bool × List Nat × List Nat) : State :=
  let id := s.nextId
  let gi : GroupInst :=
    { plan := p, stage := st, index := d.1, spread := d.2.1, cores := d.2.2.1, members := d.2.2.2, phases := [],
      arrived := [], engines := [] }
  let join := fun (x : Warp) =>
    let k := x.insts.length
    if k ≥ 4 then x else
    { x with insts := x.insts ++ [id], groups := x.groups ||| BitVec.ofNat 64 (d.1 * 2 ^ (8 * k) + 2 ^ (32 + k)) }
  d.2.2.2.foldl (fun s w => s.modWarp w join) { s.usedId with groups := mset s.groups id gi }

/-- A core with its L1, operand store and chest clean (R267): what belongs to no stage stays, its debug block, its matrix
control port, who was served last by the load port and the array (R357, R358), a sample under way (R364). -/
def cleanCore (k : Core) : Core :=
  { Core.fresh with
    tlb := k.tlb, icache := k.icache, dbg := k.dbg, mcpAddr := k.mcpAddr, mcpCmd := k.mcpCmd, mcpStat := k.mcpStat,
    portLast := k.portLast, arrLast := k.arrLast, shadow := k.shadow }
/-- A core joins a stage (R265, R267): clean, with the stage's split; a matrix context restored before stays (R362). -/
def joinCore (s : State) (c p st : Nat) (g : Stage) : State :=
  s.modCore c (fun k =>
    { cleanCore k with
      owner := some (p, st), placed := s.nextId, l1size := g.l1, spad := g.spad, stash := g.stash, windows := g.windows,
      rme := k.rme })
/-- One unit of a stage is placed: cores join, warps are launched, groups formed. -/
def placeUnit (p st : Nat) (s : State) (unit : List Nat) : State :=
  match mfind s.plans p, s.stage? p st with
  | some pl, some g =>
    let s := unit.foldl (fun s c => joinCore s.usedId c p st g) s
    let s := unit.foldl (fun s c => (launchedIdx g).foldl (fun s li =>
      placeWarp s (sourceOf c li) (launchedWarp s p st pl g li)) s) s
    let s := (unitGroups g unit).foldl (formGroup p st) s
    (s.modStage p st (fun g => { g with cores := g.cores ++ unit, placedN := min g.warps (8 * partHold g.vregs) })).after 0
      (.ringToChest p st)
  | _, _ => s

/-- A core's engines have nothing left to do (R267, R362). -/
def coreIdle (s : State) (c : Nat) : Bool :=
  let k := s.core c
  k.tce.isEmpty && k.sumq.isEmpty && k.rme.all (fun e => e.2.queue.isEmpty)
/-- A core leaves its stage (R267, R362): dirty words go home, L1, operand store and contexts are emptied. -/
def leaveCore (s : State) (c : Nat) : State :=
  (writeBackCore s c).modCore c cleanCore

/-! Placement (R321, R322). -/

/-- The units of `n` cores in units of `c`, from the free cores not yet taken; none if they do not suffice. -/
def pickUnits (s : State) (g : Stage) (taken : List Nat) (n : Nat) : Option (List (List Nat)) :=
  let units := (stageDies s g).flatMap (fun d =>
    let l := (freeCores s d).filter (fun c => !taken.contains c)
    (List.range (l.length / g.unit)).map (fun i => (l.drop (i * g.unit)).take g.unit))
  if units.length * g.unit < n then none else some (units.take (n / g.unit))
/-- The units of every stage at once. -/
def pickAll (s : State) (gs : List Stage) (taken : List Nat) : Option (List (List (List Nat))) :=
  match gs with
  | [] => some []
  | g :: r =>
    match pickUnits s g taken g.cinit with
    | none => none
    | some us =>
      match pickAll s r (taken ++ us.flatten) with
      | none => none
      | some rest => some (us :: rest)

/-- A deckle epoch begins (R325); none from before is left. -/
def startEpoch (s : State) (p : Nat) (pl : Plan) : State :=
  ((s.unsend (.deckleEpoch p)).modPlan p (fun q => { q with epochAt := s.gtime + 1000 * pl.epoch })).inTime (1000 * pl.epoch)
    (.deckleEpoch p)
/-- The plan waiting for cores that is served first: the one that started first. -/
def nextWaiting (s : State) : Option (Nat × Plan) :=
  (s.plans.filter (fun e => e.2.state == .waitCores)).foldl (fun m e => match m with
    | none => some e
    | some b => if e.2.order < b.2.order then some e else some b) none
/-- Cores join stages and warps are launched once every stage's share can be placed at once (R321 to R324). -/
def execPlanPlacement (s : State) : Host.Outcome State Fault Refusal :=
  let s := s.cores.foldl (fun s c => if c.2.bins.isEmpty then s else s.after 0 (.warpFormation c.1)) s
  match nextWaiting s with
  | none => done s
  | some (p, pl) =>
    match (if saveRoom s pl.asid ((pl.stages.map (fun g => g.cinit * (launchedIdx g).length)).sum) then pickAll s pl.stages [] else none) with
    | none => done s
    | some us =>
      let s := s.modPlan p (fun q => { q with state := .running })
      let s := us.zipIdx.foldl (fun s e => e.1.foldl (placeUnit p e.2) s) s
      match mfind s.plans p with
      | none => done s
      | some q =>
        let s := startEpoch (writeCword s p q 0x01) p q
        let s := q.pipes.foldl (fun s e => tellEnd s p e.1 e.2) s
        done (s.after 0 .planPlacement)

/-! Starting (R314, R321). -/

/-- The cores of a stage's allowed dies. -/
def dieCores (s : State) (g : Stage) : Nat := 96 * (stageDies s g).length
/-- The lowest free plan slot. -/
def freePlanSlot (s : State) : Option Nat := (List.range 256).find? (fun p => (mfind s.plans p).isNone)
/-- A plan takes a slot, or waits for one (R321). -/
def takeSlot (s : State) (pl : Plan) : State :=
  match freePlanSlot s with
  | some p => ({ s with plans := mset s.plans p { pl with state := .waitCores } }).after 0 .planPlacement
  | none => { s with waitPlans := s.waitPlans ++ [pl] }
/-- A waiting plan takes a freed slot (R321). -/
def execPlanSlotGrant (s : State) : Host.Outcome State Fault Refusal :=
  match s.waitPlans with
  | [] => done s
  | pl :: r => if (freePlanSlot s).isSome then done (takeSlot { s with waitPlans := r } pl) else done s

/-- A plan as it starts. -/
def newPlan (s : State) (q asid addr : Nat) (args : List Word) (h : PlanHdr) (gs : List Stage) (ps : NMap PipeSt)
    (order : Nat) (single : Bool) : Plan :=
  { state := .waitSlot, asid := asid, addr := addr, args := args, queue := q,
    remote := s.slots.any (fun e => e.2.queue == q && e.2.remote), hi := h.hi, lo := h.lo, epoch := h.epoch,
    window := h.window, cword := h.cword, sring := h.sring, sringsz := h.sringsz, stages := gs, pipes := ps, stamps := 0,
    move := none, restart := false, aborted := false, terminated := false, dropped := 0, order := order, epochAt := 0, probe := none,
    drain := none, reported := none, quiet := 0, far := [], unresolved := [], single := single }
/-- Reading the stages of a record: unreadable, wrong at an index, or right. -/
def readStages (s : State) (asid addr n : Nat) : Nat → Option (List Stage × Option Nat)
  | 0 => some ([], none)
  | k + 1 =>
    match readStages s asid addr n k with
    | none => none
    | some (l, some b) => some (l, some b)
    | some (l, none) =>
      match readStage s asid (addr + 128 + 128 * k) false with
      | none => none
      | some (g, ok, _) => some (l ++ [g], if ok then none else some k)
/-- Reading the pipes of a record: the first wrong one. -/
def readPipes (s : State) (asid q base : Nat) (gs : List Stage) : Nat → Option (NMap PipeSt × Option Nat)
  | 0 => some ([], none)
  | k + 1 =>
    match readPipes s asid q base gs k with
    | none => none
    | some (l, some b) => some (l, some b)
    | some (l, none) =>
      match vRead s asid (base + 64 * k) 64 with
      | none => none
      | some b =>
        let feat := field b 13 1 != 1 || featBit s q 4
        some (mset l k (pipeNew b s.device gs), if pipeEntryOk s asid b gs && feat then none else some (16 + k))

/-- A deadlock of the record's start (R320): the outcome of reading a plan record. -/
inductive PlanRead where
  | lost                                        -- the header cannot be read
  | bad (cword code detail : Nat)
  | ok (h : PlanHdr) (gs : List Stage) (ps : NMap PipeSt)
/-- Reading and checking a plan record (R314, R316 to R319, R321); `pipes` is false for a restart. -/
def readPlan (s : State) (q asid addr : Nat) (pipes : Bool) : PlanRead :=
  match vRead s asid addr 128 with
  | none => .lost
  | some b =>
    let h := planHdr b
    if !planHdrOk b || !featBit s q 0 then .bad h.cword 0x10 0xFF else
    match readStages s asid addr h.nstages h.nstages with
    | none => .bad h.cword 0x13 0
    | some (_, some i) => .bad h.cword 0x10 i
    | some (gs, none) =>
      let short := gs.any (fun g => decide (dieCores s g < g.cmin))
      if !pipes then (if short then .bad h.cword 0x12 0 else .ok h gs []) else
      match readPipes s asid q (addr + 128 + 128 * h.nstages) gs h.npipes with
      | none => .bad h.cword 0x13 0
      | some (_, some i) => .bad h.cword 0x10 i
      | some (ps, none) =>
        if !pipesFit s ps then .bad h.cword 0x11 0
        else if short then .bad h.cword 0x12 0 else .ok h gs ps

/-- What reading a stage entry with its table, a pipe entry with its spill area's translations, and a plan record does to the
words it meets (R272, R280). -/
def stageTouch (s : State) (asid a : Nat) : State :=
  let s := unitTouch s asid a 128
  match vRead s asid a 128 with
  | none => s
  | some b => if field b 62 2 = 0 then s else unitTouch s asid (field b 24 8) (32 * min (field b 62 2) 256)
def pipeTouch (s : State) (asid a : Nat) : State :=
  let s := unitTouch s asid a 64
  match vRead s asid a 64 with
  | none => s
  | some b => if field b 24 8 = 0 ∨ 2 ^ 57 < field b 16 8 + field b 24 8 then s else unitWalk s asid (field b 16 8) (field b 24 8)
def recordTouch (s : State) (asid addr : Nat) : State :=
  let s := unitTouch s asid addr 128
  match vRead s asid addr 128 with
  | none => s
  | some b =>
    let h := planHdr b
    let s := (List.range h.nstages).foldl (fun s i => stageTouch s asid (addr + 128 + 128 * i)) s
    (List.range h.npipes).foldl (fun s i => pipeTouch s asid (addr + 128 + 128 * h.nstages + 64 * i)) s
/-- PLAN_START (R312, R321). A record whose header cannot be read is told to Toltar, kind 14. -/
def execPlanStart (q addr : Nat) (args : List Word) (s : State) : Host.Outcome State Fault Refusal :=
  let asid := queueAsid s q
  let e := Event.planStart q addr args
  let s := recordTouch s asid addr
  match readPlan s q asid addr true with
  | .lost => done (endStart (s.tell 14 [q, addr]) q e)
  | .bad cword code detail => done (failStart s q asid cword code detail e)
  | .ok h gs ps => done (takeSlot (pinLines s ps false) (newPlan s q asid addr args h gs ps (workOrder s q e) false))
/-- STAGE_LAUNCH (R312): one stage entry as a plan without pipes. -/
def execStageLaunch (q addr : Nat) (args : List Word) (s : State) : Host.Outcome State Fault Refusal :=
  let asid := queueAsid s q
  let e := Event.stageLaunch q addr args
  let s := stageTouch s asid addr
  match readStage s asid addr true with
  | none =>
    (match vRead s asid (addr + 64) 8 with
    | none => done (endStart (s.tell 14 [q, addr]) q e)
    | some w => done (failStart s q asid (leNat w) 0x13 0 e))
  | some (g, ok, cword) =>
    let h : PlanHdr :=
      { nstages := 1, npipes := 0, hi := 75, lo := 25, epoch := 50, window := 200, cword := cword, sring := 0, sringsz := 0 }
    if !featBit s q 0 then done (failStart s q asid cword 0x10 0xFF e)
    else if !ok then done (failStart s q asid cword 0x10 0 e)
    else if dieCores s g < g.cmin then done (failStart s q asid cword 0x12 0 e)
    else done (takeSlot s (newPlan s q asid addr args h [g] [] (workOrder s q e) true))

/-! Restart (R327, R352). -/

/-- The stage of a restarted plan: new parameters, its kept ring. -/
def restartStage (old new : Stage) : Stage := { new with ring := old.ring, ringN := old.ringN, lastFill := old.lastFill }
/-- A pipe of a restarted plan (R352): both ends open; PACQs receive the entries that are kept, in order, before any new one, and
no sequence that has been vacated unread; a place-1 pipe has yet to meet its peer again. -/
def reopenPipe (q : PipeSt) : PipeSt :=
  let there := fun (n : Nat) => match q.entries.find? (fun e => e.seq == n) with
    | some e => decide (e.state ≤ 1)
    | none => decide (mget q.released (n % q.depth) 0 ≤ n)
  let left := (q.cHoles ++ List.range' q.nextC (q.nextP - q.nextC)).filter there
  { q with cHoles := left, nextC := max q.nextC q.nextP, pClosed := false, cClosed := false, matched := q.remote.isNone,
           entries := q.entries.map (fun e => { e with restarted := true }) }
/-- The STOPPED plan of a record address (R327). -/
def stoppedPlan (s : State) (asid addr : Nat) : Option (Nat × Plan) :=
  s.plans.find? (fun p => p.2.state == .stopped && p.2.addr == addr && p.2.asid == asid)
/-- A restart that its header alone refuses (R327): no STOPPED plan of the record, or other counts of stages or pipes
than the plan was started with. The completion word's address then. -/
def restartRefused (s : State) (q asid addr : Nat) : Option Nat :=
  match vRead s asid addr 128 with
  | none => none
  | some b =>
    let h := planHdr b
    if !planHdrOk b || !featBit s q 0 then none else
    match stoppedPlan s asid addr with
    | none => some h.cword
    | some (_, pl) => if h.nstages ≠ pl.stages.length ∨ h.npipes ≠ pl.pipes.length then some h.cword else none
/-- PLAN_START with the restart flag. What the record itself is refused for stands before the feature. (DESIGN CHOICE,
log 66) -/
def execPlanRestart (q addr : Nat) (args : List Word) (s : State) : Host.Outcome State Fault Refusal :=
  let asid := queueAsid s q
  let e := Event.planRestart q addr args
  let s := recordTouch s asid addr
  match restartRefused s q asid addr with
  | some cword => done (failStart s q asid cword 0x10 0xFF e)
  | none =>
  match readPlan s q asid addr false with
  | .lost => done (endStart (s.tell 14 [q, addr]) q e)
  | .bad cword code detail => done (failStart s q asid cword code detail e)
  | .ok h gs _ =>
    if !featBit s q 1 then done (failStart s q asid h.cword 0x10 0xFF e) else
    match stoppedPlan s asid addr with
    | none => done (failStart s q asid h.cword 0x10 0xFF e)
    | some (p, pl) =>
      if gs.length ≠ pl.stages.length ∨ h.npipes ≠ pl.pipes.length then done (failStart s q asid h.cword 0x10 0xFF e) else
      let upd := fun (pl : Plan) =>
        { pl with
          state := .waitCores, args := args, queue := q, hi := h.hi, lo := h.lo, epoch := h.epoch, window := h.window,
          cword := h.cword, sring := h.sring, sringsz := h.sringsz, order := workOrder s q e, restart := true,
          unresolved := [], stages := (pl.stages.zip gs).map (fun g => restartStage g.1 g.2),
          pipes := pl.pipes.map (fun c => (c.1, reopenPipe c.2)) }
      done ((s.modPlan p upd).after 0 .planPlacement)

/-! Ending and stopping (R326, R327, R332). -/

/-- The warps of a plan, or of one of its stages, that live. -/
def planWarps (s : State) (p : Nat) : List Nat :=
  (s.warps.filter (fun e => e.2.plan == p)).map (·.1) ++
    (s.saved.filter (fun v => v.warp.plan == p)).map (fun v => savedKey v.id)
/-- The chest records of cores. -/
def chestsOf (s : State) (cs : List Nat) : List Record := cs.flatMap (fun c => (s.core c).chest)
/-- What keeps a stage from ending among its records (R332). -/
def recordLive (r : Record) : Bool := r.ready || r.armed.isNone || !r.regd
/-- A plan leaves its slot: groups, pipes and pinned lines are freed (R332, R335). -/
def freePlan (s : State) (p : Nat) (pl : Plan) : State :=
  let s := pinLines { s with plans := mdel s.plans p, groups := s.groups.filter (fun g => g.2.plan != p) } pl.pipes true
  (s.after 0 .planSlotGrant).after 0 .planPlacement
/-- The start command of a plan completes (R313). -/
def completeStart (s : State) (pl : Plan) : State := completeWork s pl.queue (fun w => w.order == pl.order)
/-- Every PLAN_STOP of a slot completes. (DESIGN CHOICE, log 33) -/
def completeStops (s : State) (p : Nat) : State :=
  s.work.foldl (fun s w => match w.instr with
    | .planStop _ k => if k = p then completeCmd s w.queue w.instr else s
    | .planAbort _ k => if k = p then completeCmd s w.queue w.instr else s
    | _ => s) s

/-- A plan whose stages have all ended ends (R332, R385). -/
def endPlan (s : State) (p : Nat) : State :=
  match mfind s.plans p with
  | none => s
  | some pl =>
    if pl.state = .running ∧ pl.stages.all (·.ended) then
      completeStops (completeStart (freePlan (writeCword s p pl (if pl.terminated then 0x15 else 0x00)) p pl) pl) p
    else s
/-- A stage ends when none of its warps lives and no record of it is READY or may become so (R332). -/
def execStageEnd (p st : Nat) (s : State) : Host.Outcome State Fault Refusal :=
  match mfind s.plans p, s.stage? p st with
  | some pl, some g =>
    let recs := chestsOf s g.cores ++ g.ring
    if pl.state ≠ .running ∨ g.ended ∨ !(stageWarps s p st).isEmpty ∨ recs.any recordLive then done s
    else if !g.cores.all (coreIdle s) then done (s.after s.lat.tce (.stageEnd p st))
    else
      let s := g.cores.foldl leaveCore s
      let s := s.modStage p st (fun g => { g with cores := [], ring := [], ended := true })
      let s := s.modPlan p (fun q => { q with dropped := q.dropped + recs.length, move := q.move.filter (fun m => m.1 != st) })
      done ((endPlan s p).after 0 .planPlacement)
  | _, _ => done s

/-- Revoking cores (R223, R225, R326): waiting pipe operations are looked at again. -/
def revokeCores (s : State) (p : Nat) (cs : List Nat) : State :=
  let s := cs.foldl (fun s c => s.modCore c (fun k => { k with revoked := true })) s
  match mfind s.plans p with
  | none => s
  | some pl => pl.pipes.foldl (fun s q => pipeAgain s p q.1) s

/-- PLAN_STOP with STOP (R327). -/
def execPlanStop (q slot : Nat) (s : State) : Host.Outcome State Fault Refusal :=
  match mfind s.plans slot with
  | none => done (completeCmd s q (.planStop q slot))
  | some pl =>
    if pl.state = .stopped then done (completeStops s slot)
    else
      let s := s.modPlan slot (fun x => { x with state := if x.state = .ending then .ending else .stopping, move := none })
      done ((revokeCores s slot (pl.stages.flatMap (·.cores))).after 0 (.planStopped slot))
/-- PLAN_STOP with ABORT (R327): every warp is terminated. -/
def execPlanAbort (q slot : Nat) (s : State) : Host.Outcome State Fault Refusal :=
  match mfind s.plans slot with
  | none => done (completeCmd s q (.planAbort q slot))
  | some _ =>
    let s := s.modPlan slot (fun x => { x with state := .ending, aborted := true, move := none })
    done (((planWarps s slot).foldl (fun s k => askTerminate s false k) s).after 0 (.planStopped slot))

/-- Cores of a stopping plan are freed; the records left in their chests go to the tail of the ring (R326, R328), those that find no
room there stay with the stage behind them. (DESIGN CHOICE, log 33) -/
def freeStageCores (p : Nat) (keep : Bool) (s : State) (e : Stage × Nat) : State :=
  let left := if keep then chestsOf s e.1.cores else []
  let s := e.1.cores.foldl leaveCore s
  let s := s.modStage p e.2 (fun g => { g with cores := [] })
  left.foldl (fun s r => match s.stage? p e.2 with
    | none => s
    | some g => if ringRoom g then ringPush s p e.2 r
      else s.modStage p e.2 (fun g => { g with ring := g.ring ++ [{ r with place := none }] })) s
/-- Once every warp has exited, a stopping plan is STOPPED and an aborted one is gone (R327, R398). -/
def execPlanStopped (p : Nat) (s : State) : Host.Outcome State Fault Refusal :=
  match mfind s.plans p with
  | none => done s
  | some pl =>
    let cores := pl.stages.flatMap (·.cores)
    if (pl.state ≠ .stopping ∧ pl.state ≠ .ending) ∨ !(planWarps s p).isEmpty then done s
    else if !cores.all (coreIdle s) then done (s.after s.lat.tce (.planStopped p))
    else
      let s := pl.stages.zipIdx.foldl (freeStageCores p (!pl.aborted)) s
      let s := { s with groups := s.groups.filter (fun g => g.2.plan != p) }
      if pl.aborted then
        let s := pl.pipes.foldl (fun s q => q.2.entries.foldl (fun s e => vacate s p q.1 e) s) s
        done (completeStops (completeStart (freePlan (writeCword s p pl 0x14) p pl) pl) p)
      else
        let s := s.modPlan p (fun x => { x with state := .stopped })
        done ((completeStops (completeStart (writeCword s p pl 0x02) pl) p).after 0 .planPlacement)

/-! The deckle (R325, R326). -/

/-- The larger of two fractions. -/
def fracMax (l : List (Nat × Nat)) : Nat × Nat := l.foldl (fun m a => if a.1 * m.2 > m.1 * a.2 then a else m) (0, 1)
/-- A stage's demand (R325) as a fraction, negative where spilled entries fill a pipe beyond its depth. -/
def stageDemand (pl : Plan) (st : Nat) : Option (Int × Nat) :=
  let ins := pl.pipes.filter (fun q => q.2.dst == st && q.2.consHere)
  let outs := pl.pipes.filter (fun q => q.2.src == st && q.2.prodHere)
  let fill := fun (l : NMap PipeSt) => fracMax (l.map (fun q => (pipeFilled q.2, q.2.depth)))
  if !ins.isEmpty then let f := fill ins; some ((f.1 : Int), f.2)
  else if !outs.isEmpty then let f := fill outs; some ((f.2 : Int) - f.1, f.2)
  else none
/-- The receiver and the donor of an epoch, if any. -/
def decklePick (pl : Plan) : Option (Nat × Nat) :=
  let ds := pl.stages.zipIdx.filterMap (fun e => (stageDemand pl e.2).map (fun d => (e.2, e.1, d)))
  let live := ds.filter (fun e => !e.2.1.ended)
  let ups := live.filter (fun e => decide (e.2.1.cores.length < e.2.1.cmax) && decide ((pl.hi * e.2.2.2 : Nat) ≤ (100 : Int) * e.2.2.1))
  let b := ups.foldl (fun m e => match m with
    | none => some e
    | some a => if e.2.2.1 * a.2.2.2 > a.2.2.1 * e.2.2.2 then some e else some a) none
  match b with
  | none => none
  | some b =>
    let downs := live.filter (fun e => e.1 != b.1 && decide (e.2.1.cores.length > e.2.1.cmin) &&
      decide ((100 : Int) * e.2.2.1 ≤ (pl.lo * e.2.2.2 : Nat)))
    let d := downs.foldl (fun m e => match m with
      | none => some e
      | some a => if e.2.2.1 * a.2.2.2 < a.2.2.1 * e.2.2.2 then some e else some a) none
    match d with
    | some d => if d.2.1.unit = b.2.1.unit then some (b.1, d.1) else none
    | none => none

/-- Records of cores that are being given up move to the other chests of their stage and then to the ring (R326). Of the stage's
other cores the one placed first that has room takes each. (DESIGN CHOICE, log 33) -/
def moveRecords (s : State) (p st : Nat) (from_ : List Nat) : State :=
  match s.stage? p st with
  | none => s
  | some g =>
    let others := g.cores.filter (fun c => !from_.contains c && !(s.core c).revoked)
    (chestsOf s from_).foldl (fun s r =>
      let drop := fun (s : State) => from_.foldl (fun s c => s.modCore c (fun k =>
        { k with chest := k.chest.filter (fun q => q.id != r.id),
                 bins := k.bins.map (fun b => (b.1, { b.2 with recs := b.2.recs.filter (fun q => q.id != r.id) })) })) s
      match others.find? (fun c => decide ((s.core c).chest.length < 512)) with
      | some c => ((drop s).modCore c (fun k => { k with chest := k.chest ++ [r] })).after 0 (.warpFormation c)
      | none =>
        match s.stage? p st with
        | some h => if ringRoom h then ringPush (drop s) p st r else s
        | none => s) s

/-- The end of an epoch (R325, R326). -/
def execDeckleEpoch (p : Nat) (s : State) : Host.Outcome State Fault Refusal :=
  match mfind s.plans p with
  | none => done s
  | some pl =>
    if pl.state ≠ .running then done s
    else if s.gtime < pl.epochAt then done (s.untilTime pl.epochAt (.deckleEpoch p)) else
    let s := startEpoch s p pl
    if pl.move.isSome then done s else
    match decklePick pl with
    | none => done s
    | some (b, d) =>
      match pl.stages[d]? with
      | none => done s
      | some g =>
        let cs := g.cores.drop (g.cores.length - g.unit)
        let s := revokeCores (s.modPlan p (fun q => { q with move := some (d, b, cs) })) p cs
        done ((moveRecords s p d cs).after 0 (.deckleHandover p))
/-- The hand-over (R326): once the unit's warps have retired and its chests are empty, it joins the receiver, even one that has
ended meanwhile. (DESIGN CHOICE, log 33) -/
def execDeckleHandover (p : Nat) (s : State) : Host.Outcome State Fault Refusal :=
  match mfind s.plans p with
  | none => done s
  | some pl =>
    match pl.move with
    | none => done s
    | some (d, b, cs) =>
      let s := moveRecords s p d cs
      let busy := s.warps.any (fun e => cs.contains (coreOf e.1)) || s.saved.any (fun v => cs.contains (coreOf v.src))
      if busy || !(chestsOf s cs).isEmpty then done s
      else if !cs.all (coreIdle s) || !saveRoom s pl.asid (cs.length * ((pl.stages[b]?).elim 0 (fun g => (launchedIdx g).length))) then
        done (s.after s.lat.tce (.deckleHandover p))
      else
        let s := cs.foldl leaveCore s
        let s := s.modStage p d (fun g => { g with cores := g.cores.filter (fun c => !cs.contains c) })
        let s := { s with groups := s.groups.filter (fun g => !(g.2.plan == p && g.2.cores.any cs.contains)) }
        done (placeUnit p b (s.modPlan p (fun q => { q with move := none })) cs)

/-! Continuation records (R206, R207, R328 to R331). -/

/-- A record by number. -/
def findRecord (s : State) (id : Nat) : Option Record := (allRecords s).find? (fun r => r.id == id)
def modRecord (s : State) (id : Nat) (f : Record → Record) : State := mapRecords s (fun r => if r.id = id then f r else r)

/-- A record becomes eligible once the spawner's earlier stores are acknowledged (R206): READY, or on its way to its
counter. -/
def execRecordEligible (id : Nat) (s : State) : Host.Outcome State Fault Refusal :=
  match findRecord s id with
  | none => done s
  | some r =>
    if r.eligible then done s else
    let a := r.wait.look s
    let s := modRecord s id (fun r => { r with wait := a })
    if !a.isDone s then done (s.after s.lat.hop (.recordEligible id)) else
    let s := modRecord s id (fun r => { r with eligible := true })
    if r.armed.isNone then done (makeReady s [id] none) else done (s.after s.lat.hop (.armedRegistration id))
/-- The stage that holds a record is looked at again: it may have ended (R332). -/
def stageLook (s : State) (id : Nat) : State :=
  let s := s.cores.foldl (fun s c => match c.2.owner with
    | some (p, st) => if c.2.chest.any (fun r => r.id == id) then s.after 0 (.stageEnd p st) else s
    | none => s) s
  s.plans.foldl (fun s p => p.2.stages.zipIdx.foldl (fun s g =>
    if g.1.ring.any (fun r => r.id == id) then s.after 0 (.stageEnd p.1 g.2) else s) s) s
/-- The registration step at the counter's home (R207). -/
def execArmedRegistration (id : Nat) (s : State) : Host.Outcome State Fault Refusal :=
  match findRecord s id with
  | none => done s
  | some r =>
    if r.ready || r.regd || !r.eligible then done s else
    match counterKey s r with
    | none => done (s.after s.lat.hop (.armedRegistration id))
    | some key =>
      let h := homeRead s none key 4
      let n := leNat h.1
      let t := modRecord h.2 id (fun r => { r with regd := true, readyAt := h.2.nextId })
      if n % 2 ^ 24 = 0 then done (makeReady t.usedId [id] (some (n / 2 ^ 24))) else done (stageLook t.usedId id)

/-- Putting READY records of a chest into bins (R330), in the order they became READY. -/
def fillBins (k : Core) : NMap Bin :=
  let inBin := fun (bs : NMap Bin) (id : Nat) => bs.any (fun b => b.2.recs.any (fun q => q.id == id))
  (sortBy (·.readyAt) (k.chest.filter (·.ready))).foldl (fun bs r =>
    if inBin bs r.id then bs else
    match bs.find? (fun b => b.2.pc == r.pc) with
    | some (i, _) => mmod bs i (fun b => { b with recs := insertBy (·.readyAt) r b.recs })
    | none =>
      match (List.range 16).find? (fun i => (mfind bs i).isNone) with
      | some i => mset bs i { pc := r.pc, recs := [r] }
      | none => bs) k.bins
/-- Whether a bin may form a warp (R331). -/
def binEligible (s : State) (b : Bin) : Bool :=
  decide (32 ≤ b.recs.length) || (match b.recs with
    | r :: _ => decide (r.readyClk + 512 ≤ s.clk)
    | [] => false)
/-- A warp formed from records (R20, R331). -/
def formedWarp (s : State) (p st : Nat) (pl : Plan) (g : Stage) (pc : Nat) (rs : List Record) : Warp :=
  let n := rs.length
  let w := stageWarp s p st pl g
  let m := maskOf (fun l => decide (l < n))
  let col := fun (j : Nat) => laneVec (fun l => ((rs[l]?).elim 0 (fun r => r.args.getD j 0)))
  let regs := (List.range 12).foldl (fun v j => mput v j (col j) zeroVec) []
  { w with
    pc := (List.range 32).map (fun l => if l < n then pc else 0), active := m, exited := ~~~m,
    vreg := mput regs 12 (laneVec (fun l => (rs[l]?).elim 0 (fun r => BitVec.ofNat 32 (r.status % 256)))) zeroVec }
/-- An eligible bin forms one warp where a partition has room, that of the record READY earliest, ties to the lower bin (R331,
R492); no warp of a plan that is being stopped or aborted (R327). -/
def execWarpFormation (core : Nat) (s : State) : Host.Outcome State Fault Refusal :=
  let k := s.core core
  match k.owner with
  | none => done s
  | some (p, st) =>
    match mfind s.plans p, s.stage? p st with
    | some pl, some g =>
      if k.revoked || pl.state != .running then done s else
      let bins := fillBins k
      let s := s.modCore core (fun k => { k with bins := bins })
      let s := bins.foldl (fun s b => if binEligible s b.2 then s else
        match b.2.recs with
        | r :: _ =>
          if s.agenda.contains (s.clk + (r.readyClk + 512 - s.clk), .binTimeout core b.1) then s
          else s.after (r.readyClk + 512 - s.clk) (.binTimeout core b.1)
        | [] => s) s
      let oldest := fun (b : Bin) => (b.recs.head?.map (·.readyClk)).getD 0
      let pick := (bins.filter (fun b => binEligible s b.2)).foldl (fun m b => match m with
        | none => some b
        | some a => if oldest b.2 < oldest a.2 then some b else some a) none
      let room := if !saveRoom s pl.asid 1 then none else (List.range 8).findSome? (fun q =>
        if partRoom s core q g.vregs then (freeSlot s core q).map (fun k => core * 128 + q * 16 + k) else none)
      (match pick, room with
      | some (i, b), some w =>
        let rs := b.recs.take 32
        let gone := rs.map (·.id)
        let left := b.recs.drop 32
        let s := s.modCore core (fun k =>
          { k with
            chest := k.chest.filter (fun r => !gone.contains r.id)
            bins := if left.isEmpty then mdel k.bins i else mset k.bins i { b with recs := left } })
        let s := placeWarp s w (formedWarp s p st pl g b.pc rs)
        done ((s.after 0 (.ringToChest p st)).after 1 (.warpFormation core))
      | _, _ => done s)
    | _, _ => done s
/-- A bin's oldest record has waited 512 clk (R331). -/
def execBinTimeout (core bin : Nat) (s : State) : Host.Outcome State Fault Refusal :=
  match mfind (s.core core).bins bin with
  | some b => if binEligible s b then done (s.after 0 (.warpFormation core)) else done s
  | none => done s
/-- Records move from the head of the ring into free chest entries, lowest core first (R329). -/
def execRingToChest (p st : Nat) (s : State) : Host.Outcome State Fault Refusal :=
  match s.stage? p st with
  | none => done s
  | some g =>
    let put := fun (s : State) (r : Record) =>
      match (sortBy id g.cores).find? (fun c => !(s.core c).revoked && decide ((s.core c).chest.length < 512)) with
      | none => s
      | some c =>
        let s := s.modStage p st (fun g => { g with ring := g.ring.filter (fun q => q.id != r.id) })
        let s := match r.place with
          | some a => unitTouch s r.asid a 64
          | none => s
        (s.modCore c (fun k => { k with chest := k.chest ++ [ringTake s r] })).after 0 (.warpFormation c)
    done ((g.ring.foldl put s).after 0 (.deckleHandover p))

end Sys2Proof.Machine
end

