-- ==== Sys2Proof/Machine/Hqs.lean ====
section
/-!
DEFINITION. The hardware queue scheduler: control blocks (R304 to R306), hardware slots (R307 to R309), notifies (R310,
R311), commands (R312 to R314), and the HQS's side of LAUNCH and ENQ (R208, R209, R315).
-/

namespace Sys2Proof.Machine

/-! Control blocks. -/

/-- The shadow half of a queue, if the queue exists (R304, R305): its physical address and its bytes. -/
def shadowHalf (s : State) (q : Nat) : Option (Nat × List Byte) :=
  match mfind s.queues q with
  | none => none
  | some 0 => none
  | some a => some (a, cohBytes s a 64)
/-- Writing bytes of a shadow half. -/
def shadowPut (s : State) (q off : Nat) (bs : List Byte) : State :=
  match shadowHalf s q with
  | some (a, _) => homeWrite s (a + off) bs
  | none => s
/-- A queue as its halves say (R304, R305); without the user half its write index reads as its read index. -/
def queueFromHalves (s : State) (q : Nat) (b : List Byte) : HqSlot :=
  let f := field b
  let asid := f 12 2 % 4096
  let user := f 40 8
  { queue := q, base := f 0 8, lgsize := f 8 1, prio := f 9 1 % 16, state := f 10 1, err := f 11 1, asid := asid,
    cmds := f 14 1, key := f 15 1, slice := f 16 4, devfed := f 20 1 % 2 == 1, remote := f 20 1 / 2 % 2 == 1,
    rd := f 24 8, wr := ((vRead s asid user 8).map leNat).getD (f 24 8), ctr := f 32 4, user := user, loaded := s.gtime,
    order := s.nextId, expired := false,
    feat := (List.range 4).map (fun i => BitVec.ofNat 32 (f (48 + 4 * i) 4)) }
/-- The slot a queue holds. -/
def slotOfQueue (s : State) (q : Nat) : Option (Nat × HqSlot) := s.slots.find? (fun e => e.2.queue == q)
/-- A queue as it now stands: in its slot, or in its halves. -/
def queueNow (s : State) (q : Nat) : Option HqSlot :=
  match slotOfQueue s q with
  | some (_, k) => some k
  | none => (shadowHalf s q).map (fun h => queueFromHalves s q h.2)
def modSlot (s : State) (q : Nat) (f : HqSlot → HqSlot) : State :=
  { s with slots := s.slots.map (fun e => if e.2.queue = q then (e.1, f e.2) else e) }

/-- Raising the user half's write index to `n`: an indivisible maximum at its home (R304). -/
def raiseWr (s : State) (asid user n : Nat) : State :=
  let s := unitTouch s asid user 8
  match vRead s asid user 8 with
  | some b => if leNat b < n then vWriteD s asid user (leBytes 8 n) else s
  | none => s

/-- A queue enters ERROR (R306): state and code in the slot and in both halves, and a report to Toltar, kind 15.
(DESIGN CHOICE, log 40) -/
def queueError (s : State) (q code : Nat) : State :=
  match queueNow s q with
  | none => s
  | some k =>
    let s := modSlot s q (fun k => { k with state := 2, err := code })
    let s := shadowPut s q 10 [2, BitVec.ofNat 8 code]
    (vWriteD s k.asid (k.user + 20) [2, BitVec.ofNat 8 code]).tell 15 [q, code]

/-! Commands (R306, R312). -/

/-- The address checks of a command: alignment, translation and permission. -/
def cmdAddrOk (s : State) (asid a align : Nat) (n : Need) : Bool :=
  a % align == 0 && decide (a < 2 ^ 57) && (xlateNow s asid a n).isSome

/-- The twelve argument words of a start command. -/
def cmdArgs (b : List Byte) : List Word := (List.range 12).map (fun i => BitVec.ofNat 32 (field b (16 + 4 * i) 4))

/-- What a command is (R312), if its bytes are right. -/
def cmdEvent (q : Nat) (b : List Byte) : Option Event :=
  let f := field b
  let a := f 8 8
  match f 0 1 with
  | 0 => if zeros b 1 63 then some (.cmdNop q) else none
  | 1 => if zeros b 1 15 && zeros b 40 24 then
      some (.attach q ((List.range 4).map (fun i => BitVec.ofNat 32 (f (16 + 4 * i) 4))) (f 32 8)) else none
  | 2 => if f 1 1 = 0 ∧ zeros b 2 6 then some (.planStart q a (cmdArgs b))
      else if f 1 1 = 1 ∧ zeros b 2 6 then some (.planRestart q a (cmdArgs b)) else none
  | 3 => if zeros b 1 7 && zeros b 10 54 then
      (if f 9 1 = 0 then some (.planStop q (f 8 1)) else if f 9 1 = 1 then some (.planAbort q (f 8 1)) else none)
      else none
  | 4 => if zeros b 1 7 then some (.stageLaunch q a (cmdArgs b)) else none
  | 5 => if zeros b 1 7 && zeros b 25 39 && decide (f 24 1 ≤ 1) then
      some (.signal q a (f 16 8) (f 24 1 == 1)) else none
  | 6 => if zeros b 1 7 && zeros b 34 30 && decide (f 32 1 ≤ 3) && decide (f 33 1 ≤ 1) then
      some (.waitWord q a (f 16 8) (f 24 8) (f 32 1) (f 33 1 == 1)) else none
  | 7 => if zeros b 1 63 then some (.cmdFence q) else none
  | _ => none

/-- Whether the addresses of a command stand (R306 code 0x07). -/
def cmdAddrs (s : State) (asid : Nat) (e : Event) : Bool :=
  match e with
  | .attach _ _ a => cmdAddrOk s asid a 16 needW
  | .planStart _ a _ | .planRestart _ a _ | .stageLaunch _ a _ => cmdAddrOk s asid a 128 needR
  | .signal _ a _ wide => cmdAddrOk s asid a (if wide then 8 else 4) needW
  | .waitWord _ a _ _ _ wide => cmdAddrOk s asid a (if wide then 8 else 4) needR
  | _ => true

/-- A stop of a plan that belongs to another address space than the queue's (R327). -/
def foreignPlan (s : State) (asid : Nat) (e : Event) : Bool :=
  match e with
  | .planStop _ p | .planAbort _ p =>
    (match mfind s.plans p with
    | some pl => pl.asid != asid
    | none => false)
  | _ => false

/-- The checks of R306 on a command, in the order of their codes: the failing code, or the command. -/
def checkCmd (s : State) (k : HqSlot) (b : List Byte) : Nat ⊕ Event :=
  match cmdEvent k.queue b with
  | none => .inl 4
  | some e =>
    let op := field b 0 1
    if !k.cmds.testBit op || foreignPlan s k.asid e then .inl 5
    else if decide (1 < op) && !s.attached.contains k.queue then .inl 6
    else if !cmdAddrs s k.asid e then .inl 7
    else .inr e

/-- A command starts (R313): it is in progress until it completes. -/
def startCmd (s : State) (q : Nat) (e : Event) : State :=
  ({ s.usedId with work := s.work ++ [({ queue := q, order := s.nextId, instr := e } : QueueWork)] }).after 0 e

/-! The commands' effects (R312, R313). Starting and stopping plans is in Plans.lean. -/

def execCmdNop (q : Nat) (s : State) : Host.Outcome State Fault Refusal := done (completeCmd s q (.cmdNop q))
/-- ATTACH (R312, R314). -/
def execAttach (q : Nat) (feat : List Word) (addr : Nat) (s : State) : Host.Outcome State Fault Refusal :=
  let got := (List.range 4).map (fun i => feat.getD i 0 &&& s.feat.getD i 0)
  let bs := got.flatMap (fun w => leBytes 4 w.toNat)
  let asid := queueAsid s q
  let s := modSlot s q (fun k => { k with feat := got })
  let s := { shadowPut s q 48 bs with attached := if s.attached.contains q then s.attached else q :: s.attached }
  done (completeCmd (vWriteD s asid addr bs) q (.attach q feat addr))
/-- SIGNAL (R313): after every earlier command of the queue; a word that cannot be written is an ADDR error. -/
def execSignal (q addr val : Nat) (wide : Bool) (s : State) : Host.Outcome State Fault Refusal :=
  let e := Event.signal q addr val wide
  if earlierWork s q e || !s.work.any (fun w => w.queue == q && w.instr == e) then done s else
  match vWrite s (queueAsid s q) addr (leBytes (if wide then 8 else 4) val) with
  | some t => done (completeCmd t q e)
  | none => done (completeCmd (queueError s q 7) q e)
/-- FENCE (R313). -/
def execCmdFence (q : Nat) (s : State) : Host.Outcome State Fault Refusal :=
  if earlierWork s q (.cmdFence q) then done s else done (completeCmd s q (.cmdFence q))

/-- Whether WAIT's comparison holds (R312), none if its word cannot be read. -/
def waitHolds (s : State) (asid addr val mask cmp : Nat) (wide : Bool) : Option Bool :=
  let n := if wide then 8 else 4
  (vRead s asid addr n).map (fun b =>
    let v := leNat b &&& (mask % 2 ^ (8 * n))
    let r := val % 2 ^ (8 * n)
    match cmp with
    | 0 => v == r
    | 1 => v != r
    | 2 => decide (r ≤ v)
    | _ => decide (v < r))
/-- Evaluating a WAIT of a queue that holds a slot (R308, R313). (DESIGN CHOICE, log 40) -/
def tryWait (s : State) (q : Nat) (e : Event) : State :=
  match e, slotOfQueue s q with
  | .waitWord _ addr val mask cmp wide, some (_, k) =>
    let s := unitTouch s k.asid addr (if wide then 8 else 4)
    (match waitHolds s k.asid addr val mask cmp wide with
    | some true => completeCmd s q e
    | some false => s
    | none => queueError s q 7)
  | _, _ => s
def execWaitWord (q addr val mask cmp : Nat) (wide : Bool) (s : State) : Host.Outcome State Fault Refusal :=
  done (tryWait s q (.waitWord q addr val mask cmp wide))
/-- The WAIT of a queue in progress. -/
def waitOf (s : State) (q : Nat) : Option Event :=
  (s.work.find? (fun w => w.queue == q && (match w.instr with
    | .waitWord .. => true
    | _ => false))).map (·.instr)
def execWaitReevaluate (q : Nat) (s : State) : Host.Outcome State Fault Refusal :=
  match waitOf s q with
  | some e => done (tryWait s q e)
  | none => done s

/-! Slots (R307 to R309). -/

/-- A queue needs a slot (R307): it is ACTIVE and has commands, a WAIT in progress, or a dispatched command. -/
def queuePending (s : State) (k : HqSlot) : Bool :=
  k.state == 1 && (k.wr != k.rd || (waitOf s k.queue).isSome || !(mget s.dispatchq k.queue []).isEmpty)
/-- Giving up a slot (R307). -/
def unloadQueue (s : State) (i : Nat) (k : HqSlot) : State :=
  let q := k.queue
  let s := { s with slots := mdel s.slots i }
  let s := shadowPut (shadowPut (shadowPut s q 24 (leBytes 8 k.rd)) q 32 (leBytes 4 k.ctr)) q 10 [BitVec.ofNat 8 k.state]
  let s := vWriteD s k.asid (k.user + 8) (leBytes 8 k.rd ++ leBytes 4 k.ctr ++
    [BitVec.ofNat 8 k.state, BitVec.ofNat 8 k.err])
  raiseWr s k.asid k.user k.wr
/-- A loaded queue that is no longer pending, or whose slice has run out, gives up its slot (R308). -/
def execQueueUnload (q : Nat) (s : State) : Host.Outcome State Fault Refusal :=
  match slotOfQueue s q with
  | some (i, k) => if k.expired || !queuePending s k then done (unloadQueue s i k) else done s
  | none => done s

/-- The checks of code SHADOW at load (R306). -/
def shadowOk (s : State) (b : List Byte) : Bool :=
  let f := field b
  decide (f 9 1 < 16) && decide (f 12 2 < 4096) && decide (f 20 1 < 4) && zeros b 21 3 && decide (4 ≤ f 8 1) &&
    decide (f 8 1 ≤ 16) && f 16 4 != 0 && (s.space (f 12 2)).isSome &&
    (f 15 1 == 255 || (mfind s.keys (f 15 1)).isSome)
/-- The queue a load may drive out (R308): blocked in WAIT first, then lowest prio, then loaded longest ago. -/
def slotVictim (s : State) : Option (Nat × HqSlot) :=
  let rank := fun (e : Nat × HqSlot) => (if (waitOf s e.2.queue).isSome then 0 else 1, e.2.prio, e.2.order)
  let less := fun (a b : Nat × Nat × Nat) =>
    decide (a.1 < b.1) || (a.1 == b.1 && (decide (a.2.1 < b.2.1) || (a.2.1 == b.2.1 && decide (a.2.2 < b.2.2))))
  (s.slots.filter (fun e => e.2.expired)).foldl (fun m e => match m with
    | none => some e
    | some a => if less (rank e) (rank a) then some e else some a) none
/-- A queue takes a slot and is checked (R306, R307). (DEDUCED, log 39) -/
def loadInto (s : State) (q i : Nat) (b : List Byte) : State :=
  let k := queueFromHalves s q b
  let s := unitTouch s k.asid k.user 64
  if !shadowOk s b then queueError s q 1
  else if (vRead s k.asid k.user 64).isNone then queueError s q 3
  else if k.wr < k.rd ∨ k.wr - k.rd > 2 ^ k.lgsize then queueError s q 2
  else
    let s := { s.usedId with slots := mset s.slots i k }
    (s.inTime (1000 * k.slice) (.sliceExpiry q)).after 0 (.waitReevaluate q)
def execQueueLoad (q : Nat) (s : State) : Host.Outcome State Fault Refusal :=
  match slotOfQueue s q, shadowHalf s q with
  | none, some (a, b) =>
    let s := forwardRead s none a 64
    (match (List.range 64).find? (fun i => (mfind s.slots i).isNone) with
    | some i => done (loadInto s q i b)
    | none =>
      match slotVictim s with
      | some (i, k) => done (loadInto (unloadQueue s i k) q i b)
      | none => done s)
  | _, _ => done s
/-- A slice runs out (R308). -/
def execSliceExpiry (q : Nat) (s : State) : Host.Outcome State Fault Refusal :=
  match slotOfQueue s q with
  | some (_, k) =>
    let t := k.loaded + 1000 * k.slice
    if t ≤ s.gtime then done (modSlot s q (fun k => { k with expired := true })) else done (s.untilTime t (.sliceExpiry q))
  | none => done s

/-- Whether a loaded queue has a command that can start (R309, R313). (DEDUCED, log 36) -/
def startable (s : State) (k : HqSlot) : Bool :=
  k.state == 1 && (!(mget s.dispatchq k.queue []).isEmpty || k.rd != k.wr) &&
    !s.work.any (fun w => w.queue == k.queue && (match w.instr with
      | .waitWord .. | .cmdFence _ => true
      | _ => false))
/-- How many slots after the one whose turn of its prio came last a slot lies. -/
def turnOf (s : State) (e : Nat × HqSlot) : Nat := (e.1 + 63 - mget s.hqTurn e.2.prio 63) % 64
/-- The slot and queue that start a command now: highest prio, in turns in slot order among equals (R309).
(DEDUCED, log 36) -/
def nextQueue (s : State) : Option (Nat × HqSlot) :=
  (s.slots.filter (fun e => startable s e.2)).foldl (fun m e => match m with
    | none => some e
    | some a => if e.2.prio > a.2.prio || (e.2.prio == a.2.prio && decide (turnOf s e < turnOf s a)) then some e else some a) none
/-- Starting the next command of a queue: a dispatched one, or the one at rd (R306, R309, R313). (DEDUCED, log 36) -/
def startNext (s : State) (i : Nat) (k : HqSlot) : State :=
  let q := k.queue
  let s := { s with hqTurn := mset s.hqTurn k.prio i }
  match mget s.dispatchq q [] with
  | b :: r =>
    let s := { s with dispatchq := mput s.dispatchq q r [] }
    (match cmdEvent q b with
    | some e => startCmd s q e
    | none => s)
  | [] =>
    let a := k.base + 64 * (k.rd % 2 ^ k.lgsize)
    let s := unitTouch s k.asid a 64
    match vRead s k.asid a 64 with
    | none => queueError s q 3
    | some b =>
      match checkCmd s k b with
      | .inl code => queueError s q code
      | .inr e =>
        let s := modSlot s q (fun k => { k with rd := k.rd + 1 })
        startCmd (vWriteD s k.asid (k.user + 8) (leBytes 8 (k.rd + 1))) q e

/-- The head of a die's device-launch queue starts (R315); a stage launch waits there for a plan slot. -/
def startLaunch (s : State) (d : Nat) : State :=
  match (s.die d).launchq with
  | [] => s
  | e :: r =>
    let go := fun (q : Nat) => startCmd (s.modDie d (fun x => { x with launchq := r })) q e
    match e with
    | .stageLaunch q _ _ => if (freePlanSlot s).isSome then go q else s
    | .planStart q _ _ | .planRestart q _ _ => go q
    | _ => s.modDie d (fun x => { x with launchq := r })

/-- One clk of the HQS: slots are given up and asked for, WAITs are looked at again, one command and the launches of
each die start. -/
def hqsTick (s : State) : State :=
  let s := s.slots.foldl (fun s e => if queuePending s e.2 then s else s.after 0 (.queueUnload e.2.queue)) s
  let s := s.queues.foldl (fun s e =>
    if (slotOfQueue s e.1).isSome then s else
    match shadowHalf s e.1 with
    | some (_, b) =>
      let k := queueFromHalves s e.1 b
      if queuePending s k || (k.state == 1 && (vRead s k.asid k.user 64).isNone) then s.after 0 (.queueLoad e.1) else s
    | none => s) s
  let s := s.slots.foldl (fun s e => match waitOf s e.2.queue with
    | some (.waitWord _ a v m c w) =>
      if waitHolds s e.2.asid a v m c w == some false then s else s.after 0 (.waitReevaluate e.2.queue)
    | _ => s) s
  let s := match nextQueue s with
    | some (i, k) => startNext s i k
    | none => s
  s.dies.foldl (fun s d => startLaunch s d.1) s

/-! Notifies (R310, R311). -/

/-- The saturating counters of dropped notifies. -/
def bumpDropped (s : State) (q off : Nat) : State :=
  match shadowHalf s q with
  | some (_, b) => shadowPut s q off (leBytes 2 (min (field b off 2 + 1) 0xFFFF))
  | none => s
/-- The write index rises where it is kept. -/
def raiseQueueWr (s : State) (k : HqSlot) (n : Nat) : State :=
  match slotOfQueue s k.queue with
  | some _ => modSlot s k.queue (fun k => { k with wr := max k.wr n })
  | none => raiseWr s k.asid k.user n
/-- A notify (R311); one that comes before its queue's address space is registered, which step 8 allows, or before a key is in the
queue's key slot is dropped as for an unknown queue (R450). -/
def execNotify (m : List Byte) (s : State) : Host.Outcome State Fault Refusal :=
  let q := field m 0 2
  let drop := { s with notifyErr := s.notifyErr + 1 }
  if m.length ≠ 64 || (shadowHalf s q).isNone then done drop else
  match queueNow s q with
  | none => done drop
  | some k =>
    if q ≥ 16384 || !zeros m 2 2 || !zeros m 16 32 || (s.space k.asid).isNone || (k.key != 255 && (mfind s.keys k.key).isNone) then
      done drop
    else
    let tag := (mfind s.keys k.key).map (fun key => (hmacSm3 key (m.take 48)).take 16)
    if k.key = 255 || k.devfed || tag != some (m.drop 48) then done (bumpDropped s q 36)
    else if field m 4 4 ≤ k.ctr then done (bumpDropped s q 38)
    else
      let n := field m 8 8
      let s := match slotOfQueue s q with
        | some _ => modSlot s q (fun k => { k with ctr := field m 4 4 })
        | none => shadowPut s q 32 (leBytes 4 (field m 4 4))
      if n < k.rd ∨ n - k.rd > 2 ^ k.lgsize then done (queueError s q 2) else done (raiseQueueWr s k n)

/-! LAUNCH and ENQ (R208, R209, R315). -/

/-- The q of a LAUNCH or ENQ is written and the instruction is over. -/
def finishHqs (s : State) (w : Nat) (f : Flight) (full : Bool) : State :=
  let ws := f.writes.map (fun d => match d with
    | .q n _ => RegWrite.q n full
    | d => d)
  settle (finishResult s w { f with writes := ws }) w

/-- Every store a warp issued before `seq` has been acknowledged. -/
def storesAcked (x : Warp) (seq : Nat) : Bool := !x.storeq.any (fun e => decide (e.seq < seq)) && x.unacked.isEmpty

/-- An accepted record enters the die's queue (R315). Its opcode must be the one M[0] names; of another record that can be found,
the completion word gets BADREC, and otherwise Toltar hears of it (kind 14). (DESIGN CHOICE, log 40) -/
def acceptLaunch (s : State) (d asid : Nat) (plan : Bool) (rec_ : Nat) : State :=
  let q := launchQueue d asid
  let s := unitTouch s asid rec_ 64
  match vRead s asid rec_ 64 with
  | none => s.tell 14 [q, rec_]
  | some b =>
    let op := field b 0 1
    let a := field b 8 8
    let cword := if op = 2 then a + 16 else a + 64
    let s := if op ≠ 2 ∧ op ≠ 4 then s else unitTouch s asid cword 8
    let bad := if op ≠ 2 ∧ op ≠ 4 then s.tell 14 [q, rec_] else
      match vRead s asid cword 8 with
      | some w => vWriteD s asid (leNat w) (completionWord 0x10 0 0xFF 0 0)
      | none => s.tell 14 [q, rec_]
    if op ≠ (if plan then 2 else 4) then bad else
    match cmdEvent q b with
    | some e => if cmdAddrs s asid e then s.modDie d (fun x => { x with launchq := x.launchq ++ [e] }) else bad
    | none => bad

/-- The HQS looks at a die's waiting LAUNCHes (R208). -/
def execLaunchAccept (die : Nat) (s : State) : Host.Outcome State Fault Refusal :=
  done (s.warps.foldl (fun s e =>
    if dieOf e.1 ≠ die then s else
    e.2.flights.foldl (fun s f => match f.kind with
      | .launch plan rec_ =>
        if decide (f.due > s.clk) then s
        else if !storesAcked (s.warpD e.1) f.seq then s.after s.lat.hop (.launchAccept die)
        else
          let full := decide (64 ≤ (s.die die).launchq.length) || (plan && (freePlanSlot s).isNone)
          let s := finishHqs s e.1 f full
          if full then s else acceptLaunch s die e.2.asid plan rec_
      | _ => s) s) s)

/-- The queue whose user half stands at an address of a space. -/
def queueByUser (s : State) (asid user : Nat) : Option HqSlot :=
  (s.queues.filterMap (fun e => queueNow s e.1)).find? (fun k => k.asid == asid && k.user == user)
/-- The HQS's indivisible step of an ENQ (R209). (DESIGN CHOICE, log 40) -/
def execEnqStep (w seq : Nat) (s : State) : Host.Outcome State Fault Refusal :=
  match flight? s w seq with
  | none => done s
  | some f =>
    match f.kind with
    | .enq user cmd =>
      let x := s.warpD w
      if !storesAcked x seq then done (s.after s.lat.hop (.enqStep w seq)) else
      let s := unitTouch s x.asid cmd 64
      let full := done (finishHqs s w f true)
      (match queueByUser s x.asid user, vRead s x.asid cmd 64 with
      | some k, some b =>
        if k.state ≠ 1 || !k.devfed || !k.cmds.testBit (field b 0 1) || decide (k.wr - k.rd ≥ 2 ^ k.lgsize) then full else
        (match vWrite s k.asid (k.base + 64 * (k.wr % 2 ^ k.lgsize)) b with
        | none => done (queueError (finishHqs s w f true) k.queue 3)
        | some s =>
          let s := raiseWr (modSlot s k.queue (fun k => { k with wr := k.wr + 1 })) k.asid k.user (k.wr + 1)
          done (finishHqs s w f false))
      | _, _ => full)
    | _ => done s

end Sys2Proof.Machine
end

