-- ==== Sys2Proof/Machine/Preempt.lean ====
section
/-!
DEFINITION. Pre-emption and resumption (R381 to R383, R301, R192, R369, R377, R380) and stop points (R392): a warp yields
at a boundary in two parts, its capture and, once its stores are global, its save.
-/

namespace Sys2Proof.Machine

/-! Requests. -/

/-- Asking a warp to yield at its next boundary. -/
def askPreempt (s : State) (w : Nat) : State :=
  (s.modWarp w (fun x => { x with preemptReq := true })).after 0 (.preempt w)
/-- Toltar's request (R381). -/
def execPreemptRequest (t : PreemptTarget) (s : State) : Host.Outcome State Fault Refusal :=
  let hit := fun (e : Nat × Warp) => match t with
    | .warp w => e.1 == w
    | .core c => coreOf e.1 == c
    | .stage p st => e.2.plan == p && e.2.stage == st
  done ((s.warps.filter hit).foldl (fun s e => askPreempt s e.1) s)

/-! The save area (R26). -/

/-- The lane mask of an identifier's struck entries (R192). -/
def struckMask (x : Warp) (i : Nat) : Nat :=
  (x.watch.foldl (fun m e => if e.wid = i ∧ e.state = .struck then m ||| e.mask else m) (0 : LaneMask)).toNat

/-! Yielding (R381). -/

/-- The lanes whose stop point holds them (R392). -/
def stoppedLanes (s : State) (w : Nat) (x : Warp) : LaneMask :=
  (s.core (coreOf w)).dbg.stops.foldl (fun m e =>
    if e.2.warp = w ∧ x.active.getLsbD e.2.lane ∧ x.pc.getD e.2.lane 0 = e.2.addr ∧ !x.stopDone.contains (e.2.lane, e.2.addr)
    then m ||| laneBit e.2.lane else m) (0 : LaneMask)

/-- A pre-emption that cannot save, its drain having filled the record queue: the captured instructions are injected
again and the store faults are taken first. (DEDUCED, log 30) -/
def giveUpPreempt (s : State) (w : Nat) (reps : List (BitVec 192)) (barw : LaneMask) : State :=
  let s := s.modWarp w (fun x => { x with preRep := none, isolated := lanesOf barw })
  (reps.foldl (reinjectOne w) s).after 0 (.trapEntry w)

/-- The second part: the watches are struck, the save area is written, and the warp gives up its slot; a warp that a stop point
or a dump stops leaves a kind-5 record (R392, R399), of a dump for its lowest lane that has not exited. (DEDUCED, log 29 and 52) -/
def saveWarp (s : State) (w : Nat) (reps : List (BitVec 192)) (barw : LaneMask) : State :=
  let stops := stoppedLanes s w (s.warpD w)
  let strike := fun (e : WatchEntry) => if e.state = .pending then { e with state := .struck } else e
  let n := ((s.warpD w).watch.filter (fun e => e.state == .pending)).length
  let s := countFor (s.modWarp w (fun x => { x with watch := x.watch.map strike })) w 5 n
  let x := s.warpD w
  let pend := x.pend.foldl (fun m p => m ||| pendBit p.code) 0
  let pf := match x.pend.find? (fun p => pendBit p.code != 0) with
    | some p => p.faddr
    | none => 0
  let old := (vRead s x.asid x.saveArea 1024).getD []
  let rec_ := controlRecord x
    { reps := reps, cause := x.cause.toNat % 65536 + pend * 65536, faddr := x.faddr.toNat, pfaddr := pf.toNat,
      barw := barw.toNat, inHandler := x.handler, wmask := struckMask x }
  let s := vWriteD s x.asid x.saveArea (rec_ ++ saveRest s w x)
  let sw := fun (c : CounterSet) => if c.started then { c with switches := c.switches + 1 } else c
  let y := { x with ctr := x.ctr.map (fun c => (c.1, sw c.2)), preemptReq := false, preRep := none, pend := [], watch := [],
                    stopDone := x.stopDone ++ (lanesOf stops).map (fun l => (l, x.pc.getD l 0)), readySince := none }
  let id := s.nextId
  let v : Saved :=
    { id := id, src := w, warp := y, record := if x.handler then old else [], stopped := stops != 0 }
  let told := if s.stopped.contains x.asid && stops == 0 then (match lanesOf (~~~x.exited) with | l :: _ => laneBit l | [] => 0) else stops
  let s := (lanesOf told).foldl (fun s l =>
    debugPut s (coreOf w) (debugRec s w l 5 0 0 (x.pc.getD l 0) 0)) s
  let s := dropWalks { s.usedId with warps := mdel s.warps w, saved := s.saved ++ [v] } (fun k => k.src == w && !engineWalk k)
  let s := rekeyWarp s w (savedKey id)
  (s.after 0 .planPlacement).after 0 (.warpFormation (coreOf w))

/-- Yielding at a boundary (R381, R383): a trap that meets the request is entered first. -/
def execPreempt (w : Nat) (s : State) : Host.Outcome State Fault Refusal :=
  match mfind s.warps w with
  | none => done s
  | some x =>
    let full := storesHeld x
    match x.preRep with
    | some (reps, barw) =>
      if x.termReq then done s
      else if full then done (giveUpPreempt s w reps barw)
      else if x.storeq.isEmpty && x.unacked.isEmpty && !x.holds.any Hold.isArrive then done (saveWarp s w reps barw) else done s
    | none =>
      if !preemptDue x then done s
      else if wouldFuse s w then done (putOffBoundary s w (.preempt w))
      else if !(readyCauses s x).isEmpty then done (enterTrap s w)
      else if captureWaits s w x then done s
      else
        let r := capture s w none
        let s := r.1.modWarp w (fun x => { x with preRep := some (r.2.1, r.2.2.2) })
        done ((settle s w).after 0 (.preempt w))

/-- A named lane has reached a stop point (R392). -/
def execStopPoint (w : Nat) (s : State) : Host.Outcome State Fault Refusal :=
  match mfind s.warps w with
  | none => done s
  | some x => if stoppedLanes s w x = 0 then done s else done (askPreempt s w)

/-! Resumption (R382). -/

/-- Restoring one writable special register from its 8 bytes of section 2. -/
def restoreReg (b : List Byte) (x : Warp) (n : Nat) : Warp :=
  let v := field b (saveSpecial + 8 * savedRegs.idxOf n) 8
  match n with
  | 0x07 => { x with prio := BitVec.ofNat 32 (v % 16) }
  | 0x0A => { x with fpctl := BitVec.ofNat 32 (v &&& 0x3F01) }
  | 0x0C => { x with trapbase := BitVec.ofNat 64 (v / 16 * 16) }
  | 0x0D => { x with tmode := BitVec.ofNat 32 (v &&& 0x38) }
  | 0x0F => { x with mctl := BitVec.ofNat 32 (v &&& 0x11F1F) }
  | 0x10 => { x with mstat := BitVec.ofNat 32 v }
  | 0x11 => { x with cause := BitVec.ofNat 32 v }
  | 0x12 => { x with faddr := BitVec.ofNat 64 v }
  | _ => x
/-- The registers of sections 3 to 9. -/
def restoreRegs (b : List Byte) (x : Warp) : Warp :=
  let f := field b
  let bit := fun (a i : Nat) => (f (a + i / 8) 1).testBit (i % 8)
  let word := fun (a : Nat) => BitVec.ofNat 32 (f a 4)
  let row := fun (j : Nat) => laneVec (fun l => word (saveVec x.nv x.ns + 128 * j + 4 * l))
  { x with
    fpstat := allLanes.map (fun l => f (saveFpstat + 4 * l) 4 % 64)
    pred := (List.range 7).foldl (fun m i => mput m i (maskOf (fun l => bit (savePreds + l) i)) 0) []
    upred := (List.range 7).foldl (fun m i => mput m i (bit (savePreds + 32) i) false) []
    tile := (List.range 8).foldl (fun m i => mput m i (BitVec.ofNat 128 (f (saveTiles + 16 * i) 16)) 0) []
    sE := (List.range x.ns).foldl (fun m i => mput m i (!bit saveUniBits i) false) []
    sreg := (List.range x.ns).foldl (fun m i => mput m i (word (saveUni + 4 * i)) 0) []
    vE := (List.range x.nv).foldl (fun m i => mput m i (~~~(word (saveVecBits x.ns + 4 * i))) 0) []
    vreg := (List.range x.nv).foldl (fun m i => mput m i (row i) zeroVec) [] }
/-- The warp a save area describes, beside what Toltar kept; the clk since its last issue go on counting (R36).
(DEDUCED, log 29 and 61) -/
def restoreWarp (s : State) (b : List Byte) (v : Saved) (w : Nat) : Warp :=
  let f := field b
  let x := restoreRegs b (savedRegs.foldl (restoreReg b) v.warp)
  let hm := f 0x1C4 4 / 4 % 2
  let struck := (List.range 8).filterMap (fun i =>
    let m := BitVec.ofNat 32 (f (0x1A0 + 4 * i) 4)
    if m = 0 then none
    else some ({ grain := 0, wid := i, mask := m, state := .struck, ver := none, size := 0, seq := 0 } : WatchEntry))
  let recs := (List.range (min 16 (f 0x1C3 1))).map (fun i => (
    { addr := BitVec.ofNat 64 (f (0x2F8 + 16 * i) 8), lanes := BitVec.ofNat 32 (f (0x2F8 + 16 * i + 8) 4),
      pc := BitVec.ofNat 32 (f (0x2F8 + 16 * i + 12) 4), hmode := (v.warp.sfq[i]?).elim false (·.hmode) } : SfRec))
  let pcs := allLanes.map (fun l => x.codeBase + 4 * (f (4 * l) 4 % 2 ^ 28))
  { x with
    pc := pcs
    point := allLanes.map (fun l => x.codeBase + 12 * f (0x80 + 4 * l) 4)
    cmask := allLanes.map (fun l => BitVec.ofNat 32 (f (0x100 + 4 * l) 4))
    active := BitVec.ofNat 32 (f 0x180 4), waiting := BitVec.ofNat 32 (f 0x184 4), exited := BitVec.ofNat 32 (f 0x188 4)
    tmode := x.tmode ||| BitVec.ofNat 32 hm, watch := struck, wauto := BitVec.ofNat 8 (f 0x1C0 1), sfq := recs
    isolated := lanesOf (maskOf (fun l => (f 0x1C8 4).testBit l && pcs.getD l 0 == v.warp.pc.getD l 0)), holds := [], flights := [], ffmas := [], boost := false
    yielding := false, readySince := none, relMark := none, putOff := none, age := List.replicate 32 0, aged := 0, wake := 0
    laneWake := pcs.map (fun p => branchWake s w (s.clk + 1) p p) }

/-- Whether a pre-empted warp may take a slot (R382): free, with room, on its own core, or on any core of its stage if
it is in no group. -/
def mayResume (s : State) (v : Saved) (w : Nat) : Bool :=
  let c := coreOf w
  let st := (s.core c).owner == some (v.warp.plan, v.warp.stage)
  decide (w < 128 * 96 * s.nDies) && (mfind s.warps w).isNone && partRoom s c (partOf w) v.warp.nv &&
    (c == coreOf v.src || (v.warp.groupList.isEmpty && st)) && !(s.die (dieOfCore c)).lost.contains c && !s.stopped.contains v.warp.asid

/-- A pre-empted warp resumes in a slot (R382). -/
def execResume (id w : Nat) (s : State) : Host.Outcome State Fault Refusal :=
  match s.saved.find? (fun v => v.id == id) with
  | none => done s
  | some v =>
    if !mayResume s v w then done s else
    match vRead s v.warp.asid v.warp.saveArea (saveBytes v.warp.nv v.warp.ns) with
    | none => done s
    | some b =>
      let f := field b
      let s := unitTouch s v.warp.asid v.warp.saveArea (saveBytes v.warp.nv v.warp.ns)
      let s := rekeyWarp { s with saved := s.saved.filter (fun u => u.id != id) } (savedKey id) w
      let s := placeWarp s w (restoreWarp s b v w)
      let s := if v.record.isEmpty then s else vWriteD s v.warp.asid v.warp.saveArea v.record
      let s := acquire s w true
      let x := s.warpD w
      let s := traceMoves s w (~~~x.exited) (fun l => v.warp.pc.getD l 0) (fun l => x.pc.getD l 0)
      let nrep := min 12 (f 0x1C2 1)
      let reps := (List.range nrep).map (fun i => BitVec.ofNat 192 (f (0x1D8 + 24 * i) 24))
      let s := reps.foldl (reinjectOne w) s
      let pend := f 0x18C 4 / 65536 % 256
      let s := (List.range 5).foldl (fun s i =>
        if pend.testBit i then
          addPend s w { code := 0x0E + i, faddr := BitVec.ofNat 64 (f 0x1D0 8), lanes := 0xFFFFFFFF, due := s.clk, entry := none }
        else s) s
      done (checkExit (settle s w) w)

end Sys2Proof.Machine
end

