-- ==== Sys2Proof/Machine/Walks.lean ====
section
/-!
DEFINITION. Translation misses and errors: walks (R280, R283, R284), Toltar's fault queue and its answers (R417, R423),
invalidation (R285), uncorrectable errors (R286).
-/

namespace Sys2Proof.Machine

/-- A change of every die. -/
def everyDie (s : State) (f : Die → Die) : State := { s with dies := s.dies.map (fun e => (e.1, f e.2)) }
def walk? (s : State) (id : Nat) : Option Walk := s.walks.find? (fun k => k.id == id)
def dropWalk (s : State) (id : Nat) : State := dropWalks s (fun k => k.id == id)
def modWalk (s : State) (id : Nat) (f : Walk → Walk) : State :=
  { s with walks := s.walks.map (fun k => if k.id = id then f k else k) }

/-- The access of a resolved walk goes on (R284): by its kind, a load or atomic, a store, a fetch, a copy, a summary. -/
def resumeAccess (s : State) (k : Walk) : State :=
  match k.kind with
  | 2 => s
  | 4 => s.cores.foldl (fun s c => if c.2.tce.isEmpty then s else s.after 0 (.tcopyComplete c.1)) s
  | 6 => s.cores.foldl (fun s c => if c.2.sumq.isEmpty then s else s.after 0 (.summaryPerform (.core c.1))) s
  | _ => ((s.after 0 (.loadReturn k.src k.seq)).after 0 (.homeAtomic k.src k.seq)).after 0 (.storeQueueExit k.src)
/-- The access fails: DATA_PAGE, or INSTR_PAGE for a fetch (R284); its walker is free. -/
def declineWalk (s : State) (k : Walk) : State :=
  resumeAccess (giveWalkers (modWalk s k.id (fun k => { k with declined := true, held := false, walker := none }))) k

/-! Walk caches (R283). -/

/-- Where a walk on a die begins: at the deepest table its walk caches name, else at the root; level and table. -/
def walkStart (s : State) (die asid va root : Nat) : Nat × Nat :=
  ([1, 2, 3, 4].findSome? (fun l =>
    ((s.die die).wcache.find? (fun c => c.asid == asid && c.lvl == l && c.tag == va / 2 ^ (12 + 9 * l))).map
      (fun c => (l - 1, c.table)))).getD (4, root)
/-- The non-leaf entries a walk from a table at a level goes through. -/
def walkFill (s : State) (asid va b : Nat) : Nat → List WalkCached
  | 0 => []
  | n + 1 =>
    let e := leNat (cohBytes s (b + 8 * tableIndex (n + 1) va) 8)
    let addr := natBits e 53 8 * 256
    let align := if n = 0 then 256 else 4096
    if natBit e 0 && natBits e 7 1 == 0 && natBits e 63 54 == 0 && addr % align == 0 && decide (addr + align ≤ 2 ^ 39) then
      { asid := asid, lvl := n + 1, tag := va / 2 ^ (12 + 9 * (n + 1)), table := addr } :: walkFill s asid va addr n
    else []
/-- A walk on a die (R278, R280, R283): what it finds, and the state after it has read its entries and cached them. -/
def walkOn (s : State) (die asid va : Nat) : WalkRes × State :=
  match s.space asid with
  | none => (.invalid, s)
  | some d =>
    if va ≥ 2 ^ 57 then (.invalid, s) else
    let (l, b) := walkStart s die asid va d.root
    let new := walkFill s asid va b l
    let t := (walkKeys s va b l).foldl (fun s k => forwardRead s none k 8) s
    (walkFrom s asid va b l, t.modDie die (fun d => { d with wcache := new ++ d.wcache.filter (fun c => !new.contains c) }))

/-- The source number a walk's fault entry gives (R386, R417): the TCE or the Summary unit whose command it serves, else the
warp. -/
def walkSource (s : State) (k : Walk) : Nat :=
  match s.cores.find? (fun c => k.kind == 4 && c.2.tce.any (fun q => copySeq q.wid == k.seq)),
      s.cores.find? (fun c => k.kind == 6 && c.2.sumq.any (fun q => copySeq q.wid == k.seq)) with
  | some c, _ => (Party.tce c.1).source
  | _, some c => (Party.summary c.1).source
  | none, none => k.src

/-- A walk (R278 to R284), once it has a walker: a leaf is installed and the access goes on; an invalid entry goes to the
fault queue, or holds the walker until there is room in it; a malformed entry fails the access and Toltar hears of it,
kind 16. -/
def execTableWalk (id : Nat) (s : State) : Host.Outcome State Fault Refusal :=
  match walk? s id with
  | none => done s
  | some k =>
    match k.walker with
    | none => done s
    | some n =>
      if k.declined || (s.die k.die).fq.any (fun e => e.2.walk == id) then done s else
      let (r, s) := walkOn s k.die k.asid k.va
      match r with
      | .leaf e =>
        let s := if k.src < 49152 then tlbInstall s (coreOf k.src) e
          else s.modDie k.die (fun d => { d with tlb := (e :: d.tlb.filter (· ≠ e)).take 16384 })
        done (resumeAccess (dropWalk s id) k)
      | .malformed => done (declineWalk (s.tell 16 [k.va, k.asid, walkSource s k, k.kind]) k)
      | .invalid =>
        match (List.range 32).find? (fun i => (mfind (s.die k.die).fq i).isNone) with
        | none => done (modWalk s id (fun k => { k with held := true }))
        | some i =>
          let e : FqEntry := { va := k.va, asid := k.asid, src := walkSource s k, kind := k.kind, need := k.need,
                               walker := n, walk := id }
          done (svInterrupt ((modWalk s id (fun k => { k with held := false })).modDie k.die (fun d =>
            { d with fq := mset d.fq i e })) k.die 0)

/-- A fault-queue entry as Toltar reads it (R417). -/
def fqBytes (e : FqEntry) : List Byte :=
  leBytes 8 e.va ++ leBytes 2 e.asid ++ leBytes 2 e.src ++ leBytes 1 e.kind ++ leBytes 1 e.need ++ leBytes 1 e.walker ++
    leBytes 1 1 ++ leBytes 16 0

/-- What has been sent through a translation is performed (R285). -/
def performThrough (s : State) (e : TlbEntry) : State :=
  let b := physKey s e.dev e.pa
  s.msgs.foldl (fun s m => if decide (b ≤ m.body.key) && decide (m.body.key < b + e.size) then msgArrive s m.id else s) s
/-- Whether something sent to a page cannot reach its home. -/
def stuckIn (s : State) (e : TlbEntry) : Bool :=
  let b := physKey s e.dev e.pa
  s.msgs.any (fun m => decide (b ≤ m.body.key) && decide (m.body.key < b + e.size) && msgStuck s m)
/-- Removing the translations of an address from every TLB and walk cache, once all that has been sent is performed: what went
through a translation does not show which it was (R285). (DESIGN CHOICE, log 53) -/
def dropXlate (s : State) (asid va : Nat) : State :=
  let s := arriveAll s
  let keep := fun (e : TlbEntry) => !(e.asid == asid && decide (e.base ≤ va) && decide (va < e.base + e.size))
  { s with cores := s.cores.map (fun c => (c.1, { c.2 with tlb := c.2.tlb.filter keep })),
           dies := s.dies.map (fun d => (d.1, { d.2 with
             tlb := d.2.tlb.filter keep
             wcache := d.2.wcache.filter (fun c => !(c.asid == asid && c.tag == va / 2 ^ (12 + 9 * c.lvl))) })) }

/-- A space's deviation ring is set (R365): it counts from nothing, and its control block, if it is mapped, says so. -/
def ringSet (s : State) (d : AsDescriptor) : State :=
  let s := { s with devRings := mset s.devRings d.asid ⟨0, 0, 0⟩ }
  vWriteD s d.asid d.drbase (leBytes 64 0)
/-- A descriptor stands in every die. -/
def spacePut (s : State) (d : AsDescriptor) : State :=
  ringSet (everyDie s (fun e => { e with spaces := mset e.spaces d.asid d })) d
/-- Toltar's invalidation of a page (R285); with it a changed descriptor of the space takes effect (R413). (DESIGN CHOICE, log 53) -/
def invalidate (s : State) (asid va : Nat) : State :=
  let s := dropXlate s asid va
  match mfind s.newSpaces asid with
  | some d => spacePut { s with newSpaces := mdel s.newSpaces asid } d
  | none => s

/-- The held walks of a die look at the fault queue again. -/
def fqFreed (s : State) (d : Nat) : State :=
  s.walks.foldl (fun s k => if k.die = d ∧ k.held then s.after 0 (.tableWalk k.id) else s) s

/-- Answering an entry with a replay (R417): Toltar has installed the translation, and the walker walks again. -/
def execFqrespReplay (die idx pteAddr : Nat) (pte : DWord) (s : State) : Host.Outcome State Fault Refusal :=
  match mfind (s.die die).fq idx with
  | none => done s
  | some e =>
    done (journaled s die 0 4 [die, idx, e.walk, pteAddr, pte.toNat] (.fqrespReplay die idx pteAddr pte) (fun s =>
      let s := invalidate (homeWrite s pteAddr (leBytes 8 pte.toNat)) e.asid e.va
      let s := s.modDie die (fun d => { d with fq := mdel d.fq idx })
      fqFreed (s.after 0 (.tableWalk e.walk)) die))
/-- Declining an entry (R417): the access fails under R284. -/
def execFqrespDecline (die idx : Nat) (s : State) : Host.Outcome State Fault Refusal :=
  match mfind (s.die die).fq idx with
  | none => done s
  | some e =>
    done (journaled s die 0 4 [die, idx, e.walk] (.fqrespDecline die idx) (fun s =>
      let s := s.modDie die (fun d => { d with fq := mdel d.fq idx })
      match walk? s e.walk with
      | some k => fqFreed (declineWalk s k) die
      | none => fqFreed s die))

/-- An uncorrectable error by where it hits; a correctable one is counted (R277, R286). -/
def execEccError (x : EccPlace) (s : State) : Host.Outcome State Fault Refusal :=
  match x with
  | .l1 c word =>
    (match mfind (s.core c).l1 (word / 128) with
    | none => done s
    | some t =>
      if t.reg.getLsbD (word % 128) then done (s.modCore c (fun k => { k with l1Bad := mset k.l1Bad word true }))
      else done (s.modCore c (fun k => { k with l1 := mmod k.l1 (word / 128) (fun t =>
        { t with gone := t.gone ||| BitVec.ofNat 128 (2 ^ (word % 128)) }) })))
  | .spad c a => done (s.modCore c (fun k => { k with eccBad := mset k.eccBad a true }))
  | .home a => done { s with homeBad := mset s.homeBad a true }
  | .tlb c => done (s.modCore c (fun k => { k with tlb := [] }))
  | .dieTlb d => done (s.modDie d (fun d => { d with tlb := [], wcache := [] }))
  | .pinned p pi seq =>
    let hit := fun (e : PipeEntry) => if e.seq = seq ∧ e.spilled = none then { e with bad := true } else e
    done (s.modPlan p (fun q => { q with pipes := mmod q.pipes pi (fun r => { r with entries := r.entries.map hit }) }))
  | .replaySource p n => done { s with ports := mmod s.ports p (fun q =>
      { q with replay := q.replay.map (fun e => if e.1 = n then (n, false) else e) }) }
  | .corrected u => done { s with corrected := mset s.corrected u (mget s.corrected u 0 + 1) }
  | .l2Writeback line =>
    (match mfind s.l2 line with
    | none => done s
    | some ln =>
      let bad := (List.range 128).filter (fun i => ln.dirty.getLsbD (i / 32))
      let s := writeLine s line ln
      done { s with l2 := mset s.l2 line { ln with dirty := 0 },
                    homeBad := bad.foldl (fun m i => mset m (line * 128 + i) true) s.homeBad })
  | .accum c x r e =>
    let acc := fun (k : RmeCtx) => mget k.accs (1024 * r + e) { c1 := 0, c2 := 0, c3 := 0, c4 := 0, poison := false, bad := false }
    done (s.modCtx c x (fun k => { k with accs := mset k.accs (1024 * r + e) { acc k with bad := true } }))

end Sys2Proof.Machine
end

