-- ==== Sys2Proof/Machine/Hart.lean ====
section
/-!
DEFINITION. The supervisor harts (R401 to R409): address translation and protection, TAKING AN EXCEPTION OR INTERRUPT
(`trapHart`), the four custom instructions, and the step of a hart. What RV64 leaves to its own manual (Sv48, PMP, the
status stack) is taken from there.
-/

namespace Sys2Proof.Machine

def State.pair (s : State) (h : Nat) : Pair := mget s.pairs h (Pair.fresh .spare)
def State.modPair (s : State) (h : Nat) (f : Pair → Pair) : State := { s with pairs := mmod s.pairs h f }
/-- Register x; x0 reads as zero. -/
def Pair.get (p : Pair) (r : Nat) : DWord := if r = 0 then 0 else mget p.x r 0
/-- Writing a register; x0 discards (R404). -/
def Pair.put (p : Pair) (r : Nat) (v : DWord) : Pair := if r = 0 then p else { p with x := mput p.x r v 0 }

/-! Control and status registers. -/

def csrMstatus : Nat := 0x300
def csrMedeleg : Nat := 0x302
def csrMideleg : Nat := 0x303
def csrMie : Nat := 0x304
def csrMip : Nat := 0x344
def csrSwaitto : Nat := 0x5C0
def csrXdetail : Nat := 0x5C1
def csrAgasid : Nat := 0x5C2
def Pair.c (p : Pair) (n : Nat) : Nat := (mget p.csr n 0).toNat
def Pair.setC (p : Pair) (n v : Nat) : Pair := { p with csr := mput p.csr n (BitVec.ofNat 64 v) 0 }
def csrFcsr : Nat := 0x003
/-- The CSRs of a pair (R402, R405). (PRESUMED, log 6) -/
def csrKnown (n : Nat) : Bool :=
  [0x001, 0x002, 0x003, 0x100, 0x104, 0x105, 0x106, 0x10A, 0x140, 0x141, 0x142, 0x143, 0x144, 0x180,
   0x300, 0x301, 0x302, 0x303, 0x304, 0x305, 0x306, 0x30A, 0x320, 0x340, 0x341, 0x342, 0x343, 0x344, 0x3A0, 0x3A2,
   0xB00, 0xB02, csrSwaitto, csrXdetail, csrAgasid].contains n ||
    (decide (0x323 ≤ n) && decide (n ≤ 0x33F)) || (decide (0x3B0 ≤ n) && decide (n ≤ 0x3BF)) ||
    (decide (0xB03 ≤ n) && decide (n ≤ 0xB1F)) || (decide (0xF11 ≤ n) && decide (n ≤ 0xF15))
/-- The counters, whose values the spec does not give. (PRESUMED, log 6) -/
def csrFree (n : Nat) : Bool := n == 0xB00 || n == 0xB02
/-- The bits of mstatus that software can write, and those it sees in sstatus. (PRESUMED, log 6) -/
def mstatusMask : Nat := 0x7E79AA
def sstatusMask : Nat := 0xC6122
/-- The value of a CSR (R402, R405): views of mstatus, mie and mip, misa, mhartid = 4 × DIE + pair (R401), and registers
that read as zero. (PRESUMED, log 6) -/
def csrValue (s : State) (h num : Nat) : Nat :=
  let p := s.pair h
  let st := p.c csrMstatus
  let sd := if st / 2 ^ 13 % 4 = 3 then 2 ^ 63 else 0
  if num = 0x001 then p.c csrFcsr % 32
  else if num = 0x002 then p.c csrFcsr / 32 % 8
  else if num = 0x100 then (st &&& sstatusMask) ||| 0x200000000 ||| sd
  else if num = 0x104 then p.c csrMie &&& p.c csrMideleg
  else if num = 0x144 then p.c csrMip &&& p.c csrMideleg
  else if num = 0x300 then (st &&& mstatusMask) ||| 0xA00000000 ||| sd
  else if num = 0x301 then 2 ^ 63 + 0x14112D
  else if num = 0xF14 then h
  else if csrFree num then leNat ((List.range 8).map (fun i => Config.freeByte (s.free + i)))
  else p.c num
/-- A PMP entry's configuration byte. -/
def pmpByte (p : Pair) (i : Nat) : Nat := p.c (0x3A0 + 2 * (i / 8)) / 2 ^ (8 * (i % 8)) % 256
/-- A new configuration of the entries of a pmpcfg register: a locked entry stays, write without read is not set. -/
def pmpWrite (p : Pair) (num v : Nat) : Nat :=
  leNat ((List.range 8).map (fun i =>
    let old := pmpByte p (8 * ((num - 0x3A0) / 2) + i)
    let b := v / 2 ^ (8 * i) % 256 &&& 0x9F
    BitVec.ofNat 8 (if old.testBit 7 then old else if b % 4 = 2 then b - 2 else b)))
/-- What a write of a CSR leaves in it (R405): xdetail keeps its value, swaitto takes its low half, agasid twelve bits;
of the others the bits that can be set. (PRESUMED, log 6; DEDUCED, log 44) -/
def csrLegal (p : Pair) (num v : Nat) : Nat :=
  let old := p.c num
  let keep := fun (m : Nat) => (old &&& (2 ^ 64 - 1 - m)) ||| (v &&& m)
  if num = csrXdetail then old
  else if num = csrSwaitto then v % 2 ^ 32
  else if num = csrAgasid then v % 4096
  else if num = 0x003 then v % 256
  else if num = 0x300 then keep (if v / 2 ^ 11 % 4 = 2 then mstatusMask - 0x1800 else mstatusMask)
  else if num = 0x302 then v &&& 0xF00B3FF
  else if num = 0x303 then v &&& 0x222
  else if num = 0x304 then v &&& 0xAAA
  else if num = 0x344 then keep 0x222
  else if num = 0x105 ∨ num = 0x305 then v &&& 0xFFFFFFFFFFFFFFFD
  else if num = 0x141 ∨ num = 0x341 then v &&& 0xFFFFFFFFFFFFFFFE
  else if num = 0x106 ∨ num = 0x306 then v % 2 ^ 32
  else if num = 0x10A ∨ num = 0x30A then v % 2
  else if num = 0x180 then (if v / 2 ^ 60 = 0 ∨ v / 2 ^ 60 = 9 then v else old)
  else if num = 0x3A0 ∨ num = 0x3A2 then pmpWrite p num v
  else if 0x3B0 ≤ num ∧ num ≤ 0x3BF then
    let i := num - 0x3B0
    let nx := pmpByte p (i + 1)
    if (pmpByte p i).testBit 7 || (decide (i < 15) && nx.testBit 7 && nx / 8 % 4 == 1) then old else v % 2 ^ 54
  else if num = 0x301 ∨ num = 0x320 ∨ (0x323 ≤ num ∧ num ≤ 0x33F) ∨ 0xB00 ≤ num then old
  else v
/-- Writing a CSR, or the register it is a view of. (PRESUMED, log 6) -/
def Pair.writeCsr (p : Pair) (num : Nat) (val : DWord) : Pair :=
  let v := val.toNat
  let view := fun (n m : Nat) => p.setC n ((p.c n &&& (2 ^ 64 - 1 - m)) ||| (v &&& m))
  if num = 0x001 then p.setC csrFcsr (p.c csrFcsr / 32 * 32 + v % 32)
  else if num = 0x002 then p.setC csrFcsr (v % 8 * 32 + p.c csrFcsr % 32)
  else if num = 0x100 then view csrMstatus sstatusMask
  else if num = 0x104 then view csrMie (p.c csrMideleg)
  else if num = 0x144 then view csrMip (p.c csrMideleg &&& 2)
  else p.setC num (csrLegal p num v)

def svLevel (md : SvMode) : Nat :=
  match md with
  | .u => 0
  | .s => 1
  | .m => 3
def svMode (n : Nat) : SvMode := if n = 0 then .u else if n = 1 then .s else .m

/-! Physical accesses. -/

/-- The SRAM byte a physical address names (R401): die and offset. -/
def sramAt (s : State) (pa : Nat) : Option (Nat × Nat) :=
  let o := pa - 2 ^ 47
  if 2 ^ 47 ≤ pa ∧ o / 2 ^ 21 < s.nDies then some (o / 2 ^ 21, o % 2 ^ 21) else none
/-- Whether a physical address is package memory or SRAM (R271, R401). (DESIGN CHOICE, log 45) -/
def paThere (s : State) (pa : Nat) : Bool := decide (pa < 2 ^ 39) || (sramAt s pa).isSome
/-- Reading bytes, at the home for package memory (R403). -/
def paRead (s : State) (pa n : Nat) : List Byte :=
  match sramAt s pa with
  | some (d, o) => memRead (s.die d).sram o n
  | none => cohBytes s pa n
/-- A hart's read is a read by another party of the registered words it meets (R272, R403). -/
def paTouch (s : State) (pa n : Nat) : State := if pa < 2 ^ 39 then forwardRead s none pa n else s
/-- A write into SRAM ends the reservations of what it touches. -/
def dropResv (s : State) (pa n : Nat) : State :=
  let hit := fun (p : Pair) => match p.resv with
    | some (a, _) => decide (pa / 32 ≤ a / 32) && decide (a / 32 ≤ (pa + n) / 32)
    | none => false
  if s.pairs.any (fun e => hit e.2) then
    { s with pairs := s.pairs.map (fun e => (e.1, if hit e.2 then { e.2 with resv := none } else e.2)) }
  else s
def paWrite (s : State) (pa : Nat) (bs : List Byte) : State :=
  match sramAt s pa with
  | some (d, o) => dropResv (s.modDie d (fun x => { x with sram := memWrite x.sram o bs })) pa bs.length
  | none => homeWrite s pa bs
/-- Whether bytes have an uncorrectable error. -/
def paBad (s : State) (pa n : Nat) : Bool := decide (pa < 2 ^ 39) && homeErr s pa n

/-! Protection and translation. -/

inductive SvAcc where
  | r | w | x
  deriving DecidableEq, Repr

/-- PMP entry `i`: its configuration and its range. -/
def pmpRange (p : Pair) (i : Nat) : Nat × Nat × Nat :=
  let cfg := pmpByte p i
  let v := p.c (0x3B0 + i)
  let m := v ^^^ (v + 1)
  match cfg / 8 % 4 with
  | 0 => (cfg, 0, 0)
  | 1 => (cfg, (if i = 0 then 0 else p.c (0x3B0 + i - 1)) * 4, v * 4)
  | 2 => (cfg, v * 4, v * 4 + 4)
  | _ => (cfg, v / (m + 1) * (m + 1) * 4, (v / (m + 1) + 1) * (m + 1) * 4)
/-- Whether PMP lets an access of `n` bytes pass. (PRESUMED, log 26) -/
def pmpOk (p : Pair) (mode : SvMode) (a : SvAcc) (pa n : Nat) : Bool :=
  match ((List.range 16).map (pmpRange p)).find? (fun e => decide (e.2.1 < pa + n) && decide (pa < e.2.2)) with
  | none => mode == .m
  | some (cfg, lo, hi) =>
    decide (lo ≤ pa) && decide (pa + n ≤ hi) && ((mode == .m && !cfg.testBit 7) || (match a with
      | .r => cfg.testBit 0
      | .w => cfg.testBit 1
      | .x => cfg.testBit 2))

/-- Why an address gives no access. -/
inductive SvErr where
  | none_ | perm | pmp | absent
  deriving DecidableEq, Repr

/-- Whether a leaf entry permits an access. -/
def pteOk (p : Pair) (mode : SvMode) (a : SvAcc) (e : Nat) : Bool :=
  let st := p.c csrMstatus
  let u := e.testBit 4
  let level := match mode with
    | .u => u
    | _ => !u || (st.testBit 18 && a != .x)
  level && e.testBit 6 && (match a with
    | .r => e.testBit 1 || (st.testBit 19 && e.testBit 3)
    | .w => e.testBit 2 && e.testBit 7
    | .x => e.testBit 3)
/-- The Sv48 walk from the table at `tab`. (PRESUMED, log 26) -/
def svWalk (s : State) (p : Pair) (mode : SvMode) (a : SvAcc) (va tab : Nat) : Nat → Except SvErr Nat
  | 0 => .error .none_
  | l + 1 =>
    let at_ := tab + 8 * (va / 2 ^ (12 + 9 * l) % 512)
    if !paThere s at_ || !pmpOk p .s .r at_ 8 then .error .pmp else
    let e := leNat (paRead s at_ 8)
    let ppn := e / 2 ^ 10 % 2 ^ 44
    let size := 2 ^ (12 + 9 * l)
    if !e.testBit 0 || (!e.testBit 1 && e.testBit 2) || e / 2 ^ 54 != 0 then .error .none_
    else if e.testBit 1 || e.testBit 3 then
      if !pteOk p mode a e then .error .perm
      else if ppn * 4096 % size ≠ 0 then .error .none_
      else .ok (ppn * 4096 + va % size)
    else if natBits e 7 6 != 0 || e.testBit 4 then .error .none_
    else svWalk s p mode a va (ppn * 4096) l
/-- The mode an access is made in: MPRV lends M mode's loads and stores the mode of MPP. -/
def accMode (p : Pair) (a : SvAcc) : SvMode :=
  if p.mode = .m && a != .x && (p.c csrMstatus).testBit 17 then svMode (p.c csrMstatus / 2 ^ 11 % 4) else p.mode
/-- The physical address of an access of `n` bytes. -/
def svXlate (s : State) (p : Pair) (a : SvAcc) (va n : Nat) : Except SvErr Nat :=
  let mode := accMode p a
  let satp := p.c 0x180
  let pa : Except SvErr Nat :=
    if mode = .m || satp / 2 ^ 60 != 9 then .ok va
    else if va / 2 ^ 47 ≠ 0 ∧ va / 2 ^ 47 ≠ 2 ^ 17 - 1 then .error .none_
    else svWalk s p mode a va (satp % 2 ^ 44 * 4096) 4
  match pa with
  | .error e => .error e
  | .ok pa => if !pmpOk p mode a pa n then .error .pmp else if !paThere s pa then .error .absent else .ok pa

/-! TAKING AN EXCEPTION OR INTERRUPT: the pc, the cause and the value are saved for the mode the cause is delegated to,
the status stacks, and the pc goes to that mode's vector. `cause` has bit 63 set for an interrupt. -/

def trapPair (p : Pair) (cause tval : Nat) : Pair :=
  let irq := cause.testBit 63
  let code := cause % 64
  let toS := p.mode != .m && (p.c (if irq then csrMideleg else csrMedeleg)).testBit code
  let st := p.c csrMstatus
  let vec := fun (tvec : Nat) => BitVec.ofNat 64 (tvec / 4 * 4 + (if irq && tvec % 4 == 1 then 4 * code else 0))
  let bit := fun (i : Nat) (b : Bool) (x : Nat) => (x &&& (2 ^ 64 - 1 - 2 ^ i)) ||| (boolNat b * 2 ^ i)
  if toS then
    { (((p.setC 0x141 p.pc.toNat).setC 0x142 cause).setC 0x143 tval).setC csrMstatus
        (bit 8 (p.mode == .s) (bit 5 (st.testBit 1) (bit 1 false st))) with mode := .s, pc := vec (p.c 0x105) }
  else
    let st := bit 7 (st.testBit 3) (bit 3 false st)
    let st := bit 11 (svLevel p.mode % 2 == 1) (bit 12 (svLevel p.mode / 2 == 1) st)
    { (((p.setC 0x341 p.pc.toNat).setC 0x342 cause).setC 0x343 tval).setC csrMstatus st with
        mode := .m, pc := vec (p.c 0x305) }
def trapHart (s : State) (h cause tval : Nat) : State := s.modPair h (fun p => trapPair p cause tval)

/-- RETURNING FROM ONE: SRET when `toS`, else MRET. The pc and the mode come back and the status unstacks.
(PRESUMED, log 6) -/
def returnPair (p : Pair) (fromS : Bool) : Pair :=
  let st := p.c csrMstatus
  let bit := fun (i : Nat) (b : Bool) (x : Nat) => (x &&& (2 ^ 64 - 1 - 2 ^ i)) ||| (boolNat b * 2 ^ i)
  if fromS then
    { p.setC csrMstatus (bit 17 false (bit 8 false (bit 5 true (bit 1 (st.testBit 5) st)))) with
        mode := if st.testBit 8 then .s else .u, pc := mget p.csr 0x141 0 }
  else
    let md := svMode (st / 2 ^ 11 % 4)
    let st := bit 12 false (bit 11 false (bit 7 true (bit 3 (st.testBit 7) st)))
    { p.setC csrMstatus (if md = .m then st else bit 17 false st) with mode := md, pc := mget p.csr 0x341 0 }

/-- The interrupt a hart takes now: enabled, pending, and not masked in its mode; M before S, external, software, timer. -/
def irqOf (p : Pair) : Option Nat :=
  let st := p.c csrMstatus
  let on := p.c csrMie &&& p.c csrMip
  let ok := fun (i : Nat) => on.testBit i && (
    if (p.c csrMideleg).testBit i then p.mode == .u || (p.mode == .s && st.testBit 1)
    else p.mode != .m || st.testBit 3)
  [11, 3, 7, 9, 1, 5].find? ok

/-- A fault of a custom instruction (R404, R405): the cause of the instruction, the subcode in xdetail.
(DEDUCED, log 44) -/
def customFault (s : State) (h cause sub tval : Nat) : State :=
  trapHart (s.modPair h (fun p => p.setC csrXdetail sub)) h cause tval
def errSub (e : SvErr) : Nat :=
  match e with
  | .none_ => 2
  | _ => 3

/-- The hart whose custom instruction runs: its turn ends with it. -/
def onHart (s : State) (k : Nat → Pair → State → Host.Outcome State Fault Refusal) : Host.Outcome State Fault Refusal :=
  match s.hartTurn with
  | none => .next s
  | some h => k h (s.pair h) { s with hartTurn := none }
/-- The result goes to rd and the pc to the next instruction. -/
def retire (s : State) (h rd : Nat) (v : DWord) : State := s.modPair h (fun p => { p.put rd v with pc := p.pc + 4 })
/-- An address checked for alignment, translation and permission (subcodes 1 to 3), then used. -/
def svAddr (s : State) (h : Nat) (p : Pair) (cause va n : Nat) (accs : List SvAcc)
    (k : Nat → Host.Outcome State Fault Refusal) : Host.Outcome State Fault Refusal :=
  if va % n ≠ 0 then .next (customFault s h cause 1 va) else
  let errs := accs.filterMap (fun a => match svXlate s p a va n with
    | .error e => some e
    | .ok _ => none)
  match errs, svXlate s p .r va n with
  | [], .ok pa => k pa
  | e :: _, _ => if e = .absent then .fault .noSuchAddress else .next (customFault s h cause (errSub e) va)
  | [], .error e => if e = .absent then .fault .noSuchAddress else .next (customFault s h cause (errSub e) va)

/-! The custom instructions. -/

/-- RFETCH (R406). -/
def execRfetch (f : RvR) (s : State) : Host.Outcome State Fault Refusal :=
  onHart s (fun h p s =>
    let va := (p.get f.a.toNat).toNat
    let lim := (p.get f.b.toNat).toNat
    svAddr s h p 24 va 32 [.r, .w] (fun pa =>
      let s := paTouch s pa 32
      let b := paRead s pa 32
      let base := field b 0 8; let rd := field b 8 8; let lg := field b 16 1; let ent := field b 17 1
      if paBad s pa 32 then .next (customFault s h 24 7 va)
      else if lg < 1 ∨ 20 < lg ∨ ent < 3 ∨ 12 < ent ∨ base % 2 ^ ent ≠ 0 ∨ field b 18 14 ≠ 0
      then .next (customFault s h 24 4 va)
      else if truncInt 64 ((lim : Int) - rd) > 2 ^ lg then .next (customFault s h 24 5 va)
      else if lim ≤ rd then .next (retire s h f.d.toNat 0)
      else .next (retire (paWrite s (pa + 8) (leBytes 8 (rd + 1))) h f.d.toNat
        (BitVec.ofNat 64 (base + rd % 2 ^ lg * 2 ^ ent)))))

/-- BFX (R407). -/
def execBfx (f : RvR) (s : State) : Host.Outcome State Fault Refusal :=
  onHart s (fun h p s =>
    let c := (p.get f.b.toNat).toNat
    let pos := c % 64
    let len := c / 256 % 128
    if len = 0 ∨ 64 < len ∨ 64 < pos + len ∨ natBits c 7 6 ≠ 0 ∨ c.testBit 15 ∨ c / 2 ^ 17 ≠ 0
    then .next (customFault s h 25 4 0)
    else
      let x := (p.get f.a.toNat).toNat / 2 ^ pos % 2 ^ len
      .next (retire s h f.d.toNat (BitVec.ofInt 64 (intOf len (c.testBit 16) x))))

/-- SWAIT's comparison (R404). -/
def swaitHolds (cmp v ref : Nat) : Bool :=
  match cmp with
  | 0 => v != ref
  | 1 => v == ref
  | 2 => decide (ref ≤ v)
  | _ => decide (v < ref)
/-- The timeout of an SWAIT has passed (R408). -/
def swaitOver (s : State) (p : Pair) (j : SwaitJob) : Bool :=
  p.c csrSwaitto != 0 && decide (1000 * p.c csrSwaitto ≤ s.gtime - j.start)
/-- One round of the loop of R408: the SWAIT exits, or the hart sleeps on. -/
def swaitLoop (s : State) (h : Nat) (j : SwaitJob) : State :=
  let v := leNat (paRead s j.pa 8)
  let s := paTouch s j.pa 8
  if swaitHolds j.cmp v j.ref || swaitOver s (s.pair h) j then
    (retire s h j.rd (BitVec.ofNat 64 v)).modPair h (fun p => { p with wait := none })
  else s.modPair h (fun p => { p with wait := some j })
/-- SWAIT (R408). -/
def execSwait (f : RvC) (s : State) : Host.Outcome State Fault Refusal :=
  onHart s (fun h p s =>
    let va := (p.get f.a.toNat).toNat
    svAddr s h p 26 va 8 [.r] (fun pa =>
      if paBad s pa 8 then .next (customFault s h 26 7 va) else
      let j : SwaitJob :=
        { pa := pa, start := s.gtime, rd := f.d.toNat, cmp := f.c.toNat, ref := (p.get f.b.toNat).toNat }
      let t := swaitLoop s h j
      let lim := p.c csrSwaitto
      .next (if lim = 0 || (t.pair h).wait.isNone then t else t.inTime (1000 * lim) (.swaitTimeout h))))
/-- The timeout passes (R408): the word is read a last time. -/
def execSwaitTimeout (h : Nat) (s : State) : Host.Outcome State Fault Refusal :=
  match (s.pair h).wait with
  | some j =>
    let lim := (s.pair h).c csrSwaitto
    if swaitOver s (s.pair h) j then .next (swaitLoop s h j)
    else if lim = 0 then .next s else .next (s.untilTime (j.start + 1000 * lim) (.swaitTimeout h))
  | none => .next s
/-- A sleeping hart looks again: an interrupt is taken with its pc naming the SWAIT, a write may end it. -/
def wakeHart (s : State) (e : Nat × Pair) : State :=
  match e.2.wait with
  | none => s
  | some j =>
    match irqOf e.2 with
    | some i => (trapHart s e.1 (2 ^ 63 + i) 0).modPair e.1 (fun p => { p with wait := none })
    | none => swaitLoop s e.1 j

/-- DISPATCH (R409). -/
def execDispatch (f : RvR) (s : State) : Host.Outcome State Fault Refusal :=
  onHart s (fun h p s =>
    let va := (p.get f.a.toNat).toNat
    let q := (p.get f.b.toNat).toNat
    svAddr s h p 27 va 64 [.r] (fun pa =>
      if q ≥ 2 ^ 14 then .next (customFault s h 27 4 0) else
      let k := queueNow s q
      if p.mode = .u && (k.map (·.asid)) != some (p.c csrAgasid % 4096) then .next (customFault s h 27 6 0)
      else if paBad s pa 64 then .next (customFault s h 27 7 va) else
      let s := paTouch s pa 64
      let b := paRead s pa 64
      let put := mget s.dispatchq q []
      match k with
      | none => .next (retire s h f.d.toNat 2)
      | some k =>
        match (if k.state = 1 then checkCmd s k b else .inl 0) with
        | .inl _ => .next (retire s h f.d.toNat 2)
        | .inr _ =>
          if put.length ≥ 16 then .next (retire s h f.d.toNat 1)
          else .next (retire { s with dispatchq := mset s.dispatchq q (put ++ [b]) } h f.d.toNat 0)))

/-- A `fence` retires (R403): every access of a hart is performed at its home when it is made, and control-space writes
take effect at once, so that nothing is left to order. -/
def execSupervisorFence (pair : Nat) (_predW _succR _io : Bool) (s : State) : Host.Outcome State Fault Refusal :=
  .next (s.modPair pair (fun p => { p with pc := p.pc + 4 }))

end Sys2Proof.Machine
end

