-- ==== Sys2Proof/Machine/Device.lean ====
section
/-!
DEFINITION. The package as the board sees it (R443 to R450): management registers, bring-up, boot, power and heat, the
feature words.
-/

namespace Sys2Proof.Machine

/-! Events to the board controller (R448): 1 boot halt, 2 pair failure, 3 takeover, 4 partition reset, 5 degradation,
6 duplicate DEVICE, 7 link down, 8 thermal limit. -/

/-- An event; beyond 255 unread ones it is dropped, and a code after the kept ones says so. (DESIGN CHOICE, log 7) -/
def boardEvent (s : State) (die code : Nat) : State :=
  s.modDie die (fun d =>
    { d with events := if d.events.length < 255 then d.events ++ [code] else d.events.take 255 ++ [0xFFFFFF] })
/-- MEVENT (R448). -/
def meventOf (d : Die) : Nat := min d.events.length 255 + 256 * d.events.headD 0
/-- Reading MEVENT (R448): the count and the oldest code go to the reader, kind 20, and the oldest is cleared. -/
def execMeventRead (die : Nat) (s : State) : Host.Outcome State Fault Refusal :=
  done ((s.tell 20 [die, meventOf (s.die die)]).modDie die (fun d => { d with events := d.events.drop 1 }))

/-! MSTATE and the feature words. -/

/-- The bring-up step a die has reached (R448). -/
def stepOf (d : Die) : Nat := d.mstate.toNat % 16
def Die.atStep (d : Die) (n : Nat) : Die := { d with mstate := (d.mstate &&& 0xFFFFFFF0) ||| BitVec.ofNat 32 n }
/-- The dies that are up and not being reset, as bits. -/
def upDies (s : State) : Nat :=
  (List.range s.nDies).foldl (fun n d => n + boolNat ((s.die d).up && !(s.die d).resetting) * 2 ^ d) 0
/-- FEAT1 follows the dies that are up (R449): decoders in service, dies. -/
def refreshFeat (s : State) : State :=
  let up := upDies s
  let decs := 4 * ((List.range 4).filter (fun d => up.testBit d)).length
  { s with feat := s.feat.set 1 (BitVec.ofNat 32 (decs * 2 ^ 16 + up)) }
/-- Publishing the feature words at step 8 (R449, R450). -/
def publish (s : State) : State :=
  refreshFeat { s with
    feat := [0xFF, 0, BitVec.ofNat 32 s.device, BitVec.ofNat 32 (s.svn % 2 ^ 24 * 256 + Config.siliconRev.toNat)] }

/-- MDEV (R448): written before step 1 only. -/
def putMdev (s : State) (die : Nat) (val : Word) : State :=
  if stepOf (s.die die) ≠ 0 then s else
  { s with device := val.toNat % 1024 }.modDie die (fun d =>
    { d with mdev := BitVec.ofNat 32 (val.toNat % 1024), mdevSet := true })
def execMdevWrite (die : Nat) (val : Word) (s : State) : Host.Outcome State Fault Refusal := done (putMdev s die val)

/-! Power and heat (R446, R447). -/

/-- The clk of sixteen in which a die's issue is withheld, from its power over the last window, its budget and its
temperature. (DESIGN CHOICE, log 7) -/
def withholding (d : Die) : Nat :=
  let p := d.mpower.toNat; let b := d.mbudget.toNat
  max (if p ≤ b then 0 else min 15 ((16 * (p - b) + p - 1) / p)) (if d.thermal then 15 else 0)
def setWithheld (s : State) (die : Nat) : State := s.modDie die (fun d => { d with withheld := withholding d })
/-- MBUDGET (R448): values outside 150 to 600 are ignored. -/
def putMbudget (s : State) (die : Nat) (val : Word) : State :=
  if val.toNat < 150 ∨ 600 < val.toNat then s
  else setWithheld (s.modDie die (fun d => { d with mbudget := val })) die
def execMbudgetWrite (die : Nat) (val : Word) (s : State) : Host.Outcome State Fault Refusal := done (putMbudget s die val)
/-- The end of a 1 ms window (R446). -/
def execPowerWindow (die watts : Nat) (s : State) : Host.Outcome State Fault Refusal :=
  done (setWithheld (s.modDie die (fun d => { d with mpower := BitVec.ofNat 16 watts |>.setWidth 32 })) die)
/-- A temperature, in 1/16 °C (R447): throttling starts at 105 °C and ends at 100 °C. -/
def execThermalThrottle (die temp : Nat) (s : State) : Host.Outcome State Fault Refusal :=
  let hot := (s.die die).thermal
  let now := if 105 * 16 ≤ temp then true else if temp ≤ 100 * 16 then false else hot
  let s := s.modDie die (fun d => { d with mtemp := BitVec.ofNat 16 temp |>.setWidth 32, thermal := now })
  done (setWithheld (if now && !hot then boardEvent s die 8 else s) die)
/-- What the world outside the package does, which the loss of its power does not undo. -/
def outsideInput (e : Event) : Bool :=
  match e with
  | .registerWrite (.i3cRead ..) | .registerWrite (.i3cWrite ..) | .registerWrite (.deviceSilent ..) | .notify _ | .timeMessage ..
  | .timeMasterLoss _ | .ualinkRemoteRead .. | .remoteWriteThrough (.peer ..) | .redPerform (.peer ..) | .redTrigStep (.peer ..)
  | .summaryPerform (.peer ..) | .ueRemoteWrite .. | .ueRemoteRead .. | .attestationRequest .. | .decoderRingRegistration ..
  | .powerGood | .bringupStep .. | .mdevWrite .. | .mbudgetWrite .. | .meventRead _ | .powerWindow .. | .thermalThrottle ..
  | .thermalShutdown => true
  | _ => false
/-- Power is removed (R447): nothing is written, and only what needs no power remains, the memory of other devices and what is to
come from outside among it. (DEDUCED, log 47) -/
def execThermalShutdown (s : State) : Host.Outcome State Fault Refusal :=
  done ({ (if s.nDies = 1 then State.resetD else State.reset) with
    flash := s.flash, lat := s.lat, beat := s.beat, nextId := s.nextId, free := s.free, reports := s.reports
    hbm := s.hbm.filter (fun c => !keyLocal c.1), homeBad := s.homeBad.filter (fun c => !keyLocal c.1), silent := s.silent
    agenda := (s.agenda.filter (fun (e : Nat × Event) => outsideInput e.2)).map (fun (e : Nat × Event) => (e.1 - s.clk, e.2)) }.tell 21 [])

/-! Transfers over I3C (R448): the board controller reads and writes the registers of the target at 0x30 plus DIE. -/

/-- The die of a target address. -/
def targetDie (s : State) (t : Nat) : Option Nat := if 0x30 ≤ t ∧ t < 0x30 + s.nDies then some (t - 0x30) else none
/-- A read: the target, the offset and the value go to the controller, kind 43; reading MEVENT clears its oldest. -/
def i3cRead (s : State) (t off : Nat) : State :=
  match targetDie s t with
  | none => s
  | some die =>
    let d := s.die die
    let regs := [d.mstate.toNat, d.mdev.toNat, d.mbudget.toNat, d.mtemp.toNat, d.mpower.toNat, meventOf d]
    match (if off % 4 = 0 then regs[off / 4]? else none) with
    | none => s
    | some v =>
      let s := s.tell 43 [t, off, v]
      if off = 0x14 then s.modDie die (fun d => { d with events := d.events.drop 1 }) else s
/-- A write: MDEV and MBUDGET take it. -/
def i3cWrite (s : State) (t off : Nat) (val : Word) : State :=
  match targetDie s t with
  | none => s
  | some die =>
    if off = 0x04 then putMdev s die val else if off = 0x08 then putMbudget s die val else s

/-! Boot (R410, R411). -/

/-- A 256-byte slot header and the image behind it. -/
structure Slot where
  hdr   : List Byte
  image : List Byte
  svn   : Nat
  entry : Nat
/-- A slot of the flash, if it is valid (R410). (DEDUCED, log 46) -/
def bootSlot (s : State) (n : Nat) : Option Slot :=
  let hdr := memRead s.flash (0x1000000 * n) 256
  let f := field hdr
  if f 0 4 ≠ 1 ∨ f 8 4 > 1572864 then none else
  let image := memRead s.flash (0x1000000 * n + 256) (f 8 4)
  let key := (hdr.drop 16).take 64
  let fused := (List.range 4).any (fun k =>
    !Config.fusedRevoked k && sm3 key == (List.range 32).map (Config.fusedHash k))
  if fused && Config.sm2Verify key (sm3 (hdr.take 80 ++ image)) ((hdr.drop 80).take 64) &&
      decide (Config.fusedMinSvn ≤ f 4 4) && f 144 112 == 0 then
    some { hdr := hdr, image := image, svn := f 4 4, entry := f 12 4 }
  else none
/-- The slot that boots: the higher svn, slot 0 on a tie. -/
def bootChoice (s : State) : Option Slot :=
  match bootSlot s 0, bootSlot s 1 with
  | some a, some b => if b.svn > a.svn then some b else some a
  | some a, none => some a
  | none, b => b

/-! Bring-up (R450). -/

/-- A halt at steps 1 to 3, reported. -/
def bootHalt (s : State) : State :=
  boardEvent (everyDie s (fun d => { d with mstate := d.mstate ||| 0x10 })) 0 1
/-- Step 2: the image is loaded into every die's SRAM and measured (R410, R411). (DEDUCED, log 46) -/
def loadToltar (s : State) (b : Slot) : State :=
  everyDie { s with svn := b.svn, bootm := sm3 (b.hdr ++ b.image) } (fun d => { d with sram := memWrite d.sram 0 b.image })
/-- What the security monitor does on a pair at boot (R402): medeleg bits 24 to 27, and a PMP entry that lets S and U modes
through. (DEDUCED, log 46) -/
def monitorBoot (p : Pair) : Pair :=
  ((p.setC csrMedeleg (p.c csrMedeleg ||| 0xF000000)).setC 0x3B0 (2 ^ 54 - 1)).setC 0x3A0 0x1F
/-- A pair enters Toltar in S mode (R402), at the entry of the image in its die's SRAM (R410). (DEDUCED, log 46) -/
def enterToltar (s : State) (entry h : Nat) (p : Pair) : Pair :=
  { p with pc := BitVec.ofNat 64 (2 ^ 47 + 2 ^ 21 * (h / 4) + entry), mode := .s, lastKick := s.gtime }
/-- The same with the image that booted. -/
def runToltar (s : State) (h : Nat) (p : Pair) : Pair :=
  enterToltar s (((bootChoice s).map (·.entry)).getD 0) h p
/-- The duties that pair 0 of a die owns first: its own three, on die 0 the management endpoint too. (DESIGN CHOICE, log 42) -/
def firstDuties (die : Nat) : List Nat := if die = 0 then [0, 1, 2, 3] else [0, 1, 2]
/-- Step 3: Toltar starts on the active pairs at its entry, and the duties get their first owners, which their journals record
(R420, R421).
(DESIGN CHOICE, log 42; DEDUCED, log 46) -/
def startToltar (s : State) (b : Slot) : State :=
  let go := fun (e : Nat × Pair) =>
    let p := e.2
    if s.nDies ≤ e.1 / 4 then e else
    let p := monitorBoot p
    if p.state ≠ .active then (e.1, p) else
    let recs := if e.1 % 4 ≠ 0 then [] else
      (firstDuties (e.1 / 4)).map (fun k => ({ kind := 6, args := [e.1 / 4, k, e.1], mirrored := true, applied := true } : JournalRec))
    (e.1, { enterToltar s b.entry e.1 p with journal := p.journal ++ recs, mirror := p.mirror + recs.length })
  let own := fun (e : Nat × Die) => (e.1, { e.2 with duties := (firstDuties e.1).map (fun k => (k, 4 * e.1 + 1)) })
  let s := { s with pairs := s.pairs.map go, dies := s.dies.map own }
  s.pairs.foldl (fun s e =>
    if e.2.state = .active ∧ e.1 / 4 < s.nDies then (s.inTime 10000000 (.watchdogExpiry e.1)).inTime
      10000000 (.journalCheckpoint e.1) else s) s
/-- Step 4 of a die: its memory, L2 and operand stores are zeroed, and its partition is out of reset. -/
def zeroDie (s : State) (die : Nat) : State :=
  let mine := fun (pa : Nat) => keyLocal pa && homeDie s pa == die
  let s := { s with
    hbm := s.hbm.filter (fun c => !mine c.1), l2 := s.l2.filter (fun l => !mine (l.1 * 128)),
    cores := s.cores.map (fun (c : Nat × Core) =>
      if dieOfCore c.1 = die then (c.1, { c.2 with opst := [], eccBad := [] }) else c) }
  refreshFeat (s.modDie die (fun d => { d with up := true, clkBase := s.clk }))
/-- Step 5 of a die: a port at which its DEVICE is found twice is disabled, and the board hears of each. -/
def dupPorts (s : State) (die : Nat) (dup : List Nat) : State :=
  ((dup.filter (· < 4)).map (4 * die + ·)).foldl (fun s p =>
    boardEvent { s with ports := mset s.ports p { mget s.ports p UaPort.fresh with off := true } } die 6) s
/-- Step 6 (R434, R450): GTIME is locked; device 0, where it has heard no master, is the master; this device sends its time messages
from now on. -/
def timeBegin (s : State) : State :=
  let first := s.device == 0 && s.master == 0 && s.lastTime == 0
  let s := { s with locked := true, leads := s.leads || first, lastTime := s.gtime, masterTime := s.gtime }
  (s.after 0 (.timeMessage s.device 0)).inTime 10000000 .syncLoss
/-- What a completed step does. -/
def stepEffect (s : State) (die n : Nat) (dup : List Nat) : Option State :=
  match n with
  | 2 => (bootChoice s).map (loadToltar s)
  | 3 => (bootChoice s).map (startToltar s)
  | 4 => some (zeroDie s die)
  | 5 => some (dupPorts s die dup)
  | 6 => some (timeBegin s)
  | 8 => some (publish s)
  | _ => some s
def execPowerGood (s : State) : Host.Outcome State Fault Refusal := done { s with pgood := true }
/-- A step completes or fails (R450): steps 1 to 3 are the package's, later ones a die's own. -/
def execBringupStep (die : Nat) (res : StepResult) (s : State) : Host.Outcome State Fault Refusal :=
  let d := s.die die
  let n := stepOf d + 1
  if !s.pgood || !(s.die 0).mdevSet || d.mstate.getLsbD 4 || n > 8 || (n ≥ 5 && !d.up) then done s else
  match (if res.ok then stepEffect s die n res.dup else none) with
  | some t => done (if n ≤ 3 then everyDie t (fun e => e.atStep n) else t.modDie die (fun e => e.atStep n))
  | none =>
    if n ≤ 3 then done (bootHalt s)
    else
      let s := everyDie (s.modDie die (fun e => { e with up := false })) (fun e => { e with mstate := e.mstate ||| 0x20 })
      done (refreshFeat (boardEvent s die 5))

end Sys2Proof.Machine
end

