-- ==== Sys2Proof/Machine/Rme.lean ====
section
/-!
DEFINITION. The arithmetic of the residue matrix engine: reading tiles (R59 to R62, R237), sizing (R63), panels (R242),
units of an MLOOP (R66, R71, R243, R356), residues and their drain (R65, R68, R69), the FP32 recompute of a sample (R72).
-/

namespace Sys2Proof.Machine

/-! Tiles. -/

/-- A byte of a core's operand store: scratchpad, a filled stash line, or the stash's own bytes. -/
def opByte (k : Core) (a : Nat) : Byte :=
  if a < k.spad then memByte k.opst a else
  match mfind k.slines ((a - k.spad) / 128) with
  | some t => memByte t.data ((a - k.spad) % 128)
  | none => memByte k.opst a
/-- Writing a byte of it. -/
def opPut (k : Core) (a : Nat) (b : Byte) : Core :=
  let k := { k with eccBad := mdel k.eccBad a }
  if decide (k.spad ≤ a) && (mfind k.slines ((a - k.spad) / 128)).isSome then
    { k with slines := mmod k.slines ((a - k.spad) / 128) (fun t => { t with data := memPut t.data ((a - k.spad) % 128) b }) }
  else { k with opst := memPut k.opst a b }
/-- Writing little-endian bytes under a swizzle; an element lies within its 16-byte chunk (R104). -/
def opWrite (k : Core) (sw a : Nat) (bs : List Byte) : Core :=
  bs.zipIdx.foldl (fun k e => opPut k (swizzle sw a + e.2) e.1) k

/-- MSTAT bits (R240). -/
def mChk : Nat := 1
def mPoison : Nat := 2
def mWmbad : Nat := 4
def mSznan : Nat := 8
def mSzof : Nat := 16
def mSzuf : Nat := 32
def mDof : Nat := 64
def mSat : Nat := 128
def mEmix : Nat := 256
def mF32blk : Nat := 512

/-- Elements of a 64-byte block by code (R59); none for ZERO, POISON and unassigned codes. -/
def blockCount (code : Nat) : Option Nat :=
  match code with
  | 1 => some 128
  | 2 | 10 | 11 => some 64
  | 3 | 8 | 9 => some 32
  | 12 => some 16
  | _ => none
/-- A block of a row: its first element, how many it stands for, code, scale byte, payload, an uncorrectable error. -/
structure TBlk where
  lo   : Nat
  n    : Nat
  code : Nat
  e    : Nat
  data : List Byte
  bad  : Bool
/-- Reading the block at row address `x` that begins at element `idx` (R61, R237). -/
def tileBlock (k : Core) (t : Tile) (x idx : Nat) : TBlk :=
  let wa := t.wmoff + (x - t.base) / 32
  let addrs := (List.range 64).map (fun i => swizzle t.sw (x / 16 * 16 + i / 16 * 16) + i % 16)
  let bad := addrs.any (fun a => mget k.eccBad a false) ||
    (t.wmv && (mget k.eccBad wa false || mget k.eccBad (wa + 1) false))
  let code := if t.wmv then (opByte k wa).toNat else t.fmt
  { lo := idx, n := (blockCount code).getD ((blockCount t.fmt).getD 64), code := code,
    e := if t.wmv then (opByte k (wa + 1)).toNat else 127, data := addrs.map (opByte k), bad := bad }
/-- The blocks of a row from byte `b` on, up to element `lim`. (DEDUCED, log 41) -/
def rowBlocks (k : Core) (t : Tile) (r lim b idx : Nat) : Nat → List TBlk
  | 0 => []
  | n + 1 =>
    if lim ≤ idx then [] else
    let bk := tileBlock k t (t.base + r * t.stride + b) idx
    bk :: rowBlocks k t r lim (b + 64) (idx + bk.n) n

/-- An element's pattern in its block. -/
def blockBits (b : TBlk) (i : Nat) : Nat :=
  match b.code with
  | 1 => natBits ((b.data.getD (i / 2) 0).toNat) (4 * (i % 2) + 3) (4 * (i % 2))
  | 2 | 10 | 11 => (b.data.getD i 0).toNat
  | 12 => field b.data (4 * i) 4
  | _ => field b.data (2 * i) 2

/-- A block as the engine uses it (R47, R63): nothing, poison, or integers with scale byte and width. -/
inductive Sized where
  | zero
  | poison
  | ints (q : List Int) (e w : Nat)
/-- The float format of a code that sizing handles, with its target width. -/
def sizeFmt (code : Nat) : Option (FFmt × Nat) :=
  match code with
  | 8 => some (bf16, 16)
  | 9 => some (fp16, 16)
  | 10 => some (e4m3, 8)
  | 11 => some (e5m2, 8)
  | _ => none
/-- `± m × 2^e` rounded to an integer, ties to even. -/
def roundInt (neg : Bool) (m : Nat) (e : Int) : Int :=
  let q := (roundAt .rn neg m e false 0).1
  if neg then -(q : Int) else q
/-- Sizing a float block (R63, R64) by all `n` elements that it stores: the result and the MSTAT bit.
(DESIGN CHOICE, log 64) -/
def sizeFloat (t : FFmt) (w : Nat) (b : TBlk) (n : Nat) : Sized × Nat :=
  let vs := (List.range n).map (fun i => t.unpack (blockBits b i))
  let isFin := fun (v : FVal) => match v with
    | .fin .. => true
    | _ => false
  let top := fun (v : FVal) => match v with
    | .fin _ m e => if m = 0 then none else some (e + (Nat.log2 m : Int))
    | _ => none
  let tops := vs.filterMap top
  if !vs.all isFin then (.poison, mSznan) else
  match tops with
  | [] => (.zero, 0)
  | a :: r =>
    let sh := r.foldl max a - ((w : Int) - 2)
    let eo := (b.e : Int) + sh
    if eo > 255 then (.poison, mSzof)
    else if eo < 0 then (.zero, mSzuf)
    else (.ints (vs.map (fun v => match v with
      | .fin neg m e => roundInt neg m (e - sh)
      | _ => 0)) eo.toNat w, 0)
/-- A block sized on reading (R59, R63); an FP32 block is poison. -/
def sizeBlock (b : TBlk) : Sized × Nat :=
  match b.code with
  | 0 => (.zero, 0)
  | 1 => (.ints ((List.range 128).map (fun i => intOf 4 true (blockBits b i))) b.e 4, 0)
  | 2 => (.ints ((List.range 64).map (fun i => intOf 8 true (blockBits b i))) b.e 8, 0)
  | 3 => (.ints ((List.range 32).map (fun i => intOf 16 true (blockBits b i))) b.e 16, 0)
  | 12 => (.poison, mF32blk)
  | c => match sizeFmt c with
    | some (t, w) => sizeFloat t w b (if w = 16 then 32 else 64)
    | none => (.poison, if c = 255 then 0 else mWmbad)

/-- A part of a row within a window of 128 elements: from `lo` to `hi − 1`. -/
structure Seg where
  lo : Nat
  hi : Nat
  v  : Sized
/-- A row as the engine reads it: its parts, its elements before sizing, MSTAT bits, an ECC error, bytes read. -/
structure TRow where
  segs  : List Seg
  raw   : List RawEl
  flags : Nat
  ecc   : Bool
  bytes : Nat
/-- An element before sizing: of nothing, of a poisoned block, or its pattern (R72). -/
def rawOf (b : TBlk) (i : Nat) : RawEl :=
  if b.code = 0 then (0, 0, 0) else if (blockCount b.code).isNone || b.code = 12 then (255, 0, 0)
  else (b.code, b.e, blockBits b i)
/-- Elements `first` to `first + 127` of row `r` (R61, R237). -/
def readRow (k : Core) (t : Tile) (r first : Nat) : TRow :=
  let lim := min (first + 128) t.cols
  if t.rows ≤ r ∨ lim ≤ first then { segs := [], raw := List.replicate 128 (0, 0, 0), flags := 0, ecc := false, bytes := 0 }
  else
    let bs := rowBlocks k t r lim 0 0 (t.stride / 64)
    let inn := bs.filter (fun b => decide (first < b.lo + b.n))
    let sized := inn.map (fun b => (b, sizeBlock b))
    let wm := bs.foldl (fun f b => if b.code = 0 ∨ b.code = 255 ∨ (blockCount b.code).isSome then f else mWmbad) 0
    let ecc := inn.any (·.bad)
    let part := fun (e : TBlk × Sized × Nat) =>
      let lo := max e.1.lo first; let hi := min (e.1.lo + e.1.n) lim
      match e.2.1 with
      | .ints q s w => ({ lo := lo - first, hi := hi - first, v := .ints ((q.drop (lo - e.1.lo)).take (hi - lo)) s w } : Seg)
      | v => { lo := lo - first, hi := hi - first, v := v }
    let raw := (List.range 128).map (fun i =>
      if lim ≤ first + i then (0, 0, 0) else
      match inn.find? (fun b => decide (b.lo ≤ first + i) && decide (first + i < b.lo + b.n)) with
      | some b => if ecc then (255, 0, 0) else rawOf b (first + i - b.lo)
      | none => (0, 0, 0))
    { segs := if ecc then [{ lo := 0, hi := 128, v := .poison }] else sized.map part, raw := raw,
      flags := sized.foldl (fun f e => f ||| e.2.2) wm, ecc := ecc, bytes := 64 * inn.length + 2 * boolNat t.wmv * inn.length }

/-! Panels (R242). -/

/-- A column of the macro: 128 integers, per group of 32 the scale byte (none for an all-ZERO group) and whether it is
poisoned. -/
structure BCol where
  ints  : List Int
  scale : List (Option Nat)
  pois  : List Bool
/-- The column a B row makes, and whether a group took blocks of different scale bytes. -/
def columnOf (row : TRow) : BCol × Bool :=
  let meets := fun (g : Nat) (x : Seg) => decide (x.lo < 32 * g + 32) && decide (32 * g < x.hi)
  let scales := fun (g : Nat) => (row.segs.filter (meets g)).filterMap (fun x => match x.v with
    | .ints _ e _ => some e
    | _ => none)
  let hasP := fun (g : Nat) => (row.segs.filter (meets g)).any (fun x => match x.v with
    | .poison => true
    | _ => false)
  let mixed := fun (g : Nat) => match scales g with
    | [] => false
    | a :: r => r.any (· != a)
  let at_ := fun (i : Nat) => match row.segs.find? (fun x => decide (x.lo ≤ i) && decide (i < x.hi)) with
    | some x => (match x.v with
      | .ints q _ _ => q.getD (i - x.lo) 0
      | _ => 0)
    | none => 0
  ({ ints := (List.range 128).map at_, scale := (List.range 4).map (fun g => (scales g).head?),
     pois := (List.range 4).map (fun g => hasP g || mixed g) }, (List.range 4).any mixed)
/-- Listing the entries that differ from a default, by key. -/
def sparse {α : Type} [DecidableEq α] (d : α) (lo : Nat) (l : List α) : NMap α :=
  (l.zipIdx lo).filterMap (fun e => if e.1 = d then none else some (e.2, e.1))
/-- `n` entries from a key on, unlisted ones at the default. -/
def dense {α : Type} (d : α) (lo : Nat) (m : NMap α) : Nat → List α
  | 0 => []
  | n + 1 => match m with
    | [] => d :: dense d (lo + 1) [] n
    | (k, v) :: r =>
      if k < lo then dense.skip d lo r (n + 1)
      else if k = lo then v :: dense d (lo + 1) r n else d :: dense d (lo + 1) ((k, v) :: r) n
where
  /-- Passing over the entries below `lo`. -/
  skip (d : α) (lo : Nat) (m : NMap α) (n : Nat) : List α :=
    (List.range n).map (fun i => mget m (lo + i) d)
/-- A B panel loaded into a context (R242): the context, MSTAT bits, ECC. (DEDUCED, log 41) -/
def loadPanel (k : Core) (x : RmeCtx) (t : Tile) (q : Nat) : RmeCtx × Nat × Bool :=
  let rows := (List.range 128).map (fun n => readRow k t n (128 * q))
  let cols := rows.map columnOf
  let f := rows.foldl (fun f r => f ||| r.flags) 0
  let pois := cols.any (fun c => c.2 || c.1.pois.any id)
  ({ x with
      panel := some q
      bmac := sparse 0 0 (cols.flatMap (·.1.ints))
      scale := (cols.flatMap (·.1.scale)).zipIdx.filterMap (fun e => e.1.map (fun v => (e.2, v)))
      mpois := sparse false 0 (cols.flatMap (·.1.pois))
      raw := sparse (0, 0, 0) 0 (rows.flatMap (·.raw)), rawN := rows.foldl (fun n r => n + r.bytes) 0,
      rawLost := false },
    f ||| (if pois then mPoison else 0), rows.any (·.ecc))
/-- The columns a context's macro holds. -/
def ctxCols (x : RmeCtx) : List BCol :=
  let below := fun {α : Type} (m : NMap α) (n lo : Nat) => (m.dropWhile (fun e => decide (e.1 < lo))).takeWhile (fun e => decide (e.1 < lo + n))
  (List.range 128).map (fun n =>
    let sc := below x.scale 4 (4 * n)
    { ints := dense 0 (128 * n) (below x.bmac 128 (128 * n)) 128
      scale := (List.range 4).map (fun g => mfind sc (4 * n + g))
      pois := (List.range 4).map (fun g => mget x.mpois (4 * n + g) false) })

/-! Residues (R65, R67, R68). -/

def accZero : Acc := { c1 := 0, c2 := 0, c3 := 0, c4 := 0, poison := false, bad := false }
def crtM : Nat := 2 ^ 48 - 2 ^ 16
/-- Crt48: the signed value with these residues. -/
def crt48 (c1 c2 c3 : Nat) : Int :=
  let x := (c1 * (65536 * 65537) * 32768 + c2 * (65535 * 65537) * 65535 + c3 * (65535 * 65536) * 32769) % crtM
  if x < crtM / 2 then (x : Int) else (x : Int) - (crtM : Int)
/-- Adding a contribution (R66), in any order (R67). -/
def accAdd (a : Acc) (p : Int) : Acc :=
  let r := fun (c : Nat) (m : Int) => (((c : Int) + p) % m).toNat
  { a with c1 := r a.c1 65535, c2 := r a.c2 65536, c3 := r a.c3 65537, c4 := r a.c4 31 }
/-- X and whether the check fails (R68, R355). -/
def accValue (a : Acc) : Int × Bool :=
  let x := crt48 a.c1 a.c2 a.c3
  (x, a.bad || (x % 31).toNat != a.c4)

/-! Units (R66, R71, R243, R356). -/

/-- The parameters of an MLOOP (R241). -/
structure MPar where
  steps  : Nat
  panels : Nat
  e      : Int
  row0   : Nat
  col0   : Nat
  rowinc : Nat
  colinc : Nat
  bp0    : Nat
def mloopPar (l : List Word) : MPar :=
  let w := fun (i : Nat) => (l.getD i 0).toNat
  { steps := w 0 % 16, panels := natBits (w 0) 11 4, e := intOf 9 true (natBits (w 0) 24 16), row0 := w 1 % 65536,
    col0 := w 1 / 65536, rowinc := w 2 % 65536, colinc := w 2 / 65536, bp0 := natBits (w 3) 15 8 }

/-- Σ Floor(a / 2^n) × b, or Σ a × b × 2^d (R66). -/
def dotShift (d : Int) (w : Nat) (a b : List Int) : Int :=
  let dot := fun (f : Int → Int) => (a.zip b).foldl (fun s e => s + f e.1 * e.2) 0
  if d ≥ 0 then dot id * 2 ^ d.toNat
  else if (-d).toNat ≥ w then 0 else dot (fun x => x / 2 ^ (-d).toNat)
/-- The K indices an A part and a group of a column share: all, or in batched mode those of the column's block. -/
def sharedK (batched : Bool) (n g : Nat) (s : Seg) : Nat × Nat :=
  let lo := max s.lo (32 * g); let hi := min s.hi (32 * g + 32)
  if batched then (max lo (8 * (n / 8)), min hi (8 * (n / 8) + 8)) else (lo, hi)
/-- What one A part adds to the element of one column. -/
def partAdd (batched : Bool) (ex : Int) (n : Nat) (c : BCol) (s : Seg) : Int :=
  match s.v with
  | .ints q sa w =>
    (List.range 4).foldl (fun t g =>
      let (lo, hi) := sharedK batched n g s
      match c.scale.getD g none with
      | none => t
      | some sb =>
        if hi ≤ lo then t else
        t + dotShift ((sa : Int) + sb - 254 - ex) w ((q.drop (lo - s.lo)).take (hi - lo)) ((c.ints.drop lo).take (hi - lo))) 0
  | _ => 0
/-- Whether an element is poisoned by its row of A or its column of B (R71); in batched mode by the blocks that its own
products meet. (DESIGN CHOICE, log 64) -/
def partPois (batched : Bool) (n : Nat) (c : BCol) (row : TRow) : Bool :=
  row.segs.any (fun s => match s.v with
    | .poison => (List.range 4).any (fun g => let (lo, hi) := sharedK batched n g s; decide (lo < hi))
    | _ => false) ||
  (List.range 4).any (fun g => c.pois.getD g false && (!batched || n / 32 == g))
/-- The planes an A part needs (R356): over the groups it meets that are neither ZERO nor poisoned. -/
def partPlanes (ex : Int) (cols : List BCol) (s : Seg) : Nat :=
  match s.v with
  | .ints _ sa w =>
    let needs := cols.flatMap (fun c => (List.range 4).filterMap (fun g =>
      if s.lo < 32 * g + 32 ∧ 32 * g < s.hi ∧ !c.pois.getD g false then
        (c.scale.getD g none).map (fun sb => w - (254 + ex - sa - sb).toNat)
      else none))
    needs.foldl max 0
  | _ => 0

/-- One step of a unit: the register, the rows read, the clk it takes. -/
structure MStep where
  acc  : Nat
  rows : List TRow
  clks : Nat
/-- The steps of a unit against the resident panel. -/
def unitSteps (k : Core) (x : RmeCtx) (t : Tile) (acc : Nat) (p : MPar) (panel : Nat) : List MStep :=
  let cols := ctxCols x
  (List.range p.steps).map (fun s =>
    let rows := (List.range 8).map (fun i => readRow k t (p.row0 + s * p.rowinc + i) (p.col0 + panel * p.colinc))
    let ex := mget x.exps (acc + s) 0
    { acc := acc + s, rows := rows,
      clks := (rows.flatMap (·.segs)).foldl (fun m g => max m (partPlanes ex cols g)) 1 })
def unitClks (l : List MStep) : Nat := l.foldl (fun n s => n + s.clks) 0
/-- A register's elements with one step's contributions added. -/
def stepAccs (x : RmeCtx) (batched : Bool) (st : MStep) : List Acc :=
  let cols := ctxCols x
  let ex := mget x.exps st.acc 0
  let old := dense accZero (1024 * st.acc) (x.accs.dropWhile (fun e => decide (e.1 < 1024 * st.acc))) 1024
  (old.zip (st.rows.flatMap (fun r => cols.zipIdx.map (fun c => (r, c))))).map (fun e =>
    let row := e.2.1; let c := e.2.2.1; let n := e.2.2.2
    let a := accAdd e.1 (row.segs.foldl (fun t s => t + partAdd batched ex n c s) 0)
    { a with poison := a.poison || partPois batched n c row })
/-- Replacing a register's elements. -/
def setAccs (x : RmeCtx) (r : Nat) (l : List Acc) : RmeCtx :=
  { x with accs := x.accs.filter (fun e => decide (e.1 < 1024 * r)) ++ sparse accZero (1024 * r) l ++
      x.accs.filter (fun e => decide (1024 * (r + 1) ≤ e.1)) }
/-- MSTAT bits of a step: those of its blocks, and POISON where poison was met. -/
def stepFlags (x : RmeCtx) (batched : Bool) (st : MStep) : Nat :=
  let f := st.rows.foldl (fun f r => f ||| r.flags) 0
  let met := st.rows.any (fun r => (ctxCols x).zipIdx.any (fun c => partPois batched c.2 c.1 r))
  f ||| (if met then mPoison else 0)

/-! Draining (R69). -/

/-- One element drained: its bytes' value and MSTAT bits; RAW keeps the exponent of an element that failed.
(DESIGN CHOICE, log 64) -/
def drainElem (mode : Nat) (e : Int) (a : Acc) : Nat × Nat :=
  let (x, chk) := accValue a
  let fl := (if chk then mChk else 0) ||| (if a.poison then mPoison else 0)
  let raw := fun (v : Nat) => v + truncInt 9 e * 2 ^ 48
  if a.poison then
    (match mode with
      | 0 => 0xFFC00000
      | 1 => 0xFFC0
      | 2 => 0x80000001
      | _ => raw 0x800000000001, fl)
  else if chk then
    (match mode with
      | 0 => 0x7FC00000
      | 1 => 0x7FC0
      | 2 => 0x80000000
      | _ => raw 0x800000000000, fl)
  else
    match mode with
    | 0 => let r := fp32.round .rn false false (decide (x < 0)) x.natAbs e false
           (r.bits, if r.flags &&& flagOF ≠ 0 then mDof else 0)
    | 1 => let r := bf16.round .rn false false (decide (x < 0)) x.natAbs e false
           (r.bits, if r.flags &&& flagOF ≠ 0 then mDof else 0)
    | 2 => let z := roundInt (decide (x < 0)) x.natAbs e
           (truncInt 32 (satInt 32 true z), if satInt 32 true z = z then 0 else mSat)
    | _ => (raw (truncInt 48 x), 0)
/-- A drained element as FP32, for the comparison of R72. -/
def drainedF32 (mode v : Nat) : Nat :=
  match mode with
  | 0 => v
  | 1 => v * 65536
  | 2 => let z := intOf 32 true v; (fp32.round .rn false false (decide (z < 0)) z.natAbs 0 false).bits
  | _ => let z := intOf 48 true (v % 2 ^ 48)
         (fp32.round .rn false false (decide (z < 0)) z.natAbs (intOf 9 true (v / 2 ^ 48)) false).bits

/-! The shadow recompute (R72, R364). -/

/-- The exact value of an element before sizing, scaled; a poisoned block's is a NaN. -/
def rawVal (r : RawEl) : FVal :=
  let sc := fun (v : FVal) => match v with
    | .fin n m e => FVal.fin n m (e + (r.2.1 : Int) - 127)
    | v => v
  let int := fun (w : Nat) => let z := intOf w true r.2.2; sc (.fin (decide (z < 0)) z.natAbs 0)
  match r.1 with
  | 0 => .fin false 0 0
  | 1 => int 4
  | 2 => int 8
  | 3 => int 16
  | c => match sizeFmt c with
    | some (t, _) => sc (t.unpack r.2.2)
    | none => .nan false
/-- One fused multiply-add in FP32. -/
def fma32 (a b : FVal) (s : Nat) : Nat := (fp32.pack .rn false false (fmaV .rn a b (fp32.unpack s)).1 0).bits
/-- The items of a log in ascending K: by A column, those of equal column in the order of the log. (DESIGN CHOICE, log 64) -/
def logOrder (l : List ShadowItem) : List ShadowItem := sortBy (·.k0) l
/-- The recomputed element of row `i`, column `n`. -/
def shadowElem (l : List ShadowItem) (i n : Nat) : Nat :=
  (logOrder l).foldl (fun s it =>
    (List.range 128).foldl (fun s k =>
      if it.batched && k / 8 != n / 8 then s else
      fma32 (rawVal ((it.rows.getD i []).getD k (0, 0, 0))) (rawVal (mget it.cols (128 * n + k) (0, 0, 0))) s) s) 0
/-- A quotient of two finite positive FP32 patterns. -/
def div32 (a b : Nat) : Nat :=
  match fp32.unpack a, fp32.unpack b with
  | .fin _ m e, .fin _ n f =>
    let k := 64 + Nat.log2 n
    if n = 0 then fp32.nan else
    (fp32.round .rn false false false (m * 2 ^ k / n) (e - f - k) (m * 2 ^ k % n != 0)).bits
  | .inf _, .fin .. => fp32.top
  | .fin .., .inf _ => 0
  | _, _ => fp32.nan
/-- Whether a pattern is a NaN. -/
def isNan32 (x : Nat) : Bool := (fp32.unpack x).isNan
/-- The absolute and relative deviation of one element (R72, R73). -/
def deviation (drained s : Nat) : Nat × Nat :=
  if isNan32 drained || isNan32 s then (fp32.nan, fp32.nan) else
  let a := (fp32.sub .rn false drained s).bits % 2 ^ 31
  if isNan32 a then (fp32.nan, fp32.nan) else (a, div32 a (max (s % 2 ^ 31) 0x00800000))
/-- The larger of two deviations, a NaN above all; non-negative patterns order as numbers. -/
def devAbove (a b : Nat) : Bool := if isNan32 b then false else isNan32 a || decide (b < a)
/-- What a sample finds: the element of the largest absolute deviation (of several the lowest index, 0 where every
deviation is 0: DESIGN CHOICE, log 64), it, and the largest relative deviation. -/
def shadowResult (j : ShadowJob) : Nat × Nat × Nat :=
  let items := j.items.filter (fun it => it.acc == j.acc)
  j.vals.zipIdx.foldl (fun m e =>
    let d := deviation e.1 (shadowElem items (e.2 / 128) (e.2 % 128))
    let m := if devAbove d.1 m.2.1 then (e.2, d.1, m.2.2) else m
    if devAbove d.2 m.2.2 then (m.1, m.2.1, d.2) else m) (0, 0, 0)

end Sys2Proof.Machine
end

