-- ==== Sys2Proof/Machine/Matrix.lean ====
section
/-!
DEFINITION. The matrix instructions (R236 to R246) and the residue matrix engine at work (R355 to R366): acceptance, load
port, array, drain unit, shadow unit, deviation ring, matrix control port.
-/

namespace Sys2Proof.Machine

/-! Warps by name. -/

/-- Changing a warp wherever it is. -/
def modWarpKey (s : State) (key : Nat) (f : Warp → Warp) : State :=
  if key < 10 ^ 6 then s.modWarp key f
  else { s with saved := s.saved.map (fun v => if savedKey v.id = key then { v with warp := f v.warp } else v) }
/-- A tile register's busy count changes (R239). -/
def busyAdd (s : State) (key r n : Nat) : State := modWarpKey s key (fun x => { x with busy := mput x.busy r (mget x.busy r 0 + n) 0 })
def busySub (s : State) (key r : Nat) : State := modWarpKey s key (fun x => { x with busy := mput x.busy r (mget x.busy r 0 - 1) 0 })
/-- Setting MSTAT bits in the issuing warp (R240): in its save area if it is pre-empted (R381). -/
def mstatOr (s : State) (key bits : Nat) : State :=
  if bits = 0 then s else
  if key < 10 ^ 6 then s.modWarp key (fun x => { x with mstat := x.mstat ||| BitVec.ofNat 32 bits }) else
  match warpByKey s key with
  | none => s
  | some x =>
    let a := x.saveArea + saveSpecial + 8 * savedRegs.idxOf 0x10
    match vRead s x.asid a 8 with
    | some b => vWriteD s x.asid a (leBytes 8 (leNat b ||| bits))
    | none => s
/-- POISON after a drain's writes (R70, R495): outside handler mode (R375); a pre-empted warp's pend bit is set where it
is saved. -/
def raisePoison (s : State) (key : Nat) (lanes : LaneMask) (pc : Nat) : State :=
  match warpByKey s key with
  | none => s
  | some x =>
    if x.handler then s else
    if key < 10 ^ 6 then
      addPend s key { code := 0x0F, faddr := BitVec.ofNat 64 pc, lanes := lanes, due := s.clk + 1, entry := none } else
    match vRead s x.asid (x.saveArea + 0x18C) 4, vRead s x.asid (x.saveArea + 0x1D0) 8 with
    | some c, some f =>
      let s := vWriteD s x.asid (x.saveArea + 0x18C) (leBytes 4 (leNat c ||| 2 ^ 17))
      if leNat f = 0 then vWriteD s x.asid (x.saveArea + 0x1D0) (leBytes 8 pc) else s
    | _, _ => s

/-! Tile registers (R238). -/

/-- The address checks of MCFG in their order (R238). (DEDUCED, log 41) -/
def mcfgCause (k : Core) (t : Tile) : Option (Nat × DWord) :=
  let lim := k.spad + k.stash
  if t.base % 64 ≠ 0 then some (0x06, spaceFaddr .spad t.base)
  else if t.stride % 64 ≠ 0 ∨ t.stride = 0 then some (0x06, spaceFaddr .spad t.base)
  else if t.wmoff % 64 ≠ 0 then some (0x06, spaceFaddr .spad t.wmoff)
  else if t.base + t.rows * t.stride > lim then some (0x08, spaceFaddr .spad t.base)
  else if t.wmv ∧ t.wmoff + 2 * t.rows * t.stride / 64 > lim then some (0x08, spaceFaddr .spad t.wmoff)
  else none
/-- TILE_BUSY of the .nb forms; the others have waited (R238). -/
def busyCause (x : Warp) (r : Nat) : Option (Nat × DWord) :=
  if mget x.busy r 0 = 0 then none else some (0x0A, BitVec.ofNat 64 r)
def execMcfg (f : LongF) (s : State) : Host.Outcome State Fault Refusal :=
  issuing s (fun c x =>
    if c.act x (.mcfg f) = 0 then s else
    let t := tileOf x (bReg f)
    let fe := (feCause c x (.mcfg f)).map (fun fa => (0x09, fa))
    match lowestCause [mcfgCause (s.core (coreOf c.warp)) t, fe, busyCause x f.d.toNat] with
    | some (code, fa) => trapAtIssue s c code fa
    | none => s.modWarp c.warp (fun x => { x with tile := mput x.tile f.d.toNat t 0 }))
def execMrel (f : LongF) (s : State) : Host.Outcome State Fault Refusal :=
  issuing s (fun c x =>
    if c.act x (.mrel f) = 0 then s else
    match busyCause x f.d.toNat with
    | some (code, fa) => trapAtIssue s c code fa
    | none => s.modWarp c.warp (fun x => { x with tile := mdel x.tile f.d.toNat }))

/-! Acceptance (R219, R239, R361). -/

/-- The context an instruction names. -/
def ctxNo (f : LongF) : Nat := boolNat (f.m.getLsbD 0)
/-- The sampling k of a context (R240). -/
def mctlOf (mctl : Word) (x : Nat) : Nat := if x = 0 then natBits mctl.toNat 4 0 else natBits mctl.toNat 12 8
/-- Whether a context's next drain is sampled (R72, R364). -/
def isArmed (k drains : Nat) : Bool := k != 0 && drains % 2 ^ k == 0
/-- Taking ownership of an empty context, or finding it foreign (R361). -/
def ownCause (s : State) (w : Nat) (x : Warp) (n : Nat) : Option (Nat × DWord) :=
  match (s.ctx (coreOf w) n).tag with
  | some t => if t = x.tag then none else some (0x0B, BitVec.ofNat 64 (n + t * 256))
  | none => none
def ownCtx (x : Warp) (k : RmeCtx) : RmeCtx := if k.tag.isSome then k else { RmeCtx.fresh with tag := some x.tag }
/-- Accepting a command: the checks made at issue, the tag, the token, and the entry at the queue's end. -/
def acceptRme (s : State) (i : Instr) (f : LongF) (token : Bool) (cmd : IssueCtx → Warp → RmeCmd)
    (more : State → IssueCtx → RmeEntry → RmeEntry × State) : Host.Outcome State Fault Refusal :=
  issuing s (fun c x =>
    let act := c.act x i
    if act = 0 then s else
    let n := ctxNo f
    match lowerCause ((feCause c x i).map (fun fa => (0x09, fa))) (ownCause s c.warp x n) with
    | some (code, fa) => trapAtIssue s c code fa
    | none =>
      let t := if token then takeToken s c f.t.toNat else (0, undoPut s c.warp c.pc 6 0 0 0 0 0 [])
      let s := t.2
      let k := mctlOf c.mctl n
      let e : RmeEntry :=
        { cmd := cmd c x, warp := c.warp, wid := t.1, reg := f.t.toNat, seq := s.nextId, lanes := act,
          traps := c.mctl.getLsbD 16, bind := none, flags := 0, ecc := false, panel := 0, phase := 0, due := s.clk, snap := [],
          snapE := 0, dnum := 0 }
      let (e, s) := more s.usedId c e
      s.modCtx (coreOf c.warp) n (fun q =>
        let q := ownCtx x q
        { q with queue := q.queue ++ [e], lastK := k, armed := isArmed k q.drains }))
/-- The tile register of the command counts it as busy. -/
def withBusy (r : Nat) (s : State) (c : IssueCtx) (e : RmeEntry) : RmeEntry × State := (e, busyAdd s c.warp r 1)

def execMload (f : LongF) (s : State) : Host.Outcome State Fault Refusal :=
  acceptRme s (.mload f) f true (fun _ x => .mload (x.t f.d.toNat) f.d.toNat) (withBusy f.d.toNat)
/-- Announcing an engine arrival at the current phase of a barrier (R203, R243). -/
def announce (s : State) (x : Warp) (p3 : Nat) : Option (Nat × Nat × Nat) × State :=
  match x.group? (p3 / 16 % 4) with
  | none => (none, s)
  | some gi =>
    let b := p3 % 16
    let ph := (mfind s.groups gi).elim 0 (fun g => g.phase b)
    (some (gi, b, ph), s.modGroup gi (fun g => { g with engines := mset g.engines (16 * ph + b) (mget g.engines (16 * ph + b) 0 + 1) }))
/-- MLOOP (R239, R243); the binding whose tile register it keeps busy is that of its acceptance, also while an earlier MLOAD
is still queued. (DESIGN CHOICE, log 64) -/
def execMloop (f : LongF) (s : State) : Host.Outcome State Fault Refusal :=
  acceptRme s (.mloop f) f true
    (fun _ x => .mloop (x.t f.d.toNat) f.d.toNat f.a.toNat ((List.range 4).map (fun i => x.s (bReg f + i))) (f.m.getLsbD 1) none)
    (fun s c e =>
      let x := s.warpD c.warp
      let b := (s.ctx (coreOf c.warp) (ctxNo f)).bindReg
      let s := busyAdd s c.warp f.d.toNat 1
      let s := match b with
        | some (w, r) => busyAdd s w r 1
        | none => s
      let (arr, s) := if f.m.getLsbD 2 then announce s x (x.s (bReg f + 3)).toNat else (none, s)
      let cmd := match e.cmd with
        | .mloop t r a p bt _ => RmeCmd.mloop t r a p bt arr
        | q => q
      ({ e with cmd := cmd, bind := b }, s))
def execMdrain (f : LongF) (s : State) : Host.Outcome State Fault Refusal :=
  acceptRme s (.mdrain f) f true
    (fun c x => .mdrain (x.t f.d.toNat) f.d.toNat f.a.toNat (natBits f.m.toNat 3 2) (mctlOf c.mctl (ctxNo f)) c.pc)
    (withBusy f.d.toNat)
def execMzero (f : LongF) (s : State) : Host.Outcome State Fault Refusal :=
  acceptRme s (.mzero f) f false (fun _ _ => .mzero f.a.toNat) (fun s _ e => (e, s))
/-- MFENCE (R246). -/
def execMfence (f : LongF) (s : State) : Host.Outcome State Fault Refusal :=
  issuing s (fun c x =>
    let act := c.act x (.mfence f)
    if act = 0 then s
    else settle (holdFlight s c.warp act (.mfence (holdOf.mfenceCtx f) (holdOf.mfenceKind f)) c.pc c.w0 c.w1) c.warp)

/-! The deviation ring (R73, R365, R366). -/

/-- The counts of a space's ring. -/
def State.devRing (s : State) (asid : Nat) : DevRing := mget s.devRings asid ⟨0, 0, 0⟩
/-- The control block of a ring (R365). -/
def ringText (r : DevRing) : List Byte :=
  leBytes 8 (r.head % 2 ^ 64) ++ leBytes 8 (min r.drops (2 ^ 64 - 1)) ++ leBytes 8 (min r.lost (2 ^ 64 - 1)) ++ leBytes 40 0
/-- The control block of a ring is written as it counts (R365); one that cannot be translated is told to Toltar, kind 17. -/
def ringCtl (s : State) (asid base : Nat) (r : DevRing) : State :=
  let s := { s with devRings := mset s.devRings asid r }
  match vWrite s asid base (ringText r) with
  | some t => t
  | none => s.tell 17 [asid]
/-- A deviation record: GTIME, drain count, element, kind, context and register, deviations, core. -/
def devRecord (gt dnum elem kind x acc mabs mrel c : Nat) : List Byte :=
  leBytes 8 gt ++ leBytes 4 dnum ++ leBytes 2 elem ++ leBytes 1 kind ++ leBytes 1 (x + 2 * acc) ++ leBytes 4 mabs ++
    leBytes 4 mrel ++ leBytes 2 (c % 96) ++ leBytes 1 (dieOfCore c) ++ leBytes 5 0
/-- Writing a record to an address space's ring, its control block after it; where a translation of either fails, the record
is discarded, counted, and Toltar told, kind 17 (R366). -/
def devPut (s : State) (asid : Nat) (bs : List Byte) : State :=
  match s.space asid with
  | none => s
  | some d =>
    let r := s.devRing asid
    if d.drsize = 0 then ringCtl s asid d.drbase { r with lost := r.lost + 1 } else
    let up := { r with head := r.head + 1 }
    match vWrite s asid (d.drbase + 64 + 32 * (r.head % d.drsize)) bs with
    | some t =>
      if (vWrite t asid d.drbase (ringText up)).isSome then ringCtl t asid d.drbase up
      else ringCtl s asid d.drbase { r with lost := r.lost + 1 }
    | none => ringCtl (s.tell 17 [asid]) asid d.drbase { r with lost := r.lost + 1 }
/-- A dropped sample is counted (R364). -/
def devDrop (s : State) (asid : Nat) : State :=
  match s.space asid with
  | some d => ringCtl s asid d.drbase { s.devRing asid with drops := (s.devRing asid).drops + 1 }
  | none => s

/-! The sequencer of each clk (R245, R357 to R359). -/

def modEntry (s : State) (c x seq : Nat) (f : RmeEntry → RmeEntry) : State :=
  s.modCtx c x (fun k => { k with queue := k.queue.map (fun e => if e.seq = seq then f e else e) })
def isDrain (e : RmeEntry) : Bool :=
  match e.cmd with
  | .mdrain .. => true
  | _ => false
/-- The oldest command that is not a drain. -/
def mainHead (k : RmeCtx) : Option RmeEntry := k.queue.find? (fun e => !isDrain e)
/-- Whether an earlier drain of one of `n` accumulators from `a` has still to read it (R245). -/
def drainAhead (k : RmeCtx) (seq a n : Nat) : Bool :=
  k.queue.any (fun e => decide (e.seq < seq) && (match e.cmd with
    | .mdrain _ _ r _ _ _ => decide (a ≤ r) && decide (r < a + n) && e.phase != 3
    | _ => false))
/-- The panel an MLOOP's next unit runs against, and whether it is resident or none is bound (R243). -/
def panelReady (k : RmeCtx) (e : RmeEntry) (par : List Word) : Bool :=
  k.bind.isNone || k.panel == some ((mloopPar par).bp0 + e.panel)
/-- A context that waits to begin something: its oldest command, if nothing holds it. -/
def idleHead (k : RmeCtx) : Option RmeEntry :=
  match mainHead k with
  | none => none
  | some e =>
    if e.phase ≠ 0 then none else
    match e.cmd with
    | .mloop _ _ a p _ _ => if drainAhead k e.seq a (mloopPar p).steps then none else some e
    | .mzero a => if drainAhead k e.seq a 1 then none else some e
    | _ => some e
/-- Whether a context asks for the load port; for the array. -/
def wantsPort (k : RmeCtx) : Bool :=
  match idleHead k with
  | none => false
  | some e => match e.cmd with
    | .mload .. => true
    | .mloop _ _ _ p _ _ => !panelReady k e p
    | _ => false
def wantsArray (k : RmeCtx) : Bool :=
  match idleHead k with
  | none => false
  | some e => match e.cmd with
    | .mloop _ _ _ p _ _ => panelReady k e p
    | _ => false
/-- The context served: the only one that asks, or the one not served last; context 0 at first (R357, R358). -/
def pickCtx (a b : Bool) (last : Nat) : Option Nat :=
  if a && b then (if last = 1 then some 1 else some 0) else if a then some 0 else if b then some 1 else none

/-- An MZERO begins (R244): residues, poison and exponent go at one instant; its 1 clk follows. -/
def startZero (s : State) (c x : Nat) : State :=
  match idleHead (s.ctx c x) with
  | none => s
  | some e =>
    match e.cmd with
    | .mzero a =>
      let s := s.modCtx c x (fun k =>
        let k := setAccs k a []
        { k with exps := mdel k.exps a, late := mdel k.late a, log := k.log.filter (fun it => it.acc != a) })
      (modEntry s c x e.seq (fun e => { e with phase := 3, due := s.clk + 1 })).after 1 (.mloopComplete c x)
    | _ => s
/-- Fixing the exponents at the beginning of an MLOOP (R243). -/
def beginLoop (s : State) (c x : Nat) (e : RmeEntry) (a : Nat) (p : MPar) : State :=
  if e.panel ≠ 0 then s else
  (List.range p.steps).foldl (fun s i =>
    match mfind (s.ctx c x).exps (a + i) with
    | none => s.modCtx c x (fun k => { k with exps := mset k.exps (a + i) p.e })
    | some ex => if ex = p.e then s else modEntry s c x e.seq (fun e => { e with flags := e.flags ||| mEmix })) s
/-- The load port takes a context's panel (R357): an MLOAD binds its tile first (R242). -/
def startPort (s : State) (c : Nat) : State :=
  let k := s.core c
  if k.portBusy.isSome then s else
  match pickCtx (wantsPort (s.ctx c 0)) (wantsPort (s.ctx c 1)) k.portLast with
  | none => s
  | some x =>
    match idleHead (s.ctx c x) with
    | none => s
    | some e =>
      let s := s.modCore c (fun k => { k with portBusy := some x, portLast := x + 1 })
      let s := match e.cmd with
        | .mload t r => s.modCtx c x (fun k => { k with bind := some t, bindReg := some (e.warp, r), panel := none })
        | .mloop _ _ a p _ _ => beginLoop s c x e a (mloopPar p)
        | _ => s
      (modEntry s c x e.seq (fun e => { e with phase := 1, due := s.clk + 64 })).after 64 (.panelLoad c)
/-- The array takes a ready unit (R358). -/
def startArray (s : State) (c : Nat) : State :=
  let k := s.core c
  if k.arrBusy.isSome then s else
  match pickCtx (wantsArray (s.ctx c 0)) (wantsArray (s.ctx c 1)) k.arrLast with
  | none => s
  | some x =>
    match idleHead (s.ctx c x) with
    | some e =>
      (match e.cmd with
      | .mloop t _ a p _ _ =>
        let par := mloopPar p
        let s := beginLoop s c x e a par
        let n := unitClks (unitSteps (s.core c) (s.ctx c x) t a par e.panel)
        let s := s.modCore c (fun k => { k with arrBusy := some x, arrLast := x + 1 })
        (modEntry s c x e.seq (fun e => { e with phase := 2, due := s.clk + n })).after n (.arrayUnit c)
      | _ => s)
    | none => s
/-- The bytes put into the one log of a core's shadow unit, by both contexts (R364). -/
def loggedOf (s : State) (c : Nat) : Nat := (s.ctx c 0).logged + (s.ctx c 1).logged
/-- Whether the log has outgrown its 256 KiB (R364). -/
def logFull (s : State) (c : Nat) : Bool := decide (262144 < loggedOf s c)
/-- The K indices of a sample (R364: 8 clk each). -/
def sampleK (l : List ShadowItem) (a : Nat) : Nat := 128 * (l.filter (fun i => i.acc == a)).length
/-- A drain's sample, if it falls due by the drain's own k (R72, R244): dropped and counted, or given to the shadow unit.
What the context put into the log is cleared: its registers' contributions came before the next arming (R364).
(DESIGN CHOICE, log 64) -/
def takeSample (s : State) (c x : Nat) (mode a k : Nat) (snap : NMap Acc) (ex : Int) : State :=
  let q := s.ctx c x
  let asid := q.tag.getD 0 / 4096
  if !isArmed k q.drains then s else
  let s1 := s.modCtx c x (fun q =>
    { q with log := [], logged := 0, late := q.log.foldl (fun m i => mset m i.acc true) q.late })
  if mget q.late a false || logFull s c || (s.core c).shadow.isSome then devDrop s1 asid
  else
    let n := 8 * sampleK q.log a
    let j : ShadowJob :=
      { items := q.log, asid := asid, gtime := s.gtime, dnum := q.drains, ctx := x, acc := a,
        vals := (dense accZero (1024 * a) snap 1024).map (fun e => drainedF32 mode (drainElem mode ex e).1), due := s.clk + n }
    (s1.modCore c (fun k => { k with shadow := some j })).after n (.shadowSample c)
/-- The drain unit takes the oldest waiting drain of both contexts (R359): it reads the accumulator whole.
(DEDUCED, log 41) -/
def startDrain (s : State) (c : Nat) : State :=
  let ds := ([0, 1].flatMap (fun x => ((s.ctx c x).queue.filter isDrain).map (fun e => (x, e))))
  if ds.any (fun d => d.2.phase == 1) then s else
  let first := (ds.filter (fun d => d.2.phase == 0)).foldl (fun m d => match m with
    | none => some d
    | some b => if d.2.seq < b.2.seq then some d else some b) (none : Option (Nat × RmeEntry))
  match first with
  | none => s
  | some (x, e) =>
    match e.cmd with
    | .mdrain _ _ a mode k _ =>
      let q := s.ctx c x
      let snap := q.accs.filter (fun v => v.1 / 1024 == a)
      let ex := mget q.exps a 0
      let s := takeSample s c x mode a k snap ex
      let s := modEntry s c x e.seq (fun e => { e with phase := 1, due := s.clk + 16, snap := snap, snapE := ex, dnum := q.drains })
      (s.modCtx c x (fun q =>
        let n := (q.drains + 1) % 2 ^ 32
        { q with drains := n, armed := isArmed q.lastK n })).after 16 (.mdrainComplete c)
    | _ => s
/-- The end of a clk in a core's engine. -/
def rmeTick (s : State) (c : Nat) : State :=
  if (s.core c).rme.all (fun k => k.2.queue.isEmpty) then s else
  let s := startZero (startZero s c 0) c 1
  startDrain (startArray (startPort s c) c) c

/-! Completion (R240, R359). -/

/-- Warps of a core that wait at an MFENCE look again. -/
def settleFences (s : State) (c : Nat) : State :=
  s.warps.foldl (fun s e =>
    if coreOf e.1 = c ∧ e.2.holds.any (fun h => match h with
      | .mfence .. => true
      | _ => false) then settle s e.1 else s) s
/-- A command is over: MSTAT, token, queue. -/
def finishRme (s : State) (c x : Nat) (e : RmeEntry) : State :=
  let s := s.modCtx c x (fun k => { k with queue := k.queue.filter (fun q => q.seq != e.seq) })
  let s := mstatOr s e.warp e.flags
  let s := match e.cmd with
    | .mzero _ => s
    | _ => fillToken s e.wid [.s e.reg (BitVec.ofNat 32 (boolNat e.ecc * 5 * 2 ^ 24 + e.flags))]
  settleFences s c
/-- A load of the port ends: the panel is in the macro (R242, R357). -/
def execPanelLoad (core : Nat) (s : State) : Host.Outcome State Fault Refusal :=
  match (s.core core).portBusy with
  | none => done s
  | some x =>
    match mainHead (s.ctx core x), (s.ctx core x).bind with
    | some e, some t =>
      if e.phase ≠ 1 || decide (s.clk < e.due) then done s else
      let q := match e.cmd with
        | .mloop _ _ _ p _ _ => (mloopPar p).bp0 + e.panel
        | _ => 0
      let r := loadPanel (s.core core) (s.ctx core x) t q
      let s := (s.modCore core (fun k => { k with portBusy := none })).modCtx core x (fun k =>
        { r.1 with queue := k.queue })
      let isLoad := match e.cmd with
        | .mload .. => true
        | _ => false
      let s := modEntry s core x e.seq (fun e =>
        { e with flags := e.flags ||| r.2.1, ecc := e.ecc || r.2.2, phase := if isLoad then 3 else 0 })
      done (if isLoad then s.after 0 (.mloadComplete core x) else s)
    | _, _ => done (s.modCore core (fun k => { k with portBusy := none }))
/-- An MLOAD's token fills (R359). -/
def execMloadComplete (core ctx : Nat) (s : State) : Host.Outcome State Fault Refusal :=
  match mainHead (s.ctx core ctx) with
  | none => done s
  | some e =>
    match e.cmd with
    | .mload _ r => if e.phase = 3 then done (finishRme (busySub s e.warp r) core ctx e) else done s
    | _ => done s
/-- Counting the array's clk once for the package and in the sets of the warps of a tag (R396 event 8). -/
def countArray (s : State) (c x n : Nat) : State :=
  let t := (s.ctx c x).tag
  (s.warps.filter (fun e => coreOf e.1 == c && some e.2.tag == t)).foldl (fun s e => countOwn s e.1 8 n) (s.countEv 8 n)
/-- A unit ends (R243): its contributions are added; the shadow log keeps it, or its registers have a contribution
that no log holds: from before arming, past the log's room, or against a panel that a restore brought (R364).
(DESIGN CHOICE, log 64) -/
def execArrayUnit (core : Nat) (s : State) : Host.Outcome State Fault Refusal :=
  match (s.core core).arrBusy with
  | none => done s
  | some x =>
    match mainHead (s.ctx core x) with
    | none => done (s.modCore core (fun k => { k with arrBusy := none }))
    | some e =>
      match e.cmd with
      | .mloop t _ a p bt _ =>
        if e.phase ≠ 2 || decide (s.clk < e.due) then done s else
        let par := mloopPar p
        let steps := unitSteps (s.core core) (s.ctx core x) t a par e.panel
        let k0 := par.col0 + e.panel * par.colinc
        let beside := (s.ctx core (1 - x)).logged
        let add := fun (k : RmeCtx) (st : MStep) =>
          let item : ShadowItem :=
            { acc := st.acc, k0 := k0, batched := bt, rows := st.rows.map (·.raw), cols := k.raw,
              bytes := st.rows.foldl (fun n r => n + r.bytes) (if st.acc = a then k.rawN else 0) }
          let k2 := setAccs k st.acc (stepAccs k bt st)
          let n := if k.armed then k.logged + item.bytes else k.logged
          if k.armed && !k.rawLost && decide (n + beside ≤ 262144) then { k2 with log := k.log ++ [item], logged := n }
          else { k2 with late := mset k.late st.acc true, logged := n }
        let fl := steps.foldl (fun f st => f ||| stepFlags (s.ctx core x) bt st) 0
        let bad := steps.any (fun st => st.rows.any (·.ecc))
        let s := countArray (s.modCtx core x (fun k => steps.foldl add k)) core x (unitClks steps)
        let last := decide (par.panels ≤ e.panel + 1)
        let s := modEntry (s.modCore core (fun k => { k with arrBusy := none })) core x e.seq (fun e =>
          { e with flags := e.flags ||| fl, ecc := e.ecc || bad, panel := e.panel + 1, phase := if last then 3 else 0,
                   due := s.clk + 12 })
        done (settleFences (if last then s.after 12 (.mloopComplete core x) else s) core)
      | _ => done (s.modCore core (fun k => { k with arrBusy := none }))
/-- An engine arrival is delivered (R203). -/
def deliverArrival (s : State) (a : Nat × Nat × Nat) : State :=
  (s.modGroup a.1 (fun g => { g with engines := mput g.engines (16 * a.2.2 + a.2.1) (mget g.engines (16 * a.2.2 + a.2.1) 0 - 1) 0 })).after 0
    (.barrierPhaseComplete a.1 a.2.1)
/-- An MLOOP's writes are complete, or an MZERO's clk has passed (R358, R359). -/
def execMloopComplete (core ctx : Nat) (s : State) : Host.Outcome State Fault Refusal :=
  match mainHead (s.ctx core ctx) with
  | none => done s
  | some e =>
    if e.phase ≠ 3 || decide (s.clk < e.due) then done s else
    match e.cmd with
    | .mloop _ r _ _ _ arr =>
      let s := busySub s e.warp r
      let s := match e.bind with
        | some (w, b) => busySub s w b
        | none => s
      let s := match arr with
        | some a => deliverArrival s a
        | none => s
      done (finishRme s core ctx e)
    | .mzero _ => done (finishRme s core ctx e)
    | _ => done s

/-- The tile a drain writes (R244), with the watermarks of float drains. -/
def drainTile (k : Core) (t : Tile) (mode : Nat) (vals : List Nat) : Core :=
  let n := drainSize mode
  (vals.zipIdx).foldl (fun k e =>
    let r := e.2 / 128; let c := e.2 % 128
    let x := t.base + r * t.stride + c * n
    let k := opWrite k t.sw x (leBytes n e.1)
    if t.wmv && decide (mode < 2) && c * n % 64 == 0 then
      opPut (opPut k (t.wmoff + (x - t.base) / 32) (if mode = 0 then 0x0C else 0x08)) (t.wmoff + (x - t.base) / 32 + 1) 127
    else k) k
/-- A drain's last write (R69, R70, R244), the moment that a CHECK record gives (R73). (DESIGN CHOICE, log 64) -/
def drainDone (s : State) (c x : Nat) (e : RmeEntry) : State :=
  match e.cmd with
  | .mdrain t r a mode _ pc =>
    let els := (dense accZero (1024 * a) e.snap 1024).map (drainElem mode e.snapE)
    let fl := els.foldl (fun f v => f ||| v.2) 0
    let asid := (s.ctx c x).tag.getD 0 / 4096
    let s := s.modCore c (fun k => drainTile k t mode (els.map (·.1)))
    let bad := els.zipIdx.find? (fun v => v.1.2 &&& mChk != 0)
    let s := match bad with
      | some (_, i) => devPut s asid (devRecord s.gtime e.dnum i 2 x a 0 0 c)
      | none => s
    let s := finishRme (busySub s e.warp r) c x { e with flags := e.flags ||| fl }
    if bad.isSome && e.traps then raisePoison s e.warp e.lanes pc else s
  | _ => s
/-- The drain unit's moments (R359): 16 clk of conversion, the last write 24 clk later. -/
def execMdrainComplete (core : Nat) (s : State) : Host.Outcome State Fault Refusal :=
  let ds := ([0, 1].flatMap (fun x => ((s.ctx core x).queue.filter isDrain).map (fun e => (x, e))))
  done (ds.foldl (fun s d =>
    if decide (s.clk < d.2.due) then s
    else if d.2.phase = 1 then
      (modEntry s core d.1 d.2.seq (fun e => { e with phase := 3, due := s.clk + 24, flags := e.flags })).after 24 (.mdrainComplete core)
    else if d.2.phase = 3 then drainDone s core d.1 d.2 else s) s)

/-- The shadow unit has recomputed a sample (R72, R73, R366). -/
def execShadowSample (core : Nat) (s : State) : Host.Outcome State Fault Refusal :=
  match (s.core core).shadow with
  | none => done s
  | some j =>
    if s.clk < j.due then done s else
    let r := shadowResult j
    let s := s.modCore core (fun k => { k with shadow := none })
    done (devPut s j.asid (devRecord j.gtime j.dnum r.1 1 j.ctx j.acc r.2.1 r.2.2 core))

/-- Writing 1 to MSTAT bits (R240). -/
def execMstatClear (w : Nat) (bits : Word) (s : State) : Host.Outcome State Fault Refusal :=
  done (s.modWarp w (fun x => { x with mstat := x.mstat &&& ~~~bits }))

/-! The matrix control port (R363, R419). -/

/-- One element of an image. -/
def imageElem (a : Acc) : Nat := a.c1 + a.c2 * 2 ^ 16 + a.c3 * 2 ^ 32 + a.c4 * 2 ^ 49 + boolNat a.poison * 2 ^ 54
/-- The image of a context (R363), 99,136 bytes. -/
def ctxImage (x : RmeCtx) : List Byte :=
  let cols := ctxCols x
  let eset := (List.range 8).foldl (fun n j => n + boolNat (mfind x.exps j).isSome * 2 ^ j) 0
  padTo 256 (leBytes 3 (x.tag.getD 0) ++ leBytes 1 (boolNat x.bind.isSome + 2 * boolNat x.panel.isSome) ++ leBytes 4 x.drains ++
    leBytes 16 (x.bind.getD 0).toNat ++ leBytes 1 (x.panel.getD 0) ++ leBytes 1 eset ++
    (List.range 8).flatMap (fun j => leBytes 2 (truncInt 9 (mget x.exps j 0)))) ++
  (dense accZero 0 x.accs 8192).flatMap (fun a => leBytes 8 (imageElem a)) ++
  cols.flatMap (fun c => c.ints.flatMap (fun v => leBytes 2 (truncInt 16 v))) ++
  cols.flatMap (fun c => c.scale.map (fun v => BitVec.ofNat 8 (v.getD 0))) ++
  bitBytes 64 (fun i => mget x.mpois i false)
/-- The context an image describes; `reg` and what the image does not hold start afresh. (DEDUCED, log 41) -/
def imageCtx (b : List Byte) : RmeCtx :=
  let f := field b
  let elem := fun (e : Nat) => ({ c1 := natBits e 15 0, c2 := natBits e 31 16, c3 := natBits e 48 32, c4 := natBits e 53 49,
                                  poison := e.testBit 54, bad := false } : Acc)
  let ints := (List.range 16384).map (fun i => intOf 16 true (f (65792 + 2 * i) 2))
  let used := fun (i : Nat) => f (98560 + i) 1 != 0 || ((ints.drop (32 * i)).take 32).any (· != 0)
  { RmeCtx.fresh with
    tag := some (f 0 3), drains := f 4 4, bind := if f 3 1 % 2 = 1 then some (BitVec.ofNat 128 (f 8 16)) else none,
    panel := if f 3 1 / 2 % 2 = 1 then some (f 24 1) else none
    exps := (List.range 8).filterMap (fun j => if (f 25 1).testBit j then some (j, intOf 9 true (f (26 + 2 * j) 2)) else none)
    accs := sparse accZero 0 ((List.range 8192).map (fun i => elem (f (256 + 8 * i) 8)))
    bmac := sparse 0 0 ints
    scale := (List.range 512).filterMap (fun i => if used i then some (i, f (98560 + i) 1) else none)
    mpois := sparse false 0 ((List.range 512).map (fun i => (f (99072 + i / 8) 1).testBit (i % 8)))
    rawLost := f 3 1 / 2 % 2 == 1
    late := (List.range 8).map (fun j => (j, true)) }
/-- The port's context. -/
def mcpCtx (k : Core) : Nat := k.mcpCmd.toNat % 2
def mcpEnd (s : State) (c st : Nat) : State := s.modCore c (fun k => { k with mcpStat := BitVec.ofNat 32 st })
/-- A save (R363): once the queue is empty, the image is written, the tag emptied and the state zeroed. -/
def execMcpSave (core : Nat) (s : State) : Host.Outcome State Fault Refusal :=
  let k := s.core core
  if !k.mcpStat.getLsbD 0 || k.mcpCmd.getLsbD 1 then done s else
  let x := mcpCtx k
  if !(s.ctx core x).queue.isEmpty then done (s.after s.lat.hop (.mcpSave core)) else
  let s := homeWrite s k.mcpAddr.toNat (ctxImage (s.ctx core x))
  done (mcpEnd (s.modCtx core x (fun _ => RmeCtx.fresh)) core 2)
/-- A restore (R363, R419): refused unless the context is empty. -/
def execMcpRestore (core : Nat) (s : State) : Host.Outcome State Fault Refusal :=
  let k := s.core core
  if !k.mcpStat.getLsbD 0 || !k.mcpCmd.getLsbD 1 then done s else
  let x := mcpCtx k
  let q := s.ctx core x
  if q.tag.isSome || !q.queue.isEmpty then done (mcpEnd s core 4) else
  let r := homeRead s none k.mcpAddr.toNat 99136
  done (mcpEnd (r.2.modCtx core x (fun _ => imageCtx r.1)) core 2)

end Sys2Proof.Machine
end

