-- ==== Sys2Proof/Machine/Summaries.lean ====
section
/-!
DEFINITION. Summaries (R247 to R264): quantile sketches, heavy-hitter lists and distinct counts, the instructions that
queue updates, merges and queries, and their performance at the SMU or the core's summary unit.
-/

namespace Sys2Proof.Machine

/-! Quantile sketches (R253 to R257). -/

/-- A sketch as its fields (R253). -/
structure Sketch where
  n      : Nat
  mn     : Nat
  mx     : Nat
  seed   : Nat
  cc     : Nat
  coin   : Nat
  t      : Nat
  tog    : Nat
  levels : List (List Nat)
  comps  : Nat                -- compactions of this update
  free   : Nat                -- ENTROPY draws so far
  deriving DecidableEq, Repr

def nan32 (x : Nat) : Bool := decide (x % 2 ^ 31 > 0x7F800000)
/-- The place of an item in the total order (R253). -/
def orderKey (x : Nat) : Nat := if x < 2 ^ 31 then 2 ^ 31 + x else 2 ^ 32 - 1 - x
def rising (l : List Nat) : Bool :=
  match l with
  | a :: b :: r => decide (a ≤ b) && rising (b :: r)
  | _ => true

/-- One level's items; none where they break the layout. -/
def sketchLevel (b : List Byte) (n i : Nat) : Option (List Nat) :=
  let fill := field b (27 + i) 1
  let items := (List.range fill).map (fun j => field b (64 + 128 * i + 4 * j) 4)
  if fill ≤ 32 && (n != 0 || fill == 0) && field b (64 + 128 * i + 4 * fill) (128 - 4 * fill) == 0 &&
      !items.any nan32 && rising (items.map orderKey) then some items else none
/-- Reading a sketch; none where it is BAD (R253). (DEDUCED, log 43) -/
def sketchRead (b : List Byte) (free : Nat) : Option Sketch :=
  let f := field b
  let n := f 0 8
  let ls := (List.range 7).map (sketchLevel b n)
  if f 34 30 != 0 || f 960 64 != 0 || f 26 1 ≥ 128 || (n != 0 && f 24 1 > 2) || ls.any (·.isNone) then none else
  some { n := n, mn := f 8 4, mx := f 12 4, seed := f 16 4, cc := f 20 4, coin := f 24 1,
         t := if n = 0 then 0 else f 25 1, tog := f 26 1, levels := ls.map (·.getD []), comps := 0, free := free }
/-- Its bytes. -/
def Sketch.bytes (k : Sketch) : List Byte :=
  leBytes 8 k.n ++ leBytes 4 k.mn ++ leBytes 4 k.mx ++ leBytes 4 k.seed ++ leBytes 4 k.cc ++ leBytes 1 k.coin ++
    leBytes 1 k.t ++ leBytes 1 k.tog ++ k.levels.flatMap (fun l => leBytes 1 l.length) ++ List.replicate 30 0 ++
    k.levels.flatMap (fun l => padTo 128 (l.flatMap (leBytes 4))) ++ List.replicate 64 0

/-- Mix32 (R254). -/
def mix32 (s c : Nat) : Nat :=
  let x := s ^^^ (c * 0x9E3779B9 % 2 ^ 32)
  let x := x ^^^ (x / 2 ^ 16)
  let x := x * 0x85EBCA6B % 2 ^ 32
  let x := x ^^^ (x / 2 ^ 13)
  let x := x * 0xC2B2AE35 % 2 ^ 32
  x ^^^ (x / 2 ^ 16)
/-- Drawing a coin bit for level `i` (R254). (DESIGN CHOICE, log 4) -/
def Sketch.draw (k : Sketch) (coin i : Nat) : Nat × Sketch :=
  let b := match coin with
    | 0 => mix32 k.seed k.cc % 2
    | 1 => boolNat (k.tog.testBit i)
    | _ => boolNat (Config.entropy k.free)
  (b, { k with
    cc := (k.cc + 1) % 2 ^ 32
    comps := k.comps + 1
    tog := if coin = 1 then k.tog ^^^ 2 ^ i else k.tog
    free := if coin = 2 then k.free + 1 else k.free })
/-- Every other item, from the first or the second. -/
def everyOther (b : Nat) : List Nat → List Nat
  | x :: y :: r => (if b = 0 then x else y) :: everyOther b r
  | _ => []
/-- Compaction (R255): what moves up, what stays. -/
def Sketch.compact (k : Sketch) (coin i : Nat) (l : List Nat) : List Nat × List Nat × Sketch :=
  let d := k.draw coin i
  (everyOther d.1 l, (if l.length % 2 = 1 then l.drop (l.length - 1) else []), d.2)
/-- Compacting a level-6 list into itself `n` times. -/
def Sketch.inPlace (k : Sketch) (coin : Nat) (l : List Nat) : Nat → List Nat × Sketch
  | 0 => (l, k)
  | n + 1 => let c := k.compact coin 6 l; c.2.2.inPlace coin (c.1 ++ c.2.1) n
def merged (ls : List (List Nat)) : List Nat := sortBy orderKey ls.flatten
/-- The level-by-level addition of R256, from level `i`. -/
def Sketch.addLevels (k : Sketch) (coin : Nat) (src : List (List Nat)) (carry : List Nat) (i : Nat) : Nat → Sketch
  | 0 => k
  | n + 1 =>
    let l := merged [k.levels.getD i [], src.getD i [], carry]
    if i < 6 then
      if l.length > 32 then
        let c := k.compact coin i l
        { c.2.2 with levels := c.2.2.levels.set i c.2.1 }.addLevels coin src c.1 (i + 1) n
      else { k with levels := k.levels.set i l }.addLevels coin src [] (i + 1) n
    else
      let m := if l.length > 64 then 2 else if l.length > 32 then 1 else 0
      let r := k.inPlace coin l m
      { r.2 with levels := r.2.levels.set 6 r.1, t := r.2.t + m }
/-- `min` and `max` with the bounds of what comes in. -/
def Sketch.bounds (k : Sketch) (lo hi : Nat) : Sketch :=
  if k.n = 0 then { k with mn := lo, mx := hi } else
  { k with mn := if orderKey lo < orderKey k.mn then lo else k.mn, mx := if orderKey hi > orderKey k.mx then hi else k.mx }

/-- What an update comes to: a code and the new value, if it changes. -/
abbrev SumRes (α : Type) := Nat × Option α
/-- SKADD (R256). -/
def Sketch.add (k : Sketch) (coin : Nat) (vals : List Nat) : SumRes Sketch :=
  let batch := sortBy orderKey (vals.filter (fun v => !nan32 v))
  if k.n ≠ 0 ∧ k.coin ≠ coin then (7, none) else
  match batch with
  | [] => (0, none)
  | lo :: _ =>
    let k1 := { k.bounds lo (batch.getLastD lo) with coin := coin, n := k.n + batch.length }
    let r := k1.addLevels coin [] batch 0 7
    if r.n ≥ 2 ^ 64 || r.t > 255 then (6, none) else (0, some r)
/-- SKMERGE (R256). -/
def Sketch.mergeWith (k src : Sketch) (coin : Nat) : SumRes Sketch :=
  if k.n ≠ 0 ∧ k.coin ≠ coin then (7, none) else
  if src.n = 0 then (0, none) else
  let k1 := { k.bounds src.mn src.mx with coin := coin, n := k.n + src.n }
  let own := k1.inPlace coin (k1.levels.getD 6 []) (src.t - k1.t)
  let k2 := { own.2 with levels := own.2.levels.set 6 own.1 }
  let his := k2.inPlace coin (src.levels.getD 6 []) (k1.t - src.t)
  let k3 := { his.2 with t := max k1.t src.t }
  let r := k3.addLevels coin (src.levels.set 6 his.1) [] 0 7
  if r.n ≥ 2 ^ 64 || r.t > 255 then (6, none) else (0, some r)

/-- The first item whose cumulative weight reaches `m × total / 2^e`; items as (order, level, position, pattern). -/
def quantGo (k : Sketch) (goal e : Nat) (cum : Nat) : List (Nat × Nat) → Option Nat
  | [] => none
  | (lvl, x) :: r =>
    let cum := cum + (if lvl = 6 then 2 ^ (6 + k.t) else 2 ^ lvl)
    if cum * 2 ^ e ≥ goal then some x else quantGo k goal e cum r
/-- SKQ (R257); none where the spec gives no item (N above zero and every level empty). -/
def Sketch.quantile (k : Sketch) (q : Nat) : Option Nat :=
  if nan32 q || k.n == 0 then some 0x7FC00000 else
  if q ≥ 2 ^ 31 || q = 0 then some k.mn else
  if q ≥ 0x3F800000 then some k.mx else
  match fp32.unpack q with
  | .fin _ m e =>
    let items := sortBy (fun p => orderKey p.2) (k.levels.zipIdx.flatMap (fun l => l.1.map (fun x => (l.2, x))))
    let total := (k.levels.zipIdx.map (fun l => l.1.length * (if l.2 = 6 then 2 ^ (6 + k.t) else 2 ^ l.2))).sum
    quantGo k (m * total) (-e).toNat 0 items
  | _ => none

/-! Heavy-hitter lists (R258 to R261). -/

/-- An entry: key, count, err. -/
abbrev HH := Nat × Nat × Nat
def hhMax : Nat := 2 ^ 48 - 1
/-- The order of entries (R258). -/
def hhKey (e : HH) : Nat := (hhMax - e.2.1) * 2 ^ 32 + e.1
/-- The entries of a list, without the empty ones; none where it is BAD. (DEDUCED, log 43) -/
def hhRead (b : List Byte) : Option (List HH) :=
  let all := (List.range 32).map (fun i => (field b (16 * i) 4, field b (16 * i + 4) 6, field b (16 * i + 10) 6))
  let live := all.takeWhile (fun e => e.2.1 != 0)
  if live.all (fun e => decide (e.2.2 ≤ e.2.1)) && rising (live.map hhKey) &&
      (all.drop live.length).all (fun e => e == (0, 0, 0)) then some live else none
def hhBytes (l : List HH) : List Byte :=
  padTo 512 (l.flatMap (fun e => leBytes 4 e.1 ++ leBytes 6 e.2.1 ++ leBytes 6 e.2.2))
/-- A sum that saturates at 48 bits. -/
def sat48 (x : Nat) : Nat × Bool := (min x hhMax, decide (x > hhMax))
/-- One key with its multiplicity (R259): the list and whether something saturated. -/
def hhAdd (l : List HH × Bool) (k : Nat × Nat) : List HH × Bool :=
  let r := match l.1.find? (fun e => e.1 == k.1) with
    | some e => let c := sat48 (e.2.1 + k.2)
      ((k.1, c.1, e.2.2) :: l.1.erase e, c.2)
    | none =>
      if l.1.length < 32 then ((k.1, k.2, 0) :: l.1, false) else
      match l.1.getLast? with
      | some v => let c := sat48 (v.2.1 + k.2)
        ((k.1, c.1, v.2.1) :: l.1.dropLast, c.2)
      | none => (l.1, false)
  (sortBy hhKey r.1, l.2 || r.2)
/-- The distinct keys of a batch, rising, with their multiplicities. -/
def hhBatch (ks : List Nat) : List (Nat × Nat) :=
  (sortBy id ks.eraseDups).map (fun k => (k, ks.countP (· == k)))
/-- HHMERGE (R260). -/
def hhMerge (d s : List HH) : List HH × Bool :=
  let low := fun (l : List HH) => if l.length < 32 then 0 else (l.getLastD (0, 0, 0)).2.1
  let at_ := fun (l : List HH) (k : Nat) => match l.find? (fun e => e.1 == k) with
    | some e => e.2
    | none => (low l, low l)
  let all := (d.map (·.1) ++ (s.map (·.1)).filter (fun k => !d.any (fun e => e.1 == k))).map (fun k =>
    (k, sat48 ((at_ d k).1 + (at_ s k).1), sat48 ((at_ d k).2 + (at_ s k).2)))
  let kept := (sortBy (fun e => hhKey (e.1, e.2.1.1, 0)) all).take 32
  (kept.map (fun e => (e.1, e.2.1.1, e.2.2.1)), all.any (fun e => e.2.1.2 || e.2.2.2))

/-! Distinct counts (R262 to R264). -/

/-- Mix64 (R262). -/
def mix64 (key : Nat) : Nat :=
  let x := key ^^^ 0x9E3779B97F4A7C15
  let x := x ^^^ (x / 2 ^ 33)
  let x := x * 0xFF51AFD7ED558CCD % 2 ^ 64
  let x := x ^^^ (x / 2 ^ 33)
  let x := x * 0xC4CEB9FE1A85EC53 % 2 ^ 64
  x ^^^ (x / 2 ^ 33)
/-- The registers; none where one is above 55. -/
def dcRead (b : List Byte) : Option (List Nat) :=
  let l := b.map (·.toNat)
  if l.all (fun r => decide (r ≤ 55)) then some l else none
def dcBytes (l : List Nat) : List Byte := l.map (BitVec.ofNat 8)
/-- DCADD of one key (R263). -/
def dcAdd (l : List Nat) (key : Nat) : List Nat :=
  let h := mix64 key
  let j := h / 2 ^ 54
  let low := h % 2 ^ 54
  let rho := if low = 0 then 55 else 54 - Nat.log2 low
  l.set j (max (l.getD j 0) rho)
/-- DCEST (R264). -/
def dcEstimate (l : List Nat) : Nat :=
  let den := 10250790 * (l.map (fun r => 2 ^ (55 - r))).sum
  let num := 7213 * 2 ^ 85
  let v := l.countP (· == 0)
  if num ≤ 2560 * den ∧ v > 0 then
    let k := Nat.log2 v
    let x := (10 - k : Int) * fixLn2 - fixLn ((v : Int) * fixOne / 2 ^ k)
    (fp32.round .rn false false false (1024 * x).toNat (-(fixBits : Int)) (v != 1024)).bits
  else (fp32.round .rn false false false (num * 2 ^ 64 / den) (-64) (num * 2 ^ 64 % den != 0)).bits

/-! Where summaries lie. -/

/-- The cause of a summary address of a warp at issue (R248); the group has waited for its translation. (DEDUCED, log 43) -/
def sumCause (s : State) (w asid op a : Nat) (spad upd : Bool) : Option (Nat × DWord) :=
  let sp := if spad then Space.spad else Space.global
  let fa := spaceFaddr sp a
  if a % sumSize op ≠ 0 then some (0x06, fa) else
  if spad then (if a + sumSize op ≤ (s.core (coreOf w)).spad then none else some (0x08, fa)) else
  match xlate s w issueSeq asid a (if upd then needRW else needR) with
  | .fail code f => some (code, f)
  | _ => none

/-- The place of a summary now. -/
def sumPlace (s : State) (core : Nat) (q : SumCmd) (a : Nat) (n : Need) : Got CopyPlace :=
  if q.spad then
    if a + sumSize q.op ≤ (s.core core).spad then .ok (.spad core a) else .fail 3 (spaceFaddr .spad a)
  else copyGlobal s { core := core, warp := q.warp, asid := q.asid, seq := copySeq q.wid, x := none } a n
/-- The bytes of a summary; the first of them with an uncorrectable error, where there is one. -/
def sumBytes (s : State) (p : CopyPlace) (n : Nat) : Nat ⊕ List Byte :=
  let got := fun (bad : Nat → Bool) (bs : List Byte) => match (List.range n).find? bad with
    | some i => Sum.inl i
    | none => Sum.inr bs
  match p with
  | .mem key _ => got (fun i => homeErr s (key + i) 1) (cohBytes s key n)
  | .spad c a => got (fun i => mget (s.core c).eccBad (a + i) false) (memRead (s.core c).opst a n)
  | .slot .. => .inl 0
/-- A performed read, as the SMU makes it. -/
def sumSeen (s : State) (p : CopyPlace) (n : Nat) : State :=
  match p with
  | .mem key _ => forwardRead s none key n
  | _ => s
/-- Before an update, every registration of the summary's lines is recalled (R251). -/
def sumRecall (s : State) (p : CopyPlace) (n : Nat) : State :=
  match p with
  | .mem key _ => recallWords s key n
  | _ => s
/-- Writing a summary: the issuer's own copies of its lines go stale, whether or not a byte changes (R251). -/
def sumWrite (s : State) (cs : List Nat) (p : CopyPlace) (bs : List Byte) : State :=
  match p with
  | .mem key _ =>
    (List.range (bs.length / 32)).foldl (fun s i => staleCopy s cs (key + 32 * i)) (homeWrite s key bs)
  | .spad c a => spadWrite s c a bs
  | .slot .. => s

/-! Performance. -/

/-- The outcome of an update on bytes: code, new bytes if they change, nan, sat, compactions, and the draws. -/
structure SumOut where
  code  : Nat
  bytes : Option (List Byte)
  nan   : Bool
  sat   : Bool
  comps : Nat
  free  : Nat

def sketchOut (r : SumRes Sketch) (nan : Bool) (free : Nat) : SumOut :=
  match r.2 with
  | some k => { code := r.1, bytes := some k.bytes, nan := nan, sat := false, comps := k.comps, free := k.free }
  | none => { code := r.1, bytes := none, nan := nan && (r.1 == 0 || r.1 == 6), sat := false, comps := 0, free := free }
def badOut (free : Nat) : SumOut := { code := 1, bytes := none, nan := false, sat := false, comps := 0, free := free }
def plainOut (bs : List Byte) (sat : Bool) (free : Nat) : SumOut :=
  { code := 0, bytes := some bs, nan := false, sat := sat, comps := 0, free := free }
/-- An update or merge of the destination's bytes with the source's. (DEDUCED, log 43) -/
def sumUpdate (q : SumCmd) (d : List Byte) (src : List Byte) (free : Nat) : SumOut :=
  let vals := q.acc.map (fun e => e.2.toNat)
  match q.op with
  | 0 => match sketchRead d free with
    | some k => sketchOut (k.add q.coin vals) (vals.any nan32) free
    | none => badOut free
  | 1 => match sketchRead d free, sketchRead src free with
    | some k, some k2 => sketchOut (k.mergeWith k2 q.coin) false free
    | _, _ => badOut free
  | 3 => match hhRead d with
    | some l => let r := (hhBatch vals).foldl hhAdd (l, false); plainOut (hhBytes r.1) r.2 free
    | none => badOut free
  | 4 => match hhRead d, hhRead src with
    | some l, some l2 => let r := hhMerge l l2; plainOut (hhBytes r.1) r.2 free
    | _, _ => badOut free
  | 6 => match dcRead d with
    | some l => plainOut (dcBytes (vals.foldl dcAdd l)) false free
    | none => badOut free
  | _ => match dcRead d, dcRead src with
    | some l, some l2 => plainOut (dcBytes (List.zipWith max l l2)) false free
    | _, _ => badOut free

/-- The word of an update's token (R250). -/
def sumWord (o : SumOut) : Nat := o.code * 2 ^ 24 + boolNat o.nan * 2 ^ 16 + boolNat o.sat * 2 ^ 15 + min o.comps 255

/-- A query's register writes; free bytes stand where the spec gives no item. (DESIGN CHOICE, log 4) -/
def sumAnswer (q : SumCmd) (d : List Byte) (free : Nat) : List RegWrite × Nat :=
  match q.op with
  | 2 =>
    let open_ := BitVec.toNat (Config.freeByte (free + 3) ++ Config.freeByte (free + 2) ++ Config.freeByte (free + 1) ++
      Config.freeByte free)
    let one := fun (v : Nat) => match sketchRead d free with
      | some k => (k.quantile v).getD open_
      | none => 0x7FC00000
    (vWrites 1 q.reg q.lanes (fun l => one (laneIn (0 : Word) q.acc l).toNat), free + 4)
  | 5 =>
    let l := (hhRead d).getD []
    let at_ := fun (i : Nat) => l.getD i (0, 0, 0)
    (vWrites 2 q.reg q.lanes (fun i => (at_ i).1 + 2 ^ 32 * min (at_ i).2.1 (2 ^ 32 - 1)), free)
  | _ =>
    let v := match dcRead d with
      | some l => dcEstimate l
      | none => 0x7FC00000
    (vWrites 1 q.reg q.lanes (fun _ => v), free)

/-- The command leaves the queue and the next is looked at. -/
def sumGone (s : State) (core : Nat) (q : SumCmd) (cost : Nat) : State :=
  let s := s.modCore core (fun k => { k with sumq := k.sumq.filter (fun r => r.wid != q.wid) })
  let s := if (s.core core).sumq.isEmpty then s else s.after cost (.summaryPerform (.core core))
  dropWalks s (fun k => k.seq == copySeq q.wid)
/-- It has been performed: an update's token is filled, a query's registers are written. -/
def sumLeave (s : State) (core : Nat) (q : SumCmd) (ds : List RegWrite) (cost : Nat) : State :=
  let s := sumGone s core q cost
  if !sumQuery q.op then fillToken s q.wid ds else
  match flight? s q.warp q.seq with
  | some f => settle ((writeRegs s q.warp f.pc ds).modWarp q.warp (fun x =>
      { x with flights := x.flights.filter (fun g => g.seq != f.seq) })) q.warp
  | none => s
/-- A command that fails: Toltar is told of an update, kind 18, whose token holds the code (R250); a query's warp traps,
and the query is replayed (R249). (DEDUCED, log 43) -/
def sumFail (s : State) (core : Nat) (q : SumCmd) (code : Nat) (fa : DWord) : State :=
  if sumQuery q.op then
    let cause := if code = 5 then 0x01 else if code = 3 then 0x08 else 0x07
    trapInFlight (sumGone s core q 8) q.warp q.seq cause fa
  else sumLeave (s.tell 18 [core, q.warp, code, fa.toNat]) core q [.s q.reg (BitVec.ofNat 32 (code * 2 ^ 24))] 8

/-- Performing a command (R250 to R252). (DEDUCED, log 43) -/
def sumRun (s : State) (core : Nat) (q : SumCmd) : State :=
  let n := sumSize q.op
  let merge := q.op % 3 == 1
  let bad := fun (a : Nat) => sumFail s core q 5 (spaceFaddr (if q.spad then .spad else .global) a)
  let walk := fun (va need : Nat) => startWalkOn s (dieOfCore core) q.warp (copySeq q.wid) va q.asid 6 need
  match sumPlace s core q q.dst (if sumQuery q.op then needR else needRW) with
  | .miss va => walk va (if sumQuery q.op then 1 else 3)
  | .fail c f => sumFail s core q c f
  | .ok p =>
    match (if merge then sumPlace s core q q.src needR else .ok p) with
    | .miss va => walk va 1
    | .fail c f => sumFail s core q c f
    | .ok p2 =>
      match sumBytes s p n, sumBytes s p2 n with
      | .inr d, .inr src =>
        let s := if merge then sumSeen s p2 n else s
        if sumQuery q.op then
          let r := sumAnswer q d s.free
          sumLeave { sumSeen s p n with free := r.2 } core q r.1 8
        else
          let o := sumUpdate q d src s.free
          let s := sumRecall { s with free := o.free } p n
          let s := match o.bytes with
            | some bs => sumWrite s (CopyEnv.cores ⟨core, q.warp, q.asid, 0, none⟩) p bs
            | none => s
          sumLeave s core q [.s q.reg (BitVec.ofNat 32 (sumWord o))] (if merge then 64 else 8 + 4 * o.comps)
      | .inl i, _ => bad (q.dst + i)
      | _, .inl i => bad (q.src + i)

/-- The first command whose warp has no earlier one queued and whose warp's earlier stores are acknowledged (R251). -/
def sumReady (s : State) (before : List SumCmd) : List SumCmd → Option SumCmd
  | [] => none
  | q :: r =>
    if q.wait.isDone s && !before.any (fun b => b.warp == q.warp) then some q else sumReady s (before ++ [q]) r
/-- A command of another device on a summary homed here (R251, R432), indivisible; its result goes back, kind 35 with the device,
the address and the token's word, for a query the summary's bytes after it. (DEDUCED, log 43) -/
def peerSummary (s : State) (dev op coin dst : Nat) (vals : List Nat) (src : List Byte) : State :=
  let n := sumSize op
  if op > 8 ∨ dst % n ≠ 0 ∨ dst + n > 2 ^ 39 then s else
  if homeErr s dst n then s.tell 35 [dev, dst, 5 * 2 ^ 24] else
  let d := cohBytes s dst n
  if sumQuery op then (forwardRead s none dst n).tell 35 ([dev, dst, 0] ++ d.map (·.toNat)) else
  let q : SumCmd :=
    { op := op, warp := deadKey, reg := 0, wid := 0, coin := coin, spad := false, dst := dst, src := 0,
      acc := vals.zipIdx.map (fun e => (e.2, BitVec.ofNat 32 e.1)), wait := ⟨deadKey, 0, false, []⟩, seq := 0, asid := 0,
      lanes := 0, pc := 0 }
  let o := sumUpdate q d src s.free
  let s := recallWords { s with free := o.free } dst n
  let s := match o.bytes with
    | some bs => homeWrite s dst bs
    | none => s
  s.tell 35 [dev, dst, sumWord o]
/-- The commands of a core's queue. -/
def coreSummary (core : Nat) (s : State) : Host.Outcome State Fault Refusal :=
  let s := s.modCore core (fun k => { k with sumq := k.sumq.map (fun q => { q with wait := q.wait.look s }) })
  match sumReady s [] (s.core core).sumq with
  | some q => done (sumRun s core q)
  | none => done (if (s.core core).sumq.isEmpty then s else s.after 8 (.summaryPerform (.core core)))

/-- A summary command is performed (R251, R432); another device's waits while its home stalls (R428). -/
def execSummaryPerform (x : SumFrom) (s : State) : Host.Outcome State Fault Refusal :=
  match x with
  | .core c => coreSummary c s
  | .peer dev op coin dst vals src =>
    if homeStalls s dst then done (s.after 64 (.summaryPerform x)) else done (peerSummary s dev op coin dst vals src)
  | .foreign _ => done { s with foreign := s.foreign + 1 }

/-! The instructions. -/

/-- Queueing a summary command (R250): its checks, its token or its emptied result, its entry. -/
def issueSummary (s : State) (i : Instr) (op : Nat) (f : LongF) : Host.Outcome State Fault Refusal :=
  issuing s (fun c x =>
    let act := c.act x i
    let core := coreOf c.warp
    let spad := f.m.getLsbD 2
    let merge := op % 3 == 1
    let dst := sumAddr x (bReg f) spad
    let src := if merge then sumAddr x (bReg f + 2) spad else dst
    let bad := if act = 0 then none else
      match sumCause s c.warp x.asid op dst spad (!sumQuery op) with
      | some e => some e
      | none => sumCause s c.warp x.asid op src spad false
    let s := endIssue s c.warp [dst, src]
    match lowerCause bad ((feCause c x i).map (fun fa => (0x09, fa))) with
    | some (code, fa) => trapAtIssue s c code fa
    | none =>
      if act = 0 then s else
      let reg := if sumQuery op then f.d.toNat else f.t.toNat
      let id := s.nextId
      if sumQuery op then askSummary s c.warp x op reg spad dst act (x.v f.a.toNat) x.nextSeq c.pc c.w0 c.w1 else
      let s := (takeToken s c reg).2
      let q : SumCmd :=
        { op := op, warp := c.warp, reg := reg, wid := id, coin := f.m.toNat % 4, spad := spad, dst := dst, src := src,
          acc := (lanesOf act).map (fun l => (l, x.v f.a.toNat l)), wait := newAwait x c.warp, seq := x.nextSeq,
          asid := x.asid, lanes := act, pc := c.pc }
      (s.modCore core (fun k => { k with sumq := k.sumq ++ [q] })).after (if merge then 64 else 8) (.summaryPerform (.core core)))

def execSkadd (f : LongF) (s : State) : Host.Outcome State Fault Refusal := issueSummary s (.skadd f) 0 f
def execSkmerge (f : LongF) (s : State) : Host.Outcome State Fault Refusal := issueSummary s (.skmerge f) 1 f
def execSkq (f : LongF) (s : State) : Host.Outcome State Fault Refusal := issueSummary s (.skq f) 2 f
def execHhadd (f : LongF) (s : State) : Host.Outcome State Fault Refusal := issueSummary s (.hhadd f) 3 f
def execHhmerge (f : LongF) (s : State) : Host.Outcome State Fault Refusal := issueSummary s (.hhmerge f) 4 f
def execHhtop (f : LongF) (s : State) : Host.Outcome State Fault Refusal := issueSummary s (.hhtop f) 5 f
def execDcadd (f : LongF) (s : State) : Host.Outcome State Fault Refusal := issueSummary s (.dcadd f) 6 f
def execDcmerge (f : LongF) (s : State) : Host.Outcome State Fault Refusal := issueSummary s (.dcmerge f) 7 f
def execDcest (f : LongF) (s : State) : Host.Outcome State Fault Refusal := issueSummary s (.dcest f) 8 f

end Sys2Proof.Machine
end

