-- ==== Sys2Proof/Machine/Fabric.lean ====
section
/-!
DEFINITION. What joins the dies and the devices: partition reset (R428), die-to-die links (R430), UALink (R431 to R433),
time (R434, R435), Ultra Ethernet windows (R436).
-/

namespace Sys2Proof.Machine

/-! Partition reset (R428). -/

/-- The warps of a die. -/
def dieWarps (s : State) (die : Nat) : List Nat := (s.warps.filter (fun e => dieOf e.1 == die)).map (·.1)
/-- The groups with a member on a die, resident or pre-empted. -/
def dieGroups (s : State) (die : Nat) : List Nat :=
  (s.groups.filter (fun g => g.2.cores.any (fun c => dieOfCore c == die))).map (·.1)
/-- Step 1: the warps, and every member of their groups, are terminated; Toltar gets a record per group, kind 3. -/
def resetWarps (s : State) (die : Nat) : State :=
  let gs := dieGroups s die
  let s := gs.foldl (fun s g => s.tell 3 [g, (Party.supervisor (4 * die)).source]) s
  let ws := dieWarps s die ++ ((s.saved.filter (fun v => dieOf v.src == die)).map (fun v => savedKey v.id))
  let s := gs.foldl (fun s g => match mfind s.groups g with
    | some gi => gi.members.foldl (fun s m => askTerminate s true m) s
    | none => s) s
  ws.foldl (fun s w => askTerminate s true w) s
/-- A decoder's source number (R386). -/
def decSource (die dec : Nat) : Nat := (Party.decoder die dec).source
/-- The translation of an address that an access holds or would get: of a TLB, or of the tables where it has left them (R285). -/
def reachEntry (s : State) (core asid va : Nat) : Option TlbEntry :=
  match coreXlate s core asid va with
  | some e => some e
  | none => match walkAll s asid va with
    | .leaf e => some e
    | _ => none
/-- Whether a copy's descriptor reaches a place that a test of its translation names. -/
def copyReaches (s : State) (core : Nat) (t : TceCmd) (hit : TlbEntry → Nat → Bool) : Bool :=
  match vRead s t.asid t.desc 256 with
  | none => false
  | some b => match copyDesc b with
    | none => false
    | some d => (copyOffsets d.dims).any (fun o =>
        let on := fun (space base : Nat) (off : Int) => space == 0 &&
          (let va := truncInt 64 (base + off)
           match reachEntry s core t.asid va with
           | some e => hit e va
           | none => false)
        on d.sspace d.src o.1 || on d.dspace d.dst o.2)
/-- Summary updates of a core that reach a place that a test of its translation names fail: their tokens fill with the ECC
code (R250), their queries trap (R249). -/
def failSums (s : State) (core : Nat) (hit : TlbEntry → Nat → Bool) : State :=
  (s.core core).sumq.foldl (fun s q =>
    let on := fun (va : Nat) => match reachEntry s core q.asid va with
      | some e => hit e va
      | none => false
    match (if q.spad then [] else [q.dst, q.src]).find? on with
    | some a => sumFail s core q 5 (BitVec.ofNat 64 a)
    | none => s) s
/-- Step 2: engine commands, decoder jobs and summary commands on the die end; an update or a copy of another die that
reaches a home on it fills its token with the ECC code; a decoder's slots are abandoned; of the contexts none
has been served since reset (R357, R358). (DEDUCED, log 48) -/
def resetEngines (s : State) (die : Nat) : State :=
  let hit := fun (e : TlbEntry) (va : Nat) => keyLocal (e.key s va) && homeDie s (e.key s va) == die
  let s := s.cores.foldl (fun s c => if dieOfCore c.1 = die then s else failSums s c.1 hit) s
  let s := s.cores.foldl (fun s c => if dieOfCore c.1 = die then s else
    (c.2.tce.filter (fun t => copyReaches s c.1 t hit)).foldl (fun s t => copyEnd s t c.1 5 0 0) s) s
  let s := (s.die die).decs.foldl (fun s d =>
    rekeyWarp (s.plans.foldl (fun s p => dropSlots s (decSource die d.1) p.1) s) (decSource die d.1) deadKey) s
  let clear := fun (c : Nat × Core) =>
    if dieOfCore c.1 = die then
      (c.1, { c.2 with
        tce := [], sumq := [], rme := c.2.rme.map (fun x => (x.1, { x.2 with queue := [] })), portBusy := none,
        arrBusy := none, shadow := none, portLast := 0, arrLast := 0 })
    else c
  { s with cores := s.cores.map clear }.modDie die (fun d => { d with decs := [] })
/-- Step 4: the die's cores leave their stages. -/
def resetCores (s : State) (die : Nat) : State :=
  let mine := (s.cores.filter (fun c => dieOfCore c.1 == die && c.2.owner.isSome)).map (·.1)
  let s := mine.foldl leaveCore s
  let drop := fun (g : Stage) => { g with cores := g.cores.filter (fun c => !mine.contains c) }
  { s with plans := s.plans.map (fun p => (p.1, { p.2 with stages := p.2.stages.map drop })) }
/-- Step 6: the versions of the grains homed on the die advance, pending watches of them are struck.
(DEDUCED, log 48) -/
def resetHomes (s : State) (die : Nat) : State :=
  let here := fun (key : Nat) => keyLocal key && homeDie s key == die
  let tag := fun (b : Nat) (t : L1Tag) => { t with ver := t.ver.filter (fun v => !here (b + v.1 * grainBytes t.grain)) }
  let hit := fun (e : WatchEntry) => if e.state = .pending && here e.grain then { e with state := .struck } else e
  { s with
    cores := s.cores.map (fun (c : Nat × Core) => (c.1, { c.2 with
      l1 := c.2.l1.map (fun t => (t.1, tag (t.1 * 512) t.2)), slines := c.2.slines.map (fun t => (t.1, tag t.2.dev t.2)) }))
    vers := s.vers.map (fun v => if here (v.1 * 32) then (v.1, v.2 + 1) else v)
    warps := s.warps.map (fun x => (x.1, { x.2 with watch := x.2.watch.map hit })) }
/-- The dirty lines of failed slices that no registrant holds are lost: poisoned in HBM4E (R286). -/
def loseSlices (s : State) (slices : List Nat) : State :=
  s.l2.foldl (fun s l =>
    if !slices.contains (homeSlice s (l.1 * 128)) then s else
    let bad := (List.range 128).filter (fun i => l.2.dirty.getLsbD (i / 32) && (registrant s (l.1 * 128 + i)).isNone)
    { s with l2 := mdel s.l2 l.1, homeBad := bad.foldl (fun m i => mset m (l.1 * 128 + i) true) s.homeBad }) s
/-- Step 7: pipes stored on the die are rebuilt (R344). (DEDUCED, log 48) -/
def resetPipes (s : State) (die : Nat) : State :=
  let fix := fun (e : PipeEntry) =>
    if e.spilled.isSome || e.state == 0 || decide (2 < e.state) then e else { e with status := 2, bad := false, payload := [] }
  let one := fun (p : Nat) (s : State) (q : Nat × PipeSt) =>
    if q.2.die = die && q.2.consHere then
      let s := s.modPipe p q.1 (fun q => { q with entries := q.entries.map fix })
      pipeAgain ((q.2.entries.filter (fun e => e.state == 0)).foldl (abandonSlot p q.1) s) p q.1
    else s
  s.plans.foldl (fun s p => p.2.pipes.foldl (one p.1) s) s

/-- A partition reset (R428) begins, of a die some of whose slices and cores may have failed; once its warps are gone, its cores leave
their stages, its homes are rebuilt, and what failed is mapped out. (DEDUCED, log 48) -/
def execPartitionReset (part : LostPart) (s : State) : Host.Outcome State Fault Refusal :=
  let die := part.die
  let d := s.die die
  if !d.up then done s
  else if !d.resetting then
    let s := refreshFeat (s.modDie die (fun d => { d with resetting := true }))
    done ((boardEvent (resetEngines (resetWarps s die) die) die 4).after 1 (.partitionReset part))
  else if !(dieWarps s die).isEmpty then done (s.after 64 (.partitionReset part))
  else
    let s := resetPipes (loseSlices (resetHomes (resetCores s die) die) part.slices) die
    done (({ s with walks := s.walks.filter (fun k => k.die != die) }).modDie die (fun d =>
      { d with
        fq := [], tlb := [], wcache := [], slices := d.slices - (part.slices.filter (fun x => x / 64 == die)).eraseDups.length
        lost := (d.lost ++ part.cores.filter (fun c => dieOfCore c == die)).eraseDups }))

/-- Cores of a die rejoin the stages that stand below cinit (R322, R428). -/
def rejoinStages (s : State) : State :=
  s.plans.foldl (fun s p =>
    if p.2.state != .running then s else
    (List.range p.2.stages.length).foldl (fun s st =>
      match s.stage? p.1 st with
      | none => s
      | some g =>
        if g.ended || g.cinit ≤ g.cores.length then s else
        let units := (stageDies s g).flatMap (fun d =>
          let l := freeCores s d
          (List.range (l.length / g.unit)).map (fun i => (l.drop (i * g.unit)).take g.unit))
        (units.take ((g.cinit - g.cores.length) / g.unit)).foldl (placeUnit p.1 st) s) s) s
/-- The partition comes back or, where its self-test fails or fewer than 64 slices remain, stays down (R428): what stalled goes on,
cores rejoin, decoders look for jobs (R438). (DEDUCED, log 48) -/
def execPartitionRejoin (die : Nat) (ok : Bool) (s : State) : Host.Outcome State Fault Refusal :=
  let d := s.die die
  let owned := s.cores.any (fun c => dieOfCore c.1 == die && c.2.owner.isSome)
  if !d.resetting || !d.up then done s
  else if !(dieWarps s die).isEmpty || owned then done (s.after 64 (.partitionRejoin die ok))
  else if !ok || decide (d.slices < 64) then
    let s := everyDie (s.modDie die (fun d => { d with up := false })) (fun e => { e with mstate := e.mstate ||| 0x20 })
    done (refreshFeat (boardEvent s die 5))
  else
    let s := refreshFeat (s.modDie die (fun d => { d with resetting := false, clkBase := s.clk }))
    let s := s.msgs.foldl (fun s m => s.after 0 (m.body.event m.id)) s
    let s := (List.range 4).foldl (fun s k => s.after 0 (.decoderJobStart die k)) s
    done ((rejoinStages s).after 0 .planPlacement)

/-! Die-to-die links (R430). -/

/-- The key of the link between two dies. -/
def linkKey (a b : Nat) : Nat := 4 * min a b + max a b
/-- A link fails and retrains; meanwhile traffic takes two hops. -/
def execD2dLinkFailure (a b : Nat) (s : State) : Host.Outcome State Fault Refusal :=
  if mget s.d2d (linkKey a b) 0 ≠ 0 ∨ a = b then done s else
  done ({ s with d2d := mset s.d2d (linkKey a b) (s.gtime + 2) }.inTime 10000000 (.d2dRetrainTimeout a b))
/-- Ten ms without retraining: down until the next boot. -/
def execD2dRetrainTimeout (a b : Nat) (s : State) : Host.Outcome State Fault Refusal :=
  let v := mget s.d2d (linkKey a b) 0
  if 2 ≤ v ∧ v - 2 + 10000000 ≤ s.gtime then
    done (boardEvent { s with d2d := mset s.d2d (linkKey a b) 1 } (min a b) 7)
  else if 2 ≤ v then done (s.untilTime (v - 2 + 10000000) (.d2dRetrainTimeout a b))
  else done s
def execD2dLinkRetrained (a b : Nat) (s : State) : Host.Outcome State Fault Refusal :=
  if 2 ≤ mget s.d2d (linkKey a b) 0 then done { s with d2d := mdel s.d2d (linkKey a b) } else done s
/-- The die through which two dies talk while their link does not work: the lowest that both reach. -/
def viaDie (s : State) (a b : Nat) : Option Nat :=
  if mget s.d2d (linkKey a b) 0 = 0 then none else
  (List.range s.nDies).find? (fun c =>
    c != a && c != b && mget s.d2d (linkKey a c) 0 == 0 && mget s.d2d (linkKey c b) 0 == 0)

/-! UALink (R431 to R433). -/

/-- A read request of another device is served at this device's home as a read (R272, R292); the bytes go back, kind 22. -/
def execUalinkRemoteRead (dev pa len : Nat) (s : State) : Host.Outcome State Fault Refusal :=
  if 2 ^ 39 < pa + len ∨ len = 0 ∨ 256 < len then done s else
  if rangeStalls s pa len then done (s.after 64 (.ualinkRemoteRead dev pa len)) else
  let r := homeRead s none pa len
  done (r.2.tell 22 (dev :: pa :: r.1.map (·.toNat)))
/-- A replay request (R433): corrupt entries whose sources are held are rebuilt under their numbers; otherwise the link
retrains and the unacknowledged requests are sent anew. (DESIGN CHOICE, log 49) -/
def execUalinkReplay (port seq : Nat) (lost : List Nat) (s : State) : Host.Outcome State Fault Refusal :=
  if 4 * s.nDies ≤ port then done s else
  let p := mget s.ports port UaPort.fresh
  let gone := p.replay.any (fun e => decide (seq ≤ e.1) && lost.contains e.1 && !e.2)
  if p.off || !gone then done s else
  let again := p.replay.zipIdx.map (fun e => (p.nextSeq + e.2, true))
  let q : UaPort := { p with nextSeq := p.nextSeq + p.replay.length, replay := again, retrains := p.retrains + 1 }
  let anew := fun (m : Msg) => match m.port with
    | some (k, n) => if k = port then
        { m with port := some (port, p.nextSeq + (p.replay.map (·.1)).idxOf n) } else m
    | none => m
  done { s with ports := mset s.ports port q, msgs := s.msgs.map anew }

/-- The lane of an access that reaches a device. -/
def accOn (s : State) (w : Nat) (x : Warp) (dev : Nat) (acc : List LaneAcc) : Option LaneAcc :=
  acc.find? (fun l => match reachEntry s (coreOf w) x.asid l.addr with
    | some e => e.dev == dev
    | none => false)
/-- Loads and atomics of a warp on the device fail with ECC_UNCORR. -/
def failLoads (dev : Nat) (s : State) (w : Nat) : State :=
  let x := s.warpD w
  x.flights.foldl (fun s f =>
    let sp : Bool := match f.kind with
      | .load sp _ _ => sp == .global
      | .atom _ _ sp _ => sp == .global
      | .watched .. | .wmLoad | .uload .. => true
      | _ => false
    match (if sp then accOn s w x dev f.acc else none) with
    | some l => trapInFlight s w f.seq 0x01 (BitVec.ofNat 64 l.addr)
    | none => s) s
/-- A store message fails: it leaves its record, reason 3, which enters the record queue in turn (R169, R380). -/
def failStore (s : State) (m : Msg) : State :=
  let s := ackMsg s m
  match m.fault with
  | none => s
  | some (seq, r) =>
    if (mfind s.warps m.warp).isNone then s.tell 4 [m.warp, r.addr.toNat, r.pc.toNat] else
    let e : StoreEntry :=
      { seq := seq, kind := .store, space := .global, size := 1, acc := [], pc := 0, hmode := r.hmode, stuck := false,
        fail := some r }
    let join := fun (q : StoreEntry) => if q.seq = seq then
        { q with fail := q.fail.map (fun f => { f with lanes := f.lanes ||| r.lanes }) } else q
    let s := s.modWarp m.warp (fun x =>
      if x.storeq.any (fun q => q.seq == seq && q.fail.isSome) then { x with storeq := x.storeq.map join }
      else { x with storeq := e :: x.storeq })
    settle (s.after 0 (.storeFaultRecord m.warp seq)) m.warp
/-- Whether a copy's descriptor reaches the device. -/
def copyOn (s : State) (dev core : Nat) (t : TceCmd) : Bool := copyReaches s core t (fun e _ => e.dev == dev)
/-- Another device stops answering, or answers again (R433): what is under way to it stalls, and then goes on. -/
def silence (s : State) (dev : Nat) (on : Bool) : State :=
  if dev = s.device then s
  else if on then
    if (mfind s.silent dev).isSome then s
    else { s with silent := mset s.silent dev s.gtime }.inTime 100000000 (.deviceUnreachable dev)
  else
    let s : State := { s with silent := mdel s.silent dev, agenda := s.agenda.filter (fun e => e.2 != .deviceUnreachable dev) }
    (s.msgs.filter (fun (m : Msg) => !keyLocal m.body.key && keyDev m.body.key == dev)).foldl (fun s m =>
      s.after 0 (m.body.event m.id)) s
/-- When the 100 ms of a silent device are over; of one that the model does not know silent, now. -/
def unreachableAt (s : State) (dev : Nat) : Nat :=
  match mfind s.silent dev with
  | some t => t + 100000000
  | none => 0
/-- A device has been unreachable for 100 ms (R433): what is outstanding there fails; while it stays silent the same becomes of
what follows. (DESIGN CHOICE, log 49) -/
def execDeviceUnreachable (dev : Nat) (s : State) : Host.Outcome State Fault Refusal :=
  if dev = s.device then done s
  else if s.gtime < unreachableAt s dev then done (s.untilTime (unreachableAt s dev) (.deviceUnreachable dev))
  else
  let s := if (mfind s.silent dev).isSome then
    { s with silent := mset s.silent dev s.gtime }.inTime 100000000 (.deviceUnreachable dev) else s
  let s := s.warps.foldl (fun s e => failLoads dev s e.1) s
  let s := (s.msgs.filter (fun m => !keyLocal m.body.key && keyDev m.body.key == dev)).foldl failStore s
  let s := s.cores.foldl (fun s c => (c.2.tce.filter (copyOn s dev c.1)).foldl (fun s t => copyEnd s t c.1 5 0 0) s) s
  let s := s.cores.foldl (fun s c => failSums s c.1 (fun e _ => e.dev == dev)) s
  done (s.plans.foldl (fun s p => p.2.pipes.foldl (fun s q =>
    match q.2.remote with
    | some (d, _) => if d = dev then loseLink s p.1 q.1 else s
    | none => s) s) s)

/-! Time (R434, R435). -/

/-- A time message (R434, R435): this device's own to its neighbours, kind 41, every 100 µs; or one that carries the time of the master
`dev`, to which GTIME is steered by slewing: the device is locked while it lies within 20 ns. A device that sends as the master gives
way to none. (DEDUCED, log 50) -/
def execTimeMessage (dev time : Nat) (s : State) : Host.Outcome State Fault Refusal :=
  if dev = s.device then
    let s := s.tell 41 [dev, s.master, boolNat s.leads, s.gtime]
    done (if s.agenda.any (fun e => e.2 == .timeMessage dev 0) then s else s.inTime 100000 (.timeMessage dev 0))
  else if s.leads then done { s with lastTime := s.gtime }
  else
    let d : Int := (time : Int) - s.gtime
    done ({ s with
      master := dev, lastTime := s.gtime, masterTime := s.gtime, slew := d, locked := decide (d ≤ 20) && decide (-20 ≤ d) }.inTime
        10000000 .syncLoss)
/-- Ten ms without a time message: GTIME runs free and Toltar hears of it, kind 19. -/
def execSyncLoss (s : State) : Host.Outcome State Fault Refusal :=
  let t := s.lastTime + 10000000
  if s.leads then done s
  else if s.gtime < t then done (s.untilTime t .syncLoss)
  else done ({ s with slew := 0, locked := false }.tell 19 [])
/-- Mastership passes to `next`, the lowest-numbered device that was locked (R435), once the master has been silent for 1 ms; this
device takes it only where it is locked itself, and then begins to send. GTIME does not step. (DEDUCED, log 50) -/
def execTimeMasterLoss (next : Nat) (s : State) : Host.Outcome State Fault Refusal :=
  if next = s.master || s.leads || decide (s.gtime < s.masterTime + 1000000) || (next == s.device && !s.locked) then done s else
  let me := next == s.device
  let s := { s with master := next, locked := me, leads := me, masterTime := s.gtime }
  done (if me then s.after 0 (.timeMessage s.device 0) else s)
/-- One clk of slewing: at most 1 ns per µs, and never backwards. (DEDUCED, log 50) -/
def slewTick (s : State) : State :=
  if s.clk % 1750 ≠ 0 ∨ s.slew = 0 then s
  else if 0 < s.slew then { s with gtOff := s.gtOff + 1, slew := s.slew - 1 }
  else { s with gtOff := s.gtOff - 1, slew := s.slew + 1 }

/-! Ultra Ethernet windows (R436). -/

/-- Whether a window of an address space holds a range with the right asked for. -/
def inWindow (s : State) (asid va n : Nat) (write : Bool) : Bool :=
  s.ueWins.any (fun w => w.1 == asid && decide (w.2.1 ≤ va) && decide (va + n ≤ w.2.1 + w.2.2.1) &&
    (if write then w.2.2.2.2 else w.2.2.2.1))
/-- Each die has one port, numbered as the die (R436, R443), up from step 7 on (R450): what a port brings while it is not is lost. -/
def uePort (s : State) (port : Nat) : Bool := decide (port < s.nDies) && (s.die port).up && decide (7 ≤ stepOf (s.die port))
/-- Whether a byte of a virtual range is homed on a die that is being reset (R428): homes change at granules of 4 KiB (R271). -/
def vaStalls (s : State) (asid va n : Nat) (acc : Need) : Bool :=
  (List.range (n / 4096 + 2)).any (fun i =>
    let a := min (va + 4096 * i) (va + n - 1)
    (xlateNow s asid a acc).elim false (fun e => homeStalls s (e.key s a)))
/-- A remote write is performed at its home and acknowledged, kind 42; outside a window it is refused. -/
def execUeRemoteWrite (win : UeTarget) (va : Nat) (bytes : List Byte) (s : State) : Host.Outcome State Fault Refusal :=
  if vaStalls s win.asid va bytes.length needW then done (s.after 64 (.ueRemoteWrite win va bytes)) else
  if uePort s win.port && inWindow s win.asid va bytes.length true then
    done ((vWriteD s win.asid va bytes).tell 42 [win.port, win.asid, va, bytes.length])
  else done s
/-- A remote read returns what is global, kind 23. -/
def execUeRemoteRead (win : UeTarget) (va len : Nat) (s : State) : Host.Outcome State Fault Refusal :=
  if vaStalls s win.asid va len needR then done (s.after 64 (.ueRemoteRead win va len)) else
  if !uePort s win.port || !inWindow s win.asid va len false then done s else
  match vRead s win.asid va len with
  | some b => done ((unitTouch s win.asid va len).tell 23 (win.asid :: va :: b.map (·.toNat)))
  | none => done s

end Sys2Proof.Machine
end

