-- ==== Sys2Proof/Machine/Video.lean ====
section
/-!
DEFINITION. Video decoders (R437 to R442): rings, jobs, frames cut into tiles, put into pipes and windows. What a bitstream decodes
to is an input of the model: the samples of each frame, and what the decoder says of it.
-/

namespace Sys2Proof.Machine

/-! Rings (R438). -/

/-- A ring is registered for an address space at Toltar's management endpoint; a die has sixteen. -/
def execDecoderRingRegistration (die asid ctl : Nat) (s : State) : Host.Outcome State Fault Refusal :=
  if !dutyOwned s 0 3 || (s.space asid).isNone then done s else
  match (List.range 16).find? (fun i => (mfind (s.die die).rings i).isNone) with
  | none => done s
  | some i =>
    let r : DecRing := { asid := asid, ctl := ctl, wr := 0 }
    done ((s.modDie die (fun d => { d with rings := mset d.rings i r })).after 0 (.decoderRingNotice die i))
/-- Free decoders look for jobs. -/
def offerJobs (s : State) (die : Nat) : State :=
  (List.range 4).foldl (fun s k => if (mfind (s.die die).decs k).isNone then s.after 0 (.decoderJobStart die k) else s) s
/-- A write to `wr` is noticed: an acquire, then the jobs are read. -/
def execDecoderRingNotice (die ring : Nat) (s : State) : Host.Outcome State Fault Refusal :=
  match mfind (s.die die).rings ring with
  | none => done s
  | some r =>
    match vRead s r.asid (r.ctl + 16) 8 with
    | none => done s
    | some b =>
      let s := unitTouch s r.asid (r.ctl + 16) 8
      done (offerJobs (s.modDie die (fun d => { d with rings := mset d.rings ring { r with wr := leNat b } })) die)
/-- The rings whose `wr` has changed since it was noticed. -/
def ringTick (s : State) : State :=
  s.dies.foldl (fun s d => d.2.rings.foldl (fun s r =>
    match vRead s r.2.asid (r.2.ctl + 16) 8 with
    | some b => if leNat b = r.2.wr then s else s.after 0 (.decoderRingNotice d.1 r.1)
    | none => s) s) s
/-- A ring's next job, if it has one: its number and descriptor address. -/
def ringJob (s : State) (r : DecRing) : Option (Nat × Nat) :=
  match vRead s r.asid r.ctl 32 with
  | none => none
  | some b =>
    let rd := field b 24 8; let lg := field b 8 1
    if rd = r.wr ∨ lg < 2 ∨ 12 < lg then none else some (rd, field b 0 8 + 128 * (rd % 2 ^ lg))

/-! Jobs (R439, R440). -/

/-- Bytes of a sample in a format, and of a tile. -/
def sampleBytes (fmt : Nat) : Nat := if fmt = 2 then 1 else 2
def jobTile (b : List Byte) : Nat := pad64 (field b 20 2 * field b 22 2 * sampleBytes (field b 18 1))
/-- The fields of R439 as they must stand. -/
def jobFields (b : List Byte) : Bool :=
  let f := field b
  decide (f 16 1 ≤ 1) && decide (f 17 1 ≤ 1) && (f 18 1 == 2 || f 18 1 == 3 || f 18 1 == 8) && decide (f 19 1 < 8) &&
    decide (1 ≤ f 20 2) && decide (f 20 2 ≤ 256) && decide (1 ≤ f 22 2) && decide (f 22 2 ≤ 256) && f 35 5 == 0 &&
    f 52 60 == 0 && f 113 3 == 0 && (f 17 1 == 0 || (decide (f 34 1 ≤ 15) && f 40 4 % 64 == 0))
/-- The pipe of a pipe job. -/
def jobPipe (s : State) (b : List Byte) : Option PipeSt := s.pipe? (field b 28 1) (field b 29 1)
/-- The group instance of a window job on its core (R441): the `inst`-th of its index there, of the space's own stage. -/
def jobGroup (s : State) (asid core : Nat) (b : List Byte) : Option Nat :=
  match (s.core core).owner with
  | none => none
  | some (p, st) =>
    if (mfind s.plans p).map (·.asid) != some asid then none else
    ((s.groups.filter (fun g => g.2.plan == p && g.2.stage == st && g.2.index == field b 32 1 &&
      g.2.cores.contains core)).map (·.1))[field b 33 1]?
/-- The checks of a job that do not need its first frame. (DESIGN CHOICE, log 51) -/
def jobOk (s : State) (die asid : Nat) (b : List Byte) : Bool :=
  let f := field b
  jobFields b && (
    if f 17 1 = 0 then
      match mfind s.plans (f 28 1), jobPipe s b with
      | some p, some q => p.asid == asid && q.src == f 30 1 && q.prodHere && q.rows == f 20 2 && q.cols == f 22 2 &&
          q.fmt == f 18 1 && decide (jobTile b ≤ q.bytes)
      | _, _ => false
    else
      let c := 96 * die + f 31 1
      decide (f 31 1 < 96) && (jobGroup s asid c b).isSome && decide (f 40 4 + f 44 4 ≤ (s.core c).spad) &&
        decide (f 48 4 + f 44 4 / 32 ≤ (s.core c).spad))
/-- The end of a job (R439): its results, then its code as a release; an arrival announced and not delivered is delivered; the decoder
is free. (DESIGN CHOICE, log 51) -/
def endJob (s : State) (die dec : Nat) (d : Decoder) (code : Nat) : State :=
  let s := vWriteD s d.asid (d.job + 116) (leBytes 4 d.shown ++ leBytes 4 d.bad ++ leBytes 4 d.undelim)
  let s := vWriteD s d.asid (d.job + 112) [BitVec.ofNat 8 code]
  let s := match d.arrive with
    | some (g, b, p0) => if d.shown < d.told then deliverArrival s (g, b, p0 + d.shown) else s
    | none => s
  let s := if code = 3 then s.tell 24 [die, dec, d.asid, d.job] else s
  let s := s.plans.foldl (fun s p => dropSlots s (decSource die dec) p.1) s
  let s := rekeyWarp s (decSource die dec) deadKey
  offerJobs (s.modDie die (fun x => { x with decs := mdel x.decs dec })) die
/-- A free decoder takes the next job of the die's rings, in turn, and checks it. -/
def execDecoderJobStart (die dec : Nat) (s : State) : Host.Outcome State Fault Refusal :=
  let d := s.die die
  if (mfind d.decs dec).isSome || !d.up || d.resetting || dec ≥ 4 then done s else
  let order := (List.range 16).map (fun i => (d.decNext + i) % 16)
  match order.findSome? (fun i => (mfind d.rings i).bind (fun r => (ringJob s r).map (fun j => (i, r, j)))) with
  | none => done s
  | some (i, r, rd, job) =>
    let s := vWriteD (unitTouch (unitTouch s r.asid r.ctl 32) r.asid job 128) r.asid (r.ctl + 24) (leBytes 8 (rd + 1))
    let s := s.modDie die (fun d => { d with decNext := (i + 1) % 16 })
    let new : Decoder :=
      { job := job, asid := r.asid, ring := i, shown := 0, bad := 0, arrive := none, told := 1, next := 0, tiles := 0, badHdr := false
        began := s.gtime, poison := [], undelim := 0 }
    match vRead s r.asid job 128 with
    | none => done (endJob s die dec new 1)
    | some b =>
      if !jobOk s die r.asid b then done (endJob s die dec new 1) else
      let at_ := if field b 17 1 = 0 then none else
        (jobGroup s r.asid (96 * die + field b 31 1) b).map (fun g => (g, field b 34 1, match mfind s.groups g with
          | some gi => gi.phase (field b 34 1)
          | none => 0))
      let s := match at_ with
        | some (g, bar, ph) => s.modGroup g (fun x =>
            { x with engines := mset x.engines (16 * ph + bar) (mget x.engines (16 * ph + bar) 0 + 1) })
        | none => s
      done (s.modDie die (fun d => { d with decs := mset d.decs dec { new with arrive := at_ } }))
/-- Whether a frame of a decoder still waits for its slots or its phase. -/
def frameHeld (s : State) (die dec : Nat) : Bool :=
  s.agenda.any (fun e => match e.2 with
    | .decoderFrameComplete d k _ _ => d == die && k == dec
    | _ => false)
/-- The bitstream is exhausted, or unreadable (R440): the job ends, once its frames are out. (DESIGN CHOICE, log 11) -/
def execDecoderJobEnd (die dec undelim : Nat) (unreadable : Bool) (s : State) : Host.Outcome State Fault Refusal :=
  match mfind (s.die die).decs dec with
  | none => done s
  | some d =>
    if frameHeld s die dec then done (s.after s.lat.pipe (.decoderJobEnd die dec undelim unreadable)) else done (endJob s die dec { d with undelim := d.undelim + undelim } (if unreadable then 3 else 0))

/-! Pictures (R437, R439, R440). -/

/-- Whether a decoder takes a stream (R437). -/
def headerOk (pic : Picture) (note : FrameNote) : Bool :=
  note.profile == 0 && decide (note.level ≤ 61) && (pic.depth == 8 || pic.depth == 10) && (note.chroma == 420 || note.chroma == 400)
/-- A sample in a job's format (R439). -/
def sampleBits (fmt depth v : Nat) : Nat :=
  match fmt with
  | 2 => ((if depth = 10 then v / 4 else v) + 128) % 256
  | 3 => v % 65536
  | _ => let d := 2 ^ depth - 1
         (bf16.round .rn false false false (v * 2 ^ 32 / d) (-32) (v * 2 ^ 32 % d != 0)).bits
/-- The planes a job selects, each with its width and height: chroma has half the luma's, rounded up. -/
def jobPlanes (b : List Byte) (pic : Picture) : List (Nat × Nat × List Nat) :=
  let half := fun (n : Nat) => (n + 1) / 2
  ([(pic.width, pic.height), (half pic.width, half pic.height), (half pic.width, half pic.height)].zip pic.planes).zipIdx.filterMap
    (fun e => if (field b 19 1).testBit e.2 then some (e.1.1.1, e.1.1.2, e.1.2) else none)
/-- A plane's tiles in raster order (R440): a sample beyond its edge reads as zero. (DESIGN CHOICE, log 51) -/
def planeTiles (b : List Byte) (depth : Nat) (pl : Nat × Nat × List Nat) : List (List Byte) :=
  let (w, h, px) := pl
  let rows := field b 20 2; let cols := field b 22 2; let fmt := field b 18 1
  let at_ := fun (y x : Nat) => if y < h ∧ x < w then px.getD (y * w + x) 0 else 0
  (List.range ((h + rows - 1) / rows)).flatMap (fun ty => (List.range ((w + cols - 1) / cols)).map (fun tx =>
    (List.range rows).flatMap (fun y => (List.range cols).flatMap (fun x =>
      leBytes (sampleBytes fmt) (sampleBits fmt depth (at_ (ty * rows + y) (tx * cols + x)))))))
/-- The tiles of a picture: Y first, then U, then V, each as selected. -/
def pictureTiles (b : List Byte) (pic : Picture) : List (List Byte) := (jobPlanes b pic).flatMap (planeTiles b pic.depth)
/-- As many tiles as the job's frames have (R441): the count of the first one output; a tile past the picture is zero.
(DESIGN CHOICE, log 51) -/
def frameTiles (b : List Byte) (pic : Picture) (n : Nat) : List (List Byte) :=
  let l := pictureTiles b pic
  (List.range n).map (fun i => l.getD i [])

/-! Frames (R353, R354, R440 to R442). -/

/-- Reserving the tiles of a frame: they join the reservation order of the pipe (R353). -/
def frameReserve (s : State) (die dec p pi n : Nat) (q : PipeSt) : State :=
  let src := decSource die dec
  let one := fun (s : State) (_ : Nat) =>
    let k := match mfind s.plans p with
      | some pl => pl.stamps
      | none => 0
    let op : PipeOp :=
      { kind := 0, warp := src, src := src, stage := q.src, reg := 0, wid := s.nextId, handle := 0, core := 384, seqNo := none,
        wait := { warp := src, seq := 0, drained := true, ids := [] }, tces := [], order := k, time := s.gtime, status := 0 }
    s.usedId.modPlan p (fun pl => { pl with stamps := pl.stamps + 1, pipes := mmod pl.pipes pi (fun q => { q with ops := q.ops ++ [op] }) })
  (watchDeadlock ((List.range n).foldl one s) p).after 0 (.prsvFill p pi)
/-- The slots a decoder has reserved on a pipe, and whether reservations of it still wait. -/
def frameSlots (q : PipeSt) (src : Nat) : List PipeEntry := q.entries.filter (fun e => e.holder == src && e.state == 0)
def frameWaits (q : PipeSt) (src : Nat) : Bool := q.ops.any (fun o => o.kind == 0 && o.warp == src)
/-- Committing a frame into the slots reserved for it, in ascending tile order (R353, R354); its stamp records say when the frame was
begun and when the tile was written (R397). -/
def frameCommit (s : State) (p pi t began : Nat) (q : PipeSt) (es : List PipeEntry) (tiles : List (List Byte)) (bad : Bool) : State :=
  let put := fun (s : State) (e : PipeEntry × List Byte) =>
    let e5 := stampField s 5 { e.1 with offs := e.1.offs.set 0 (began - e.1.reserve) |>.set 4 (s.gtime - e.1.reserve) }
    let f := { e5 with status := if bad then 2 else 0, state := 1, holder := deadKey,
                       payload := if bad then [] else memWrite [] 0 (padTo t e.2) }
    tellCommit (s.modPipe p pi (fun q => q.modEntry e.1.seq (fun _ => f))) p pi q f
  pipeAgain ((es.zip tiles).foldl put s) p pi
/-- A frame into a window's buffer: tiles, then their watermarks. (DESIGN CHOICE, log 51) -/
def frameWindow (s : State) (core j t : Nat) (b : List Byte) (tiles : List (List Byte)) (bad : Bool) : State :=
  let f := field b
  let base := f 40 4 + j % 2 * tiles.length * t
  let mark := if bad then [(0xFF : Byte), 127] else [BitVec.ofNat 8 (f 18 1), 127]
  tiles.zipIdx.foldl (fun s e =>
    let a := base + e.2 * t
    let s := spadWrite s core a (padTo t e.1)
    (List.range (t / 64)).foldl (fun s i => spadWrite s core (f 48 4 + (a + 64 * i - f 40 4) / 32) mark) s) s
/-- A job that asks for chroma of a stream without it (R440). -/
def noChroma (b : List Byte) (note : FrameNote) : Bool := note.chroma == 400 && 2 ≤ field b 19 1
/-- A decoder has taken in a frame (R354, R442): whether a header outside R437 is in force now, until a key frame with a supported
one, and whether the frame is poisoned: by an error, by such a header, or by a frame that it refers to or that is not held. -/
def badHeader (d : Decoder) (pic : Picture) (note : FrameNote) : Bool := !headerOk pic note || (d.badHdr && !note.key)
def framePoisoned (d : Decoder) (pic : Picture) (note : FrameNote) : Bool :=
  note.err || badHeader d pic note || note.refs.any (fun r => d.poison.contains r || decide (d.next ≤ r))
def frameTaken (s : State) (d : Decoder) (pic : Picture) (note : FrameNote) : Decoder :=
  { d with
    next := d.next + 1, badHdr := badHeader d pic note, undelim := d.undelim + note.skipped, began := s.gtime
    poison := if framePoisoned d pic note then d.poison ++ [d.next] else d.poison }
/-- A frame has been decoded (R437, R440 to R442), in bitstream order: a hidden one is only held; of one that is output, the first shows
whether the output can hold a frame; one whose slots or whose phase have not come waits; the job ends once maxf frames are out.
(DESIGN CHOICE, log 11) -/
def execDecoderFrameComplete (die dec : Nat) (pic : Picture) (note : FrameNote) (s : State) :
    Host.Outcome State Fault Refusal :=
  match mfind (s.die die).decs dec with
  | none => done s
  | some d =>
    let later := fun (s : State) => s.after s.lat.pipe (.decoderFrameComplete die dec pic note)
    let put := fun (s : State) (d : Decoder) => s.modDie die (fun x => { x with decs := mset x.decs dec d })
    if note.num < d.next then done s else if d.next < note.num then done (later s) else
    if !note.shown then done (put s (frameTaken s d pic note)) else
    match vRead s d.asid d.job 128 with
    | none => done (endJob s die dec d 3)
    | some b =>
      let f := field b
      let t := jobTile b
      let n := if d.shown = 0 then (pictureTiles b pic).length else d.tiles
      let tiles := frameTiles b pic n
      let bad := framePoisoned d pic note
      let last := d.shown + 1 == f 24 4
      let next := fun (s : State) =>
        let d := { frameTaken s d pic note with shown := d.shown + 1, bad := d.bad + boolNat bad, tiles := n }
        if last then endJob s die dec d 0 else put s d
      if f 17 1 = 0 then
        match jobPipe s b with
        | none => done (endJob s die dec d 2)
        | some q =>
          if d.shown = 0 && (n == 0 || decide (q.depth < n) || noChroma b note) then done (endJob s die dec d 1)
          else if q.pClosed || q.cClosed then done (endJob s die dec d 2)
          else
            let src := decSource die dec
            let es := frameSlots q src
            if frameWaits q src then done (later s)
            else if es.length < n then done (later (frameReserve s die dec (f 28 1) (f 29 1) (n - es.length) q))
            else done (next (frameCommit s (f 28 1) (f 29 1) t d.began q es tiles bad))
      else
        let c := 96 * die + f 31 1
        if d.shown = 0 && (n == 0 || decide (f 44 4 < 2 * n * t) || noChroma b note) then done (endJob s die dec d 1) else
        match d.arrive with
        | none => done s
        | some (g, bar, p0) =>
          if (mfind s.groups g).isNone then done (endJob s die dec { d with arrive := none } 3)
          else if d.told ≤ d.shown then done (later s)
          else done (next (deliverArrival (frameWindow s c d.shown t b tiles bad) (g, bar, p0 + d.shown)))

end Sys2Proof.Machine
end

