-- ==== Sys2Proof/Machine/Debug.lean ====
section
/-!
DEFINITION. The debug block of a core (R389 to R391) and core images (R399, R400).
-/

namespace Sys2Proof.Machine

/-! Samples (R389). -/

/-- Whether another warp of the partition issued in the clk before this one. -/
def otherIssued (s : State) (w : Nat) : Bool :=
  s.warps.any (fun e => e.1 != w && partIdx e.1 == partIdx w && decide (e.2.lastIssue + 1 = s.clk) && e.2.issued != 0)
/-- Why a LIVE lane stands where it does, as a sample gives it; judged at the start of the clk after.
(DEDUCED, log 52) -/
def sampleReason (s : State) (w : Nat) (x : Warp) (l : Nat) : Nat :=
  let now := decide (x.lastIssue + 1 = s.clk)
  if now && x.issued.getLsbD l then 0
  else if (barHeld x).getLsbD l then 2
  else if now then 6
  else
    match (pathsOf x).find? (fun p => p.1.getLsbD l) with
    | none => 0
    | some p =>
      if (lanesOf p.1).any (fun j => decide (x.laneWake.getD j 0 ≥ s.clk)) then 4 else
      match atPc s w x p.2 with
      | .miss _ => 4
      | .group ms _ =>
        if ms.any (fun m => mustWait x p.1 m.1) then 1
        else if ms.any (fun m => !queueRoom s w x m.1) then 3
        else if (pathState s w x p.1 p.2).ready && otherIssued s w then 5 else 0
      | _ => 0
/-- The sampler takes the next resident warp in slot order and the next lane of it that has not exited. -/
def execSample (core : Nat) (s : State) : Host.Outcome State Fault Refusal :=
  let d := (s.core core).dbg
  match ((List.range 128).map (fun i => (d.slot + i) % 128)).find? (fun i => (mfind s.warps (128 * core + i)).isSome) with
  | none => done s
  | some i =>
    let w := 128 * core + i
    let x := s.warpD w
    let last := mget d.lanes i 0
    let s := s.modCore core (fun k => { k with dbg := { k.dbg with slot := (i + 1) % 128 } })
    match ((List.range 32).map (fun j => (last + j) % 32)).find? (fun l => !x.exited.getLsbD l) with
    | none => done s
    | some l =>
      let st := laneState x l
      let s := debugPut s core (debugRec s w l 1 st (if st = 0 then sampleReason s w x l else 0) (x.pc.getD l 0) 0)
      done (s.modCore core (fun k => { k with dbg := { k.dbg with lanes := mset k.dbg.lanes i (l + 1) } }))
/-- The samples that fall on a clk. (DESIGN CHOICE, log 27) -/
def sampleTick (s : State) (e : Nat × Core) : State :=
  if e.2.dbg.j = 0 ∨ s.clk % 2 ^ e.2.dbg.j ≠ 0 then s else s.after 0 (.sample e.1)

/-! The trigger (R391). -/

/-- Whether a trigger condition holds. -/
def condHolds (s : State) (d : DebugBlock) (requested : Bool) (c : TrigCond) : Bool :=
  match c with
  | .never => false
  | .pcAt i a => (match mfind d.traced i with
    | some t => (match mfind s.warps t.warp with
      | some x => x.pc.getD t.lane 0 == a
      | none => false)
    | none => false)
  | .gtimeAt t => decide (t ≤ s.gtime)
  | .counterAt w n k =>
    let x := match mfind s.warps w, s.saved.find? (fun v => v.src == w) with
      | some x, _ => some x
      | none, some v => some v.warp
      | none, none => none
    (x.bind (fun x => mfind x.ctr n)).elim false (fun c => decide (k ≤ counterNow s c))
  | .request => requested
/-- The record of a trigger: the traced lane that caused it, or traced lane 0. -/
def trigRec (s : State) (core kind : Nat) (c : TrigCond) : State :=
  let i := match c with
    | .pcAt i _ => i
    | _ => 0
  match mfind (s.core core).dbg.traced i with
  | some t => let x := s.warpD t.warp
    debugPut s core (debugRec s t.warp t.lane kind (laneState x t.lane) 0 (x.pc.getD t.lane 0) 0)
  | none => debugPut s core (debugRec s 0 0 kind 0 0 0 0)
def setTrig (s : State) (core : Nat) (t : TrigState) : State :=
  s.modCore core (fun k => { k with dbg := { k.dbg with trig := t, reqStart := false, reqStop := false } })
/-- ARMED with the start condition true: CAPTURING, for this clk alone if the stop condition is true too. -/
def execTriggerStart (core : Nat) (s : State) : Host.Outcome State Fault Refusal :=
  let d := (s.core core).dbg
  if d.trig ≠ .armed || !condHolds s d d.reqStart d.start then done s else
  done (setTrig (trigRec s core 3 d.start) core (if condHolds s d d.reqStop d.stop then .once else .capturing))
/-- CAPTURING with the stop condition true, or after its one clk: DISARMED. -/
def execTriggerStop (core : Nat) (s : State) : Host.Outcome State Fault Refusal :=
  let d := (s.core core).dbg
  if d.trig = .once || (d.trig = .capturing && condHolds s d d.reqStop d.stop) then
    done (setTrig (trigRec s core 4 d.stop) core .disarmed)
  else done s
/-- The trigger of a core, evaluated every clk; a request stands for one evaluation. (DEDUCED, log 52) -/
def tickTrigger (s : State) (e : Nat × Core) : State :=
  let d := e.2.dbg
  let idle := if d.reqStart || d.reqStop then setTrig s e.1 d.trig else s
  match d.trig with
  | .disarmed => idle
  | .armed => if condHolds s d d.reqStart d.start then s.after 0 (.triggerStart e.1) else idle
  | .capturing => if condHolds s d d.reqStop d.stop then s.after 0 (.triggerStop e.1) else idle
  | .once => s.after 0 (.triggerStop e.1)

/-! Core images (R399). -/

/-- An ELF note. -/
def elfNote (type : Nat) (desc : List Byte) : List Byte :=
  leBytes 4 7 ++ leBytes 4 desc.length ++ leBytes 4 type ++ [0x42, 0x72, 0x79, 0x6E, 0x74, 0x61, 0x00, 0x00] ++
    padTo ((desc.length + 3) / 4 * 4) desc
/-- An ELF64 core file with one PT_NOTE segment. -/
def elfCore (notes : List Byte) : List Byte :=
  [0x7F, 0x45, 0x4C, 0x46, 2, 1, 1] ++ List.replicate 9 0 ++ leBytes 2 4 ++ leBytes 2 0xB880 ++ leBytes 4 1 ++ leBytes 8 0 ++
    leBytes 8 64 ++ leBytes 8 0 ++ leBytes 4 0 ++ leBytes 2 64 ++ leBytes 2 56 ++ leBytes 2 1 ++ leBytes 2 64 ++ leBytes 2 0 ++
    leBytes 2 0 ++
  leBytes 4 4 ++ leBytes 4 4 ++ leBytes 8 120 ++ leBytes 8 0 ++ leBytes 8 0 ++ leBytes 8 notes.length ++
    leBytes 8 notes.length ++ leBytes 8 4 ++ notes
/-- The cores that belong to plans of an address space. -/
def spaceCores (s : State) (asid : Nat) : List (Nat × Core) :=
  s.cores.filter (fun c => match c.2.owner with
    | some (p, _) => (mfind s.plans p).map (·.asid) == some asid
    | none => false)
/-- The warps of a space in order of source number: those saved, those captured for Toltar, those that fell. -/
def spaceWarps (s : State) (asid : Nat) : List (Nat × List Byte) :=
  let saved := (s.saved.filter (fun v => v.warp.asid == asid)).map (fun v => (v.src, warpNote s v.src v.warp))
  let held := (s.warps.filter (fun e => e.2.asid == asid)).map (fun e => (e.1, slotNote s e.1 e.2))
  let gone := (s.fallen.filter (fun f => f.1 == asid)).map (fun f => (f.2.1, f.2.2.2.2))
  sortBy (·.1) (saved ++ held ++ gone)
/-- Member warps as bits by their local index, as the group table names them (R319). (DEDUCED, log 52) -/
def memberMask (s : State) (l : List Nat) : Nat :=
  let idx := fun (key : Nat) =>
    let w := if key < 10 ^ 6 then key else ((s.saved.find? (fun v => savedKey v.id == key)).map (·.src)).getD 0
    w % 128 / 16 + w % 16 * 8
  l.foldl (fun m key => m ||| 2 ^ idx key) 0
def groupNote (s : State) (gi : Nat × GroupInst) : List Byte :=
  let g := gi.2
  leBytes 4 g.index ++ leBytes 4 gi.1 ++ leBytes 4 (memberMask s g.members) ++
    (List.range 16).flatMap (fun b => leBytes 4 (g.phase b) ++ leBytes 4 (memberMask s (mget g.arrived b [])))
/-- A pipe's counter line (R340) and its headers: the producer's next sequence and free slots, the consumer's next sequence
and filled slots, per slot the highest sequence that has vacated it, all ones for none. (DEDUCED, log 52) -/
def pipeNote (pi : Nat) (q : PipeSt) : List Byte :=
  leBytes 8 q.nextP ++ leBytes 8 (pipeFree q) ++ leBytes 8 q.nextC ++ leBytes 8 (pipeFilled q) ++
    (List.range q.depth).flatMap (fun i => leBytes 8 (match mget q.released i 0 with
      | 0 => 2 ^ 64 - 1
      | n + 1 => n)) ++
    q.entries.flatMap (fun e => slotHeader pi q e (boolNat e.spilled.isSome))
/-- The notes of a space's image, in order of type and source number; a core's records follow its bytes, as R491 has an image
show them. (DEDUCED, log 52) -/
def imageNotes (s : State) (asid : Nat) : List Byte :=
  let cs := spaceCores s asid
  let mine := fun (p : Nat) => (mfind s.plans p).map (·.asid) == some asid
  (spaceWarps s asid).flatMap (fun e => elfNote 1 e.2) ++
  s.cores.flatMap (fun c => (c.2.rme.filter (fun x => x.2.tag.map (· / 4096) == some asid)).flatMap (fun x =>
    elfNote 2 (leBytes 2 c.1 ++ leBytes 2 x.1 ++ ctxImage x.2))) ++
  cs.flatMap (fun c => elfNote 3 (memRead c.2.opst 0 (c.2.spad + c.2.stash) ++ c.2.chest.flatMap recordBytes)) ++
  (s.groups.filter (fun g => mine g.2.plan)).flatMap (fun g => elfNote 4 (groupNote s g)) ++
  (s.plans.filter (fun p => p.2.asid == asid)).flatMap (fun p => p.2.pipes.flatMap (fun q => elfNote 5 (pipeNote q.1 q.2))) ++
  (s.fallen.filter (fun f => f.1 == asid)).flatMap (fun f =>
    elfNote 6 (leBytes 2 f.2.1 ++ leBytes 4 f.2.2.1 ++ leBytes 8 f.2.2.2.1))
/-- A sealed unit (R400): its nonce (device, the address space as stream number, a counter never used again), its associated
data (GTIME, device and source), then ciphertext and tag. (DESIGN CHOICE, log 56) -/
def sealUnit (s : State) (d : AsDescriptor) (n source gtime : Nat) (u : List Byte) : List Byte :=
  let nonce := leBytes 2 s.device ++ leBytes 2 d.asid ++ leBytes 8 n
  let aad := leBytes 8 gtime ++ leBytes 2 s.device ++ leBytes 2 source
  nonce ++ aad ++ (List.range (u.length + 16)).map (fun j => Config.sm4Seal d.dbgKey nonce aad u j)
/-- Units leave the chip (R400), each with its source and GTIME: sealed for a confidential space, else as they are. -/
def exportUnits (s : State) (asid : Option Nat) (us : List (Nat × Nat × List Byte)) : List Byte :=
  match asid.bind s.space with
  | some d => if d.conf then us.zipIdx.flatMap (fun e => sealUnit s d (s.nextId + e.2) e.1.1 e.1.2.1 e.1.2.2) else us.flatMap (·.2.2)
  | none => us.flatMap (·.2.2)
/-- An image as it leaves the chip, in units of at most 4 KiB from pair 0 of die 0. (DESIGN CHOICE, log 56) -/
def exported (s : State) (asid : Nat) (b : List Byte) : List Byte :=
  exportUnits s (some asid) ((List.range ((b.length + 4095) / 4096)).map (fun i =>
    ((Party.supervisor 0).source, s.gtime, (b.drop (4096 * i)).take 4096)))
/-- Stopping an address space: its warps are pre-empted and stay so. -/
def stopSpace (s : State) (asid : Nat) : State :=
  let s := if s.stopped.contains asid then s else { s with stopped := asid :: s.stopped }
  s.warps.foldl (fun s e => if e.2.asid = asid then askPreempt s e.1 else s) s
/-- Whether every warp of a space stands still: pre-empted, or captured for Toltar. -/
def spaceStill (s : State) (asid : Nat) : Bool :=
  s.stopped.contains asid && !s.warps.any (fun e => e.2.asid == asid && !e.2.captured)
/-- The images a space has had. -/
def imageCount (s : State) (asid : Nat) : Nat := (s.images.filter (fun e => e.1 == asid)).length
/-- The image is written to HBM4E and exported to the destination of the tenant's dump setting (R399): report 25 with the space,
the image's number among its own (R424), the destination and what leaves the chip. (DESIGN CHOICE, log 56) -/
def writeImage (s : State) (asid : Nat) : State :=
  let b := elfCore (imageNotes s asid)
  let out := exported s asid b
  let n := imageCount s asid
  let dest := mget s.dumpTo asid (0, 0)
  let s := if dest.2 = 0 then s else homeWrite s dest.2 b
  { s with images := s.images ++ [(asid, b)], fallen := s.fallen.filter (fun f => f.1 != asid),
           nextId := s.nextId + (b.length + 4095) / 4096 }.tell 25 (asid :: n :: dest.1 :: out.map (fun (b : Byte) => b.toNat))
/-- Toltar stops an address space; once every warp of it stands still, the image is written. An escalation waits while the
duty of its die has no owner (R423). -/
def execCoreImageDump (asid : Nat) (s : State) : Host.Outcome State Fault Refusal :=
  if s.fallen.any (fun f => f.1 == asid && (!dutyOwned s (dieOf f.2.1) 2 || undelivered s 1 f.2.1)) then done (s.after 64 (.coreImageDump asid))
  else if spaceStill s asid then done (writeImage s asid)
  else done ((stopSpace s asid).after 64 (.coreImageDump asid))

end Sys2Proof.Machine
end

