-- ==== Sys2Proof/Machine/Services.lean ====
section
/-!
DEFINITION. What Toltar does for warps and peers: services (R418), attestation (R412), keys (R416), address spaces and
delegation (R413, R414).
-/

namespace Sys2Proof.Machine

/-! Attestation (R412). -/

/-- A report for an address space, 0xFFFF for the device alone. -/
def attestReport (s : State) (asid : Nat) (nonce : List Byte) : List Byte :=
  let d := s.space asid
  let b := padTo 192 (padTo 32 nonce ++ leBytes 2 s.device ++ leBytes 2 asid ++ leBytes 4 s.svn ++ padTo 32 s.bootm ++
    padTo 32 (mget s.runm asid []) ++ s.feat.flatMap (fun w => leBytes 4 w.toNat) ++ leBytes 8 s.gtime ++
    leBytes 1 (boolNat ((d.map (·.conf)).getD false)))
  b ++ (List.range 64).map (Config.sm2Sign (sm3 b))
/-- A peer's request at the management endpoint: answered, kind 26, from step 7 on (R450), if the duty has an owner
(R423). -/
def execAttestationRequest (asid : Nat) (nonce : List Byte) (s : State) : Host.Outcome State Fault Refusal :=
  if !dutyOwned s 0 3 || decide (stepOf (s.die 0) < 7) then done s
  else done (s.tell 26 ((attestReport s asid nonce).map (fun (b : Byte) => b.toNat)))

/-! Keys, spaces, delegation. -/

/-- Installing a notify key (R416): the key and the counters of every queue that uses the slot, in one step; then Toltar
answers, kind 27. -/
def installKey (s : State) (slot : Nat) (key : List Byte) : State :=
  let sl := s.slots.map (fun (e : Nat × HqSlot) => if e.2.key = slot then (e.1, { e.2 with ctr := 0 }) else e)
  let s := { s with keys := mset s.keys slot (padTo 32 key), slots := sl }
  let s := s.queues.foldl (fun s e =>
    match shadowHalf s e.1 with
    | some (_, b) =>
      if field b 15 1 ≠ slot then s else
      vWriteD (shadowPut s e.1 32 (leBytes 4 0)) (field b 12 2 % 4096) (field b 40 8 + 16) (leBytes 4 0)
    | none => s) s
  s.tell 27 [slot]
def execKeyInstall (slot : Nat) (key : List Byte) (s : State) : Host.Outcome State Fault Refusal :=
  if slot > 254 then done s else
  done (journaled s 0 3 1 (slot :: (List.range 32).map (fun i => (Config.monitorSeal (padTo 32 key) i).toNat)) (.keyInstall slot key) (fun s => installKey s slot key))
/-- Toltar's invalidation of a page (R285, R413); it waits while something sent cannot be performed. -/
def execTlbInvalidate (asid va : Nat) (s : State) : Host.Outcome State Fault Refusal :=
  if s.msgs.any (msgStuck s) then done (s.after 64 (.tlbInvalidate asid va)) else done (invalidate s asid va)
/-- Registering an address space in every die (R413), from step 8 on (R450); a space that is registered already keeps its
descriptor until the next invalidation. -/
def execAddressSpaceRegister (d : AsDescriptor) (s : State) : Host.Outcome State Fault Refusal :=
  if stepOf (s.die 0) ≠ 8 ∨ 4096 ≤ d.asid then done s else
  done (journaled s 0 3 3 [d.asid, d.root, d.wmbase, d.drbase, d.drsize, boolNat d.conf, d.dbgKey, d.saveBase, d.saveLen]
    (.addressSpaceRegister d) (fun s =>
      let s := if (s.space d.asid).isSome then { s with newSpaces := mset s.newSpaces d.asid d } else spacePut s d
      if (mfind s.runm d.asid).isSome then s else { s with runm := mset s.runm d.asid (List.replicate 32 0) }))
/-- A stage's delegation word in every die's table (R384, R414), once its journal record stands (R420). -/
def execDelegationWrite (die p st : Nat) (word : Word) (s : State) : Host.Outcome State Fault Refusal :=
  done (journaled s die 2 7 [die, p, st, word.toNat] (.delegationWrite die p st word) (fun s =>
    everyDie s (fun d => { d with deleg := mset d.deleg (16 * p + st) (word &&& 0x7FFFE) })))

/-! Services (R418). -/

/-- A warp's request of a service, if it is held. -/
def svcReq (s : State) (key : Nat) (which : Nat → Bool) : Option SvcReq :=
  (warpByKey s key).bind (fun x => x.svc.find? (fun r => which r.num))
/-- The die whose delegation duty serves a warp. -/
def svcDie (s : State) (key : Nat) : Nat :=
  if key < 10 ^ 6 then dieOf key else ((s.saved.find? (fun v => savedKey v.id == key)).map (fun v => dieOf v.src)).getD 0
/-- The wait for a request's earlier stores, looked at again wherever the warp now is (R418). -/
def svcLook (s : State) (key : Nat) (a : Await) : Await := Await.look { a with warp := key } s
/-- Whether Toltar can serve a request now: the duty has an owner to whom it has been delivered (R423), and the warp's earlier
stores are acknowledged. -/
def svcReady (s : State) (key : Nat) (q : SvcReq) : Bool :=
  dutyOwned s (svcDie s key) 2 && !undelivered s 32 q.id && (svcLook s key q.wait).isDone s
/-- A request that waits on. -/
def svcWaits (s : State) (key : Nat) (q : SvcReq) : State :=
  modWarpKey s key (fun x => { x with svc := x.svc.map (fun r =>
    if r.id = q.id then { r with wait := svcLook s key q.wait } else r) })
/-- The n-th word the spec leaves open among the results of a service. (DESIGN CHOICE, log 23) -/
def openWord (s : State) (n : Nat) : Word :=
  Config.freeByte (s.free + 4 * n + 3) ++ Config.freeByte (s.free + 4 * n + 2) ++ Config.freeByte (s.free + 4 * n + 1) ++
    Config.freeByte (s.free + 4 * n)
/-- The results reach s0 to s3 (R212); what the service does not define is open. -/
def answerSvc (s : State) (key id : Nat) (rs : List Word) : State :=
  let s := modWarpKey s key (fun x => { x with svc := x.svc.filter (fun r => r.id != id) })
  let ds := (List.range 4).map (fun i => RegWrite.s i (rs.getD i (openWord s i)))
  fillToken { s with free := s.free + 16 } id ds
/-- Serving a request: journalled first (R420), then done. -/
def serve (s : State) (key : Nat) (which : Nat → Bool) (ev : Event)
    (f : State → Nat → Nat → List Word → State) : Host.Outcome State Fault Refusal :=
  match svcReq s key which with
  | none => done s
  | some q =>
    if !svcReady s key q then done ((svcWaits s key q).after s.lat.toltar ev)
    else done (journaled s (svcDie s key) 2 5 [q.id] ev (fun s => f s q.num q.id q.args))
/-- A pair of arguments as an address. -/
def argAddr (a : List Word) (i : Nat) : Nat := (a.getD i 0).toNat + 2 ^ 32 * (a.getD (i + 1) 0).toNat
/-- The address space of a warp by its name. -/
def keyAsid (s : State) (key : Nat) : Nat := ((warpByKey s key).map (·.asid)).getD 0

/-- ATTEST: the nonce is in the buffer, the report is written in place. -/
def execSvcAttest (w : Nat) (s : State) : Host.Outcome State Fault Refusal :=
  serve s w (· == 1) (.svcAttest w) (fun s _ id args =>
    let a := argAddr args 2
    let asid := keyAsid s w
    let s := if a % 64 = 0 then unitTouch s asid a 32 else s
    match (if a % 64 = 0 then vRead s asid a 32 else none) with
    | none => answerSvc s w id [2]
    | some nonce =>
      match vWrite s asid a (attestReport s asid nonce) with
      | none => answerSvc s w id [2]
      | some t => answerSvc t w id [0])
/-- DUMP: an image once the space stands still; its number among the space's own (R424). -/
def execSvcDump (w : Nat) (s : State) : Host.Outcome State Fault Refusal :=
  let asid := keyAsid s w
  match svcReq s w (· == 2) with
  | none => done s
  | some _ =>
    if !spaceStill s asid then done ((stopSpace s asid).after 64 (.svcDump w)) else
    serve s w (· == 2) (.svcDump w) (fun s _ id _ =>
      answerSvc (writeImage s asid) w id [0, BitVec.ofNat 32 (imageCount s asid)])
/-- LOG: 24 bytes and GTIME; and the answer to an unknown number. (DESIGN CHOICE, log 23) -/
def execSvcLog (w : Nat) (s : State) : Host.Outcome State Fault Refusal :=
  serve s w (fun n => n != 1 && n != 2 && n != 0x10 && n != 0x11) (.svcLog w) (fun s n id args =>
    if n ≠ 0x20 then answerSvc s w id [0xFFFFFFFF, 0, 0, 0] else
    let asid := keyAsid s w
    let bs := (List.range 6).flatMap (fun i => leBytes 4 (args.getD (i + 2) 0).toNat) ++ leBytes 8 s.gtime
    answerSvc { s with tenantLog := mset s.tenantLog asid (mget s.tenantLog asid [] ++ bs) } w id [0])

/-! Mapping (R279, R285, R418). -/

/-- The entry of a table for an address: where it lies and what it holds. -/
def tableEntry (s : State) (tab lvl va : Nat) : Nat × Nat :=
  let a := tab + 8 * tableIndex lvl va
  (a, leNat (cohBytes s a 8))
/-- A page of zeros: whatever any party holds of it goes. -/
def zeroPage (s : State) (pa : Nat) : State :=
  let inside := fun (a : Nat) => decide (pa ≤ a) && decide (a < pa + 65536)
  let s := s.words.foldl (fun s e => if inside (e.1 * 4) then writeBackWord s e.1 true else s) s
  { s with hbm := s.hbm.filter (fun c => !inside c.1), l2 := s.l2.filter (fun l => !inside (l.1 * 128)),
           vers := s.vers.map (fun v => if inside (v.1 * 32) then (v.1, v.2 + 1) else v) }
/-- A page of Toltar's pool, zeroed. (DESIGN CHOICE, log 23) -/
def takePage (s : State) : Option (Nat × State) :=
  match s.pool with
  | [] => none
  | p :: r => some (65536 * p, zeroPage { s with pool := r } (65536 * p))
/-- The table below level `lvl + 1` for an address, made if it is missing. -/
def tableFor (s : State) (tab va : Nat) : Nat → Option (Nat × State)
  | 0 => some (tab, s)
  | l + 1 =>
    let e := tableEntry s tab (l + 1) va
    if natBit e.2 0 then (if natBit e.2 1 then none else tableFor s (natBits e.2 53 8 * 256) va l)
    else
      match takePage s with
      | none => none
      | some (pa, t) => tableFor (homeWrite t e.1 (leBytes 8 (pa + 1))) pa va l
/-- Mapping one page. `bits` are the leaf's grain, wm, x, w and r. -/
def mapPage (s : State) (root va bits : Nat) : Option State :=
  match tableFor s root va 4 with
  | none => none
  | some (tab, s) =>
    match takePage s with
    | none => none
    | some (pa, s) => some (homeWrite s (tableEntry s tab 0 va).1 (leBytes 8 (s.device * 2 ^ 54 + pa + bits + 3)))
def mapPages (s : State) (root va bits : Nat) : Nat → Option State
  | 0 => some s
  | n + 1 => (mapPage s root va bits).bind (fun t => mapPages t root (va + 65536) bits n)
/-- The leaf's bits from s5 of MAP: r, w, x, wm and grain. -/
def leafBits (a : Nat) : Nat :=
  boolNat (a.testBit 0) * 4 + boolNat (a.testBit 1) * 8 + boolNat (a.testBit 2) * 16 + boolNat (a.testBit 3) * 32 + a / 16 % 4 * 64
/-- MAP. (DESIGN CHOICE, log 23) -/
def execSvcMap (w : Nat) (s : State) : Host.Outcome State Fault Refusal :=
  serve s w (· == 0x10) (.svcMap w) (fun s _ id args =>
    let va := argAddr args 2
    let n := (args.getD 4 0).toNat
    let p := (args.getD 5 0).toNat
    match s.space (keyAsid s w) with
    | none => answerSvc s w id [2]
    | some d =>
      if va % 65536 ≠ 0 ∨ 2 ^ 57 < va + 65536 * n ∨ p / 16 % 4 = 3 then answerSvc s w id [2]
      else if va < d.saveBase + d.saveLen ∧ d.saveBase < va + 65536 * n then answerSvc s w id [3]
      else if (List.range n).any (fun i => walkAll s d.asid (va + 65536 * i) != .invalid) then answerSvc s w id [2]
      else match mapPages s d.root va (leafBits p) n with
        | none => answerSvc s w id [1]
        | some t => answerSvc t w id [0])

/-- Where the leaf of an address lies. -/
def leafAt (s : State) (tab va : Nat) : Nat → Option Nat
  | 0 => some (tableEntry s tab 0 va).1
  | l + 1 =>
    let e := tableEntry s tab (l + 1) va
    if !natBit e.2 0 then none else if natBit e.2 1 then some e.1 else leafAt s (natBits e.2 53 8 * 256) va l
/-- Every copy of a page is written back and dropped (R285). -/
def dropCopies (s : State) (e : TlbEntry) : State :=
  let lo := physKey s e.dev e.pa
  let inside := fun (a : Nat) => decide (lo ≤ a) && decide (a < lo + e.size)
  let s := s.cores.foldl (fun s c => deliverRegs s c.1 (fun wd => inside (wd * 4))) s
  let s := s.words.foldl (fun s x => if inside (x.1 * 4) then writeBackWord s x.1 true else s) s
  let s := s.l2.foldl (fun s l => if inside (l.1 * 128) then
    bumpVers { writeLine s l.1 l.2 with l2 := mdel s.l2 l.1 } (l.1 * 128) 128 else s) s
  let cut := fun (c : Nat × Core) => (c.1, { c.2 with
    l1 := c.2.l1.filter (fun t => !inside (t.1 * 512)), slines := c.2.slines.filter (fun t => !inside t.2.dev) })
  { s with cores := s.cores.map cut }
/-- Unmapping one leaf: its pages go back to the pool. -/
def unmapLeaf (s : State) (root : Nat) (e : TlbEntry) : State :=
  match leafAt s root e.base 4 with
  | none => s
  | some a =>
    let s := invalidate (homeWrite (dropCopies (performThrough s e) e) a (leBytes 8 0)) e.asid e.base
    if e.dev ≠ s.device then s else
    { s with pool := s.pool ++ (List.range (e.size / 65536)).map (fun i => e.pa / 65536 + i) }
/-- The leaves that map `n` pages from an address. -/
def leavesOf (s : State) (asid va n : Nat) : List TlbEntry :=
  (List.range n).filterMap (fun i => match walkAll s asid (va + 65536 * i) with
    | .leaf e => some e
    | _ => none)
/-- UNMAP; it waits while something sent to one of its pages cannot be performed (R285). (DESIGN CHOICE, log 23) -/
def execSvcUnmap (w : Nat) (s : State) : Host.Outcome State Fault Refusal :=
  let stuck := match svcReq s w (· == 0x11) with
    | some q => (leavesOf s (keyAsid s w) (argAddr q.args 2) (q.args.getD 4 0).toNat).any (stuckIn s)
    | none => false
  if stuck then done (s.after 64 (.svcUnmap w)) else
  serve s w (· == 0x11) (.svcUnmap w) (fun s _ id args =>
    let va := argAddr args 2
    let n := (args.getD 4 0).toNat
    match s.space (keyAsid s w) with
    | none => answerSvc s w id [2]
    | some d =>
      if va % 65536 ≠ 0 ∨ 2 ^ 57 < va + 65536 * n then answerSvc s w id [2] else
      let leaves := leavesOf s d.asid va n
      if leaves.any (fun e => decide (e.base < va) || decide (va + 65536 * n < e.base + e.size)) then answerSvc s w id [2]
      else answerSvc (leaves.eraseDups.foldl (fun s e => unmapLeaf s d.root e) s) w id [0])

end Sys2Proof.Machine
end

