-- ==== Sys2Proof/Machine/Toltar.lean ====
section
/-!
DEFINITION. Journal, watchdog, failure and takeover of supervisor pairs (R420 to R423), and the control registers that
Toltar writes.
-/

namespace Sys2Proof.Machine

/-! The journal (R420). -/

/-- What a pair has written since the last mirroring now stands in HBM4E too. (DESIGN CHOICE, log 53) -/
def execJournalMirror (pair : Nat) (s : State) : Host.Outcome State Fault Refusal :=
  done (s.modPair pair (fun p =>
    { p with journal := p.journal.map (fun (r : JournalRec) => { r with mirrored := true }), mirror := p.journal.length }))
/-- A checkpoint stands for every record whose change has taken effect; the next follows within 10 ms. -/
def execJournalCheckpoint (pair : Nat) (s : State) : Host.Outcome State Fault Refusal :=
  let p := s.pair pair
  if p.state ≠ .active then done s else
  let js := p.journal.filter (fun r => !r.applied)
  done ((s.modPair pair (fun p => { p with journal := js, mirror := min p.mirror js.length, ckpt := p.ckpt + 1 })).inTime
    10000000 (.journalCheckpoint pair))

/-! Failure and takeover (R421, R422). -/

/-- The duties a pair holds: die and duty. -/
def dutiesOf (s : State) (h : Nat) : List (Nat × Nat) :=
  s.dies.flatMap (fun (d : Nat × Die) =>
    (d.2.duties.filter (fun (u : Nat × Nat) => u.2 == h + 1)).map (fun (u : Nat × Nat) => (d.1, u.1)))
/-- A pair fails: it is reset and its duties lose their owner; twice within 1 s retires it. Reported over I3C. A spare fails in
the same way and leaves nothing to take over. -/
def failPair (s : State) (h : Nat) : State :=
  let p := s.pair h
  if p.state = .failed ∨ p.state = .retired then s else
  let held := decide (p.state = .active)
  let again := p.fails.any (fun t => decide (s.gtime ≤ t + 1000000000))
  let lost := dutiesOf s h
  let q : Pair :=
    { Pair.fresh (if again then .retired else .failed) with
      journal := p.journal, mirror := p.mirror, ckpt := p.ckpt, fails := s.gtime :: p.fails, lost := lost,
      selfTest := !again, orphan := held }
  let s := s.modPair h (fun _ => q)
  let s := everyDie s (fun d => { d with duties := d.duties.filter (fun (u : Nat × Nat) => u.2 != h + 1) })
  let s := boardEvent s (h / 4) 2
  if held then s.after s.lat.toltar (.spareTakeover h) else s
def execPairFailure (pair : Nat) (s : State) : Host.Outcome State Fault Refusal := done (failPair s pair)
/-- A write to the watchdog register starts the 10 ms again. -/
def execWatchdogKick (pair : Nat) (s : State) : Host.Outcome State Fault Refusal :=
  if (s.pair pair).state ≠ .active then done s else
  done ((s.modPair pair (fun p => { p with lastKick := s.gtime })).inTime 10000000 (.watchdogExpiry pair))
/-- 10 ms of GTIME without a kick fail the pair. -/
def execWatchdogExpiry (pair : Nat) (s : State) : Host.Outcome State Fault Refusal :=
  let t := (s.pair pair).lastKick + 10000000
  if s.gtime < t then done (s.untilTime t (.watchdogExpiry pair)) else done (failPair s pair)
/-- Who takes over from a pair: its die's free spare, the free spare of the lowest other die, the active pair of lowest
mhartid. (DESIGN CHOICE, log 42) -/
def successor (s : State) (h : Nat) : Option Nat :=
  let is := fun (st : PairState) (i : Nat) => decide (i / 4 < s.nDies) && (s.pair i).state == st && i != h
  let own := (List.range 4).map (fun i => h / 4 * 4 + i)
  match own.find? (is .spare) with
  | some i => some i
  | none =>
    match (List.range 16).find? (is .spare) with
    | some i => some i
    | none => (List.range 16).find? (is .active)
/-- The takeover: the journal is replayed, from SRAM on the pair's own die, else from the mirror; then the journal and the duty
registers name the new owner. Reported over I3C. (DESIGN CHOICE, log 9 and 53) -/
def execSpareTakeover (pair : Nat) (s : State) : Host.Outcome State Fault Refusal :=
  let p := s.pair pair
  if !p.orphan then done s else
  match successor s pair with
  | none => done s
  | some n =>
    let fresh := decide ((s.pair n).state = .spare)
    let js := (p.journal.filter (fun r => r.mirrored || decide (n / 4 = pair / 4))).map (fun (r : JournalRec) => { r with applied := true })
    let s := s.modPair pair (fun p => { p with journal := [], mirror := 0, lost := [], orphan := false })
    let own := p.lost.map (fun (u : Nat × Nat) => ({ kind := 6, args := [u.1, u.2, n], mirrored := true, applied := true } : JournalRec))
    let s := s.modPair n (fun q =>
      { (if fresh then runToltar s n q else q) with state := .active, journal := q.journal ++ js ++ own, lastKick := if fresh then s.gtime else q.lastKick })
    let s := p.lost.foldl (fun s u => s.modDie u.1 (fun d => { d with duties := mset d.duties u.2 (n + 1) })) s
    let s := p.lost.foldl dutyCatchUp s
    let s := boardEvent (s.after s.lat.hop (.journalMirror n)) (n / 4) 3
    done (if fresh then (s.inTime 10000000 (.watchdogExpiry n)).inTime 10000000 (.journalCheckpoint n)
      else s)
/-- The self-test of a reset pair: if it passes the pair is a spare, and takes over what nobody holds. -/
def execPairSelfTest (pair : Nat) (pass : Bool) (s : State) : Host.Outcome State Fault Refusal :=
  let p := s.pair pair
  if p.state ≠ .failed ∨ !p.selfTest then done s else
  if !pass then done (s.modPair pair (fun p => { p with selfTest := false })) else
  let s := s.modPair pair (fun p => { monitorBoot p with state := .spare, selfTest := false })
  done (s.pairs.foldl (fun s e => if !e.2.orphan then s else s.after s.lat.toltar (.spareTakeover e.1)) s)

/-! Register writes. -/

/-- A CSR write by a hart: of a register that is not there, or below its privilege, it takes the illegal-instruction
exception. (PRESUMED, log 54) -/
def csrWrite (s : State) (h num : Nat) (val : DWord) : State :=
  let p := s.pair h
  if csrKnown num = false ∨ svLevel p.mode < num / 256 % 4 ∨ num / 1024 = 3 then trapHart s h 2 0
  else s.modPair h (fun p => p.writeCsr num val)
/-- MCPCMD (R419): go starts a save or a restore unless one is under way. (DEDUCED, log 55) -/
def mcpGo (s : State) (c : Nat) (val : Word) : State :=
  if (s.core c).mcpStat.getLsbD 0 then s else
  let s := s.modCore c (fun k => { k with mcpCmd := val &&& 7 })
  if !val.getLsbD 2 then s else
  (s.modCore c (fun k => { k with mcpStat := 1 })).after s.lat.hop (if val.getLsbD 1 then .mcpRestore c else .mcpSave c)
/-- A change of a core's debug block. -/
def setDbg (s : State) (c : Nat) (f : DebugBlock → DebugBlock) : State := s.modCore c (fun k => { k with dbg := f k.dbg })
/-- TMODE.step and TMODE.dbg of a warp (R373); of one pre-empted in its save area, which resumption reads (R382). -/
def setTmodeDebug (s : State) (key bits : Nat) : State :=
  let s := modWarpKey s key (fun x => { x with tmode := (x.tmode &&& 0xFFFFFFCF) ||| BitVec.ofNat 32 bits })
  if key < 10 ^ 6 then s else
  match warpByKey s key with
  | none => s
  | some x =>
    let a := x.saveArea + saveSpecial + 8 * savedRegs.idxOf 0x0D
    match vRead s x.asid a 8 with
    | some b => vWriteD s x.asid a (leBytes 8 ((leNat b &&& 0xFFFFFFCF) ||| bits))
    | none => s
/-- A traced lane or a stop point; a lane number of 32 or more clears it (R390, R392). -/
def tracePut (l : NMap TracePoint) (idx w lane addr : Nat) : NMap TracePoint :=
  if 4 ≤ idx then l else if 32 ≤ lane then mdel l idx else mset l idx { warp := w, lane := lane, addr := addr }
/-- Toltar reads the records of a core's debug ring up to record `n` (R390, R400): they leave the chip as report 33, each sealed
if the space of the core's plan is confidential. (DESIGN CHOICE, log 56) -/
def readDebug (s : State) (c n : Nat) : State :=
  let d := (s.core c).dbg
  let asid := ((s.core c).owner.bind (fun o => mfind s.plans o.1)).map (·.asid)
  let recs := (List.range' d.read (min n d.head - d.read)).map (fun i => cohBytes s (d.base + 32 * (i % d.size)) 32)
  let s := recs.zipIdx.foldl (fun s e => forwardRead s none (d.base + 32 * ((d.read + e.2) % d.size)) 32) s
  let out := exportUnits s asid (recs.map (fun b => (field b 8 2, field b 0 8, b)))
  let s := setDbg { s with nextId := s.nextId + recs.length } c (fun d => { d with read := max d.read (min n d.head) })
  if recs.isEmpty then s else s.tell 33 (c :: out.map (fun (b : Byte) => b.toNat))
/-- Toltar reads the newest `n` entries of a warp's undo log (R394, R400), newest first, as report 34. (DESIGN CHOICE, log 56) -/
def readUndo (s : State) (key n : Nat) : State :=
  match warpByKey s key with
  | none => s
  | some x =>
    match x.undo with
    | none => s
    | some ring =>
      let s := (List.range (min n (min x.undoN 4096))).foldl (fun s i =>
        unitTouch s x.asid (ring + 160 * ((x.undoN - 1 - i) % 4096)) 160) s
      let recs := (List.range (min n (min x.undoN 4096))).filterMap (fun i =>
        vRead s x.asid (ring + 160 * ((x.undoN - 1 - i) % 4096)) 160)
      let out := exportUnits s (some x.asid) (recs.map (fun b => (key, field b 0 8, b)))
      { s with nextId := s.nextId + recs.length }.tell 34 (key :: out.map (fun (b : Byte) => b.toNat))
/-- Writing a queue's shadow (R304, R420). -/
def putShadow (s : State) (q : Nat) (bytes : List Byte) : State :=
  if bytes.length ≠ 64 then s else shadowPut s q 0 bytes
/-- A write of a register by a hart or by Toltar; of a queue's shadow and a duty once the journal record stands (R420, R421).
(PRESUMED, log 54; DEDUCED, log 55) -/
def execRegisterWrite (r : RegTarget) (s : State) : Host.Outcome State Fault Refusal :=
  done (match r with
  | .csr h num val => csrWrite s h num val
  | .mcpAddr c val => if (s.core c).mcpStat.getLsbD 0 then s else s.modCore c (fun k => { k with mcpAddr := val &&& 0xFFFFFFFFFFFFFFC0 })
  | .mcpCmd c val => mcpGo s c val
  | .sampler c j => setDbg s c (fun d => { d with j := if 10 ≤ j ∧ j ≤ 20 then j else 0 })
  | .debugRing c base size => setDbg s c (fun d => { d with base := base, size := size, head := 0, read := 0, skipped := 0 })
  | .debugRead c n => readDebug s c n
  | .undoRead w n => readUndo s w n
  | .dumpSetting asid dest area => { s with dumpTo := mset s.dumpTo asid (dest, area) }
  | .traced c idx w lane => setDbg s c (fun d => { d with traced := tracePut d.traced idx w lane 0 })
  | .stopPoint c idx w lane addr => setDbg s c (fun d => { d with stops := tracePut d.stops idx w lane addr })
  | .trigger c start stop => setDbg s c (fun d => { d with start := start, stop := stop })
  | .triggerArm c => setDbg s c (fun d => if d.trig = .disarmed then { d with trig := .armed, reqStart := false, reqStop := false } else d)
  | .triggerRequest c start =>
    setDbg s c (fun d => if d.trig = .disarmed then d else { d with reqStart := d.reqStart || start, reqStop := d.reqStop || !start })
  | .stepLane c lane => setDbg s c (fun d => { d with stepLane := lane % 32 })
  | .tmodeDebug w step dbg => setTmodeDebug s w (boolNat step * 32 + boolNat dbg * 16)
  | .counterConfig w n ev g => modWarpKey s w (fun x => if 16 ≤ n then x else
      { x with ctr := mset x.ctr n { event := ev, isGlobal := g, started := false, count := 0, switches := 0, base := 0 } })
  | .undoRing w addr => modWarpKey s w (fun x => { x with undo := some addr, undoN := 0 })
  | .directory q a => if 16384 ≤ q then s else
    { s with queues := mset s.queues q a
             attached := if mget s.queues q 0 = a then s.attached else s.attached.filter (fun k => k != q) }
  | .shadowWrite q bytes =>
    journaled s (q * s.nDies / 16384) 1 2 (q :: bytes.map (fun (b : Byte) => b.toNat)) (.registerWrite r) (fun s => putShadow s q bytes)
  | .duty die u h => if (s.pair h).state ≠ .active then s else
      journaledBy s h 6 [die, u, h] (.registerWrite r) (fun s =>
        dutyCatchUp (s.modDie die (fun d => { d with duties := mset d.duties u (h + 1) })) (die, u))
  | .ueWindow asid base len rd wr => { s with ueWins := s.ueWins ++ [(asid, base, len, rd, wr)] }
  | .stepResume asid =>
    { s with
      stopped := s.stopped.filter (fun a => a != asid)
      saved := s.saved.map (fun (v : Saved) => if v.warp.asid = asid then { v with stopped := false } else v) }
  | .freePages ps => { s with pool := s.pool ++ ps }
  | .codeObject asid file => { s with runm := mset s.runm asid (sm3 (padTo 32 (mget s.runm asid []) ++ sm3 file)) }
  | .hart h mode pc regs =>
    let s := s.modPair h (fun p =>
      { regs.foldl (fun (p : Pair) (e : Nat × DWord) => p.put e.1 e.2) p with mode := svMode mode, pc := pc })
    { s with hartTurn := some h }
  | .turn h => { s with hartTurn := some h }
  | .deviceSilent dev on => silence s dev on
  | .route dev ps => { s with routes := mset s.routes dev ps }
  | .i3cRead t off => i3cRead s t off
  | .i3cWrite t off val => i3cWrite s t off val)

end Sys2Proof.Machine
end

