-- ==== Sys2Proof/Machine/Agenda.lean ====
section
/-!
DEFINITION. The occurrences on the agenda run by the same meanings that `exec` calls for the instructions of the same
name.
-/

namespace Sys2Proof.Machine

/-- Running an occurrence. -/
def runEvent (e : Event) (s : State) : Host.Outcome State Fault Refusal :=
  match e with
  | .tmodeNopreWrite w => execTmodeNopreWrite w s
  | .mstatClear w bits => execMstatClear w bits s
  | .registerWrite r => execRegisterWrite r s
  | .cmdNop q => execCmdNop q s
  | .attach q feat addr => execAttach q feat addr s
  | .planStart q addr args => execPlanStart q addr args s
  | .planRestart q addr args => execPlanRestart q addr args s
  | .planStop q slot => execPlanStop q slot s
  | .planAbort q slot => execPlanAbort q slot s
  | .stageLaunch q addr args => execStageLaunch q addr args s
  | .signal q addr val wide => execSignal q addr val wide s
  | .waitWord q addr val mask cmp wide => execWaitWord q addr val mask cmp wide s
  | .cmdFence q => execCmdFence q s
  | .waitReevaluate q => execWaitReevaluate q s
  | .notify m => execNotify m s
  | .queueLoad q => execQueueLoad q s
  | .queueUnload q => execQueueUnload q s
  | .sliceExpiry q => execSliceExpiry q s
  | .launchAccept die => execLaunchAccept die s
  | .enqStep w seq => execEnqStep w seq s
  | .planSlotGrant => execPlanSlotGrant s
  | .planPlacement => execPlanPlacement s
  | .planStopped p => execPlanStopped p s
  | .stageEnd p st => execStageEnd p st s
  | .deckleEpoch p => execDeckleEpoch p s
  | .deckleHandover p => execDeckleHandover p s
  | .ringToChest p st => execRingToChest p st s
  | .recordEligible id => execRecordEligible id s
  | .armedRegistration id => execArmedRegistration id s
  | .binTimeout core bin => execBinTimeout core bin s
  | .warpFormation core => execWarpFormation core s
  | .warpRetire w => execWarpRetire w s
  | .warpTerminate w => execWarpTerminate w s
  | .priorityBoost w => execPriorityBoost w s
  | .pathAgeLimit w lane => execPathAgeLimit w lane s
  | .yieldExpiry w => execYieldExpiry w s
  | .convRelease w => execConvRelease w s
  | .barrierPhaseComplete gi bar => execBarrierPhaseComplete gi bar s
  | .resultWriteback w seq => execResultWriteback w seq s
  | .loadReturn w seq => execLoadReturn w seq s
  | .trapEntry w => execTrapEntry w s
  | .toltarReturn w act edits => execToltarReturn w act edits s
  | .preemptRequest t => execPreemptRequest t s
  | .preempt w => execPreempt w s
  | .nopreExpiry w => execNopreExpiry w s
  | .resume id w => execResume id w s
  | .storeQueueExit w => execStoreQueueExit w s
  | .storeFaultRecord w id => execStoreFaultRecord w id s
  | .registration id => execRegistration id s
  | .forwardedRead word => execForwardedRead word s
  | .readThroughNotice id => execReadThroughNotice id s
  | .l1Dryer core word => execL1Dryer core word s
  | .l2Dryer line => execL2Dryer line s
  | .l2Eviction line => execL2Eviction line s
  | .l1Eviction core region => execL1Eviction core region s
  | .homeAtomic w seq => execHomeAtomic w seq s
  | .redPerform x => execRedPerform x s
  | .redTrigStep x => execRedTrigStep x s
  | .remoteWriteThrough x => execRemoteWriteThrough x s
  | .watchConfirm w grain => execWatchConfirm w grain s
  | .tableWalk id => execTableWalk id s
  | .fqrespReplay die idx pteAddr pte => execFqrespReplay die idx pteAddr pte s
  | .fqrespDecline die idx => execFqrespDecline die idx s
  | .tlbInvalidate asid va => execTlbInvalidate asid va s
  | .eccError x => execEccError x s
  | .tcopyComplete core => execTcopyComplete core s
  | .panelLoad core => execPanelLoad core s
  | .mloadComplete core ctx => execMloadComplete core ctx s
  | .arrayUnit core => execArrayUnit core s
  | .mloopComplete core ctx => execMloopComplete core ctx s
  | .mdrainComplete core => execMdrainComplete core s
  | .shadowSample core => execShadowSample core s
  | .mcpSave core => execMcpSave core s
  | .mcpRestore core => execMcpRestore core s
  | .summaryPerform x => execSummaryPerform x s
  | .prsvFill p pipe => execPrsvFill p pipe s
  | .pcmtCommit p pipe => execPcmtCommit p pipe s
  | .pacqFill p pipe => execPacqFill p pipe s
  | .prelRecord p pipe => execPrelRecord p pipe s
  | .ppollSnapshot p x => execPpollSnapshot p x s
  | .pcloseRecord p pipe => execPcloseRecord p pipe s
  | .pipeMatch p pipe peer => execPipeMatch p pipe peer s
  | .pipeVacateMirror p pipe slot mark => execPipeVacateMirror p pipe slot mark s
  | .commitArrival p pipe seq mark payload => execCommitArrival p pipe seq mark payload s
  | .pipeLinkLoss p pipe => execPipeLinkLoss p pipe s
  | .deadlockReport set => execDeadlockReport set s
  | .deadlockProbe set => execDeadlockProbe set s
  | .deadlockDrain x => execDeadlockDrain x s
  | .partitionReset part => execPartitionReset part s
  | .heartbeatTick dom => execHeartbeatTick dom s
  | .d2dLinkFailure a b => execD2dLinkFailure a b s
  | .d2dRetrainTimeout a b => execD2dRetrainTimeout a b s
  | .ualinkReplay port seq lost => execUalinkReplay port seq lost s
  | .deviceUnreachable dev => execDeviceUnreachable dev s
  | .timeMessage dev time => execTimeMessage dev time s
  | .syncLoss => execSyncLoss s
  | .timeMasterLoss next => execTimeMasterLoss next s
  | .ueRemoteWrite win va bytes => execUeRemoteWrite win va bytes s
  | .ueRemoteRead win va len => execUeRemoteRead win va len s
  | .decoderRingNotice die ring => execDecoderRingNotice die ring s
  | .decoderJobStart die dec => execDecoderJobStart die dec s
  | .decoderFrameComplete die dec pic note => execDecoderFrameComplete die dec pic note s
  | .decoderJobEnd die dec undelim unreadable => execDecoderJobEnd die dec undelim unreadable s
  | .sample core => execSample core s
  | .triggerStart core => execTriggerStart core s
  | .triggerStop core => execTriggerStop core s
  | .stopPoint w => execStopPoint w s
  | .coreImageDump asid => execCoreImageDump asid s
  | .svcAttest w => execSvcAttest w s
  | .svcDump w => execSvcDump w s
  | .svcMap w => execSvcMap w s
  | .svcUnmap w => execSvcUnmap w s
  | .svcLog w => execSvcLog w s
  | .attestationRequest asid nonce => execAttestationRequest asid nonce s
  | .keyInstall slot key => execKeyInstall slot key s
  | .addressSpaceRegister d => execAddressSpaceRegister d s
  | .delegationWrite die p st word => execDelegationWrite die p st word s
  | .pairFailure pair => execPairFailure pair s
  | .watchdogExpiry pair => execWatchdogExpiry pair s
  | .watchdogKick pair => execWatchdogKick pair s
  | .spareTakeover pair => execSpareTakeover pair s
  | .pairSelfTest pair pass => execPairSelfTest pair pass s
  | .journalMirror pair => execJournalMirror pair s
  | .journalCheckpoint pair => execJournalCheckpoint pair s
  | .powerGood => execPowerGood s
  | .bringupStep die res => execBringupStep die res s
  | .mdevWrite die val => execMdevWrite die val s
  | .mbudgetWrite die val => execMbudgetWrite die val s
  | .meventRead die => execMeventRead die s
  | .powerWindow die watts => execPowerWindow die watts s
  | .thermalThrottle die temp => execThermalThrottle die temp s
  | .thermalShutdown => execThermalShutdown s
  | .d2dLinkRetrained a b => execD2dLinkRetrained a b s
  | .partitionRejoin die ok => execPartitionRejoin die ok s
  | .swaitTimeout pair => execSwaitTimeout pair s
  | .ualinkRemoteRead dev pa len => execUalinkRemoteRead dev pa len s
  | .supervisorFence pair predW succR io => execSupervisorFence pair predW succR io s
  | .decoderRingRegistration die asid ctl => execDecoderRingRegistration die asid ctl s

end Sys2Proof.Machine
end

