-- ==== Sys2Proof/Machine/Dispatch.lean ====
section
/-!
DEFINITION. The one dispatch: one arm per instruction, command or event, each a direct call of its meaning.
-/

namespace Sys2Proof.Machine

def exec (i : Instr) (s : State) : Host.Outcome State Fault Refusal :=
  match i with
  | .nop => Sys2Proof.Machine.execNop s
  | .iaddShort f => Sys2Proof.Machine.execIaddShort f s
  | .isubShort f => Sys2Proof.Machine.execIsubShort f s
  | .imulShort f => Sys2Proof.Machine.execImulShort f s
  | .imulhiS32Short f => Sys2Proof.Machine.execImulhiS32Short f s
  | .imulhiZ32Short f => Sys2Proof.Machine.execImulhiZ32Short f s
  | .imadShort f => Sys2Proof.Machine.execImadShort f s
  | .iminS32Short f => Sys2Proof.Machine.execIminS32Short f s
  | .iminZ32Short f => Sys2Proof.Machine.execIminZ32Short f s
  | .imaxS32Short f => Sys2Proof.Machine.execImaxS32Short f s
  | .imaxZ32Short f => Sys2Proof.Machine.execImaxZ32Short f s
  | .iabsShort f => Sys2Proof.Machine.execIabsShort f s
  | .andShort f => Sys2Proof.Machine.execAndShort f s
  | .orShort f => Sys2Proof.Machine.execOrShort f s
  | .xorShort f => Sys2Proof.Machine.execXorShort f s
  | .shlShort f => Sys2Proof.Machine.execShlShort f s
  | .shrShort f => Sys2Proof.Machine.execShrShort f s
  | .sarShort f => Sys2Proof.Machine.execSarShort f s
  | .popcShort f => Sys2Proof.Machine.execPopcShort f s
  | .clzShort f => Sys2Proof.Machine.execClzShort f s
  | .brevShort f => Sys2Proof.Machine.execBrevShort f s
  | .iadd f => Sys2Proof.Machine.execIadd f s
  | .isub f => Sys2Proof.Machine.execIsub f s
  | .imul f => Sys2Proof.Machine.execImul f s
  | .imulhi f => Sys2Proof.Machine.execImulhi f s
  | .imad f => Sys2Proof.Machine.execImad f s
  | .imin f => Sys2Proof.Machine.execImin f s
  | .imax f => Sys2Proof.Machine.execImax f s
  | .iabs f => Sys2Proof.Machine.execIabs f s
  | .and f => Sys2Proof.Machine.execAnd f s
  | .or f => Sys2Proof.Machine.execOr f s
  | .xor f => Sys2Proof.Machine.execXor f s
  | .shl f => Sys2Proof.Machine.execShl f s
  | .shr f => Sys2Proof.Machine.execShr f s
  | .sar f => Sys2Proof.Machine.execSar f s
  | .bfe f => Sys2Proof.Machine.execBfe f s
  | .bfi f => Sys2Proof.Machine.execBfi f s
  | .popc f => Sys2Proof.Machine.execPopc f s
  | .clz f => Sys2Proof.Machine.execClz f s
  | .brev f => Sys2Proof.Machine.execBrev f s
  | .lea f => Sys2Proof.Machine.execLea f s
  | .isetp f => Sys2Proof.Machine.execIsetp f s
  | .sel f => Sys2Proof.Machine.execSel f s
  | .iaddImm f => Sys2Proof.Machine.execIaddImm f s
  | .imulImm f => Sys2Proof.Machine.execImulImm f s
  | .andImm f => Sys2Proof.Machine.execAndImm f s
  | .orImm f => Sys2Proof.Machine.execOrImm f s
  | .xorImm f => Sys2Proof.Machine.execXorImm f s
  | .shlImm f => Sys2Proof.Machine.execShlImm f s
  | .shrImm f => Sys2Proof.Machine.execShrImm f s
  | .sarImm f => Sys2Proof.Machine.execSarImm f s
  | .faddShort f => Sys2Proof.Machine.execFaddShort f s
  | .fsubShort f => Sys2Proof.Machine.execFsubShort f s
  | .fmulShort f => Sys2Proof.Machine.execFmulShort f s
  | .ffmaShort f => Sys2Proof.Machine.execFfmaShort f s
  | .fminShort f => Sys2Proof.Machine.execFminShort f s
  | .fmaxShort f => Sys2Proof.Machine.execFmaxShort f s
  | .hadd2Bf16Short f => Sys2Proof.Machine.execHadd2Bf16Short f s
  | .hadd2F16Short f => Sys2Proof.Machine.execHadd2F16Short f s
  | .hmul2Bf16Short f => Sys2Proof.Machine.execHmul2Bf16Short f s
  | .hmul2F16Short f => Sys2Proof.Machine.execHmul2F16Short f s
  | .hfma2Bf16Short f => Sys2Proof.Machine.execHfma2Bf16Short f s
  | .hfma2F16Short f => Sys2Proof.Machine.execHfma2F16Short f s
  | .fadd f => Sys2Proof.Machine.execFadd f s
  | .fsub f => Sys2Proof.Machine.execFsub f s
  | .fmul f => Sys2Proof.Machine.execFmul f s
  | .ffma f => Sys2Proof.Machine.execFfma f s
  | .fmin f => Sys2Proof.Machine.execFmin f s
  | .fmax f => Sys2Proof.Machine.execFmax f s
  | .fsetp f => Sys2Proof.Machine.execFsetp f s
  | .frnd f => Sys2Proof.Machine.execFrnd f s
  | .hadd2 f => Sys2Proof.Machine.execHadd2 f s
  | .hmul2 f => Sys2Proof.Machine.execHmul2 f s
  | .hfma2 f => Sys2Proof.Machine.execHfma2 f s
  | .faddImm f => Sys2Proof.Machine.execFaddImm f s
  | .fmulImm f => Sys2Proof.Machine.execFmulImm f s
  | .ffmaImm f => Sys2Proof.Machine.execFfmaImm f s
  | .rcpShort f => Sys2Proof.Machine.execRcpShort f s
  | .rsqShort f => Sys2Proof.Machine.execRsqShort f s
  | .sqrtShort f => Sys2Proof.Machine.execSqrtShort f s
  | .ex2Short f => Sys2Proof.Machine.execEx2Short f s
  | .lg2Short f => Sys2Proof.Machine.execLg2Short f s
  | .sinShort f => Sys2Proof.Machine.execSinShort f s
  | .cosShort f => Sys2Proof.Machine.execCosShort f s
  | .tanhShort f => Sys2Proof.Machine.execTanhShort f s
  | .rcp f => Sys2Proof.Machine.execRcp f s
  | .rsq f => Sys2Proof.Machine.execRsq f s
  | .sqrt f => Sys2Proof.Machine.execSqrt f s
  | .ex2 f => Sys2Proof.Machine.execEx2 f s
  | .lg2 f => Sys2Proof.Machine.execLg2 f s
  | .sin f => Sys2Proof.Machine.execSin f s
  | .cos f => Sys2Proof.Machine.execCos f s
  | .tanh f => Sys2Proof.Machine.execTanh f s
  | .cvt f => Sys2Proof.Machine.execCvt f s
  | .shfl f => Sys2Proof.Machine.execShfl f s
  | .vote f => Sys2Proof.Machine.execVote f s
  | .redux f => Sys2Proof.Machine.execRedux f s
  | .prmt f => Sys2Proof.Machine.execPrmt f s
  | .matchLanes f => Sys2Proof.Machine.execMatchLanes f s
  | .saddShort f => Sys2Proof.Machine.execSaddShort f s
  | .ssubShort f => Sys2Proof.Machine.execSsubShort f s
  | .smulShort f => Sys2Proof.Machine.execSmulShort f s
  | .sandShort f => Sys2Proof.Machine.execSandShort f s
  | .sorShort f => Sys2Proof.Machine.execSorShort f s
  | .sxorShort f => Sys2Proof.Machine.execSxorShort f s
  | .sshlShort f => Sys2Proof.Machine.execSshlShort f s
  | .sshrShort f => Sys2Proof.Machine.execSshrShort f s
  | .smovShort f => Sys2Proof.Machine.execSmovShort f s
  | .ssetpS32Short f => Sys2Proof.Machine.execSsetpS32Short f s
  | .ssetpZ32Short f => Sys2Proof.Machine.execSsetpZ32Short f s
  | .s2vShort f => Sys2Proof.Machine.execS2vShort f s
  | .v2sShort f => Sys2Proof.Machine.execV2sShort f s
  | .sldShort f => Sys2Proof.Machine.execSldShort f s
  | .sadd f => Sys2Proof.Machine.execSadd f s
  | .ssub f => Sys2Proof.Machine.execSsub f s
  | .smul f => Sys2Proof.Machine.execSmul f s
  | .sand f => Sys2Proof.Machine.execSand f s
  | .sor f => Sys2Proof.Machine.execSor f s
  | .sxor f => Sys2Proof.Machine.execSxor f s
  | .sshl f => Sys2Proof.Machine.execSshl f s
  | .sshr f => Sys2Proof.Machine.execSshr f s
  | .smov f => Sys2Proof.Machine.execSmov f s
  | .ssetp f => Sys2Proof.Machine.execSsetp f s
  | .sbfe f => Sys2Proof.Machine.execSbfe f s
  | .s2v f => Sys2Proof.Machine.execS2v f s
  | .v2s f => Sys2Proof.Machine.execV2s f s
  | .sld f => Sys2Proof.Machine.execSld f s
  | .saddImm f => Sys2Proof.Machine.execSaddImm f s
  | .smulImm f => Sys2Proof.Machine.execSmulImm f s
  | .sandImm f => Sys2Proof.Machine.execSandImm f s
  | .sorImm f => Sys2Proof.Machine.execSorImm f s
  | .sxorImm f => Sys2Proof.Machine.execSxorImm f s
  | .sshlImm f => Sys2Proof.Machine.execSshlImm f s
  | .sshrImm f => Sys2Proof.Machine.execSshrImm f s
  | .smovImm f => Sys2Proof.Machine.execSmovImm f s
  | .ssetpImm f => Sys2Proof.Machine.execSsetpImm f s
  | .ldShort f => Sys2Proof.Machine.execLdShort f s
  | .stShort f => Sys2Proof.Machine.execStShort f s
  | .ldsShort f => Sys2Proof.Machine.execLdsShort f s
  | .stsShort f => Sys2Proof.Machine.execStsShort f s
  | .ld f => Sys2Proof.Machine.execLd f s
  | .st f => Sys2Proof.Machine.execSt f s
  | .lds f => Sys2Proof.Machine.execLds f s
  | .sts f => Sys2Proof.Machine.execSts f s
  | .ldr f => Sys2Proof.Machine.execLdr f s
  | .str f => Sys2Proof.Machine.execStr f s
  | .ldw f => Sys2Proof.Machine.execLdw f s
  | .chkw f => Sys2Proof.Machine.execChkw f s
  | .fence f => Sys2Proof.Machine.execFence f s
  | .fenceSc f => Sys2Proof.Machine.execFenceSc f s
  | .drainst f => Sys2Proof.Machine.execDrainst f s
  | .ifence f => Sys2Proof.Machine.execIfence f s
  | .prefetch f => Sys2Proof.Machine.execPrefetch f s
  | .smap f => Sys2Proof.Machine.execSmap f s
  | .sunmap f => Sys2Proof.Machine.execSunmap f s
  | .sflush f => Sys2Proof.Machine.execSflush f s
  | .wmld f => Sys2Proof.Machine.execWmld f s
  | .wmst f => Sys2Proof.Machine.execWmst f s
  | .atomAdd f => Sys2Proof.Machine.execAtomAdd f s
  | .atomMin f => Sys2Proof.Machine.execAtomMin f s
  | .atomMax f => Sys2Proof.Machine.execAtomMax f s
  | .atomAnd f => Sys2Proof.Machine.execAtomAnd f s
  | .atomOr f => Sys2Proof.Machine.execAtomOr f s
  | .atomXor f => Sys2Proof.Machine.execAtomXor f s
  | .atomExch f => Sys2Proof.Machine.execAtomExch f s
  | .atomCas f => Sys2Proof.Machine.execAtomCas f s
  | .atomSpadAdd f => Sys2Proof.Machine.execAtomSpadAdd f s
  | .atomSpadMin f => Sys2Proof.Machine.execAtomSpadMin f s
  | .atomSpadMax f => Sys2Proof.Machine.execAtomSpadMax f s
  | .atomSpadAnd f => Sys2Proof.Machine.execAtomSpadAnd f s
  | .atomSpadOr f => Sys2Proof.Machine.execAtomSpadOr f s
  | .atomSpadXor f => Sys2Proof.Machine.execAtomSpadXor f s
  | .atomSpadExch f => Sys2Proof.Machine.execAtomSpadExch f s
  | .atomSpadCas f => Sys2Proof.Machine.execAtomSpadCas f s
  | .atomPeerAdd f => Sys2Proof.Machine.execAtomPeerAdd f s
  | .atomPeerMin f => Sys2Proof.Machine.execAtomPeerMin f s
  | .atomPeerMax f => Sys2Proof.Machine.execAtomPeerMax f s
  | .atomPeerAnd f => Sys2Proof.Machine.execAtomPeerAnd f s
  | .atomPeerOr f => Sys2Proof.Machine.execAtomPeerOr f s
  | .atomPeerXor f => Sys2Proof.Machine.execAtomPeerXor f s
  | .atomPeerExch f => Sys2Proof.Machine.execAtomPeerExch f s
  | .atomPeerCas f => Sys2Proof.Machine.execAtomPeerCas f s
  | .redAdd f => Sys2Proof.Machine.execRedAdd f s
  | .redMin f => Sys2Proof.Machine.execRedMin f s
  | .redMax f => Sys2Proof.Machine.execRedMax f s
  | .redAnd f => Sys2Proof.Machine.execRedAnd f s
  | .redOr f => Sys2Proof.Machine.execRedOr f s
  | .redXor f => Sys2Proof.Machine.execRedXor f s
  | .redTrig f => Sys2Proof.Machine.execRedTrig f s
  | .braShort f => Sys2Proof.Machine.execBraShort f s
  | .exitShort f => Sys2Proof.Machine.execExitShort f s
  | .yieldShort f => Sys2Proof.Machine.execYieldShort f s
  | .bra f => Sys2Proof.Machine.execBra f s
  | .brx f => Sys2Proof.Machine.execBrx f s
  | .call f => Sys2Proof.Machine.execCall f s
  | .ret f => Sys2Proof.Machine.execRet f s
  | .exit f => Sys2Proof.Machine.execExit f s
  | .conv f => Sys2Proof.Machine.execConv f s
  | .yield f => Sys2Proof.Machine.execYield f s
  | .setpri f => Sys2Proof.Machine.execSetpri f s
  | .bar f => Sys2Proof.Machine.execBar f s
  | .bara f => Sys2Proof.Machine.execBara f s
  | .barw f => Sys2Proof.Machine.execBarw f s
  | .spawn f => Sys2Proof.Machine.execSpawn f s
  | .launch f => Sys2Proof.Machine.execLaunch f s
  | .enq f => Sys2Proof.Machine.execEnq f s
  | .gterm f => Sys2Proof.Machine.execGterm f s
  | .trapi f => Sys2Proof.Machine.execTrapi f s
  | .rett f => Sys2Proof.Machine.execRett f s
  | .mfsr f => Sys2Proof.Machine.execMfsr f s
  | .mtsr f => Sys2Proof.Machine.execMtsr f s
  | .bkpt f => Sys2Proof.Machine.execBkpt f s
  | .svc f => Sys2Proof.Machine.execSvc f s
  | .stamp f => Sys2Proof.Machine.execStamp f s
  | .cntstart f => Sys2Proof.Machine.execCntstart f s
  | .cntstop f => Sys2Proof.Machine.execCntstop f s
  | .prsv f => Sys2Proof.Machine.execPrsv f s
  | .pcmt f => Sys2Proof.Machine.execPcmt f s
  | .pacq f => Sys2Proof.Machine.execPacq f s
  | .prel f => Sys2Proof.Machine.execPrel f s
  | .ppoll f => Sys2Proof.Machine.execPpoll f s
  | .pclose f => Sys2Proof.Machine.execPclose f s
  | .tcopy f => Sys2Proof.Machine.execTcopy f s
  | .mcfg f => Sys2Proof.Machine.execMcfg f s
  | .mrel f => Sys2Proof.Machine.execMrel f s
  | .mload f => Sys2Proof.Machine.execMload f s
  | .mloop f => Sys2Proof.Machine.execMloop f s
  | .mdrain f => Sys2Proof.Machine.execMdrain f s
  | .mzero f => Sys2Proof.Machine.execMzero f s
  | .mfence f => Sys2Proof.Machine.execMfence f s
  | .skadd f => Sys2Proof.Machine.execSkadd f s
  | .skmerge f => Sys2Proof.Machine.execSkmerge f s
  | .skq f => Sys2Proof.Machine.execSkq f s
  | .hhadd f => Sys2Proof.Machine.execHhadd f s
  | .hhmerge f => Sys2Proof.Machine.execHhmerge f s
  | .hhtop f => Sys2Proof.Machine.execHhtop f s
  | .dcadd f => Sys2Proof.Machine.execDcadd f s
  | .dcmerge f => Sys2Proof.Machine.execDcmerge f s
  | .dcest f => Sys2Proof.Machine.execDcest f s
  | .rfetch f => Sys2Proof.Machine.execRfetch f s
  | .bfx f => Sys2Proof.Machine.execBfx f s
  | .swait f => Sys2Proof.Machine.execSwait f s
  | .dispatch f => Sys2Proof.Machine.execDispatch f s
  | .tmodeNopreWrite w => Sys2Proof.Machine.execTmodeNopreWrite w s
  | .mstatClear w bits => Sys2Proof.Machine.execMstatClear w bits s
  | .registerWrite r => Sys2Proof.Machine.execRegisterWrite r s
  | .cmdNop q => Sys2Proof.Machine.execCmdNop q s
  | .attach q feat addr => Sys2Proof.Machine.execAttach q feat addr s
  | .planStart q addr args => Sys2Proof.Machine.execPlanStart q addr args s
  | .planRestart q addr args => Sys2Proof.Machine.execPlanRestart q addr args s
  | .planStop q slot => Sys2Proof.Machine.execPlanStop q slot s
  | .planAbort q slot => Sys2Proof.Machine.execPlanAbort q slot s
  | .stageLaunch q addr args => Sys2Proof.Machine.execStageLaunch q addr args s
  | .signal q addr val wide => Sys2Proof.Machine.execSignal q addr val wide s
  | .waitWord q addr val mask cmp wide => Sys2Proof.Machine.execWaitWord q addr val mask cmp wide s
  | .cmdFence q => Sys2Proof.Machine.execCmdFence q s
  | .waitReevaluate q => Sys2Proof.Machine.execWaitReevaluate q s
  | .notify m => Sys2Proof.Machine.execNotify m s
  | .queueLoad q => Sys2Proof.Machine.execQueueLoad q s
  | .queueUnload q => Sys2Proof.Machine.execQueueUnload q s
  | .sliceExpiry q => Sys2Proof.Machine.execSliceExpiry q s
  | .launchAccept die => Sys2Proof.Machine.execLaunchAccept die s
  | .enqStep w seq => Sys2Proof.Machine.execEnqStep w seq s
  | .planSlotGrant => Sys2Proof.Machine.execPlanSlotGrant s
  | .planPlacement => Sys2Proof.Machine.execPlanPlacement s
  | .planStopped p => Sys2Proof.Machine.execPlanStopped p s
  | .stageEnd p st => Sys2Proof.Machine.execStageEnd p st s
  | .deckleEpoch p => Sys2Proof.Machine.execDeckleEpoch p s
  | .deckleHandover p => Sys2Proof.Machine.execDeckleHandover p s
  | .ringToChest p st => Sys2Proof.Machine.execRingToChest p st s
  | .recordEligible id => Sys2Proof.Machine.execRecordEligible id s
  | .armedRegistration id => Sys2Proof.Machine.execArmedRegistration id s
  | .binTimeout core bin => Sys2Proof.Machine.execBinTimeout core bin s
  | .warpFormation core => Sys2Proof.Machine.execWarpFormation core s
  | .warpRetire w => Sys2Proof.Machine.execWarpRetire w s
  | .warpTerminate w => Sys2Proof.Machine.execWarpTerminate w s
  | .priorityBoost w => Sys2Proof.Machine.execPriorityBoost w s
  | .pathAgeLimit w lane => Sys2Proof.Machine.execPathAgeLimit w lane s
  | .yieldExpiry w => Sys2Proof.Machine.execYieldExpiry w s
  | .convRelease w => Sys2Proof.Machine.execConvRelease w s
  | .barrierPhaseComplete gi bar => Sys2Proof.Machine.execBarrierPhaseComplete gi bar s
  | .resultWriteback w seq => Sys2Proof.Machine.execResultWriteback w seq s
  | .loadReturn w seq => Sys2Proof.Machine.execLoadReturn w seq s
  | .trapEntry w => Sys2Proof.Machine.execTrapEntry w s
  | .toltarReturn w act edits => Sys2Proof.Machine.execToltarReturn w act edits s
  | .preemptRequest t => Sys2Proof.Machine.execPreemptRequest t s
  | .preempt w => Sys2Proof.Machine.execPreempt w s
  | .nopreExpiry w => Sys2Proof.Machine.execNopreExpiry w s
  | .resume id w => Sys2Proof.Machine.execResume id w s
  | .storeQueueExit w => Sys2Proof.Machine.execStoreQueueExit w s
  | .storeFaultRecord w id => Sys2Proof.Machine.execStoreFaultRecord w id s
  | .registration id => Sys2Proof.Machine.execRegistration id s
  | .forwardedRead word => Sys2Proof.Machine.execForwardedRead word s
  | .readThroughNotice id => Sys2Proof.Machine.execReadThroughNotice id s
  | .l1Dryer core word => Sys2Proof.Machine.execL1Dryer core word s
  | .l2Dryer line => Sys2Proof.Machine.execL2Dryer line s
  | .l2Eviction line => Sys2Proof.Machine.execL2Eviction line s
  | .l1Eviction core region => Sys2Proof.Machine.execL1Eviction core region s
  | .homeAtomic w seq => Sys2Proof.Machine.execHomeAtomic w seq s
  | .redPerform x => Sys2Proof.Machine.execRedPerform x s
  | .redTrigStep x => Sys2Proof.Machine.execRedTrigStep x s
  | .remoteWriteThrough x => Sys2Proof.Machine.execRemoteWriteThrough x s
  | .watchConfirm w grain => Sys2Proof.Machine.execWatchConfirm w grain s
  | .tableWalk id => Sys2Proof.Machine.execTableWalk id s
  | .fqrespReplay die idx pteAddr pte => Sys2Proof.Machine.execFqrespReplay die idx pteAddr pte s
  | .fqrespDecline die idx => Sys2Proof.Machine.execFqrespDecline die idx s
  | .tlbInvalidate asid va => Sys2Proof.Machine.execTlbInvalidate asid va s
  | .eccError x => Sys2Proof.Machine.execEccError x s
  | .tcopyComplete core => Sys2Proof.Machine.execTcopyComplete core s
  | .panelLoad core => Sys2Proof.Machine.execPanelLoad core s
  | .mloadComplete core ctx => Sys2Proof.Machine.execMloadComplete core ctx s
  | .arrayUnit core => Sys2Proof.Machine.execArrayUnit core s
  | .mloopComplete core ctx => Sys2Proof.Machine.execMloopComplete core ctx s
  | .mdrainComplete core => Sys2Proof.Machine.execMdrainComplete core s
  | .shadowSample core => Sys2Proof.Machine.execShadowSample core s
  | .mcpSave core => Sys2Proof.Machine.execMcpSave core s
  | .mcpRestore core => Sys2Proof.Machine.execMcpRestore core s
  | .summaryPerform x => Sys2Proof.Machine.execSummaryPerform x s
  | .prsvFill p pipe => Sys2Proof.Machine.execPrsvFill p pipe s
  | .pcmtCommit p pipe => Sys2Proof.Machine.execPcmtCommit p pipe s
  | .pacqFill p pipe => Sys2Proof.Machine.execPacqFill p pipe s
  | .prelRecord p pipe => Sys2Proof.Machine.execPrelRecord p pipe s
  | .ppollSnapshot p x => Sys2Proof.Machine.execPpollSnapshot p x s
  | .pcloseRecord p pipe => Sys2Proof.Machine.execPcloseRecord p pipe s
  | .pipeMatch p pipe peer => Sys2Proof.Machine.execPipeMatch p pipe peer s
  | .pipeVacateMirror p pipe slot mark => Sys2Proof.Machine.execPipeVacateMirror p pipe slot mark s
  | .commitArrival p pipe seq mark payload => Sys2Proof.Machine.execCommitArrival p pipe seq mark payload s
  | .pipeLinkLoss p pipe => Sys2Proof.Machine.execPipeLinkLoss p pipe s
  | .deadlockReport set => Sys2Proof.Machine.execDeadlockReport set s
  | .deadlockProbe set => Sys2Proof.Machine.execDeadlockProbe set s
  | .deadlockDrain x => Sys2Proof.Machine.execDeadlockDrain x s
  | .partitionReset part => Sys2Proof.Machine.execPartitionReset part s
  | .heartbeatTick dom => Sys2Proof.Machine.execHeartbeatTick dom s
  | .d2dLinkFailure a b => Sys2Proof.Machine.execD2dLinkFailure a b s
  | .d2dRetrainTimeout a b => Sys2Proof.Machine.execD2dRetrainTimeout a b s
  | .ualinkReplay port seq lost => Sys2Proof.Machine.execUalinkReplay port seq lost s
  | .deviceUnreachable dev => Sys2Proof.Machine.execDeviceUnreachable dev s
  | .timeMessage dev time => Sys2Proof.Machine.execTimeMessage dev time s
  | .syncLoss => Sys2Proof.Machine.execSyncLoss s
  | .timeMasterLoss next => Sys2Proof.Machine.execTimeMasterLoss next s
  | .ueRemoteWrite win va bytes => Sys2Proof.Machine.execUeRemoteWrite win va bytes s
  | .ueRemoteRead win va len => Sys2Proof.Machine.execUeRemoteRead win va len s
  | .decoderRingNotice die ring => Sys2Proof.Machine.execDecoderRingNotice die ring s
  | .decoderJobStart die dec => Sys2Proof.Machine.execDecoderJobStart die dec s
  | .decoderFrameComplete die dec pic note => Sys2Proof.Machine.execDecoderFrameComplete die dec pic note s
  | .decoderJobEnd die dec undelim unreadable => Sys2Proof.Machine.execDecoderJobEnd die dec undelim unreadable s
  | .sample core => Sys2Proof.Machine.execSample core s
  | .triggerStart core => Sys2Proof.Machine.execTriggerStart core s
  | .triggerStop core => Sys2Proof.Machine.execTriggerStop core s
  | .stopPoint w => Sys2Proof.Machine.execStopPoint w s
  | .coreImageDump asid => Sys2Proof.Machine.execCoreImageDump asid s
  | .svcAttest w => Sys2Proof.Machine.execSvcAttest w s
  | .svcDump w => Sys2Proof.Machine.execSvcDump w s
  | .svcMap w => Sys2Proof.Machine.execSvcMap w s
  | .svcUnmap w => Sys2Proof.Machine.execSvcUnmap w s
  | .svcLog w => Sys2Proof.Machine.execSvcLog w s
  | .attestationRequest asid nonce => Sys2Proof.Machine.execAttestationRequest asid nonce s
  | .keyInstall slot key => Sys2Proof.Machine.execKeyInstall slot key s
  | .addressSpaceRegister d => Sys2Proof.Machine.execAddressSpaceRegister d s
  | .delegationWrite die p st word => Sys2Proof.Machine.execDelegationWrite die p st word s
  | .pairFailure pair => Sys2Proof.Machine.execPairFailure pair s
  | .watchdogExpiry pair => Sys2Proof.Machine.execWatchdogExpiry pair s
  | .watchdogKick pair => Sys2Proof.Machine.execWatchdogKick pair s
  | .spareTakeover pair => Sys2Proof.Machine.execSpareTakeover pair s
  | .pairSelfTest pair pass => Sys2Proof.Machine.execPairSelfTest pair pass s
  | .journalMirror pair => Sys2Proof.Machine.execJournalMirror pair s
  | .journalCheckpoint pair => Sys2Proof.Machine.execJournalCheckpoint pair s
  | .powerGood => Sys2Proof.Machine.execPowerGood s
  | .bringupStep die res => Sys2Proof.Machine.execBringupStep die res s
  | .mdevWrite die val => Sys2Proof.Machine.execMdevWrite die val s
  | .mbudgetWrite die val => Sys2Proof.Machine.execMbudgetWrite die val s
  | .meventRead die => Sys2Proof.Machine.execMeventRead die s
  | .powerWindow die watts => Sys2Proof.Machine.execPowerWindow die watts s
  | .thermalThrottle die temp => Sys2Proof.Machine.execThermalThrottle die temp s
  | .thermalShutdown => Sys2Proof.Machine.execThermalShutdown s
  | .d2dLinkRetrained a b => Sys2Proof.Machine.execD2dLinkRetrained a b s
  | .partitionRejoin die ok => Sys2Proof.Machine.execPartitionRejoin die ok s
  | .swaitTimeout pair => Sys2Proof.Machine.execSwaitTimeout pair s
  | .ualinkRemoteRead dev pa len => Sys2Proof.Machine.execUalinkRemoteRead dev pa len s
  | .supervisorFence pair predW succR io => Sys2Proof.Machine.execSupervisorFence pair predW succR io s
  | .decoderRingRegistration die asid ctl => Sys2Proof.Machine.execDecoderRingRegistration die asid ctl s

end Sys2Proof.Machine
end

