-- ==== Sys2Proof/Machine/Riscv.lean ====
section
/-!
DEFINITION. The base instruction set of the supervisor harts (R402: RV64IMAFDC, Zicsr, Zifencei, in M, S and U modes)
and the step of a hart. What each instruction does is RISC-V's own manual's, which R402 names and the spec does not
repeat (PRESUMED, log 8); the fences act as R403 says.
-/

namespace Sys2Proof.Machine

/-! Fields of a word. -/

def rvOp (w : Nat) : Nat := w % 128
def rvRd (w : Nat) : Nat := natBits w 11 7
def rvF3 (w : Nat) : Nat := natBits w 14 12
def rvRs1 (w : Nat) : Nat := natBits w 19 15
def rvRs2 (w : Nat) : Nat := natBits w 24 20
def rvF7 (w : Nat) : Nat := natBits w 31 25
def rvImmI (w : Nat) : Int := intOf 12 true (natBits w 31 20)
def rvImmS (w : Nat) : Int := intOf 12 true (natBits w 31 25 * 32 + natBits w 11 7)
def rvImmB (w : Nat) : Int :=
  intOf 13 true (natBits w 31 31 * 4096 + natBits w 7 7 * 2048 + natBits w 30 25 * 32 + natBits w 11 8 * 2)
def rvImmU (w : Nat) : Int := intOf 32 true (natBits w 31 12 * 4096)
def rvImmJ (w : Nat) : Int :=
  intOf 21 true (natBits w 31 31 * 2 ^ 20 + natBits w 19 12 * 4096 + natBits w 20 20 * 2048 + natBits w 30 21 * 2)

/-! Compressed instructions: each is the 32-bit instruction it stands for. -/

def rvI (imm rs1 f3 rd op : Nat) : Nat := imm % 4096 * 2 ^ 20 + rs1 * 2 ^ 15 + f3 * 4096 + rd * 128 + op
def rvS (imm rs2 rs1 f3 op : Nat) : Nat :=
  imm / 32 % 128 * 2 ^ 25 + rs2 * 2 ^ 20 + rs1 * 2 ^ 15 + f3 * 4096 + imm % 32 * 128 + op
def rvR (f7 rs2 rs1 f3 rd op : Nat) : Nat := f7 * 2 ^ 25 + rs2 * 2 ^ 20 + rs1 * 2 ^ 15 + f3 * 4096 + rd * 128 + op
def rvB (imm rs2 rs1 f3 : Nat) : Nat :=
  natBits imm 12 12 * 2 ^ 31 + natBits imm 10 5 * 2 ^ 25 + rs2 * 2 ^ 20 + rs1 * 2 ^ 15 + f3 * 4096 +
    natBits imm 4 1 * 256 + natBits imm 11 11 * 128 + 0x63
def rvJ (imm rd : Nat) : Nat :=
  natBits imm 20 20 * 2 ^ 31 + natBits imm 10 1 * 2 ^ 21 + natBits imm 11 11 * 2 ^ 20 + natBits imm 19 12 * 4096 +
    rd * 128 + 0x6F

/-- Quadrant 0. -/
def rvC0 (c : Nat) : Option Nat :=
  let rd := 8 + natBits c 4 2
  let rs := 8 + natBits c 9 7
  let d := natBits c 12 10 * 8 + natBits c 6 5 * 64
  let w := natBits c 12 10 * 8 + natBits c 6 6 * 4 + natBits c 5 5 * 64
  match natBits c 15 13 with
  | 0 =>
    let imm := natBits c 12 11 * 16 + natBits c 10 7 * 64 + natBits c 6 6 * 4 + natBits c 5 5 * 8
    if imm = 0 then none else some (rvI imm 2 0 rd 0x13)
  | 1 => some (rvI d rs 3 rd 0x07)
  | 2 => some (rvI w rs 2 rd 0x03)
  | 3 => some (rvI d rs 3 rd 0x03)
  | 5 => some (rvS d rd rs 3 0x27)
  | 6 => some (rvS w rd rs 2 0x23)
  | 7 => some (rvS d rd rs 3 0x23)
  | _ => none
/-- Quadrant 1. -/
def rvC1 (c : Nat) : Option Nat :=
  let rd := natBits c 11 7
  let r1 := 8 + natBits c 9 7
  let r2 := 8 + natBits c 4 2
  let sh := natBits c 12 12 * 32 + natBits c 6 2
  let imm := truncInt 12 (intOf 6 true sh)
  let b := truncInt 13 (intOf 9 true (natBits c 12 12 * 256 + natBits c 11 10 * 8 + natBits c 6 5 * 64 +
    natBits c 4 3 * 2 + natBits c 2 2 * 32))
  match natBits c 15 13 with
  | 0 => some (rvI imm rd 0 rd 0x13)
  | 1 => if rd = 0 then none else some (rvI imm rd 0 rd 0x1B)
  | 2 => some (rvI imm 0 0 rd 0x13)
  | 3 =>
    if sh = 0 then none
    else if rd = 2 then
      some (rvI (truncInt 12 (intOf 10 true (natBits c 12 12 * 512 + natBits c 6 6 * 16 + natBits c 5 5 * 64 +
        natBits c 4 3 * 128 + natBits c 2 2 * 32))) 2 0 2 0x13)
    else some (truncInt 20 (intOf 6 true sh) * 4096 + rd * 128 + 0x37)
  | 4 =>
    (match natBits c 11 10 with
    | 0 => some (rvI sh r1 5 r1 0x13)
    | 1 => some (rvI (1024 + sh) r1 5 r1 0x13)
    | 2 => some (rvI imm r1 7 r1 0x13)
    | _ =>
      match natBits c 12 12 * 4 + natBits c 6 5 with
      | 0 => some (rvR 32 r2 r1 0 r1 0x33)
      | 1 => some (rvR 0 r2 r1 4 r1 0x33)
      | 2 => some (rvR 0 r2 r1 6 r1 0x33)
      | 3 => some (rvR 0 r2 r1 7 r1 0x33)
      | 4 => some (rvR 32 r2 r1 0 r1 0x3B)
      | 5 => some (rvR 0 r2 r1 0 r1 0x3B)
      | _ => none)
  | 5 =>
    some (rvJ (truncInt 21 (intOf 12 true (natBits c 12 12 * 2048 + natBits c 11 11 * 16 + natBits c 10 9 * 256 +
      natBits c 8 8 * 1024 + natBits c 7 7 * 64 + natBits c 6 6 * 128 + natBits c 5 3 * 2 + natBits c 2 2 * 32))) 0)
  | 6 => some (rvB b 0 r1 0)
  | _ => some (rvB b 0 r1 1)
/-- Quadrant 2. -/
def rvC2 (c : Nat) : Option Nat :=
  let rd := natBits c 11 7
  let rs := natBits c 6 2
  let dl := natBits c 12 12 * 32 + natBits c 6 5 * 8 + natBits c 4 2 * 64
  let wl := natBits c 12 12 * 32 + natBits c 6 4 * 4 + natBits c 3 2 * 64
  let ds := natBits c 12 10 * 8 + natBits c 9 7 * 64
  let ws := natBits c 12 9 * 4 + natBits c 8 7 * 64
  match natBits c 15 13 with
  | 0 => some (rvI (natBits c 12 12 * 32 + rs) rd 1 rd 0x13)
  | 1 => some (rvI dl 2 3 rd 0x07)
  | 2 => if rd = 0 then none else some (rvI wl 2 2 rd 0x03)
  | 3 => if rd = 0 then none else some (rvI dl 2 3 rd 0x03)
  | 4 =>
    if !c.testBit 12 then
      if rs ≠ 0 then some (rvR 0 rs 0 0 rd 0x33)
      else if rd = 0 then none else some (rvI 0 rd 0 0 0x67)
    else if rs ≠ 0 then some (rvR 0 rs rd 0 rd 0x33)
    else if rd = 0 then some 0x00100073 else some (rvI 0 rd 0 1 0x67)
  | 5 => some (rvS ds rs 2 3 0x27)
  | 6 => some (rvS ws rs 2 2 0x23)
  | _ => some (rvS ds rs 2 3 0x23)
/-- The instruction a 16-bit word stands for. -/
def rvExpand (c : Nat) : Option Nat :=
  match c % 4 with
  | 0 => rvC0 c
  | 1 => rvC1 c
  | 2 => rvC2 c
  | _ => none

/-! Integer arithmetic. -/

/-- A 32-bit result, sign-extended. -/
def rvW (v : DWord) : DWord := (v.extractLsb' 0 32).signExtend 64
/-- OP and OP-IMM: funct3, whether bit 30 of the word asks for the other form, the operands. -/
def rvAlu (f3 : Nat) (alt : Bool) (a b : DWord) : DWord :=
  match f3 with
  | 0 => if alt then a - b else a + b
  | 1 => a <<< (b.toNat % 64)
  | 2 => if a.toInt < b.toInt then 1 else 0
  | 3 => if a.toNat < b.toNat then 1 else 0
  | 4 => a ^^^ b
  | 5 => if alt then a.sshiftRight (b.toNat % 64) else a >>> (b.toNat % 64)
  | 6 => a ||| b
  | _ => a &&& b
/-- The 32-bit forms. -/
def rvAluW (f3 : Nat) (alt : Bool) (a b : DWord) : DWord :=
  let x := a.extractLsb' 0 32
  let n := b.toNat % 32
  match f3 with
  | 0 => rvW (if alt then a - b else a + b)
  | 1 => (x <<< n).signExtend 64
  | _ => (if alt then x.sshiftRight n else x >>> n).signExtend 64
/-- Quotient and remainder of the M extension, which truncate towards zero and do not trap. -/
def rvDiv (n : Nat) (signed rem : Bool) (a b : Nat) : Int :=
  let x := intOf n signed a
  let y := intOf n signed b
  if y = 0 then (if rem then x else -1) else if rem then x.tmod y else x.tdiv y
/-- The M extension. -/
def rvMul (f3 : Nat) (a b : DWord) : DWord :=
  let hi := fun (x y : Int) => BitVec.ofInt 64 (x * y / 2 ^ 64)
  match f3 with
  | 0 => a * b
  | 1 => hi a.toInt b.toInt
  | 2 => hi a.toInt b.toNat
  | 3 => hi a.toNat b.toNat
  | 4 => BitVec.ofInt 64 (rvDiv 64 true false a.toNat b.toNat)
  | 5 => BitVec.ofInt 64 (rvDiv 64 false false a.toNat b.toNat)
  | 6 => BitVec.ofInt 64 (rvDiv 64 true true a.toNat b.toNat)
  | _ => BitVec.ofInt 64 (rvDiv 64 false true a.toNat b.toNat)
def rvMulW (f3 : Nat) (a b : DWord) : Option DWord :=
  let go := fun (signed rem : Bool) => some (rvW (BitVec.ofInt 64 (rvDiv 32 signed rem a.toNat b.toNat)))
  match f3 with
  | 0 => some (rvW (a * b))
  | 4 => go true false
  | 5 => go false false
  | 6 => go true true
  | 7 => go false true
  | _ => none
def rvBranch (f3 : Nat) (a b : DWord) : Option Bool :=
  match f3 with
  | 0 => some (a == b)
  | 1 => some (a != b)
  | 4 => some (decide (a.toInt < b.toInt))
  | 5 => some (decide (b.toInt ≤ a.toInt))
  | 6 => some (decide (a.toNat < b.toNat))
  | 7 => some (decide (b.toNat ≤ a.toNat))
  | _ => none

/-! Floating point: formats S and D, five rounding modes. -/

def fp64 : FFmt := ⟨11, 52, true⟩
inductive Frm where
  | rne | rtz | rdn | rup | rmm
  deriving DecidableEq, Repr
def Frm.of (n : Nat) : Option Frm :=
  match n with
  | 0 => some .rne
  | 1 => some .rtz
  | 2 => some .rdn
  | 3 => some .rup
  | 4 => some .rmm
  | _ => none
/-- The directed and even modes, by the names of R50. -/
def Frm.mode (r : Frm) : RMode :=
  match r with
  | .rne | .rmm => .rn
  | .rtz => .rz
  | .rdn => .rd
  | .rup => .ru
/-- `m × 2^e` rounded to a multiple of `2^q`, ties away from zero for RMM. -/
def rvRoundAt (r : Frm) (neg : Bool) (m : Nat) (e : Int) (st : Bool) (q : Int) : Nat × Bool :=
  match r with
  | .rmm =>
    if q ≤ e then (m <<< (e - q).toNat, st) else
    let k := (q - e).toNat
    (m >>> k + (if m % 2 ^ k ≥ 2 ^ k / 2 then 1 else 0), m % 2 ^ k != 0 || st)
  | _ => roundAt r.mode neg m e st q
/-- Delivering `± m × 2^e` (a little more when `st`); tininess after rounding. -/
def rvRound (t : FFmt) (r : Frm) (neg : Bool) (m : Nat) (e : Int) (st : Bool) : FRes :=
  match r with
  | .rmm =>
    let s := if neg then t.signBit else 0
    if m == 0 then ⟨s, 0⟩ else
    let msb : Int := e + Nat.log2 m
    let q := max t.qmin (msb - t.mb)
    let (n, inexact) := rvRoundAt r neg m e st q
    let bits := (q - t.qmin).toNat * 2 ^ t.mb + n
    let qu := msb - t.mb
    let nu := (rvRoundAt r neg m e st qu).1
    let tiny := decide (qu < t.qmin) && decide (nu < 2 ^ ((t.qmin + t.mb) - qu).toNat)
    if bits ≥ t.top then ⟨s + t.top, flagOF ||| flagNX⟩
    else ⟨s + bits, (if inexact then flagNX else 0) ||| (if tiny && inexact then flagUF else 0)⟩
  | _ => t.round r.mode false false neg m e st
def rvPack (t : FFmt) (r : Frm) (v : FVal) (fl : Nat) : FRes :=
  match v with
  | .nan _ => ⟨t.nan, fl⟩
  | .inf neg => ⟨(if neg then t.signBit else 0) + t.top, fl⟩
  | .fin neg m e => let x := rvRound t r neg m e false; ⟨x.bits, x.flags ||| fl⟩
/-- The quotient. -/
def rvFdiv (t : FFmt) (r : Frm) (a b : FVal) : FRes :=
  let s := fun (x y : Bool) => if x != y then t.signBit else 0
  match a, b with
  | .nan x, y => ⟨t.nan, (FVal.nan x).sigFlag ||| y.sigFlag⟩
  | x, .nan y => ⟨t.nan, x.sigFlag ||| (FVal.nan y).sigFlag⟩
  | .inf _, .inf _ => ⟨t.nan, flagIV⟩
  | .inf x, .fin y _ _ => ⟨s x y + t.top, 0⟩
  | .fin x _ _, .inf y => ⟨s x y, 0⟩
  | .fin x m e, .fin y n f =>
    if n = 0 then (if m = 0 then ⟨t.nan, flagIV⟩ else ⟨s x y + t.top, flagDZ⟩)
    else
      let k := Nat.log2 n + t.mb + 3
      rvRound t r (x != y) (m * 2 ^ k / n) (e - f - k) (m * 2 ^ k % n != 0)
/-- The square root. -/
def rvFsqrt (t : FFmt) (r : Frm) (a : FVal) : FRes :=
  match a with
  | .nan x => ⟨t.nan, (FVal.nan x).sigFlag⟩
  | .inf true => ⟨t.nan, flagIV⟩
  | .inf false => ⟨t.top, 0⟩
  | .fin x m e =>
    if m = 0 then ⟨if x then t.signBit else 0, 0⟩
    else if x then ⟨t.nan, flagIV⟩
    else
      let k := 2 * (t.mb + 3) + (if e % 2 = 0 then 0 else 1)
      let n := m * 2 ^ k
      let q := isqrt n
      rvRound t r false q ((e - k) / 2) (q * q != n)
/-- Float to integer of `n` bits. -/
def rvToInt (t : FFmt) (r : Frm) (n : Nat) (signed : Bool) (x : Nat) : Nat × Nat :=
  match t.unpack x with
  | .nan _ => (truncInt n (intMax n signed), flagIV)
  | .inf neg => (truncInt n (if neg then intMin n signed else intMax n signed), flagIV)
  | .fin neg m e =>
    let (q, inexact) := rvRoundAt r neg m e false 0
    let z : Int := if neg then -(q : Int) else q
    if z < intMin n signed then (truncInt n (intMin n signed), flagIV)
    else if z > intMax n signed then (truncInt n (intMax n signed), flagIV)
    else (truncInt n z, if inexact then flagNX else 0)
/-- FCLASS. -/
def rvClass (t : FFmt) (x : Nat) : Nat :=
  let pick := fun (neg : Bool) (a b : Nat) => 2 ^ (if neg then a else b)
  match t.unpack x with
  | .nan sig => if sig then 2 ^ 8 else 2 ^ 9
  | .inf neg => pick neg 0 7
  | .fin neg m _ => if m = 0 then pick neg 3 4 else if x % t.signBit < 2 ^ t.mb then pick neg 2 5 else pick neg 1 6
/-- A comparison: FLE, FLT, FEQ by funct3, and whether a quiet NaN is invalid too. -/
def rvCompare (t : FFmt) (f3 a b : Nat) : Bool × Nat :=
  let va := t.unpack a
  let vb := t.unpack b
  let un := va.isNan || vb.isNan
  let key := fun (x : Nat) => (if x ≥ t.signBit then -((x - t.signBit : Nat) : Int) else (x : Int))
  let r := match f3 with
    | 0 => decide (key a ≤ key b)
    | 1 => decide (key a < key b)
    | _ => key a == key b
  (!un && r, if f3 = 2 then va.sigFlag ||| vb.sigFlag else if un then flagIV else 0)
/-- fflags holds NV, DZ, OF, UF, NX from bit 4 down. -/
def rvFlags (fl : Nat) : Nat :=
  boolNat (fl.testBit 0) * 16 + boolNat (fl.testBit 1) * 8 + boolNat (fl.testBit 2) * 4 + boolNat (fl.testBit 3) * 2 +
    boolNat (fl.testBit 4)

/-! Registers of a hart. -/

/-- mstatus.FS: 0 off, 3 dirty. -/
def fsOf (p : Pair) : Nat := p.c csrMstatus / 2 ^ 13 % 4
def fsDirty (p : Pair) : Pair := p.setC csrMstatus (p.c csrMstatus ||| 0x6000)
/-- A floating-point operand: a single that is not boxed reads as the canonical NaN. -/
def Pair.getF (p : Pair) (dbl : Bool) (r : Nat) : Nat :=
  let v := (mget p.fregs r 0).toNat
  if dbl then v else if v / 2 ^ 32 = 2 ^ 32 - 1 then v % 2 ^ 32 else fp32.nan
def Pair.putF (p : Pair) (dbl : Bool) (r v : Nat) : Pair :=
  fsDirty { p with fregs := mput p.fregs r (BitVec.ofNat 64 (if dbl then v else (2 ^ 32 - 1) * 2 ^ 32 + v % 2 ^ 32)) 0 }
/-- Flags accrue in fcsr. -/
def Pair.accrue (p : Pair) (fl : Nat) : Pair :=
  if rvFlags fl = 0 then p else fsDirty (p.setC csrFcsr (p.c csrFcsr ||| rvFlags fl))

/-! Steps of a hart. -/

/-- The hart, the instruction's length in bytes and its bits. -/
structure RvCtx where
  h   : Nat
  len : Nat
  raw : Nat

/-- The instruction retires: its effect on the pair, and the pc goes past it. -/
def rvDone (s : State) (c : RvCtx) (f : Pair → Pair) : Host.Outcome State Fault Refusal :=
  .next (s.modPair c.h (fun p => { f p with pc := p.pc + BitVec.ofNat 64 c.len }))
def rvTrap (s : State) (c : RvCtx) (cause tval : Nat) : Host.Outcome State Fault Refusal := .next (trapHart s c.h cause tval)
def rvIllegal (s : State) (c : RvCtx) : Host.Outcome State Fault Refusal := rvTrap s c 2 c.raw
/-- A jump; bit 0 of the target is dropped. -/
def rvJump (s : State) (c : RvCtx) (f : Pair → Pair) (t : DWord) : Host.Outcome State Fault Refusal :=
  .next (s.modPair c.h (fun p => { f p with pc := t &&& 0xFFFFFFFFFFFFFFFE }))

/-- An access of `n` bytes, aligned, translated and allowed for each of `accs`; `st` says that its exceptions are a
store's. -/
def rvAddr (s : State) (c : RvCtx) (st : Bool) (accs : List SvAcc) (va n : Nat)
    (k : Nat → Host.Outcome State Fault Refusal) : Host.Outcome State Fault Refusal :=
  if va % n ≠ 0 then rvTrap s c (if st then 6 else 4) va else
  let go := fun (e : SvErr) => match e with
    | .absent => .fault .noSuchAddress
    | .pmp => rvTrap s c (if st then 7 else 5) va
    | _ => rvTrap s c (if st then 15 else 13) va
  let errs := accs.filterMap (fun a => match svXlate s (s.pair c.h) a va n with
    | .error e => some e
    | .ok _ => none)
  match errs, svXlate s (s.pair c.h) (accs.headD .r) va n with
  | [], .ok pa => if !st && paBad s pa n then rvTrap s c 5 va else k pa
  | e :: _, _ => go e
  | [], .error e => go e

def rvLoad (s : State) (c : RvCtx) (w va : Nat) : Host.Outcome State Fault Refusal :=
  let f3 := rvF3 w
  let n := 2 ^ (f3 % 4)
  if f3 = 7 then rvIllegal s c else
  rvAddr s c false [.r] va n (fun pa =>
    let v := leNat (paRead s pa n)
    rvDone (paTouch s pa n) c (fun p => p.put (rvRd w) (BitVec.ofInt 64 (if f3 < 4 then intOf (8 * n) true v else v))))
def rvStore (s : State) (c : RvCtx) (w va : Nat) (v : DWord) : Host.Outcome State Fault Refusal :=
  let f3 := rvF3 w
  let n := 2 ^ (f3 % 4)
  if 4 ≤ f3 then rvIllegal s c else
  rvAddr s c true [.w] va n (fun pa => rvDone (paWrite s pa (leBytes n v.toNat)) c id)
def rvLoadF (s : State) (c : RvCtx) (w va : Nat) : Host.Outcome State Fault Refusal :=
  let dbl := rvF3 w == 3
  let n := if dbl then 8 else 4
  if (rvF3 w ≠ 2 ∧ rvF3 w ≠ 3) ∨ fsOf (s.pair c.h) = 0 then rvIllegal s c else
  rvAddr s c false [.r] va n (fun pa => rvDone (paTouch s pa n) c (fun p => p.putF dbl (rvRd w) (leNat (paRead s pa n))))
def rvStoreF (s : State) (c : RvCtx) (w va : Nat) : Host.Outcome State Fault Refusal :=
  let n := if rvF3 w = 3 then 8 else 4
  if (rvF3 w ≠ 2 ∧ rvF3 w ≠ 3) ∨ fsOf (s.pair c.h) = 0 then rvIllegal s c else
  rvAddr s c true [.w] va n (fun pa =>
    rvDone (paWrite s pa (leBytes n (mget (s.pair c.h).fregs (rvRs2 w) 0).toNat)) c id)

/-- The new value of an atomic, on values of `n` bytes. -/
def rvAmoOp (f5 n old arg : Nat) : Option Nat :=
  let x := intOf (8 * n) true old
  let y := intOf (8 * n) true arg
  match f5 with
  | 0x00 => some (old + arg)
  | 0x01 => some arg
  | 0x04 => some (old ^^^ arg)
  | 0x08 => some (old ||| arg)
  | 0x0C => some (old &&& arg)
  | 0x10 => some (if x ≤ y then old else arg)
  | 0x14 => some (if x ≤ y then arg else old)
  | 0x18 => some (min old arg)
  | 0x1C => some (max old arg)
  | _ => none
/-- What tells whether a reserved place has been written since: the version of its sector (R272); SRAM has none, and a
write there drops the reservation itself. -/
def resvVer (s : State) (pa : Nat) : Nat := if pa < 2 ^ 39 then mget s.vers (pa / 32) 0 else 0
/-- LR, SC and the AMOs. -/
def rvAtomic (s : State) (c : RvCtx) (w : Nat) : Host.Outcome State Fault Refusal :=
  let p := s.pair c.h
  let n := if rvF3 w = 3 then 8 else 4
  let f5 := natBits w 31 27
  let va := (p.get (rvRs1 w)).toNat
  let arg := (p.get (rvRs2 w)).toNat % 2 ^ (8 * n)
  let ext := fun (v : Nat) => BitVec.ofInt 64 (intOf (8 * n) true v)
  if rvF3 w ≠ 2 ∧ rvF3 w ≠ 3 then rvIllegal s c
  else if f5 = 2 then
    if rvRs2 w ≠ 0 then rvIllegal s c else
    rvAddr s c false [.r] va n (fun pa =>
      let v := leNat (paRead s pa n)
      let s := paTouch s pa n
      rvDone s c (fun p => { p.put (rvRd w) (ext v) with resv := some (pa, resvVer s pa) }))
  else if f5 = 3 then
    rvAddr s c true [.w] va n (fun pa =>
      if p.resv = some (pa, resvVer s pa) then
        rvDone (paWrite s pa (leBytes n arg)) c (fun p => { p.put (rvRd w) 0 with resv := none })
      else rvDone s c (fun p => { p.put (rvRd w) 1 with resv := none }))
  else if (rvAmoOp f5 n 0 0).isNone then rvIllegal s c
  else
    rvAddr s c true [.w, .r] va n (fun pa =>
      let old := leNat (paRead s pa n)
      if paBad s pa n then rvTrap s c 7 va else
      rvDone (paWrite s pa (leBytes n ((rvAmoOp f5 n old arg).getD 0))) c (fun p => p.put (rvRd w) (ext old)))

/-! Control and status registers. -/

/-- CSRRW, CSRRS and CSRRC, with a register or an immediate. -/
def rvCsr (s : State) (c : RvCtx) (w : Nat) : Host.Outcome State Fault Refusal :=
  let p := s.pair c.h
  let num := natBits w 31 20
  let f3 := rvF3 w
  let arg := if f3 < 4 then (p.get (rvRs1 w)).toNat else rvRs1 w
  let writes := f3 % 4 == 1 || rvRs1 w != 0
  if !csrKnown num || decide (svLevel p.mode < num / 256 % 4) || (writes && num / 1024 == 3) ||
      (num == 0x180 && p.mode == .s && (p.c csrMstatus).testBit 20) || (decide (num ≤ 3) && fsOf p == 0)
  then rvIllegal s c
  else
    let old := csrValue s c.h num
    let new := match f3 % 4 with
      | 1 => arg
      | 2 => old ||| arg
      | _ => old &&& (2 ^ 64 - 1 - arg)
    let t := if csrFree num then { s with free := s.free + 8 } else s
    rvDone t c (fun p =>
      let q := if writes then p.writeCsr num (BitVec.ofNat 64 new) else p
      (if writes && decide (num ≤ 3) then fsDirty q else q).put (rvRd w) (BitVec.ofNat 64 old))

/-- SYSTEM: calls, returns, WFI (which ends at once), SFENCE.VMA (the walk reads memory), CSR instructions. -/
def rvSystem (s : State) (c : RvCtx) (w : Nat) : Host.Outcome State Fault Refusal :=
  let p := s.pair c.h
  let st := p.c csrMstatus
  if rvF3 w ≠ 0 then (if rvF3 w = 4 then rvIllegal s c else rvCsr s c w)
  else if w = 0x00000073 then rvTrap s c (8 + svLevel p.mode) 0
  else if w = 0x00100073 then rvTrap s c 3 p.pc.toNat
  else if w = 0x30200073 then
    if p.mode = .m then .next (s.modPair c.h (fun p => returnPair p false)) else rvIllegal s c
  else if w = 0x10200073 then
    if p.mode = .u ∨ (p.mode = .s ∧ st.testBit 22) then rvIllegal s c
    else .next (s.modPair c.h (fun p => returnPair p true))
  else if w = 0x10500073 then
    if p.mode ≠ .m ∧ st.testBit 21 then rvIllegal s c else rvDone s c id
  else if rvF7 w = 9 ∧ rvRd w = 0 then
    if p.mode = .u ∨ (p.mode = .s ∧ st.testBit 20) then rvIllegal s c else rvDone s c id
  else rvIllegal s c

/-! Floating-point instructions. -/

/-- The rounding mode an instruction names, 7 for fcsr's. -/
def rvRm (p : Pair) (w : Nat) : Option Frm := Frm.of (if rvF3 w = 7 then p.c csrFcsr / 32 % 8 else rvF3 w)
/-- A result and its flags. -/
def rvPutF (s : State) (c : RvCtx) (dbl : Bool) (rd : Nat) (r : FRes) : Host.Outcome State Fault Refusal :=
  rvDone s c (fun p => (p.putF dbl rd r.bits).accrue r.flags)
def rvPutX (s : State) (c : RvCtx) (rd : Nat) (v : DWord) (fl : Nat) : Host.Outcome State Fault Refusal :=
  rvDone s c (fun p => (p.put rd v).accrue fl)
/-- FMADD, FMSUB, FNMSUB, FNMADD. -/
def rvFma (s : State) (c : RvCtx) (w : Nat) : Host.Outcome State Fault Refusal :=
  let p := s.pair c.h
  let dbl := natBits w 26 25 == 1
  let t := if dbl then fp64 else fp32
  match rvRm p w with
  | none => rvIllegal s c
  | some r =>
    if 2 ≤ natBits w 26 25 ∨ fsOf p = 0 then rvIllegal s c else
    let v := fun (r : Nat) => t.unpack (p.getF dbl r)
    let k := rvOp w / 4 % 4
    let a := if 2 ≤ k then (v (rvRs1 w)).neg else v (rvRs1 w)
    let b := v (natBits w 31 27)
    let b := if k = 1 ∨ k = 3 then b.neg else b
    let (x, fl) := fmaV r.mode a (v (rvRs2 w)) b
    rvPutF s c dbl (rvRd w) (rvPack t r x fl)
/-- OP-FP. -/
def rvFp (s : State) (c : RvCtx) (w : Nat) : Host.Outcome State Fault Refusal :=
  let p := s.pair c.h
  let dbl := rvF7 w % 4 == 1
  let t := if dbl then fp64 else fp32
  let x := p.getF dbl (rvRs1 w)
  let y := p.getF dbl (rvRs2 w)
  let rd := rvRd w
  let f3 := rvF3 w
  let ill := rvIllegal s c
  let arith := fun (k : Frm → FRes) => match rvRm p w with
    | some r => rvPutF s c dbl rd (k r)
    | none => ill
  let pair2 := fun (k : Frm → FVal × Nat) => arith (fun r => rvPack t r (k r).1 (k r).2)
  if 2 ≤ rvF7 w % 4 ∨ fsOf p = 0 then ill else
  match rvF7 w / 4 with
  | 0x00 => pair2 (fun r => addV r.mode (t.unpack x) (t.unpack y))
  | 0x01 => pair2 (fun r => addV r.mode (t.unpack x) (t.unpack y).neg)
  | 0x02 => pair2 (fun _ => mulV (t.unpack x) (t.unpack y))
  | 0x03 => arith (fun r => rvFdiv t r (t.unpack x) (t.unpack y))
  | 0x0B => if rvRs2 w ≠ 0 then ill else arith (fun r => rvFsqrt t r (t.unpack x))
  | 0x04 =>
    let sg := fun (b : Bool) => rvPutF s c dbl rd ⟨x % t.signBit + (if b then t.signBit else 0), 0⟩
    let sx := decide (x ≥ t.signBit)
    let sy := decide (y ≥ t.signBit)
    (match f3 with
    | 0 => sg sy
    | 1 => sg (!sy)
    | 2 => sg (sx != sy)
    | _ => ill)
  | 0x05 => if 2 ≤ f3 then ill else rvPutF s c dbl rd (t.minmax (f3 == 0) false x y)
  | 0x08 =>
    if rvRs2 w ≠ (if dbl then 0 else 1) then ill else
    let u := if dbl then fp32 else fp64
    let v := u.unpack (p.getF (!dbl) (rvRs1 w))
    arith (fun r => rvPack t r v v.sigFlag)
  | 0x14 => if 3 ≤ f3 then ill else
    let r := rvCompare t f3 x y
    rvPutX s c rd (if r.1 then 1 else 0) r.2
  | 0x18 =>
    (match rvRm p w with
    | none => ill
    | some r =>
      if 4 ≤ rvRs2 w then ill else
      let n := if rvRs2 w < 2 then 32 else 64
      let v := rvToInt t r n (rvRs2 w % 2 == 0) x
      rvPutX s c rd (BitVec.ofInt 64 (intOf n true v.1)) v.2)
  | 0x1A =>
    if 4 ≤ rvRs2 w then ill else
    let n := if rvRs2 w < 2 then 32 else 64
    let z := intOf n (rvRs2 w % 2 == 0) (p.get (rvRs1 w)).toNat
    arith (fun r => rvRound t r (decide (z < 0)) z.natAbs 0 false)
  | 0x1C =>
    if rvRs2 w ≠ 0 then ill
    else if f3 = 1 then rvPutX s c rd (BitVec.ofNat 64 (rvClass t x)) 0
    else if f3 = 0 then
      let v := (mget p.fregs (rvRs1 w) 0)
      rvPutX s c rd (if dbl then v else rvW v) 0
    else ill
  | 0x1E =>
    if rvRs2 w ≠ 0 ∨ f3 ≠ 0 then ill
    else rvPutF s c dbl rd ⟨(p.get (rvRs1 w)).toNat % 2 ^ (if dbl then 64 else 32), 0⟩
  | _ => ill

/-- A base instruction, in its 32-bit form. (PRESUMED, log 8) -/
def rvExec (s : State) (c : RvCtx) (w : Nat) : Host.Outcome State Fault Refusal :=
  let p := s.pair c.h
  let a := p.get (rvRs1 w)
  let b := p.get (rvRs2 w)
  let rd := rvRd w
  let f3 := rvF3 w
  let f7 := rvF7 w
  let put := fun (v : DWord) => rvDone s c (fun p => p.put rd v)
  let imm := BitVec.ofInt 64 (rvImmI w)
  let at_ := fun (i : Int) => (a + BitVec.ofInt 64 i).toNat
  let link := p.pc + BitVec.ofNat 64 c.len
  let ill := rvIllegal s c
  match rvOp w with
  | 0x37 => put (BitVec.ofInt 64 (rvImmU w))
  | 0x17 => put (p.pc + BitVec.ofInt 64 (rvImmU w))
  | 0x6F => rvJump s c (fun p => p.put rd link) (p.pc + BitVec.ofInt 64 (rvImmJ w))
  | 0x67 => if f3 ≠ 0 then ill else rvJump s c (fun p => p.put rd link) (a + imm)
  | 0x63 =>
    (match rvBranch f3 a b with
    | none => ill
    | some true => rvJump s c id (p.pc + BitVec.ofInt 64 (rvImmB w))
    | some false => rvDone s c id)
  | 0x03 => rvLoad s c w (at_ (rvImmI w))
  | 0x23 => rvStore s c w (at_ (rvImmS w)) b
  | 0x13 =>
    if f3 = 1 ∧ f7 / 2 ≠ 0 then ill
    else if f3 = 5 ∧ f7 / 2 ≠ 0 ∧ f7 / 2 ≠ 16 then ill
    else put (rvAlu f3 (f3 == 5 && f7 / 2 == 16) a imm)
  | 0x1B =>
    if f3 = 0 then put (rvAluW 0 false a imm)
    else if (f3 = 1 ∧ f7 = 0) ∨ (f3 = 5 ∧ (f7 = 0 ∨ f7 = 32)) then put (rvAluW f3 (f7 == 32) a imm)
    else ill
  | 0x33 =>
    if f7 = 1 then put (rvMul f3 a b)
    else if f7 = 0 ∨ (f7 = 32 ∧ (f3 = 0 ∨ f3 = 5)) then put (rvAlu f3 (f7 == 32) a b)
    else ill
  | 0x3B =>
    if f7 = 1 then (match rvMulW f3 a b with
      | some v => put v
      | none => ill)
    else if (f7 = 0 ∧ (f3 = 0 ∨ f3 = 1 ∨ f3 = 5)) ∨ (f7 = 32 ∧ (f3 = 0 ∨ f3 = 5)) then put (rvAluW f3 (f7 == 32) a b)
    else ill
  | 0x0F => if f3 = 0 then execSupervisorFence c.h (natBits w 24 24 == 1) (natBits w 21 21 == 1)
      (natBits w 27 26 == 3 && natBits w 23 22 == 3) s
      else if f3 = 1 then rvDone s c id else ill
  | 0x2F => rvAtomic s c w
  | 0x73 => rvSystem s c w
  | 0x07 => rvLoadF s c w (at_ (rvImmI w))
  | 0x27 => rvStoreF s c w (at_ (rvImmS w))
  | 0x43 | 0x47 | 0x4B | 0x4F => rvFma s c w
  | 0x53 => rvFp s c w
  | _ => ill

/-! The step of a hart. -/

/-- The word at a hart's pc, 16 bits of it for a compressed instruction; or the exception its fetch takes and the
address. -/
def hartFetch (s : State) (p : Pair) : Except (Nat × Nat) Word :=
  let va := p.pc.toNat
  let err := fun (e : SvErr) => match e with
    | .none_ | .perm => 12
    | .pmp | .absent => 1
  match svXlate s p .x va 2 with
  | .error e => .error (err e, va)
  | .ok a =>
    let lo := paRead s a 2
    if leNat lo % 4 ≠ 3 then .ok (BitVec.ofNat 32 (leNat lo)) else
    match svXlate s p .x (va + 2) 2 with
    | .ok b => .ok (BitVec.ofNat 32 (leNat (lo ++ paRead s b 2)))
    | .error e => .error (err e, va + 2)
/-- A base instruction in either length. -/
def rvRun (s : State) (h : Nat) (w : Word) : Host.Outcome State Fault Refusal :=
  if w.toNat % 4 = 3 then rvExec s { h := h, len := 4, raw := w.toNat } w.toNat
  else
    let c : RvCtx := { h := h, len := 2, raw := w.toNat % 65536 }
    match rvExpand c.raw with
    | some i => rvExec s c i
    | none => rvIllegal s c
/-- What a hart does on its turn: an interrupt; a fetch fault; a custom instruction (by `run`); the illegal-instruction
exception for an unassigned custom-0 word (R404); else a base instruction. -/
def hartStep (run : Instr → State → Host.Outcome State Fault Refusal) (h : Nat) (s : State) :
    Host.Outcome State Fault Refusal :=
  let p := s.pair h
  let off := { s with hartTurn := none }
  if p.state ≠ .active ∨ p.wait.isSome then .next off else
  match irqOf p with
  | some i => .next (trapHart off h (2 ^ 63 + i) 0)
  | none =>
    match hartFetch s p with
    | .error c => .next (trapHart off h c.1 c.2)
    | .ok w =>
      match decodeSupervisor w with
      | .ok i => run i s
      | .error _ => if w.extractLsb' 0 7 = 0x0B then .next (trapHart off h 2 w.toNat) else rvRun off h w

end Sys2Proof.Machine
end

