-- ==== Sys2Proof/Machine/Cycle.lean ====
section
/-!
DEFINITION. One step of the package: the next instruction of the group being issued, else the next occurrence that is
due, else a supervisor instruction, else the next group a partition issues, else a path that passes NOPs, else the next
clk (R34 to R40, R78, R445).
-/

namespace Sys2Proof.Machine

/-! Issuing a group (R80 to R83). -/

/-- The context of a member of a group. -/
def memberCtx (x : Warp) (w : Nat) (path : LaneMask) (m : Member) (first next : Nat) : IssueCtx :=
  { warp := w, path := path, pc := m.2.1, next := next, first := first, w0 := m.2.2.1, w1 := m.2.2.2, vE := x.vE, sE := x.sE,
    fpctl := x.fpctl, mctl := x.mctl }

/-- What issuing does to the path and the warp before its instructions act: the program counters name the word after
the group, the path's age is 0 and it may issue again in the next clk (R36, R37). -/
def markIssued (s : State) (w : Nat) (path : LaneMask) (next : Nat) : State :=
  let t := s.modWarp w (fun x =>
    { x.setPc path (fun _ => next) with
        age := merge path (List.replicate 32 0) x.age 0, aged := x.aged &&& ~~~path, moved := x.moved ||| path,
        laneWake := merge path (List.replicate 32 (s.clk + 1)) x.laneWake 0,
        issued := if x.lastIssue = s.clk then x.issued ||| path else path,
        lastIssue := s.clk, readySince := none, boost := false, formed := false,
        stopDone := x.stopDone.filter (fun e => !path.getLsbD e.1) })
  if s.agenda.any (fun e => e.2 == .priorityBoost w) then t else t.after 1024 (.priorityBoost w)

/-- The lanes in ACT, counted over the instructions of a group (R396). -/
def groupLanes (x : Warp) (path : LaneMask) (ms : List Member) : Nat :=
  ms.foldl (fun n m => n + laneCount (path &&& x.guardLanes (info m.1).guard)) 0

/-- BAR and BARW. -/
def isBarrier (i : Instr) : Bool :=
  match i with
  | .bar _ | .barw _ => true
  | _ => false

/-- Starting a group: its instructions wait in `pend` for the following steps, in slot order. -/
def startGroup (s : State) (w : Nat) (path : LaneMask) (ms : List Member) (next : Nat) : State :=
  let x := s.warpD w
  match ms with
  | [] => s
  | m :: _ =>
    let ctx := memberCtx x w path m m.2.1 next
    let s := if x.formed then acquire s w true else s
    let rows := ms.filterMap (fun m => issueRow s w x m.1)
    let s := markIssued (cachePacket s w ctx.pc) w path next
    let s := countFor (countFor s w 1 1) w 2 (groupLanes x path ms)
    let s := if ms.any (fun m => isBarrier m.1) then s else
      s.modWarp w (fun x => { x with isolated := x.isolated.filter (fun l => !path.getLsbD l) })
    let s := rows.foldl (fun s r => holdRow s w r.1 r.2) s
    let s := if ms.any (fun m => (releaseScope m.1).isSome) then s.modWarp w (fun x => { x with relMark := none }) else s
    { s with issue := some ctx, pend := ms }

/-- Issuing what a ready path can do; a group that is withheld leaves the path at its first word (R82). -/
def issuePath (s : State) (w : Nat) (p : ReadyPath) : State :=
  match p.2.2 with
  | .go ms next => startGroup s w p.1 ms next
  | .fault code fa =>
    let s := dropWalks s (fun k => k.src == w && k.kind == 2 && k.declined)
    let pc := if code = 2 ∨ code = 3 ∨ code = 4 then fa.toNat else p.2.1
    trapAtIssue s (memberCtx (s.warpD w) w p.1 (.nop, pc, 0, 0) pc pc) code fa
  | .wait | .miss _ | .skip _ | .stall .. => s

/-- After the last instruction of a group: a RETT returns if it can (R83), DBG_STEP if the path held the step lane and the warp has not
exited whole (R393), and a requested pre-emption
finds the boundary. (DEDUCED, log 28) -/
def groupEnd (s : State) : State :=
  match s.issue with
  | none => s
  | some c =>
    if !s.pend.isEmpty then s else
    let s := { s with issue := none }
    let s := if (s.warpD c.warp).holds.any Hold.isReturn then settle s c.warp else s
    let x := s.warpD c.warp
    let l := (s.core (coreOf c.warp)).dbg.stepLane
    let s := if x.tmode.getLsbD 5 && c.path.getLsbD l && x.exited != 0xFFFFFFFF then
        addPend s c.warp
          { code := 0x12, faddr := BitVec.ofNat 64 (x.pc.getD l 0), lanes := c.path, due := s.clk + 1, entry := none }
      else s
    if x.preemptReq then s.after 1 (.preempt c.warp) else s

/-- The outcome of an instruction, its group ended if it was the last. -/
def thenEnd (o : Host.Outcome State Fault Refusal) : Host.Outcome State Fault Refusal :=
  match o with
  | .next s => .next (groupEnd s)
  | .fault f => .fault f
  | .refused r => .refused r

/-- The state in which a member runs: the rest of the group waits, the context names the member. -/
def memberState (s : State) (m : Member) (rest : List Member) : State :=
  { s with
    pend := rest,
    issue := s.issue.map (fun c => { c with pc := m.2.1, w0 := m.2.2.1, w1 := m.2.2.2 }) }

/-- Running the next instruction of the group being issued. -/
def runMember (s : State) (m : Member) (rest : List Member) : Host.Outcome State Fault Refusal :=
  thenEnd (exec m.1 (memberState s m rest))

/-- Issuing a path and running the first instruction of its group. -/
def issueRun (s : State) (w : Nat) (p : ReadyPath) : Host.Outcome State Fault Refusal :=
  let t := issuePath s w p
  match t.pend with
  | [] => .next t
  | m :: rest => runMember t m rest

/-- A partition issues from its selected warp (R36 to R38): the primary path now, the secondary next if it can. -/
def issueWarp (s : State) (w : Nat) (x : Warp) (l : List ReadyPath) : Host.Outcome State Fault Refusal :=
  let ready := (readyPaths s w x).foldl (fun m p => m ||| p.1) 0
  let s := { s with partDone := s.partDone ||| BitVec.ofNat 4096 (2 ^ partIdx w) }.modWarp w (fun x => { x with passed := ready })
  match primaryPath x l with
  | none => .next s
  | some p => issueRun { s with second := (secondaryPath p l).map (fun q => (w, q.1)) } w p

/-- The secondary path, if it is still ready in this clk (R38): what the primary's group does to the groups after it does
not hold it (R200), and the two count as one issue of a row (R105). -/
def issueSecond (s : State) (w : Nat) (path : LaneMask) : Host.Outcome State Fault Refusal :=
  let s := { s with second := none }
  match mfind s.warps w, lanesOf path with
  | some x, l :: _ =>
    let pc := x.pc.getD l 0
    let st := if warpStopped s w x then .wait else pathFree s w x path pc
    if st.ready && (x.active &&& path == path) then issueRun s w (path, pc, st) else .next s
  | _, _ => .next s

/-- A path passes NOPs up to the packet's end in one clk, with no issue (R78). -/
def issueSkip (s : State) (w : Nat) (path : LaneMask) (pc next : Nat) : Host.Outcome State Fault Refusal :=
  let nop : Member := (.nop, pc, 0, 0)
  let s := cachePacket s w pc
  match exec .nop { s with issue := some (memberCtx (s.warpD w) w path nop pc next), pend := [] } with
  | .next s =>
    let s := { s with issue := none }
    .next (if (s.warpD w).preemptReq then s.after 1 (.preempt w) else s)
  | .fault f => .fault f
  | .refused r => .refused r

/-! The next clk. -/

/-- A ready path that did not issue is one clk older (R37). -/
def agePath (s : State) (w : Nat) (path : LaneMask) : State :=
  let x := s.warpD w
  let a := pathAge x path + 1
  let s := s.modWarp w (fun x => { x with age := merge path (List.replicate 32 a) x.age 0 })
  if a < 64 then s else
  match lanesOf path with
  | l :: _ => s.after 1 (.pathAgeLimit w l)
  | [] => s

/-- Some path of the warp is held by an empty register (R396 event 6). -/
def emptyWait (s : State) (w : Nat) (x : Warp) : Bool :=
  (pathsOf x).any (fun p => match atPc s w x p.2 with
    | .group ms _ => ms.any (fun m => mustWait x p.1 m.1)
    | _ => false)

/-- Whether someone counts such clk of the warp: one of its own sets, or a package-wide one (R396). -/
def emptyCounted (s : State) (x : Warp) : Bool :=
  let six := fun (g : Bool) (y : Warp) => y.ctr.any (fun c => c.2.started && c.2.event == 6 && (g || c.2.isGlobal))
  six true x || s.warps.any (fun e => six false e.2) || s.saved.any (fun v => six false v.warp)

/-- Whether a path of the warp waits to issue a release whose earlier accesses have drained (R171, R293). -/
def releaseWaits (s : State) (w : Nat) (x : Warp) : Bool :=
  relDrained x x.nextSeq && (pathsOf x).any (fun p => match atPc s w x p.2 with
    | .group ms _ => ms.any (fun m => (releaseScope m.1).isSome)
    | _ => false)
/-- A release of the warp begins once what stands before it has drained: it waits for the messages sent until then (R293). -/
def markRelease (s : State) (w : Nat) (x : Warp) : State :=
  if x.relMark.isNone && !s.msgs.any (fun m => coreOf m.warp == coreOf w) then s else
  let m := if releaseWaits s w x then some (x.relMark.getD s.nextId) else none
  if m = x.relMark then s else s.modWarp w (fun x => { x with relMark := m })

/-- The end of a clk for one warp: walks for its fetches, stop points, the ages of its paths (those ready now, and those that
were when the warp was selected and have been passed over, R37, R41), how long it has been ready
without issuing (a warp that has issued in this clk begins a new stretch in the next, R36),
its clk counters. A clk in which issue is withheld ages nothing (R41). -/
def tickWarp (s : State) (e : Nat × Warp) : State :=
  let w := e.1
  let x := s.warpD w
  let s := markRelease (countFor s w 0 1) w x
  let s := if emptyCounted s x && emptyWait s w x then countFor s w 6 1 else s
  if !mayIssue s w then
    s.modWarp w (fun x => { x with lastIssue := x.lastIssue + 1, readySince := x.readySince.map (· + 1) })
  else
    let s := (pathsOf x).foldl (fun s p =>
      let s := if atStop s w x p.1 p.2 then s.after 1 (.stopPoint w) else s
      match pathState s w x p.1 p.2 with
      | .miss va => missWalk s w (fetchSeq va) va x.asid 2 4
      | .stall va asid kind need => missWalk s w issueSeq va asid kind need
      | _ => s) s
    let l := readyPaths s w x
    let behind := (pathsOf x).filter (fun p => !l.any (fun q => q.1 == p.1) && p.1 &&& x.passed &&& ~~~x.moved == p.1)
    let s := (l.map (·.1) ++ behind.map (·.1)).foldl (fun s p => agePath s w p) s
    s.modWarp w (fun x =>
      { x with readySince := if l.isEmpty then none else match x.readySince with
        | some t => some t
        | none => some (if x.lastIssue = s.clk ∧ x.issued ≠ 0 then s.clk + 1 else s.clk) })

/-- The heartbeat ticks that fall on this clk (R173): every 128 clk for the package, at each multiple of 4,096 ns of
GTIME for the domain. (DESIGN CHOICE, log 27) -/
def heartbeats (s : State) (before : Nat) : State :=
  let s := if (s.clk + s.beat) % 128 = 0 then s.after 0 (.heartbeatTick false) else s
  if s.gtime / 4096 = before / 4096 then s else s.after 0 (.heartbeatTick true)

/-- The next clk. (DESIGN CHOICE, log 1) -/
def tick (s : State) : State :=
  let g := s.gtime
  let s := s.warps.foldl tickWarp s
  let s := (s.cores.map (·.1)).foldl rmeTick (ringTick (hqsTick s))
  let s := s.pairs.foldl wakeHart s
  let s := { s with clk := s.clk + 1, partDone := 0, warps := s.warps.map (fun (e : Nat × Warp) => (e.1, { e.2 with moved := 0, passed := 0 })) }
  heartbeats (slewTick (s.cores.foldl (fun s e => tickTrigger (sampleTick s e) e) s)) g

/-! The step. -/

/-- The first occurrence whose clk has come. -/
def dueEvent (s : State) : Option (Event × State) :=
  match s.agenda with
  | [] => none
  | (t, e) :: r => if t ≤ s.clk then some (e, { s with agenda := r }) else none

/-- When nothing is due and no group is being issued: a supervisor instruction, a secondary path, a partition's choice,
or the next clk. (DESIGN CHOICE, log 1) -/
def issueOrTick (s : State) : Host.Outcome State Fault Refusal :=
  match s.hartTurn with
  | some h => hartStep exec h s
  | none =>
    match s.second with
    | some (w, path) => issueSecond s w path
    | none =>
      match selectWarp s with
      | some (w, x, l) => issueWarp s w x l
      | none =>
        match selectSkip s with
        | some (w, path, pc, next) => issueSkip s w path pc next
        | none => .next (tick s)

/-- One step. (DESIGN CHOICE, log 1) -/
def stepOnce (s : State) : Host.Outcome State Fault Refusal :=
  match s.pend with
  | m :: rest => runMember s m rest
  | [] =>
    match dueEvent s with
    | some (e, t) => runEvent e t
    | none => issueOrTick s

end Sys2Proof.Machine
end

