-- ==== Sys2Proof/Machine/Step.lean ====
section
/-!
DEFINITION. The step, and a state whose very next step runs a given instruction.
-/

namespace Sys2Proof.Machine

/-- One step of the machine. -/
def step (s : State) : Host.Outcome State Fault Refusal := stepOnce s

/-- The bytes of an instruction given as bits, up to a whole packet. -/
def fetchBytes (w : Nat) : List Byte := (List.range 12).map (fun i => BitVec.ofNat 8 (w >>> (8 * i)))
/-- The page the program of `withFetchWord` lies in, mapped where it is; r, w and x. Page 0, which the warp's registers name, is held
beside it. (DESIGN CHOICE, log 12) -/
def fetchPage (s : State) : TlbEntry :=
  { asid := 0, base := 0x10000, size := 65536, pa := 0x10000, dev := s.device, grain := 2, wm := false, x := true, w := true,
    r := true }
/-- A launched warp at that program: every register declared, every lane LIVE (R20). (DESIGN CHOICE, log 12) -/
def fetchWarp : Warp :=
  { Warp.fresh with
    nv := 256, ns := 384, codeBase := 0x10000, pc := List.replicate 32 0x10000, active := 0xFFFFFFFF, exited := 0 }
/-- A physical place holding bytes, and no copy of it anywhere else. -/
def placeBytes (s : State) (pa : Nat) (bs : List Byte) : State :=
  { s with
    hbm := memWrite s.hbm pa bs
    l2 := s.l2.filter (fun (l : Nat × L2Line) => !(pa / 128 == l.1))
    words := s.words.filter (fun (x : Nat × WordState) => !(decide (pa / 4 ≤ x.1) && decide (x.1 < pa / 4 + 3)))
    homeBad := [] }

/-- The instruction stored where the next step fetches, as a program is loaded from outside. A word that a warp's decoder
reads, and any other but a supervisor's custom word: slot 0 of partition 0 of core 0 holds a warp at a page with it, and
nothing else is due or being issued. A supervisor's custom word: pair 0 has its turn, in M mode at physical address 0.
(DESIGN CHOICE, log 12) -/
def State.withFetchWord (s : State) (_nbits w : Nat) : State :=
  let s := { s with agenda := [], issue := none, pend := [], second := none, partDone := 0, hartTurn := none, stopped := [] }
  let lo := BitVec.ofNat 32 w
  let warp := (decode lo (some (BitVec.ofNat 32 (w >>> 32)))).toOption.isSome
  if !warp && (decodeSupervisor lo).toOption.isSome then
    { placeBytes s 0 (fetchBytes w) with
      hartTurn := some 0
      pairs := mset s.pairs 0 { Pair.fresh .active with lastKick := s.gtime } }
  else
    { placeBytes s 0x10000 (fetchBytes w) with
      warps := [(0, fetchWarp)]
      cores := mset s.cores 0 { Core.fresh with tlb := [fetchPage s, { fetchPage s with base := 0, pa := 0 }] }
      dies := mmod s.dies 0 (fun d => { d with withheld := 0, resetting := false }) }

end Sys2Proof.Machine
end

