-- ==== Sys2Proof/Safety.lean ====
section
/-!
DEFINITION. The terms claims are stated in: canonical memories, the boot measurement, a warp instruction at issue and
what it leaves behind, and the arithmetic of R112 written with bit vectors.
-/

namespace Sys2Proof.Machine

/-- The memories a byte access reads are in canonical form. -/
def State.memWf (s : State) : Bool :=
  Memory.wf s.hbm && Memory.wf s.flash && s.dies.all (fun (d : Nat × Die) => Memory.wf d.2.sram)

/-- The boot measurement is its reset value, or the measurement of the image the flash boots (R410, R411). -/
def State.Measured (s : State) : Prop :=
  s.bootm = List.replicate 32 0 ∨ ∃ b, bootChoice s = some b ∧ s.bootm = sm3 (b.hdr ++ b.image)

end Sys2Proof.Machine

namespace Sys2Proof.Claims

open Sys2Proof.Machine

/-- Warp `x` is issuing: `c` is the context of the instruction. -/
structure Issuing (s : State) (c : IssueCtx) (x : Warp) : Prop where
  ctx  : s.issue = some c
  warp : mfind s.warps c.warp = some x

/-- The flight of a result of fixed latency. -/
def resultFlight (s : State) (c : IssueCtx) (x : Warp) (act : LaneMask) (ws : List RegWrite) (lat : Nat)
    (flags : List Nat) : Flight :=
  { seq := x.nextSeq, pc := c.pc, w0 := c.w0, w1 := c.w1, lanes := act, kind := .result, writes := ws, acc := [],
    flags := flags, due := s.clk + lat, ucap := 0, ord := 0, fused := false, hmode := x.tmode.getLsbD 0 }

/-- One more result of the warp is on its way (R28, R32): its destinations are empty, it lands `lat` clk from now, and
nothing else of the machine differs from `s`. -/
def inFlight (s : State) (c : IssueCtx) (x : Warp) (act : LaneMask) (ws : List RegWrite) (lat : Nat)
    (flags : List Nat) : State :=
  { s with
    warps := mmod s.warps c.warp (fun _ =>
      { x.emptyAll ws with flights := x.flights ++ [resultFlight s c x act ws lat flags], nextSeq := x.nextSeq + 1 })
    agenda := agendaPut s.agenda (s.clk + lat) (.resultWriteback c.warp x.nextSeq) }

/-- No flag is raised that FPCTL enables (R53), or the warp is in handler mode. -/
def Untrapped (c : IssueCtx) (x : Warp) (flags : List Nat) : Prop :=
  x.tmode.getLsbD 0 = true ∨ ∀ v ∈ flags, v &&& natBits c.fpctl.toNat 13 8 = 0

/-- The values of a vector register: `v` in the lanes of the mask, zero elsewhere. -/
def lanesIn (m : LaneMask) (v : Nat → Word) : LaneVec := laneVec (fun l => if m.getLsbD l then v l else 0)

/-- `i` is a lane-wise instruction without status flags: with some lane in ACT and no empty source that traps (R29), it
completes with `v` of `n` registers at `d` on its way. -/
def LaneResult (i : Instr) (d n lat : Nat) (v : Warp → Nat → Nat) : Prop :=
  ∀ s c x, Issuing s c x → feCause c x i = none → c.act x i ≠ 0 →
    exec i s = .next (inFlight s c x (c.act x i)
      (vWrites n d (c.act x i) (fun l => if (c.act x i).getLsbD l then v x l else 0)) lat (List.replicate 32 0))

/-- `i` is a lane-wise floating-point instruction: the same with its flags, and no enabled trap. -/
def FloatResult (i : Instr) (d n lat : Nat) (v : IssueCtx → Warp → Nat → FRes) : Prop :=
  ∀ s c x, Issuing s c x → feCause c x i = none → c.act x i ≠ 0 →
    let r := allLanes.map (fun l => if (c.act x i).getLsbD l then v c x l else ⟨0, 0⟩)
    Untrapped c x (r.map (·.flags)) →
    exec i s = .next (inFlight s c x (c.act x i) (vWrites n d (c.act x i) (fun l => (r.getD l ⟨0, 0⟩).bits)) lat
      (r.map (·.flags)))

/-- `i` is a lane-wise comparison or vote: predicate `p` in the lanes of ACT is on its way. -/
def PredResult (i : Instr) (p lat : Nat) (v : IssueCtx → Warp → Nat → Bool × Nat) : Prop :=
  ∀ s c x, Issuing s c x → feCause c x i = none → c.act x i ≠ 0 →
    let r := allLanes.map (fun l => if (c.act x i).getLsbD l then v c x l else (false, 0))
    Untrapped c x (r.map (·.2)) →
    exec i s = .next (inFlight s c x (c.act x i) [.p p (c.act x i) (maskOf (fun l => (r.getD l (false, 0)).1))] lat
      (r.map (·.2)))

/-- `i` is a uniform instruction: with ACT not empty, one write is on its way (R130). -/
def UniformResult (i : Instr) (lat : Nat) (v : Warp → List RegWrite) : Prop :=
  ∀ s c x, Issuing s c x → feCause c x i = none → c.act x i ≠ 0 →
    exec i s = .next (inFlight s c x (c.act x i) (v x) lat [])

/-! The arithmetic of R112 with bit vectors. -/

/-- Src: the low N bits of a pattern, signed or not. -/
def src (n : Nat) (sg : Bool) (a : Nat) : Int := if sg then (BitVec.ofNat n a).toInt else (BitVec.ofNat n a).toNat
/-- Put: the low N bits, extended by the type's signedness to 32 bits, or all 64. -/
def put (n : Nat) (sg : Bool) (v : Int) : Nat :=
  if n = 64 then (BitVec.ofInt 64 v).toNat
  else if sg then ((BitVec.ofInt n v).signExtend 32).toNat else (BitVec.ofInt n v).toNat
/-- Clamp: to the range of the type where .sat is given (R10). -/
def clamp (n : Nat) (sg sat : Bool) (v : Int) : Int :=
  if !sat then v
  else if sg then max (-(2 ^ (n - 1) : Int)) (min v (2 ^ (n - 1) - 1)) else max 0 (min v (2 ^ n - 1))
/-- A lane operand of a long form as an integer of its type. -/
def opA (f : LongF) (x : Warp) (l : Nat) : Int := src (tyBits f.ty) (tySigned f.ty) (x.vn (tyRegs f.ty) f.a.toNat l)
def opBI (f : LongF) (x : Warp) (l : Nat) : Int := src (tyBits f.ty) (tySigned f.ty) (x.opB f (tyRegs f.ty) l)
def opT (f : LongF) (x : Warp) (l : Nat) : Int := src (tyBits f.ty) (tySigned f.ty) (x.vn (tyRegs f.ty) f.t.toNat l)
/-- The low N bits of the first operand. -/
def bitsA (f : LongF) (x : Warp) (l : Nat) : Nat := x.vn (tyRegs f.ty) f.a.toNat l % 2 ^ tyBits f.ty
def bitsB (f : LongF) (x : Warp) (l : Nat) : Nat := x.opB f (tyRegs f.ty) l % 2 ^ tyBits f.ty
/-- A result of the form's type. -/
def res (f : LongF) (v : Int) : Nat := put (tyBits f.ty) (tySigned f.ty) v
/-- The same, clamped where M[2] says .sat. -/
def resSat (f : LongF) (v : Int) : Nat := put (tyBits f.ty) (tySigned f.ty) (clamp (tyBits f.ty) (tySigned f.ty) (f.m.getLsbD 2) v)
/-- The number of ones among the low `n` bits. -/
def ones (n a : Nat) : Nat := ((List.range n).filter (fun i => a.testBit i)).length

/-- The lane SHFL names (R152): the operand, below, above, or crosswise. -/
def shflFrom (mode l k : Nat) : Int :=
  if mode = 0 then k else if mode = 1 then (l : Int) - k else if mode = 2 then (l : Int) + k else ((l ^^^ k : Nat) : Int)
/-- What SHFL gives lane `l`: register `a` of lane `j` if that lane is in ACT, else its own. -/
def shuffled (act : LaneMask) (x : Warp) (a : Nat) (j : Int) (l : Nat) : FRes :=
  if 0 ≤ j ∧ j ≤ 31 ∧ act.getLsbD j.toNat = true then ⟨(x.v a j.toNat).toNat, 0⟩ else ⟨(x.v a l).toNat, 0⟩

/-! Frames. -/

/-- Memory stands as it did: HBM4E, L2, word states, versions, every operand store, L1 and SRAM. -/
structure MemSame (s t : State) : Prop where
  hbm   : t.hbm = s.hbm
  l2    : t.l2 = s.l2
  words : t.words = s.words
  vers  : t.vers = s.vers
  cores : ∀ c, (t.core c).opst = (s.core c).opst ∧ (t.core c).l1 = (s.core c).l1
  sram  : ∀ d, (t.die d).sram = (s.die d).sram

/-- No registration is on its way (R272): no read or write of memory has another core's to handle first (R298). -/
def NoRegistration (s : State) : Prop := ∀ m ∈ s.msgs, ∀ word core, m.body ≠ .register word core

/-- No warp but `w` differs. -/
def OthersSame (s t : State) (w : Nat) : Prop := ∀ v, v ≠ w → mfind t.warps v = mfind s.warps v

/-- The registers of a warp, its special registers and the state of its lanes stand as they did. -/
structure RegsSame (x y : Warp) : Prop where
  vreg : y.vreg = x.vreg
  sreg : y.sreg = x.sreg
  pred : y.pred = x.pred
  upred : y.upred = x.upred
  tile : y.tile = x.tile
  fpstat : y.fpstat = x.fpstat
  fpctl : y.fpctl = x.fpctl
  prio : y.prio = x.prio
  tmode : y.tmode = x.tmode
  trapbase : y.trapbase = x.trapbase
  cause : y.cause = x.cause
  faddr : y.faddr = x.faddr
  mctl : y.mctl = x.mctl
  mstat : y.mstat = x.mstat
  pc : y.pc = x.pc
  active : y.active = x.active
  waiting : y.waiting = x.waiting
  exited : y.exited = x.exited

/-- Warp `x` in slot `w` waits for the token of command `id` and for nothing else, outside handler mode. -/
structure Waits (s : State) (w : Nat) (x : Warp) (id : Nat) : Prop where
  slot : mfind s.warps w = some x
  slots : w < 49152
  first : s.warps.find? (fun e => e.2.tokens.any (fun t => t.id == id)) = some (w, x)
  holds : x.holds = []
  free : x.captured = false
  mode : x.tmode.getLsbD 0 = false

/-- Flight `f` of warp `x` may perform now, and the warp has no other reason to wait: nothing older still reads, its stores have
been acknowledged, no fence, barrier or cause waits, and the debugger does not log its writes. -/
structure MayPerform (s : State) (w : Nat) (x : Warp) (f : Flight) : Prop where
  slot : mfind s.warps w = some x
  slots : w < 49152
  flight : x.flights.find? (fun g => g.seq == f.seq) = some f
  due : f.due ≤ s.clk
  oldest : loadsDone x f.seq = true
  plain : f.ord = 0
  storeq : x.storeq = []
  unacked : x.unacked = []
  holds : x.holds = []
  pend : x.pend = []
  undo : x.tmode.getLsbD 4 = false

/-- The token has filled: uniform register `r` holds `v` and is full, the other registers stand. -/
def Filled (t : State) (w : Nat) (x : Warp) (r v id : Nat) : Prop :=
  ∃ y, mfind t.warps w = some y ∧ y.s r = BitVec.ofNat 32 v ∧ sEmptyIn y.sE r = false ∧
    (∀ q, q ≠ r → y.s q = x.s q ∧ sEmptyIn y.sE q = sEmptyIn x.sE q) ∧ y.tokens = x.tokens.filter (fun k => k.id != id) ∧
    y.vreg = x.vreg ∧ y.pred = x.pred ∧ y.tile = x.tile ∧ y.pc = x.pc

/-- The address of a lane under a memory instruction's operands (R157 to R160). -/
def laneAddr (h : Shape) (x : Warp) (l : Nat) : Nat := h.addr (h.base x) (h.index x l)
/-- The space it reaches, and whether a peer it names exists. -/
def spaceHit (h : Shape) (s : State) (c : IssueCtx) (x : Warp) : Space × Bool := h.spaceOf s c.warp x (h.base x)

/-- A reading instruction completes its issue (R162, R167, R177): with every lane of ACT aligned and in range, one
flight with the lanes' addresses is on its way, its destination empty; registers, memory and other warps stand. -/
def ReadIssues (i : Instr) (h : Shape) (kind : State → IssueCtx → Warp → List Nat → Space → Pending) (ev : Nat → Nat → Event) : Prop :=
  ∀ s c x, Issuing s c x → feCause c x i = none → c.act x i ≠ 0 →
    (∀ l ∈ lanesOf (c.act x i), laneCause s c.warp x h (spaceHit h s c x).1 (spaceHit h s c x).2 true
      ((spaceHit h s c x).1 == .spad && !(kind s c x [] (spaceHit h s c x).1).isAtom) (laneAddr h x l) = none) →
    ∃ t y f, exec i s = .next t ∧ mfind t.warps c.warp = some y ∧ y.flights = x.flights ++ [f] ∧
      y.nextSeq = x.nextSeq + 1 ∧ f.seq = x.nextSeq ∧ f.lanes = c.act x i ∧
      f.kind = kind s c x (lanesOf (c.act x i)) (spaceHit h s c x).1 ∧
      f.acc.map (fun a => (a.lane, a.addr)) = (lanesOf (c.act x i)).map (fun l => (l, laneAddr h x l)) ∧
      vEmptyIn y.vE h.d &&& c.act x i = c.act x i ∧ (f.due, ev c.warp x.nextSeq) ∈ t.agenda ∧
      y.storeq = x.storeq ∧ RegsSame x y ∧ OthersSame s t c.warp ∧ MemSame s t

/-- A storing instruction completes its issue (R168): with every lane of ACT in range and writable, one entry with the
lanes' addresses and bytes is at the end of the store queue; nothing is stored yet. -/
def StoreIssues (i : Instr) (h : Shape) (kind : StoreKind) (data : Warp → Nat → List Byte) : Prop :=
  ∀ s c x, Issuing s c x → feCause c x i = none → c.act x i ≠ 0 →
    (∀ l ∈ lanesOf (c.act x i), laneCause s c.warp x h (spaceHit h s c x).1 (spaceHit h s c x).2 false true
      (laneAddr h x l) = none ∧ stashCause s c.warp x (spaceHit h s c x).1 (laneAddr h x l) = none) →
    ∃ t y e, exec i s = .next t ∧ mfind t.warps c.warp = some y ∧ y.storeq = x.storeq ++ [e] ∧ e.kind = kind ∧
      e.space = (spaceHit h s c x).1 ∧ e.size = h.size ∧ e.stuck = false ∧
      e.acc = (lanesOf (c.act x i)).map (fun l => { lane := l, addr := laneAddr h x l, bytes := data x l }) ∧
      (s.clk + 1, Event.storeQueueExit c.warp) ∈ t.agenda ∧
      y.flights = x.flights ∧ RegsSame x y ∧ OthersSame s t c.warp ∧ MemSame s t

/-- Whether a journal record is of this change, still to take effect. -/
def isRecord (kind : Nat) (args : List Nat) (r : JournalRec) : Bool := r.kind == kind && r.args == args && !r.applied
/-- The owner of a duty has the record of a change in both copies (R420). -/
def Recorded (s : State) (die duty kind : Nat) (args : List Nat) : Prop :=
  ∃ h r, mget (s.die die).duties duty 0 = h + 1 ∧ (s.pair h).journal.find? (isRecord kind args) = some r ∧ r.mirrored = true
/-- The record taking effect: the same state with it marked. -/
def marked (s : State) (die duty kind : Nat) (args : List Nat) : State :=
  s.modPair (mget (s.die die).duties duty 0 - 1) (fun p =>
    { p with journal := p.journal.map (fun r => if isRecord kind args r then { r with applied := true } else r) })
/-- The change is recorded first (R420): the record is on its way to both copies, `ev` comes again, nothing else changes. -/
def Records (i : Instr) (s : State) (die duty kind : Nat) (args : List Nat) (ev : Event) : Prop :=
  ∀ h p, mget (s.die die).duties duty 0 = h + 1 → mfind s.pairs h = some p → p.journal.find? (isRecord kind args) = none →
    exec i s = .next (((s.modPair h (fun _ => { p with journal := p.journal ++ [⟨kind, args, false, false⟩] })).after s.lat.hop
      (.journalMirror h)).after s.lat.hop ev)

end Sys2Proof.Claims
end

