-- ==== Sys2Proof/Certificates/Slice0/Obligations.lean ====
section
/-!
DEFINITION. The statements put to the provers. The terms are those of Safety.lean.
-/

open Sys2Proof Sys2Proof.Machine Sys2Proof.Claims

/-! Integers (R112 to R126). -/

/-- The short integer forms (R117 to R120): 32-bit lane arithmetic, wrapping. -/
def Obligations.ShortInteger : Prop := ∀ f : ShortV,
  let one := fun (i : Instr) (lat : Nat) (v : Word → Word → Word → Word) =>
    LaneResult i f.d.toNat 1 lat (fun x l => (v (x.v f.a.toNat l) (x.v f.b.toNat l) (x.v f.d.toNat l)).toNat)
  one (.iaddShort f) 1 (fun a b _ => a + b) ∧
  one (.isubShort f) 1 (fun a b _ => a - b) ∧
  one (.imulShort f) 4 (fun a b _ => a * b) ∧
  one (.imulhiS32Short f) 4 (fun a b _ => BitVec.ofInt 32 (a.toInt * b.toInt / 2 ^ 32)) ∧
  one (.imulhiZ32Short f) 4 (fun a b _ => BitVec.ofNat 32 (a.toNat * b.toNat / 2 ^ 32)) ∧
  one (.imadShort f) 4 (fun a b d => a * b + d) ∧
  one (.iminS32Short f) 1 (fun a b _ => if a.slt b then a else b) ∧
  one (.iminZ32Short f) 1 (fun a b _ => if a.ult b then a else b) ∧
  one (.imaxS32Short f) 1 (fun a b _ => if a.slt b then b else a) ∧
  one (.imaxZ32Short f) 1 (fun a b _ => if a.ult b then b else a) ∧
  one (.iabsShort f) 1 (fun a _ _ => if a.slt 0 then -a else a) ∧
  one (.andShort f) 1 (fun a b _ => a &&& b) ∧
  one (.orShort f) 1 (fun a b _ => a ||| b) ∧
  one (.xorShort f) 1 (fun a b _ => a ^^^ b) ∧
  one (.shlShort f) 1 (fun a b _ => a <<< (b.toNat % 256)) ∧
  one (.shrShort f) 1 (fun a b _ => a >>> (b.toNat % 256)) ∧
  one (.sarShort f) 1 (fun a b _ => a.sshiftRight (b.toNat % 256)) ∧
  one (.popcShort f) 1 (fun a _ _ => BitVec.ofNat 32 (ones 32 a.toNat)) ∧
  one (.clzShort f) 1 (fun a _ _ => a.clz) ∧
  one (.brevShort f) 1 (fun a _ _ => a.reverse)

/-- The long integer forms (R117 to R119): exact in the type's integers, clamped with .sat, narrowed once. -/
def Obligations.LongInteger : Prop := ∀ f : LongF,
  let lat := fun (a b : Nat) => if tyBits f.ty = 64 then b else a
  let n := tyRegs f.ty
  let is := fun (i : Instr) (t : Nat) (v : Warp → Nat → Nat) => LaneResult i f.d.toNat n t v
  is (.iadd f) (lat 1 2) (fun x l => resSat f (opA f x l + opBI f x l)) ∧
  is (.isub f) (lat 1 2) (fun x l => resSat f (opA f x l - opBI f x l)) ∧
  is (.imul f) (lat 4 8) (fun x l => resSat f (opA f x l * opBI f x l)) ∧
  is (.imulhi f) (lat 4 8) (fun x l => res f (opA f x l * opBI f x l / 2 ^ tyBits f.ty)) ∧
  is (.imad f) (lat 4 8) (fun x l => resSat f (opA f x l * opBI f x l + opT f x l)) ∧
  is (.imin f) (lat 1 2) (fun x l => res f (min (opA f x l) (opBI f x l))) ∧
  is (.imax f) (lat 1 2) (fun x l => res f (max (opA f x l) (opBI f x l))) ∧
  is (.iabs f) (lat 1 2) (fun x l => resSat f (if tySigned f.ty then (opA f x l).natAbs else opA f x l)) ∧
  is (.and f) (lat 1 2) (fun x l => res f (bitsA f x l &&& bitsB f x l : Nat)) ∧
  is (.or f) (lat 1 2) (fun x l => res f (bitsA f x l ||| bitsB f x l : Nat)) ∧
  is (.xor f) (lat 1 2) (fun x l => res f (bitsA f x l ^^^ bitsB f x l : Nat)) ∧
  is (.shl f) (lat 1 2) (fun x l => res f (bitsA f x l * 2 ^ (x.opB f 1 l % 256) : Nat)) ∧
  is (.shr f) (lat 1 2) (fun x l => res f (bitsA f x l / 2 ^ (x.opB f 1 l % 256) : Nat)) ∧
  is (.sar f) (lat 1 2) (fun x l => res f (src (tyBits f.ty) true (bitsA f x l) / 2 ^ (x.opB f 1 l % 256)))

/-- Bit counts, bit fields, LEA, selection and comparison (R120 to R124). -/
def Obligations.LongBits : Prop := ∀ f : LongF,
  let n := tyRegs f.ty
  let N := tyBits f.ty
  let t := if N = 64 then 2 else 1
  LaneResult (.popc f) f.d.toNat 1 t (fun x l => ones N (bitsA f x l)) ∧
  LaneResult (.clz f) f.d.toNat 1 t (fun x l => (BitVec.ofNat N (bitsA f x l)).clz.toNat) ∧
  LaneResult (.brev f) f.d.toNat n t (fun x l => (BitVec.ofNat N (bitsA f x l)).reverse.toNat) ∧
  LaneResult (.bfe f) f.d.toNat n t (fun x l =>
    let pos := x.opB f 1 l % 256
    let len := x.opB f 1 l / 256 % 256
    if len = 0 then 0 else res f (src len (tySigned f.ty) ((opA f x l / 2 ^ pos) % 2 ^ len).toNat)) ∧
  LaneResult (.bfi f) f.d.toNat n t (fun x l =>
    let pos := x.opB f 1 l % 256
    let len := x.opB f 1 l / 256 % 256
    let a := x.vn n f.a.toNat l
    let c := x.vn n f.t.toNat l
    res f ((List.range N).foldl (fun (r : Nat) j =>
      r + (if (if pos ≤ j ∧ j < pos + len then a.testBit (j - pos) else c.testBit j) then 2 ^ j else 0)) 0 : Nat)) ∧
  LaneResult (.lea f) f.d.toNat n t (fun x l => (x.vn n f.a.toNat l + x.opB f 1 l * 2 ^ (f.m.toNat % 8)) % 2 ^ N) ∧
  LaneResult (.sel f) f.d.toNat 1 1 (fun x l => if (x.p f.t.toNat).getLsbD l then x.vn 1 f.a.toNat l else x.opB f 1 l) ∧
  PredResult (.isetp f) f.d.toNat t (fun _ x l =>
    (match f.m.toNat % 8 with
      | 0 => decide (opA f x l = opBI f x l)
      | 1 => decide (opA f x l ≠ opBI f x l)
      | 2 => decide (opA f x l < opBI f x l)
      | 3 => decide (opA f x l ≤ opBI f x l)
      | 4 => decide (opA f x l > opBI f x l)
      | _ => decide (opA f x l ≥ opBI f x l), 0))

/-- The vector immediate forms (R125): 32 bits, the immediate as the second operand. -/
def Obligations.ImmediateInteger : Prop := ∀ f : ImmV,
  let one := fun (i : Instr) (lat : Nat) (v : Word → Word → Word) =>
    LaneResult i f.d.toNat 1 lat (fun x l => (v (x.v f.a.toNat l) f.imm).toNat)
  one (.iaddImm f) 1 (fun a b => a + b) ∧
  one (.imulImm f) 4 (fun a b => a * b) ∧
  one (.andImm f) 1 (fun a b => a &&& b) ∧
  one (.orImm f) 1 (fun a b => a ||| b) ∧
  one (.xorImm f) 1 (fun a b => a ^^^ b) ∧
  one (.shlImm f) 1 (fun a b => a <<< (b.toNat % 256)) ∧
  one (.shrImm f) 1 (fun a b => a >>> (b.toNat % 256)) ∧
  one (.sarImm f) 1 (fun a b => a.sshiftRight (b.toNat % 256))

/-! Floating point (R136 to R150). -/

/-- FP32 sums, products, fused products, minima, maxima, comparison and rounding (R138 to R142). -/
def Obligations.FloatArithmetic : Prop :=
  (∀ f : ShortV,
    let one := fun (i : Instr) (v : Bool → Nat → Nat → FRes) => FloatResult i f.d.toNat 1 4 (fun c x l =>
      v (c.fpctl.getLsbD 0) (x.v f.a.toNat l).toNat (x.v f.b.toNat l).toNat)
    one (.faddShort f) (fp32.add .rn) ∧ one (.fsubShort f) (fp32.sub .rn) ∧ one (.fmulShort f) (fp32.mul .rn) ∧
    one (.fminShort f) (fp32.minmax true) ∧ one (.fmaxShort f) (fp32.minmax false)) ∧
  (∀ f : LongF,
    let one := fun (i : Instr) (v : RMode → Bool → Nat → Nat → FRes) => FloatResult i f.d.toNat 1 4 (fun c x l =>
      v (RMode.of (f.m.toNat % 4)) (c.fpctl.getLsbD 0) (x.v f.a.toNat l).toNat (x.opB f 1 l))
    one (.fadd f) fp32.add ∧ one (.fsub f) fp32.sub ∧ one (.fmul f) fp32.mul ∧
    one (.fmin f) (fun _ => fp32.minmax true) ∧ one (.fmax f) (fun _ => fp32.minmax false) ∧
    one (.frnd f) (fun r z a _ => frndOp r z a) ∧
    PredResult (.fsetp f) f.d.toNat 4 (fun c x l =>
      fcompare f.lo (c.fpctl.getLsbD 0) (x.v f.a.toNat l).toNat (x.opB f 1 l))) ∧
  (∀ f : ImmV,
    let one := fun (i : Instr) (v : Bool → Nat → Nat → FRes) => FloatResult i f.d.toNat 1 4 (fun c x l =>
      v (c.fpctl.getLsbD 0) (x.v f.a.toNat l).toNat f.imm.toNat)
    one (.faddImm f) (fp32.add .rn) ∧ one (.fmulImm f) (fp32.mul .rn))

/-- FFMA rounds once (R139); if it ends its group it is noted for an EX2 in the next clk (R149). -/
def Obligations.FusedMultiplyAdd : Prop :=
  let note := fun (s t : State) (c : IssueCtx) (x : Warp) (i : Instr) (d : Nat) =>
    if s.pend = [] then t.modWarp c.warp (fun y => { y with ffmas := x.ffmas.filter (fun m => m.clk == s.clk) ++
      [⟨s.clk, x.nextSeq, c.pc, c.pc + 4 * i.words, c.path, guardCode (info i).guard, c.act x i, d⟩] }) else t
  let fused := fun (i : Instr) (d : Nat) (v : IssueCtx → Warp → Nat → FRes) =>
    ∀ s c x, Issuing s c x → feCause c x i = none → c.act x i ≠ 0 →
      let r := allLanes.map (fun l => if (c.act x i).getLsbD l then v c x l else ⟨0, 0⟩)
      Untrapped c x (r.map (·.flags)) →
      exec i s = .next (note s (inFlight s c x (c.act x i) (vWrites 1 d (c.act x i) (fun l => (r.getD l ⟨0, 0⟩).bits)) 4
        (r.map (·.flags))) c x i d)
  (∀ f : ShortV, fused (.ffmaShort f) f.d.toNat (fun c x l => fp32.fma .rn (c.fpctl.getLsbD 0) (x.v f.a.toNat l).toNat
    (x.v f.b.toNat l).toNat (x.v f.d.toNat l).toNat)) ∧
  (∀ f : LongF, fused (.ffma f) f.d.toNat (fun c x l => fp32.fma (RMode.of (f.m.toNat % 4)) (c.fpctl.getLsbD 0)
    (x.v f.a.toNat l).toNat (x.opB f 1 l) (x.v f.t.toNat l).toNat)) ∧
  (∀ f : ImmV, fused (.ffmaImm f) f.d.toNat (fun c x l => fp32.fma .rn (c.fpctl.getLsbD 0) (x.v f.a.toNat l).toNat
    f.imm.toNat (x.v f.d.toNat l).toNat))

/-- Packed half precision (R143): two 16-bit lanes in one register, each rounded in its own format, their flags together. -/
def Obligations.PackedHalf : Prop :=
  let two := fun (g : Nat → Nat → Nat → FRes) (a b d : Nat) =>
    let lo := g (a % 65536) (b % 65536) (d % 65536)
    let hi := g (a / 65536 % 65536) (b / 65536 % 65536) (d / 65536 % 65536)
    (⟨hi.bits * 65536 + lo.bits, hi.flags ||| lo.flags⟩ : FRes)
  let short := fun (i : ShortV → Instr) (g : Bool → Nat → Nat → Nat → FRes) => ∀ f : ShortV,
    FloatResult (i f) f.d.toNat 1 4 (fun c x l => two (g (c.fpctl.getLsbD 0)) (x.v f.a.toNat l).toNat
      (x.v f.b.toNat l).toNat (x.v f.d.toNat l).toNat)
  let long := fun (i : LongF → Instr) (g : FFmt → RMode → Bool → Nat → Nat → Nat → FRes) => ∀ f : LongF,
    FloatResult (i f) f.d.toNat 1 4 (fun c x l => two (g (if f.m.getLsbD 3 then fp16 else bf16) (RMode.of (f.m.toNat % 4))
      (c.fpctl.getLsbD 0)) (x.v f.a.toNat l).toNat (x.opB f 1 l) (x.v f.t.toNat l).toNat)
  short .hadd2Bf16Short (fun z a b _ => bf16.add .rn z a b) ∧ short .hadd2F16Short (fun z a b _ => fp16.add .rn z a b) ∧
  short .hmul2Bf16Short (fun z a b _ => bf16.mul .rn z a b) ∧ short .hmul2F16Short (fun z a b _ => fp16.mul .rn z a b) ∧
  short .hfma2Bf16Short (fun z a b d => bf16.fma .rn z a b d) ∧ short .hfma2F16Short (fun z a b d => fp16.fma .rn z a b d) ∧
  long .hadd2 (fun t r z a b _ => t.add r z a b) ∧ long .hmul2 (fun t r z a b _ => t.mul r z a b) ∧
  long .hfma2 (fun t r z a b d => t.fma r z a b d)

/-- Conversions and special functions (R144 to R148). The bits of a special function are the model's free value of log entry
3 where the spec gives only a bound. EX2 with no FFMA noted for it is a special function like the others. Fused with the FFMA of
the clk before (R149, R150) it takes the rounded result of that FFMA as it is, in the lanes the FFMA wrote, and asks nothing of
FE; where it writes the same register, its lanes never show the FFMA's result. Stated of a warp with no cause waiting and a pair
that raises no enabled trap. -/
def Obligations.ConvertAndSpecial : Prop :=
  let sf := fun (i : Instr) (d a lat k : Nat) (fn : SpecialFn) => FloatResult i d 1 lat (fun c x l =>
    specialOp fn (c.fpctl.getLsbD 0) (Config.special k (x.v a l).toNat (c.fpctl.getLsbD 0)) (x.v a l).toNat)
  let plain := fun (i : Instr) (d a : Nat) => ∀ s c x, Issuing s c x → x.ffmas = [] → feCause c x i = none →
    c.act x i ≠ 0 →
      let r := allLanes.map (fun l => if (c.act x i).getLsbD l then
        specialOp .ex2 (c.fpctl.getLsbD 0) (Config.special 3 (x.v a l).toNat (c.fpctl.getLsbD 0)) (x.v a l).toNat else ⟨0, 0⟩)
      Untrapped c x (r.map (·.flags)) →
      exec i s = .next (inFlight s c x (c.act x i) (vWrites 1 d (c.act x i) (fun l => (r.getD l ⟨0, 0⟩).bits)) 12
        (r.map (·.flags)))
  let fused := fun (i : Instr) (d a : Nat) => ∀ s c x n h m vals, Issuing s c x → x.ffmas = [n] → n.clk + 1 = s.clk →
    n.next = c.pc → n.path = c.path → n.vd = a → n.guard = guardCode (info i).guard → x.tmode.getLsbD 5 = false →
    x.pend = [] → x.flights.find? (fun h => h.seq == n.seq) = some h → h.writes = [.v n.vd m vals] → c.act x i ≠ 0 →
      let r := allLanes.map (fun l =>
        let v := if n.act.getLsbD l then (vals.getD l 0).toNat else (x.v a l).toNat
        if (c.act x i).getLsbD l then
          specialOp .ex2 (c.fpctl.getLsbD 0) (Config.special 3 v (c.fpctl.getLsbD 0)) v else ⟨0, 0⟩)
      let y := { x with flights := x.flights.map (fun h => if h.seq = n.seq then
        { h with writes := h.writes.map (fun w => match w with
          | .v k m vals => if k = d then .v k (m &&& ~~~(c.act x i)) vals else w
          | w => w) } else h) }
      Untrapped c x (r.map (·.flags)) →
      exec i s = .next (inFlight (s.modWarp c.warp (fun _ => y)) c y (c.act x i)
        (vWrites 1 d (c.act x i) (fun l => (r.getD l ⟨0, 0⟩).bits)) 12 (r.map (·.flags)))
  (∀ f : ShortV, let g := sf; let d := f.d.toNat; let a := f.a.toNat
    g (.rcpShort f) d a 12 0 .rcp ∧ g (.rsqShort f) d a 12 1 .rsq ∧ g (.sqrtShort f) d a 12 2 .sqrt ∧
    g (.lg2Short f) d a 12 4 .lg2 ∧ g (.sinShort f) d a 16 5 .sin ∧ g (.cosShort f) d a 16 6 .cos ∧
    g (.tanhShort f) d a 16 7 .tanh ∧ plain (.ex2Short f) d a ∧ fused (.ex2Short f) d a) ∧
  (∀ f : LongF, let g := sf; let d := f.d.toNat; let a := f.a.toNat
    g (.rcp f) d a 12 0 .rcp ∧ g (.rsq f) d a 12 1 .rsq ∧ g (.sqrt f) d a 12 2 .sqrt ∧
    g (.lg2 f) d a 12 4 .lg2 ∧ g (.sin f) d a 16 5 .sin ∧ g (.cos f) d a 16 6 .cos ∧
    g (.tanh f) d a 16 7 .tanh ∧ plain (.ex2 f) d a ∧ (f.w.getLsbD 2 = true → fused (.ex2 f) d a) ∧
    FloatResult (.cvt f) d (if ctBits (cvtDst f) = 64 then 2 else 1) 4 (fun c x l =>
      let r := cvtOp (cvtSrc f) (cvtDst f) (RMode.of (f.m.toNat % 4)) (f.m.getLsbD 2) (c.fpctl.getLsbD 0)
        (cvtSource f (x.vn (if ctBits (cvtSrc f) = 64 then 2 else 1) a l))
      ⟨cvtPlace f (x.v d l).toNat r.bits, r.flags⟩))

/-- Cross-lane instructions (R151 to R156): SHFL, VOTE, REDUX, PRMT and MATCH over the lanes of ACT. -/
def Obligations.CrossLane : Prop := ∀ f : LongF,
  let d := f.d.toNat
  let a := f.a.toNat
  LaneResult (.prmt f) d 1 2 (fun x l => prmtOp (x.v a l).toNat (x.opB f 1 l) (x.v f.t.toNat l).toNat) ∧
  FloatResult (.redux f) d 1 (if f.ty = 2 then 14 else 8) (fun c x _ =>
    reduxOp f.ty f.lo (c.fpctl.getLsbD 0) x a (c.act x (.redux f))) ∧
  FloatResult (.shfl f) d 1 6 (fun c x l => shuffled (c.act x (.shfl f)) x a (shflFrom (f.m.toNat % 4) l (x.opB f 1 l % 256)) l) ∧
  FloatResult (.matchLanes f) d 1 10 (fun c x l =>
    let n := 1 + f.m.toNat % 2
    ⟨(maskOf (fun j => (c.act x (.matchLanes f)).getLsbD j && decide (x.vn n a j = x.vn n a l))).toNat, 0⟩) ∧
  (f.m.toNat % 4 = 3 → FloatResult (.vote f) d 1 3 (fun c x _ => ⟨(x.p a &&& c.act x (.vote f)).toNat, 0⟩)) ∧
  (f.m.toNat % 4 ≠ 3 → PredResult (.vote f) d 3 (fun c x _ =>
    let act := c.act x (.vote f)
    (match f.m.toNat % 4 with
      | 0 => decide (∀ l ∈ lanesOf act, (x.p a).getLsbD l = true)
      | 1 => decide (∃ l ∈ lanesOf act, (x.p a).getLsbD l = true)
      | _ => decide ((∀ l ∈ lanesOf act, (x.p a).getLsbD l = true) ∨ ∀ l ∈ lanesOf act, (x.p a).getLsbD l = false), 0)))

/-! The uniform instructions (R127 to R134). -/

/-- Uniform arithmetic in its short, immediate and long forms (R130, R132). -/
def Obligations.UniformArithmetic : Prop :=
  (∀ f : ShortA,
    let one := fun (i : Instr) (lat : Nat) (v : Word → Word → Word) =>
      UniformResult i lat (fun x => [.s f.d.toNat (v (x.s f.d.toNat) (x.s f.b.toNat))])
    one (.saddShort f) 2 (· + ·) ∧ one (.ssubShort f) 2 (· - ·) ∧ one (.smulShort f) 4 (· * ·) ∧
    one (.sandShort f) 2 (· &&& ·) ∧ one (.sorShort f) 2 (· ||| ·) ∧ one (.sxorShort f) 2 (· ^^^ ·) ∧
    one (.sshlShort f) 2 (fun a b => a <<< (b.toNat % 256)) ∧ one (.sshrShort f) 2 (fun a b => a >>> (b.toNat % 256)) ∧
    one (.smovShort f) 2 (fun _ b => b)) ∧
  (∀ f : ImmU,
    let one := fun (i : Instr) (lat : Nat) (v : Word → Word → Word) =>
      UniformResult i lat (fun x => [.s f.d.toNat (v (x.s f.d.toNat) f.imm)])
    one (.saddImm f) 2 (· + ·) ∧ one (.smulImm f) 4 (· * ·) ∧ one (.sandImm f) 2 (· &&& ·) ∧
    one (.sorImm f) 2 (· ||| ·) ∧ one (.sxorImm f) 2 (· ^^^ ·) ∧ one (.sshlImm f) 2 (fun a b => a <<< (b.toNat % 256)) ∧
    one (.sshrImm f) 2 (fun a b => if f.x.getLsbD 0 then a >>> (b.toNat % 256) else a.sshiftRight (b.toNat % 256)) ∧
    one (.smovImm f) 2 (fun _ b => b)) ∧
  (∀ f : UniF,
    let sg := tySigned f.ty
    let sat := f.m.getLsbD 2
    let one := fun (i : Instr) (lat : Nat) (v : Word → Word → Word) =>
      UniformResult i lat (fun x => [.s f.d.toNat (v (x.s f.a.toNat) (x.s f.t.toNat))])
    let exact := fun (i : Instr) (lat : Nat) (v : Int → Int → Int) => tyBits f.ty = 32 → one i lat (fun a b =>
      BitVec.ofInt 32 (clamp 32 sg sat (v (src 32 sg a.toNat) (src 32 sg b.toNat))))
    exact (.sadd f) 2 (· + ·) ∧ exact (.ssub f) 2 (· - ·) ∧ exact (.smul f) 4 (· * ·) ∧
    one (.sand f) 2 (· &&& ·) ∧ one (.sor f) 2 (· ||| ·) ∧ one (.sxor f) 2 (· ^^^ ·) ∧
    one (.sshl f) 2 (fun a b => a <<< (b.toNat % 256)) ∧
    one (.sshr f) 2 (fun a b => if f.ty = 0 then a.sshiftRight (b.toNat % 256) else a >>> (b.toNat % 256)) ∧
    one (.smov f) 2 (fun a _ => a) ∧
    (tyBits f.ty = 32 → one (.sbfe f) 2 (fun a b =>
      let len := b.toNat / 256 % 256
      if len = 0 then 0 else BitVec.ofInt 32 (src len sg ((src 32 sg a.toNat / 2 ^ (b.toNat % 256)) % 2 ^ len).toNat))))

/-- Uniform comparisons and moves between lanes and uniform registers (R131, R133, R134). -/
def Obligations.UniformCompareAndMove : Prop :=
  let cmp := fun (k : Nat) (z : Bool) (a b : Word) =>
    let x := src 32 (!z) a.toNat
    let y := src 32 (!z) b.toNat
    match k with
    | 0 => decide (x = y)
    | 1 => decide (x ≠ y)
    | 2 => decide (x < y)
    | 3 => decide (x ≤ y)
    | 4 => decide (x > y)
    | _ => decide (x ≥ y)
  (∀ f : ShortU,
    UniformResult (.ssetpS32Short f) 2 (fun x =>
      [.q (f.sub.toNat % 8) (cmp (f.sub.toNat / 8) false (x.s f.d.toNat) (x.s f.b.toNat))]) ∧
    UniformResult (.ssetpZ32Short f) 2 (fun x =>
      [.q (f.sub.toNat % 8) (cmp (f.sub.toNat / 8) true (x.s f.d.toNat) (x.s f.b.toNat))]) ∧
    LaneResult (.s2vShort f) f.d.toNat 1 3 (fun x _ => (x.s f.b.toNat).toNat) ∧
    UniformResult (.v2sShort f) 3 (fun x => [.s f.d.toNat (x.v f.b.toNat (f.sub.toNat % 32))])) ∧
  (∀ f : UniF,
    UniformResult (.ssetp f) 2 (fun x =>
      [.q (f.d.toNat % 8) (cmp (f.m.toNat % 8) (f.ty == 1) (x.s f.a.toNat) (x.s f.t.toNat))]) ∧
    LaneResult (.s2v f) f.d.toNat 1 3 (fun x _ => (x.s f.a.toNat).toNat) ∧
    UniformResult (.v2s f) 3 (fun x => [.s f.d.toNat (x.v f.a.toNat (f.m.toNat % 32))])) ∧
  (∀ f : ImmU,
    UniformResult (.ssetpImm f) 2 (fun x =>
      [.q (f.x.toNat / 16) (cmp (f.x.toNat / 2 % 8) (f.x.getLsbD 0) (x.s f.d.toNat) f.imm)]))

/-- A result lands (R28): the destinations hold it and are full, its flags are in FPSTAT, and it is in flight no more. A write to
p7 or q7 leaves nothing (R24). Stated of a warp with no fence or barrier pending. -/
def Obligations.ResultLands : Prop := ∀ (s : State) (w : Nat) (x : Warp) (f : Flight),
  mfind s.warps w = some x → f ∈ x.flights → (∀ g ∈ x.flights, g.seq = f.seq → g = f) → f.kind = .result → f.due ≤ s.clk →
  x.holds = [] → x.tmode.getLsbD 4 = false →
  ∃ t y, exec (.resultWriteback w f.seq) s = .next t ∧ mfind t.warps w = some y ∧
    y = { (x.writeAll f.writes).addFlags f.lanes f.flags with flights := x.flights.filter (fun g => g.seq != f.seq) } ∧
    OthersSame s t w ∧ MemSame s t ∧
    (∀ r m vals l, f.writes = [.v r m vals] → l < 32 → m.getLsbD l = true → y.v r l = vals.getD l 0 ∧
      (vEmptyIn y.vE r).getLsbD l = false) ∧
    (∀ r m vals q l, f.writes = [.v r m vals] → q ≠ r ∨ m.getLsbD l = false → l < 32 → y.v q l = x.v q l) ∧
    (∀ r v, f.writes = [.s r v] → y.s r = v ∧ sEmptyIn y.sE r = false ∧ ∀ q, q ≠ r → y.s q = x.s q) ∧
    (∀ m v, f.writes = [.p 7 m v] → y.pred = x.pred) ∧ (∀ b, f.writes = [.q 7 b] → y.upred = x.upred)

/-! Memory instructions at issue (R157 to R193). -/

/-- Loads and watched loads complete their issue (R157 to R167, R186, R187); so does SLD, with one access at its effective address on
its way and the destination empty (R135). -/
def Obligations.LoadsIssue : Prop :=
  let ld := fun (h : Shape) (_ : State) (_ : IssueCtx) (_ : Warp) (_ : List Nat) (sp : Space) => Pending.load sp h.size h.signed
  let sld := fun (i : Instr) (sd size : Nat) (ea : Warp → Nat) => ∀ s c x, Issuing s c x → feCause c x i = none →
    c.act x i ≠ 0 → ea x % size = 0 → ea x < 2 ^ 57 →
      ∃ t y f, exec i s = .next t ∧ mfind t.warps c.warp = some y ∧ y.flights = x.flights ++ [f] ∧
        y.nextSeq = x.nextSeq + 1 ∧ f.seq = x.nextSeq ∧ f.kind = .uload sd size ∧ f.acc.map (·.addr) = [ea x] ∧
        sEmptyIn y.sE sd = true ∧ (size = 8 → sEmptyIn y.sE (sd + 1) = true) ∧
        (f.due, Event.loadReturn c.warp x.nextSeq) ∈ t.agenda ∧ RegsSame x y ∧ OthersSame s t c.warp ∧ MemSame s t
  (∀ f : ShortV, ReadIssues (.ldShort f) (shortShape 0 f) (ld (shortShape 0 f)) .loadReturn ∧
    ReadIssues (.ldsShort f) (shortShape 1 f) (ld (shortShape 1 f)) .loadReturn) ∧
  (∀ f : LongF,
    ReadIssues (.ld f) (mtShape 0 0 f.lo (f.lo != 0) f) (ld (mtShape 0 0 f.lo (f.lo != 0) f)) .loadReturn ∧
    ReadIssues (.lds f) (mtShape 1 f.lo 0 true f) (ld (mtShape 1 f.lo 0 true f)) .loadReturn ∧
    ReadIssues (.ldr f) (mtShape 2 f.lo 0 true f) (ld (mtShape 2 f.lo 0 true f)) .loadReturn ∧
    ReadIssues (.ldw f) (mtShape 0 0 0 true f) (fun s c x ls _ => .watched (mtSize f.ty) (f.ty == 1 || f.ty == 3) f.lo
      (ls.all (fun l => (coreXlate s (coreOf c.warp) x.asid (laneAddr (mtShape 0 0 0 true f) x l)).isSome))) .loadReturn ∧
    ReadIssues (.wmld f) (wmShape f) (fun _ _ _ _ _ => .wmLoad) .loadReturn) ∧
  (∀ f : ShortU, sld (.sldShort f) f.d.toNat 4 (fun x => (x.s64 f.b.toNat + 4 * f.sub.toNat) % 2 ^ 64)) ∧
  (∀ f : UniF, sld (.sld f) f.d.toNat (if f.m.getLsbD 0 then 8 else 4)
    (fun x => (((x.s64 f.a.toNat : Int) + (x.s f.t.toNat).toInt) % 2 ^ 64).toNat))

/-- Atomics complete their issue in the three spaces (R176 to R179). -/
def Obligations.AtomicsIssue : Prop := ∀ f : LongF,
  let k := fun (op : AtomOp) (_ : State) (_ : IssueCtx) (x : Warp) (ls : List Nat) (sp : Space) =>
    Pending.atom op f.ty sp (ls.map (fun l => BitVec.ofNat 64 (x.opB f (tyRegs f.ty) l)))
  let g := fun (i : Instr) (op : AtomOp) => ReadIssues i (atomShape 0 0 f.lo f) (k op) .homeAtomic
  let p := fun (i : Instr) (op : AtomOp) => ReadIssues i (atomShape 1 f.lo 0 f) (k op) .homeAtomic
  let r := fun (i : Instr) (op : AtomOp) => ReadIssues i (atomShape 2 f.lo 0 f) (k op) .homeAtomic
  g (.atomAdd f) .add ∧ g (.atomMin f) .min ∧ g (.atomMax f) .max ∧ g (.atomAnd f) .and ∧ g (.atomOr f) .or ∧
  g (.atomXor f) .xor ∧ g (.atomExch f) .exch ∧ g (.atomCas f) .cas ∧
  p (.atomSpadAdd f) .add ∧ p (.atomSpadMin f) .min ∧ p (.atomSpadMax f) .max ∧ p (.atomSpadAnd f) .and ∧
  p (.atomSpadOr f) .or ∧ p (.atomSpadXor f) .xor ∧ p (.atomSpadExch f) .exch ∧ p (.atomSpadCas f) .cas ∧
  r (.atomPeerAdd f) .add ∧ r (.atomPeerMin f) .min ∧ r (.atomPeerMax f) .max ∧ r (.atomPeerAnd f) .and ∧
  r (.atomPeerOr f) .or ∧ r (.atomPeerXor f) .xor ∧ r (.atomPeerExch f) .exch ∧ r (.atomPeerCas f) .cas

/-- Stores and reductions complete their issue (R168, R180, R181, R186). -/
def Obligations.StoresIssue : Prop :=
  let low := fun (h : Shape) (x : Warp) (l : Nat) => leBytes h.size (x.vn h.n h.d l)
  let st := fun (i : Instr) (h : Shape) => StoreIssues i h .store (low h)
  (∀ f : ShortV, st (.stShort f) (shortShape 0 f) ∧ st (.stsShort f) (shortShape 1 f)) ∧
  (∀ f : LongF,
    let red := fun (i : Instr) (op : AtomOp) => StoreIssues i (atomShape 0 0 f.lo f) (.red op f.ty)
      (fun x l => leBytes (atSize f.ty) (x.opB f (tyRegs f.ty) l))
    st (.st f) (mtShape 0 0 f.lo (f.lo != 0) f) ∧ st (.sts f) (mtShape 1 f.lo 0 true f) ∧
    st (.str f) (mtShape 2 f.lo 0 true f) ∧
    StoreIssues (.wmst f) (wmShape f) .wmst (fun x l => leBytes 2 (x.v f.d.toNat l).toNat) ∧
    red (.redAdd f) .add ∧ red (.redMin f) .min ∧ red (.redMax f) .max ∧ red (.redAnd f) .and ∧ red (.redOr f) .or ∧
    red (.redXor f) .xor ∧
    StoreIssues (.redTrig f) (atomShape 0 0 f.lo f) .redTrig (fun x l => leBytes 1 (x.opB f 1 l)))

/-- Fences (R172 to R174, R246): one whose condition holds ends at once, any other holds the warp until it does. IFENCE empties the loop
buffer and the instruction cache (R175); PREFETCH fills the L1 and changes nothing else of the warp (R182); SMAP maps a window (R183);
SUNMAP and SFLUSH take a place in the store queue (R185). -/
def Obligations.FencesAndCaches : Prop :=
  (∀ f : LongF,
  let fence := fun (i : Instr) (ended : State → IssueCtx → Warp → Bool) (left : State → Warp → Hold) =>
    ∀ s c x, Issuing s c x → x.holds = [] → (∀ g ∈ x.flights, g.seq ≠ x.nextSeq) → c.act x i ≠ 0 →
      ∃ t y, exec i s = .next t ∧ mfind t.warps c.warp = some y ∧ y.nextSeq = x.nextSeq + 1 ∧
      (if ended s c x then y.holds = [] ∧ y.flights = x.flights
       else y.holds = [left s x] ∧ ∃ g, y.flights = x.flights ++ [g] ∧ g.kind = .hold ∧ g.seq = x.nextSeq) ∧
      RegsSame x y ∧ OthersSame s t c.warp ∧ t.hbm = s.hbm
  let before := fun (x : Warp) => x.storeq.filter (fun e => decide (e.seq < x.nextSeq))
  fence (.fence f)
    (fun s c x => if f.d = 0 then loadsDone x x.nextSeq
      else relDone s c.warp x x.nextSeq (wideScope s x (f.m.toNat % 4)) (some s.nextId))
    (fun s x => .fence f.d.toNat (f.m.toNat % 4) x.nextSeq
      (if f.d ≠ 0 ∧ relDrained x x.nextSeq = true then some s.nextId else none)) ∧
  fence (.drainst f)
    (fun _ _ x => ((before x).isEmpty || (x.handler && storesHeld x)) && x.unacked.isEmpty)
    (fun _ x => .drain x.nextSeq) ∧
  fence (.mfence f) (fun s c _ => mfenceDone s c.warp (f.m.toNat % 2) (f.m.toNat / 2 % 4) (s.nextId % 2 ^ 64))
    (fun _ x => .mfence (f.m.toNat % 2) (f.m.toNat / 2 % 4) x.nextSeq) ∧
  (∀ s c x, Issuing s c x → x.holds = [] → c.act x (.fenceSc f) ≠ 0 →
    ∃ t y, exec (.fenceSc f) s = .next t ∧ mfind t.warps c.warp = some y ∧
      y.holds = [.fenceSc (f.m.toNat % 4) x.nextSeq (relDone s c.warp x x.nextSeq true (some s.nextId))
        (if relDrained x x.nextSeq then some s.nextId else none)] ∧
      RegsSame x y ∧ OthersSame s t c.warp ∧ MemSame s t)) ∧
  (∀ f : LongF,
  let flush := fun (i : Instr) (nums : List Nat) (unmap : Bool) => ∀ s c x, Issuing s c x → c.act x i ≠ 0 →
    ∃ t y e, exec i s = .next t ∧ mfind t.warps c.warp = some y ∧ y.storeq = x.storeq ++ [e] ∧
      e.kind = .sflush nums unmap none ∧ e.seq = x.nextSeq ∧ (s.clk + 1, Event.storeQueueExit c.warp) ∈ t.agenda ∧
      RegsSame x y ∧ OthersSame s t c.warp ∧ MemSame s t
  (∀ s c x, Issuing s c x → c.act x (.ifence f) ≠ 0 →
    exec (.ifence f) s = .next (s.modCore (coreOf c.warp) (fun k =>
      { k with loops := mdel k.loops (partOf c.warp), icache := [] }))) ∧
  (∀ s c x l e, Issuing s c x → feCause c x (.prefetch f) = none → c.act x (.prefetch f) = laneBit l → l < 32 →
    f.m.toNat % 4 ≠ 1 → f.m.toNat % 4 < 3 →
    let a := laneAddr (mtShape 0 0 0 false f) x l
    a % mtSize f.ty = 0 → a < 2 ^ 57 → coreXlate s (coreOf c.warp) x.asid a = some e → e.r = true →
    l1Hit s (coreOf c.warp) (e.key s a) = false →
    exec (.prefetch f) s = .next (l1Fill s (coreOf c.warp) (e.key s a) e.grain e.dev)) ∧
  (∀ s c x, Issuing s c x → ∃ t y, exec (.prefetch f) s = .next t ∧
    (feCause c x (.prefetch f) = none → mfind t.warps c.warp = some y ∧ RegsSame x y)) ∧
  (∀ s c x g, Issuing s c x → feCause c x (.smap f) = none → c.act x (.smap f) ≠ 0 → x.group? 0 = some g →
    let k := s.core (coreOf c.warp)
    let sz := (x.s (bReg f)).toNat
    let wn : Window :=
      { gi := g, num := f.d.toNat, base := x.s64 f.t.toNat, off := sz % 65536, len := sz / 65536, asid := x.asid }
    wn.base % 128 = 0 → 0 < wn.len → (wn.off + wn.len) * 128 ≤ k.stash →
    (∀ v ∈ k.wins, v.gi = g → v.num ≠ wn.num ∧ (v.off + v.len ≤ wn.off ∨ wn.off + wn.len ≤ v.off)) →
    exec (.smap f) s = .next (s.modCore (coreOf c.warp) (fun k => { k with wins := k.wins ++ [wn] }))) ∧
  (∀ s c x g v, Issuing s c x → feCause c x (.smap f) = none → c.act x (.smap f) ≠ 0 → x.group? 0 = some g →
    x.tmode.getLsbD 0 = false → x.holds = [] →
    let k := s.core (coreOf c.warp)
    let base := x.s64 f.t.toNat
    let sz := (x.s (bReg f)).toNat
    base % 128 = 0 → 0 < sz / 65536 → (sz % 65536 + sz / 65536) * 128 ≤ k.stash → v ∈ k.wins → v.gi = g → v.num = f.d.toNat →
    (∀ u ∈ k.wins, u.gi = g → u.num ≠ f.d.toNat → u.off + u.len ≤ sz % 65536 ∨ sz % 65536 + sz / 65536 ≤ u.off) →
    ∃ t y e, exec (.smap f) s = .next t ∧ mfind t.warps c.warp = some y ∧ y.storeq = x.storeq ++ [e] ∧
      e.kind = .sflush [f.d.toNat] true (some (f.d.toNat, base, sz % 65536, sz / 65536)) ∧ e.seq = x.nextSeq ∧
      y.holds = [.drain (x.nextSeq + 1)] ∧ (s.clk + 1, Event.storeQueueExit c.warp) ∈ t.agenda ∧ RegsSame x y ∧
      OthersSame s t c.warp ∧ MemSame s t) ∧
  flush (.sunmap f) [f.d.toNat % 16] true ∧
  flush (.sflush f) (if f.d.getLsbD 4 then List.range 16 else [f.d.toNat % 16]) false)

/-! Control flow (R194 to R201). Debug traces, which write records, are taken to be off. -/

/-- Control flow (R79, R190, R194 to R199): taken branches move the lanes of ACT, and no others, to the target; CALL links to the packet
after its own; CHKW sends the struck lanes of ACT to the repair code; EXIT ends the lanes of ACT for good; CONV makes them WAITING at
its target with their convergence mask. -/
def Obligations.ControlFlow : Prop :=
  (let quiet := fun (s : State) (c : IssueCtx) => capturing (s.core (coreOf c.warp)).dbg = false
  let packet := fun (x : Warp) (pc : Nat) (off : Int) =>
    (((x.codeBase : Int) + 12 * (((pc : Int) - x.codeBase) / 12 + off)) % 2 ^ 57).toNat
  let goes := fun (s t : State) (c : IssueCtx) (x : Warp) (m : LaneMask) (tgt : Nat → Nat) =>
    ∃ y, mfind t.warps c.warp = some y ∧
      (∀ l, l < 32 → y.pc.getD l 0 = if m.getLsbD l then tgt l else x.pc.getD l 0) ∧
      y.vreg = x.vreg ∧ y.sreg = x.sreg ∧ y.pred = x.pred ∧ y.active = x.active ∧ y.exited = x.exited ∧
      OthersSame s t c.warp ∧ MemSame s t
  (∀ f s c x, Issuing s c x → quiet s c → ∃ t, exec (.braShort f) s = .next t ∧
    goes s t c x (c.path &&& (if f.n then ~~~(x.p f.p.toNat) else x.p f.p.toNat)) (fun _ => packet x c.pc f.off.toInt)) ∧
  (∀ f s c x, Issuing s c x → quiet s c → ∃ t, exec (.bra f) s = .next t ∧
    goes s t c x (c.act x (.bra f)) (fun _ => packet x c.pc (f.d ++ f.a ++ f.b : BitVec 24).toInt)) ∧
  (∀ f s c x, Issuing s c x → quiet s c → feCause c x (.brx f) = none →
    let tgt := fun (l : Nat) => if f.m.getLsbD 0 then x.s64 f.t.toNat else x.vn 2 f.a.toNat l
    (∀ l ∈ lanesOf (c.act x (.brx f)), ((tgt l : Int) - x.codeBase) % 12 = 0) → ∃ t, exec (.brx f) s = .next t ∧
    goes s t c x (c.act x (.brx f)) tgt) ∧
  (∀ f s c x, Issuing s c x → quiet s c → feCause c x (.ret f) = none →
    let tgt := fun (l : Nat) => x.vn 2 f.a.toNat l
    (∀ l ∈ lanesOf (c.act x (.ret f)), ((tgt l : Int) - x.codeBase) % 12 = 0) → ∃ t, exec (.ret f) s = .next t ∧
    goes s t c x (c.act x (.ret f)) tgt) ∧
  (∀ f s c x, Issuing s c x → quiet s c → c.act x (.call f) ≠ 0 → ∃ t y g, exec (.call f) s = .next t ∧
    goes s t c x (c.act x (.call f)) (fun _ => packet x c.pc (f.d ++ f.a ++ f.b : BitVec 24).toInt) ∧
    mfind t.warps c.warp = some y ∧ y.flights = x.flights ++ [g] ∧ g.kind = .result ∧ g.due = s.clk + 1 ∧
    g.writes = vWrites 2 f.t.toNat (c.act x (.call f)) (fun _ => packet x c.pc 1)) ∧
  (∀ f s c x, Issuing s c x → quiet s c → ∃ t, exec (.chkw f) s = .next t ∧
    goes s t c x (maskOf (fun l => (c.act x (.chkw f)).getLsbD l && x.watch.any (fun e =>
      e.wid == f.d.toNat / 16 && e.state == .struck && e.mask.getLsbD l)))
      (fun _ => packet x c.pc (intOf 20 true (f.d.toNat % 16 * 65536 + f.a.toNat * 256 + f.b.toNat))))) ∧
  (let gone := fun (i : Instr) (act : IssueCtx → Warp → LaneMask) => ∀ s c x, Issuing s c x → act c x ≠ 0 →
    ∃ t y, exec i s = .next t ∧ mfind t.warps c.warp = some y ∧ y.exited = x.exited ||| act c x ∧
      y.active = x.active &&& ~~~(act c x) ∧ y.waiting = x.waiting &&& ~~~(act c x) ∧ y.pc = x.pc ∧
      (s.clk + 1, Event.convRelease c.warp) ∈ t.agenda ∧
      (y.exited = 0xFFFFFFFF → x.captured = false → Hold.retire ∈ y.holds) ∧
      y.vreg = x.vreg ∧ y.sreg = x.sreg ∧ OthersSame s t c.warp ∧ MemSame s t
  (∀ f : ShortB, gone (.exitShort f) (fun c x => c.path &&& (if f.n then ~~~(x.p f.p.toNat) else x.p f.p.toNat))) ∧
  (∀ f : LongF, gone (.exit f) (fun c x => c.act x (.exit f))) ∧
  (∀ f s c x, Issuing s c x → feCause c x (.conv f) = none → c.act x (.conv f) ≠ 0 →
    ∃ t y, exec (.conv f) s = .next t ∧ mfind t.warps c.warp = some y ∧
      y.waiting = x.waiting ||| c.act x (.conv f) ∧ y.active = x.active &&& ~~~(c.act x (.conv f)) ∧ y.exited = x.exited ∧
      (∀ l, l < 32 → (c.act x (.conv f)).getLsbD l = true →
        y.point.getD l 0 = packetAt x c.pc (off24 f) ∧ y.pc.getD l 0 = packetAt x c.pc (off24 f) ∧
        y.cmask.getD l 0 = x.s f.t.toNat ||| laneBit l) ∧
      (s.clk + 1, Event.convRelease c.warp) ∈ t.agenda ∧ OthersSame s t c.warp ∧ MemSame s t))

/-- YIELD, SETPRI and NOP, and the events that end their effects (R78, R200, R201, R36). -/
def Obligations.Scheduling : Prop :=
  (∀ f s c x, Issuing s c x → exec (.yieldShort f) s =
    .next ((s.modWarp c.warp (fun x => { x with yielding := true, yieldEnd := s.clk + 17 })).after 17 (.yieldExpiry c.warp))) ∧
  (∀ f s c x, Issuing s c x → c.act x (.yield f) ≠ 0 → exec (.yield f) s =
    .next ((s.modWarp c.warp (fun x => { x with yielding := true, yieldEnd := s.clk + 17 })).after 17 (.yieldExpiry c.warp))) ∧
  (∀ w s, exec (.yieldExpiry w) s =
    .next (s.modWarp w (fun x => if x.yieldEnd ≤ s.clk then { x with yielding := false } else x))) ∧
  (∀ f s c x, Issuing s c x → feCause c x (.setpri f) = none → c.act x (.setpri f) ≠ 0 →
    exec (.setpri f) s = .next ((undoPut s c.warp c.pc 5 0 7 0 0 0 (leBytes 8 x.prio.toNat)).modWarp c.warp (fun y =>
      { y with prio := BitVec.ofNat 32 ((if f.k then (x.s (bReg f)).toNat else f.m.toNat) % 16) }))) ∧
  (∀ s c x, Issuing s c x → ∃ t y, exec .nop s = .next t ∧ mfind t.warps c.warp = some y ∧
    (∀ l, l < 32 → y.pc.getD l 0 = if c.path.getLsbD l then c.next else x.pc.getD l 0) ∧
    y.lastIssue = x.lastIssue ∧ y.vreg = x.vreg ∧ y.sreg = x.sreg ∧ OthersSame s t c.warp ∧ MemSame s t) ∧
  (∀ w s x, mfind s.warps w = some x → x.lastIssue + 1024 ≤ s.clk →
    exec (.priorityBoost w) s = .next (s.modWarp w (fun x => { x with boost := true }))) ∧
  (∀ w l s x m pc, mfind s.warps w = some x → (pathsOf x).find? (fun p => p.1.getLsbD l) = some (m, pc) → 64 ≤ pathAge x m →
    exec (.pathAgeLimit w l) s = .next (s.modWarp w (fun x => { x with aged := x.aged ||| m }))) ∧
  (∀ w s x, mfind s.warps w = some x → ∃ t y, exec (.convRelease w) s = .next t ∧ mfind t.warps w = some y ∧
    ∀ l, l < 32 → x.waiting.getLsbD l = true →
      let here := fun (j : Nat) => j < 32 ∧ x.waiting.getLsbD j = true ∧ x.point.getD j 0 = x.point.getD l 0
      ((∀ j k, here j → k < 32 → (x.cmask.getD j 0).getLsbD k = true → here k ∨ x.exited.getLsbD k = true) ↔
        y.waiting.getLsbD l = false) ∧
      (y.waiting.getLsbD l = false → y.active.getLsbD l = true ∧ y.pc.getD l 0 = x.point.getD l 0))

/-! Barriers, work, termination, traps, special registers (R202 to R218). -/

/-- Barriers (R203 to R205): BAR arrives and waits, BARA arrives, BARW waits for the phase of the last arrival. The warp arrives at
once when what its release orders is done, else the arrival stands as a hold until then; an arrival made or standing is not made
again. The phase completes when every member has arrived and no announced engine arrival is missing: its number rises, the arrivals are forgotten, and a path
that waits for it names the instruction after its barrier. -/
def Obligations.Barriers : Prop :=
  (∀ (f : LongF) (s : State) (c : IssueCtx) (x : Warp) (gi : Nat) (g : GroupInst),
  Issuing s c x → x.isolated = [] → x.group? (f.m.toNat % 4) = some gi → mfind s.groups gi = some g →
  let b := f.d.toNat
  let ph := mget g.phases b 0
  let standing := ∃ sl sq id, Hold.arrive gi sl b sq id ∈ x.holds
  let ready := relDone s c.warp x x.nextSeq (wideScope s x 0) none = true
  let arrives := fun (t : State) (y : Warp) (hs : List Hold) =>
    if ready then y.holds = x.holds ++ hs ∧ (s.clk, Event.barrierPhaseComplete gi b) ∈ t.agenda ∧
      ∃ g', mfind t.groups gi = some g' ∧ g'.phases = g.phases ∧ g'.arrived = mset g.arrived b (mget g.arrived b [] ++ [c.warp])
    else y.holds = x.holds ++ .arrive gi (f.m.toNat % 4) b x.nextSeq none :: hs ∧ t.groups = s.groups
  let stays := fun (i : Instr) (t : State) (y : Warp) =>
    (∀ l, l < 32 → y.pc.getD l 0 = if (c.act x i).getLsbD l then c.pc else x.pc.getD l 0) ∧
    y.vreg = x.vreg ∧ y.sreg = x.sreg ∧ OthersSame s t c.warp ∧ MemSame s t
  (c.act x (.bar f) ≠ 0 → c.warp ∉ mget g.arrived b [] → ¬standing →
    ∃ t y, exec (.bar f) s = .next t ∧ mfind t.warps c.warp = some y ∧
      arrives t y [.bar (c.act x (.bar f)) gi b ph c.next] ∧
      mfind y.barArr (16 * (f.m.toNat % 4) + b) = some ph ∧ stays (.bar f) t y) ∧
  (c.act x (.bara f) ≠ 0 → c.warp ∉ mget g.arrived b [] → ¬standing →
    ∃ t y, exec (.bara f) s = .next t ∧ mfind t.warps c.warp = some y ∧ arrives t y [] ∧
      mfind y.barArr (16 * (f.m.toNat % 4) + b) = some ph ∧ RegsSame x y ∧ OthersSame s t c.warp ∧ MemSame s t) ∧
  (c.warp ∈ mget g.arrived b [] ∨ standing →
    (c.act x (.bar f) ≠ 0 → ∃ t y, exec (.bar f) s = .next t ∧ mfind t.warps c.warp = some y ∧ t.groups = s.groups ∧
      y.holds = x.holds ++ [.bar (c.act x (.bar f)) gi b ph c.next] ∧ y.barArr = x.barArr ∧ stays (.bar f) t y) ∧
    (c.act x (.bara f) ≠ 0 → ∃ t y, exec (.bara f) s = .next t ∧ mfind t.warps c.warp = some y ∧ t.groups = s.groups ∧
      y.holds = x.holds ∧ y.barArr = x.barArr ∧ RegsSame x y ∧ OthersSame s t c.warp ∧ MemSame s t)) ∧
  (∀ p, c.act x (.barw f) ≠ 0 → mfind x.barArr (16 * (f.m.toNat % 4) + b) = some p → ph ≤ p →
    ∃ t y, exec (.barw f) s = .next t ∧ mfind t.warps c.warp = some y ∧ t.groups = s.groups ∧
      y.holds = x.holds ++ [.bar (c.act x (.barw f)) gi b p c.next] ∧ OthersSame s t c.warp ∧ MemSame s t)) ∧
  (∀ (s : State) (gi b : Nat) (g : GroupInst),
  mfind s.groups gi = some g → g.members ≠ [] → (∀ m ∈ g.members, m ∈ mget g.arrived b []) →
  mget g.engines (16 * mget g.phases b 0 + b) 0 = 0 →
  ∃ t g', exec (.barrierPhaseComplete gi b) s = .next t ∧ mfind t.groups gi = some g' ∧
    mget g'.phases b 0 = mget g.phases b 0 + 1 ∧ mget g'.arrived b [] = [] ∧ g'.members = g.members ∧
    ∀ w x lanes next, mfind s.warps w = some x → (∀ e ∈ s.warps, e.1 = w → e.2 = x) →
      x.holds = [.bar lanes gi b (mget g.phases b 0) next] →
      ∃ y, mfind t.warps w = some y ∧ y.holds = [] ∧
        ∀ l, l < 32 → y.pc.getD l 0 = if lanes.getLsbD l then next else x.pc.getD l 0)

/-- SPAWN makes one record per lane of ACT, in the chest while it has room, and reports FULL in no lane then (R206, R329). -/
def Obligations.SpawnIssues : Prop := ∀ (f : LongF) (s : State) (c : IssueCtx) (x : Warp),
  Issuing s c x → feCause c x (.spawn f) = none → c.act x (.spawn f) ≠ 0 → x.tmode.getLsbD 4 = false →
  ((x.s64 (bReg f) : Int) - x.codeBase) % 12 = 0 → (f.m.getLsbD 0 = true → counterCause s c.warp x.asid (x.s64 f.t.toNat) = none) →
  (s.core (coreOf c.warp)).chest.length + laneCount (c.act x (.spawn f)) ≤ 512 →
  ∃ t y g rs, exec (.spawn f) s = .next t ∧ (t.core (coreOf c.warp)).chest = (s.core (coreOf c.warp)).chest ++ rs ∧
    rs.map (fun r => (r.pc, r.args, r.armed, r.ready, r.eligible)) = (lanesOf (c.act x (.spawn f))).map (fun l =>
      (x.s64 (bReg f), (List.range 12).map (fun j => x.v (f.a.toNat + j) l),
        if f.m.getLsbD 0 then some (x.s64 f.t.toNat) else none, false, false)) ∧
    mfind t.warps c.warp = some y ∧ y.flights = x.flights ++ [g] ∧ g.writes = [.p f.d.toNat (c.act x (.spawn f)) 0] ∧
    RegsSame x y ∧ OthersSame s t c.warp

/-- LAUNCH and ENQ are on their way to the HQS, their predicate still to be written (R208, R209); GTERM asks the members of the
group it names to end, and Toltar gets a record (R210).
The record is the model's report 3, log entry 57, the delay log entry 2. -/
def Obligations.QueueAndGroupIssue : Prop := ∀ (f : LongF) (s : State) (c : IssueCtx) (x : Warp),
  Issuing s c x → x.tmode.getLsbD 4 = false →
  (feCause c x (.launch f) = none → c.act x (.launch f) ≠ 0 → readableCause s c.warp x.asid (x.s64 f.t.toNat) 64 = none →
    ∃ t y g, exec (.launch f) s = .next t ∧ mfind t.warps c.warp = some y ∧ y.flights = x.flights ++ [g] ∧
      g.kind = .launch (f.m.getLsbD 0) (x.s64 f.t.toNat) ∧ g.writes = [.q f.d.toNat false] ∧
      (s.clk + s.lat.hop, Event.launchAccept (dieOf c.warp)) ∈ t.agenda ∧ RegsSame x y ∧ OthersSame s t c.warp ∧
      MemSame s t) ∧
  (feCause c x (.enq f) = none → c.act x (.enq f) ≠ 0 → readableCause s c.warp x.asid (x.s64 f.t.toNat) 64 = none →
    readableCause s c.warp x.asid (x.s64 (bReg f)) 64 = none →
    ∃ t y g, exec (.enq f) s = .next t ∧ mfind t.warps c.warp = some y ∧ y.flights = x.flights ++ [g] ∧
      g.kind = .enq (x.s64 f.t.toNat) (x.s64 (bReg f)) ∧ g.writes = [.q f.d.toNat false] ∧
      (s.clk + s.lat.hop, Event.enqStep c.warp x.nextSeq) ∈ t.agenda ∧ RegsSame x y ∧ OthersSame s t c.warp ∧
      MemSame s t) ∧
  (∀ g gi, c.act x (.gterm f) ≠ 0 → f.m.getLsbD 2 = false → x.group? (f.m.toNat % 4) = some g → mfind s.groups g = some gi →
    (∀ m ∈ gi.members, m < 10 ^ 6) →
    ∃ t, exec (.gterm f) s = .next t ∧ t.reports = ⟨3, [g, c.warp]⟩ :: s.reports ∧ MemSame s t ∧
      ∀ w y, mfind s.warps w = some y → ∃ z, mfind t.warps w = some z ∧ RegsSame y z ∧
        (w ∈ gi.members → z.termReq = true ∧ (s.clk + 1, Event.warpTerminate w) ∈ t.agenda) ∧
        (w ∉ gi.members → z = y))

/-- TRAPI and BKPT give the warp their cause at its next boundary, one clk on, the lanes of the path naming the word after the
group (R211, R495); SVC takes the service number and s0
to s7, and empties s0 to s3 (R212). -/
def Obligations.TrapsAndServicesIssue : Prop := ∀ (f : LongF) (s : State) (c : IssueCtx) (x : Warp), Issuing s c x →
  let cause := fun (code : Nat) => (s.modWarp c.warp (fun y =>
    { y.setPc c.path (fun _ => match s.pend.getLast? with
          | none => c.pc + 8
          | some m => m.2.1 + 4 * m.1.words) with
        pend := y.pend ++ [{ code := code, faddr := BitVec.ofNat 64 c.pc, lanes := c.path, due := s.clk + 1,
                             entry := none }] })).after 1 (.trapEntry c.warp)
  (c.act x (.trapi f) ≠ 0 → exec (.trapi f) s = .next (cause 0x10)) ∧
  (c.act x (.bkpt f) ≠ 0 → exec (.bkpt f) s = .next (cause 0x11)) ∧
  (c.act x (.svc f) ≠ 0 → x.tmode.getLsbD 4 = false →
    ∃ t y, exec (.svc f) s = .next t ∧ mfind t.warps c.warp = some y ∧
      y.svc = x.svc ++ [⟨f.a.toNat * 256 + f.b.toNat, s.nextId, (List.range 8).map x.s, ⟨c.warp, x.nextSeq, false, []⟩⟩] ∧
      (∀ r, r < 4 → sEmptyIn y.sE r = true) ∧ (∀ r, 4 ≤ r → sEmptyIn y.sE r = sEmptyIn x.sE r) ∧
      y.tokens.length = x.tokens.length + 4 ∧ t.nextId = s.nextId + 1 ∧ RegsSame x y ∧ OthersSame s t c.warp ∧ MemSame s t)

/-- TAKING A TRAP (R368, R369, R372, R374, R384): a warp with one cause at its boundary and nothing in flight. Delegated to the
warp it enters handler mode: CAUSE and FADDR written, every lane that has not exited LIVE at TRAPBASE, s0 and s1 naming
the control record, the first issue 32 clk on. Otherwise it is captured and Toltar told.
Telling Toltar is the model's report 2, log entry 57. -/
def Obligations.TrapEntry : Prop := ∀ (s : State) (w : Nat) (x : Warp) (p : PendCause),
  mfind s.warps w = some x → x.captured = false → x.termReq = false → x.preRep = none → x.tmode.getLsbD 0 = false →
  x.sfq = [] → x.ffmas = [] → x.pend = [p] → p.due ≤ s.clk → p.code < 256 → p.code ≠ 1 → x.flights = [] → x.active ||| x.waiting ≠ 0 →
  capturing (s.core (coreOf w)).dbg = false → NoRegistration s →
  (delegated s w x p.code = true → ((x.trapbase.toNat : Int) - x.codeBase) % 12 = 0 →
    ∃ t y, exec (.trapEntry w) s = .next t ∧ mfind t.warps w = some y ∧ y.tmode = x.tmode ||| 1 ∧
      y.cause = BitVec.ofNat 32 (p.code + 0xFF00) ∧ y.faddr = p.faddr ∧ y.pend = [] ∧
      y.active = ~~~x.exited ∧ y.waiting = 0 ∧ y.exited = x.exited ∧ y.pc = x.pc.map (fun _ => x.trapbase.toNat) ∧
      y.s 0 = BitVec.ofNat 32 x.saveArea ∧ y.s 1 = BitVec.ofNat 32 (x.saveArea / 2 ^ 32) ∧
      (∀ r, 2 ≤ r → y.s r = x.s r) ∧ y.vreg = x.vreg ∧ y.pred = x.pred ∧ y.tile = x.tile ∧ y.fpctl = x.fpctl ∧
      y.wake = s.clk + 32 ∧ OthersSame s t w) ∧
  (delegated s w x p.code = false →
    ∃ t y, exec (.trapEntry w) s = .next t ∧ mfind t.warps w = some y ∧ y.captured = true ∧ y.tmode = x.tmode ∧
      y.cause = BitVec.ofNat 32 (p.code + 0xFF00) ∧ y.faddr = p.faddr ∧ y.pend = [] ∧ y.pc = x.pc ∧ y.active = x.active ∧
      y.sreg = x.sreg ∧ y.vreg = x.vreg ∧ OthersSame s t w ∧
      let rep : Report := ⟨2, [w, p.code, p.faddr.toNat]⟩
      if dutyOwned s (dieOf w) 2 then t.reports = rep :: s.reports
      else t.reports = s.reports ∧ ∀ d, mfind s.dies (dieOf w) = some d → ∃ d', mfind t.dies (dieOf w) = some d' ∧
        rep ∈ d'.toltarq)

/-- RETURNING FROM A TRAP (R83, R213, R379): RETT acts once its group has been executed: with the handler's own work drained and a
control record that passes the checks, holds no replay entry, no store fault and no pending cause, the step that runs it as the last
of its group leaves handler mode and the lanes stand as the record says. -/
def Obligations.TrapReturn : Prop := ∀ (f : LongF) (s : State) (c : IssueCtx) (x : Warp) (r : List Byte),
  Issuing s c x → c.act x (.rett f) ≠ 0 →
  exec (.rett f) s = .next (s.modWarp c.warp (fun y => { y with holds := y.holds ++ [.rett x.nextSeq c.pc] })) ∧
  ∀ pc w0 w1, s.pend = [(.rett f, pc, w0, w1)] → x.holds = [] → x.flights = [] → x.storeq = [] → x.unacked = [] →
  x.preemptReq = false → x.tmode.getLsbD 5 = false → capturing (s.core (coreOf c.warp)).dbg = false → vRead s x.asid x.saveArea 1024 = some r →
  field r 0x184 4 = 0 → field r 0x180 4 &&& field r 0x188 4 = 0 → field r 0x180 4 ||| field r 0x188 4 = 0xFFFFFFFF →
  x.entryExited &&& ~~~(BitVec.ofNat 32 (field r 0x188 4)) = 0 → field r 0x1C2 1 = 0 → field r 0x1C3 1 = 0 →
  field r 0x18C 4 / 65536 % 256 = 0 →
  ∃ t y, step s = .next t ∧ t.pend = [] ∧ mfind t.warps c.warp = some y ∧ y.tmode = x.tmode &&& ~~~(0xB : Word) ∧
    y.active = BitVec.ofNat 32 (field r 0x180 4) ∧ y.exited = BitVec.ofNat 32 (field r 0x188 4) ∧ y.waiting = 0 ∧
    (∀ l, l < 32 → y.pc.getD l 0 = x.codeBase + 4 * (field r (4 * l) 4 % 2 ^ 28)) ∧
    y.s 0 = BitVec.ofNat 32 (field r 0x198 4) ∧ y.s 1 = BitVec.ofNat 32 (field r 0x19C 4) ∧
    (∀ q, 2 ≤ q → y.s q = x.s q) ∧ y.vreg = x.vreg ∧ y.pred = x.pred ∧ OthersSame s t c.warp ∧ MemSame s t

/-- Special registers, stamps and counters (R42, R43, R214 to R216, R396). -/
def Obligations.SpecialRegisters : Prop := ∀ (f : LongF) (s : State) (c : IssueCtx) (x : Warp), Issuing s c x →
  let n := f.a.toNat
  let v := x.sn (srRegs n) (bReg f)
  (c.act x (.mfsr f) ≠ 0 → exec (.mfsr f) s = .next (inFlight s c x (c.act x (.mfsr f))
    (if n = 0 then vWrites 1 f.d.toNat (c.act x (.mfsr f)) id
     else if n = 0x0B then vWrites 1 f.d.toNat (c.act x (.mfsr f)) (fun l => x.fpstat.getD l 0)
     else sWrites (srRegs n) f.t.toNat (srRead s c.warp x n)) 6 [])) ∧
  (c.act x (.mtsr f) ≠ 0 → feCause c x (.mtsr f) = none → x.tmode.getLsbD 4 = false →
    let k := fun (j : Nat) => if j = 0 then 0 else max 4 (min 16 j)
    let y := match n with
      | 0x07 => some { x with prio := BitVec.ofNat 32 (v % 16) }
      | 0x0A => some { x with fpctl := BitVec.ofNat 32 (v &&& 0x3F01) }
      | 0x0B => some { x with fpstat := allLanes.map (fun l =>
          if (c.act x (.mtsr f)).getLsbD l then x.opB f 1 l % 64 else x.fpstat.getD l 0) }
      | 0x0C => some { x with trapbase := BitVec.ofNat 64 (v / 16 * 16) }
      | 0x0F => some { x with mctl := BitVec.ofNat 32 (v / 65536 % 2 * 65536 + k (v / 256 % 32) * 256 + k (v % 32)) }
      | 0x10 => some { x with mstat := x.mstat &&& ~~~(BitVec.ofNat 32 v) }
      | _ => none
    ∀ z, y = some z → exec (.mtsr f) s = .next (s.modWarp c.warp (fun _ => z))) ∧
  (c.act x (.cntstart f) ≠ 0 →
    let k := mget x.ctr (f.m.toNat % 16) CounterSet.fresh
    exec (.cntstart f) s = .next (s.modWarp c.warp (fun _ => { x with
      ctr := mset x.ctr (f.m.toNat % 16) { k with started := true, count := 0, switches := 0, base := totalOf s k.event } }))) ∧
  (c.act x (.cntstop f) ≠ 0 →
    let k := mget x.ctr (f.m.toNat % 16) CounterSet.fresh
    let n := if !k.started then 2 ^ 63 else
      min k.switches 255 * 2 ^ 48 + min (if k.isGlobal then totalOf s k.event - k.base else k.count) (2 ^ 48 - 1)
    exec (.cntstop f) s = .next ((inFlight s c x (c.act x (.cntstop f)) (sWrites 2 f.t.toNat n) 6 []).modWarp c.warp (fun x =>
      { x with ctr := mset x.ctr (f.m.toNat % 16) { k with
        started := false, count := min (if k.isGlobal && k.started then totalOf s k.event - k.base else k.count) (2 ^ 48 - 1) } }))) ∧
  (∀ pi e, c.act x (.stamp f) ≠ 0 → feCause c x (.stamp f) = none →
    heldEntry s c.warp x (x.s (bReg f)).toNat true true = some (pi, e) →
    let e2 := stampField s (f.m.toNat % 8) e
    exec (.stamp f) s = .next (stampSpill (s.modPipe x.plan pi (fun q => q.modEntry e.seq (fun _ => e2))) x.plan pi e2))


/-! Pipes (R221 to R229, R334 to R350). -/

/-- The six pipe instructions take a token and are accepted in order (R219, R221 to R228); PACQ is given the consumer's next
sequence, PCMT and PREL act on the entry their handle names.
The delay is log entry 2. -/
def Obligations.PipeInstructions : Prop := ∀ (f : LongF) (s : State) (c : IssueCtx) (x : Warp) (p : Plan) (q : PipeSt),
  let pi := f.m.toNat % 64
  let h := (x.s (bReg f)).toNat
  let own := pipeCount s c.warp x.plan < 8
  let prod := q.prodHere = true ∧ q.src = x.stage
  let cons := q.consHere = true ∧ q.dst = x.stage
  let accepts := fun (i : Instr) (k : Nat) (ev : Event) (sq : Option Nat) =>
    ∃ t y p' q' o, exec i s = .next t ∧ mfind t.warps c.warp = some y ∧ mfind t.plans x.plan = some p' ∧
      mfind p'.pipes pi = some q' ∧ q'.ops = q.ops ++ [o] ∧ q'.entries = q.entries ∧ q'.nextP = q.nextP ∧
      o.kind = k ∧ o.warp = c.warp ∧ o.reg = f.t.toNat ∧ o.wid = s.nextId ∧ o.seqNo = sq ∧
      (k = 2 → q'.nextC = if q.cHoles = [] then q.nextC + 1 else q.nextC) ∧ (k ≠ 2 → q'.nextC = q.nextC) ∧
      y.tokens = x.tokens ++ [⟨f.t.toNat, s.nextId, false⟩] ∧ sEmptyIn y.sE f.t.toNat = true ∧
      t.nextId = s.nextId + 1 ∧ (s.clk + s.lat.pipe, ev) ∈ t.agenda ∧ RegsSame x y ∧ OthersSame s t c.warp ∧ MemSame s t
  Issuing s c x → x.tmode.getLsbD 4 = false → mfind s.plans x.plan = some p → mfind p.pipes pi = some q →
  (feCause c x (.prsv f) = none → c.act x (.prsv f) ≠ 0 → prod → own → accepts (.prsv f) 0 (.prsvFill x.plan pi) none) ∧
  (∀ e, feCause c x (.pcmt f) = none → c.act x (.pcmt f) ≠ 0 → prod → h / 2 ^ 29 ≤ 2 →
    heldEntry s c.warp x h true false = some (pi, e) → accepts (.pcmt f) 1 (.pcmtCommit x.plan pi) (some e.seq)) ∧
  (feCause c x (.pacq f) = none → c.act x (.pacq f) ≠ 0 → cons → own →
    accepts (.pacq f) 2 (.pacqFill x.plan pi) (some (q.cHoles.headD q.nextC))) ∧
  (∀ e, feCause c x (.prel f) = none → c.act x (.prel f) ≠ 0 → cons →
    heldEntry s c.warp x h false true = some (pi, e) → accepts (.prel f) 3 (.prelRecord x.plan pi) (some e.seq)) ∧
  (feCause c x (.ppoll f) = none → c.act x (.ppoll f) ≠ 0 → prod ∨ cons →
    accepts (.ppoll f) 4 (.ppollSnapshot x.plan (.here pi)) none) ∧
  (feCause c x (.pclose f) = none → c.act x (.pclose f) ≠ 0 → prod ∨ cons →
    accepts (.pclose f) 5 (.pcloseRecord x.plan pi) none)

/-- The pipe unit, with one operation waiting: a PRSV reserves the next sequence in its slot, a PCMT commits its entry, a PACQ
acquires the entry of its sequence, a PREL frees the slot, PPOLL counts, PCLOSE closes an end (R223 to R228, R336 to R340). Of a
place-1 pipe PPOLL takes the consumer's count of filled slots and the producer's of free ones, the far side's from its answer.
Freed entries are taken to have no stamp record. -/
def Obligations.PipeUnit : Prop := ∀ (s : State) (p pi w : Nat) (x : Warp) (q : PipeSt) (o : PipeOp),
  s.pipe? p pi = some q → q.ops = [o] → o.warp = w → Waits s w x o.wid → (s.core o.core).revoked = false →
  let after := fun (t : State) (v : Nat) (P : PipeSt → Prop) =>
    (∃ q', t.pipe? p pi = some q' ∧ q'.ops = [] ∧ P q') ∧ Filled t w x o.reg v o.wid
  let entryIs := fun (q' : PipeSt) (n : Nat) (P : PipeEntry → Prop) => ∃ e, q'.entries.find? (fun a => a.seq == n) = some e ∧ P e
  (o.kind = 0 → q.pClosed = false → q.cClosed = false → slotFree q q.nextP = true →
    ∃ t, exec (.prsvFill p pi) s = .next t ∧ after t (pipeHandle 0 pi (q.nextP % q.depth) q.nextP) (fun q' =>
      q'.nextP = q.nextP + 1 ∧ q'.nextC = q.nextC ∧ ∃ e, q'.entries = q.entries ++ [e] ∧ e.seq = q.nextP ∧
        e.slot = q.nextP % q.depth ∧ e.state = 0 ∧ e.status = 0 ∧ e.holder = w ∧ e.producer = o.src ∧ e.reserve = s.gtime)) ∧
  (o.kind = 0 → (q.pClosed = true ∨ q.cClosed = true) →
    ∃ t, exec (.prsvFill p pi) s = .next t ∧ after t (pipeHandle 5 pi 0 0) (fun q' => q'.entries = q.entries ∧ q'.nextP = q.nextP)) ∧
  (∀ e, o.kind = 1 → (o.wait.look s).isDone s = true → o.tces = [] → q.cClosed = false → q.remote = none →
    q.entries.find? (fun a => some a.seq == o.seqNo) = some e → e.state = 0 →
    ∃ t, exec (.pcmtCommit p pi) s = .next t ∧ after t 0 (fun q' =>
      entryIs q' e.seq (fun a => a.state = 1 ∧ a.status = o.status ∧ a.slot = e.slot ∧ a.payload = e.payload))) ∧
  (∀ e n, o.kind = 2 → q.consHere = true → q.cClosed = false → o.seqNo = some n →
    q.entries.find? (fun a => some a.seq == o.seqNo && a.state == 1) = some e →
    ∃ t, exec (.pacqFill p pi) s = .next t ∧ after t (pipeHandle e.status pi e.slot e.seq) (fun q' =>
      entryIs q' n (fun a => a.state = 2 ∧ a.holder = w ∧ a.consumer = o.src ∧ a.payload = e.payload))) ∧
  (∀ e, o.kind = 3 → q.entries.find? (fun a => some a.seq == o.seqNo) = some e → e.spilled = none → e.stamp = 0 →
    (∀ a ∈ q.entries, a.state ≠ 3) →
    ∃ t, exec (.prelRecord p pi) s = .next t ∧ after t 0 (fun q' =>
      q'.entries = q.entries.filter (fun a => a.seq != e.seq) ∧
      mget q'.released e.slot 0 = max (mget q.released e.slot 0) (e.seq + 1)) ∧ (s.clk, Event.prsvFill p pi) ∈ t.agenda) ∧
  (let poll := fun (filled free : Nat) => (if q.pClosed || q.cClosed then 5 else 0) * 2 ^ 29 + filled % 8192 * 2 ^ 13 + free % 8192
   o.kind = 4 →
    (q.remote = none ∨ q.pClosed = true ∨ q.cClosed = true →
      ∃ t, exec (.ppollSnapshot p (.here pi)) s = .next t ∧
        after t (poll (pipeFilled q) (pipeFree q)) (fun q' => q'.entries = q.entries)) ∧
    (∀ dev cons, q.remote = some (dev, cons) → q.pClosed = false → q.cClosed = false →
      exec (.ppollSnapshot p (.here pi)) s = .next (s.tell 36 [dev, p, pi])) ∧
    (∀ n, q.remote ≠ none → ∃ t, exec (.ppollSnapshot p (.answer pi n)) s = .next t ∧
      after t (if q.consHere then poll (pipeFilled q) n else poll n (pipeFree q)) (fun q' => q'.entries = q.entries))) ∧
  (o.kind = 5 → (∀ a ∈ q.entries, a.stamp = 0) →
    ∃ t, exec (.pcloseRecord p pi) s = .next t ∧ after t 0 (fun q' =>
      if q.prodHere = true ∧ q.src = o.stage then q'.pClosed = true ∧ q'.cClosed = q.cClosed ∧ q'.entries = q.entries
      else q'.cClosed = true ∧ q'.pClosed = q.pClosed ∧ ∀ a ∈ q'.entries, a ∈ q.entries ∧ a.state ≠ 1))

/-- The far end of a pipe between devices (R342 to R344): the ends match or close, a vacate and a commit arrive, a lost path
closes the far end.
A mismatch is the model's report 8, log entry 57. -/
def Obligations.RemotePipes : Prop := ∀ (s : State) (p pi dev : Nat) (consumer : Bool) (q : PipeSt),
  s.pipe? p pi = some q → q.remote = some (dev, consumer) →
  (∀ peer : PeerPipe, let same := peer.dev = dev ∧ peer.names = s.device ∧ peer.prod = consumer ∧ peer.depth = q.depth ∧ peer.bytes = q.bytes ∧
      peer.rows = q.rows ∧ peer.cols = q.cols ∧ peer.fmt = q.fmt ∧ (s.stage? p peer.stage).isSome = true
    ∃ t q', exec (.pipeMatch p pi peer) s = .next t ∧ t.pipe? p pi = some q' ∧
      (same → q'.matched = true ∧ q'.pClosed = (q.pClosed || (peer.closed && consumer)) ∧
        q'.cClosed = (q.cClosed || (peer.closed && !consumer))) ∧
      (¬same → q'.pClosed = true ∧ q'.cClosed = true ∧ ⟨8, [p, pi]⟩ ∈ t.reports)) ∧
  (∀ slot (mark : VacateMark), consumer = false → slot < q.depth →
    ∃ t q', exec (.pipeVacateMirror p pi slot mark) s = .next t ∧ t.pipe? p pi = some q' ∧
      mget q'.released slot 0 = max (mget q.released slot 0) (mark.seq + 1) ∧
      ∀ e, e ∈ q'.entries ↔ ∃ a ∈ q.entries, e = markOver mark a ∧
        ¬(a.slot = slot ∧ ((a.seq = mark.seq ∧ mark.left = true) ∨ (a.seq < mark.seq ∧ a.wasSpilled = false)))) ∧
  (∀ seq (mark : CommitMark) payload, consumer = true → q.cClosed = false → (∀ e ∈ q.entries, e.seq ≠ seq) →
    ∃ t q' e, exec (.commitArrival p pi seq mark payload) s = .next t ∧ t.pipe? p pi = some q' ∧ e ∈ q'.entries ∧
      e.seq = seq ∧ e.state = 1 ∧ e.status = mark.status % 4 ∧ e.producer = mark.producer ∧ e.stamp = mark.stamp ∧
      e.reserve = mark.reserve ∧ (∀ i, i < 8 → e.offs.getD i 0 = mark.offs.getD i 0xFFFFFFFF) ∧ q'.nextP = max q.nextP (seq + 1) ∧
      (∀ i, i < q.bytes → memByte e.payload i = payload.getD i 0) ∧ (∀ a ∈ q.entries, a ∈ q'.entries)) ∧
  (∀ d, exec (.ppollSnapshot p (.asked d pi)) s =
    .next (s.tell 37 [d, p, pi, if q.consHere then pipeFilled q else pipeFree q])) ∧
  (∃ t q', exec (.pipeLinkLoss p pi) s = .next t ∧ t.pipe? p pi = some q' ∧ q'.entries = q.entries ∧
    (consumer = true → q'.pClosed = true ∧ q'.cClosed = q.cClosed) ∧
    (consumer = false → q'.cClosed = true ∧ q'.pClosed = q.pClosed))

/-- The search for deadlocks and their drain (R348 to R350): a set of stages blocked longer than the plan's window is reported, one
at a time; a cycle found twice starts the drain, else the search begins anew a window later; a drain step spills one committed entry
of a full pipe stored here, or asks the peer that stores it; a token that fills within 1 µs ends it, and so does a round that
spills nothing, the cycle being recorded. What the peers say of their stages is kept with the plan.
The reports are the model's, log entry 57, the delays log entry 2, the peers' part log entry 38. -/
def Obligations.DeadlockSearch : Prop := ∀ (s : State) (p : Nat) (pl : Plan), mfind s.plans p = some pl →
  let busy := pl.drain.isSome = true ∨ probing s pl = true
  let edges := fun (c : List ProbeEdge) => c.flatMap (fun e => [e.dev, e.plan, e.stage, e.pipe, e.kind, e.seq])
  let window := max 1 (clkOfNs ((1000 * pl.window + 1) * 1000 / 1001))
  let ended := fun (t : State) (q : Plan) => (s.clk, Event.deadlockReport ⟨p, []⟩) ∈ t.agenda ∧ q.drain = none ∧ q.probe = none
  (∀ far, far ≠ [] → exec (.deadlockReport ⟨p, far⟩) s =
    exec (.deadlockReport ⟨p, []⟩) (s.modPlan p (fun q => { q with far := far }))) ∧
  (∀ l, ¬busy → pl.quiet ≤ s.gtime → reportable s p pl pl.far = some l →
    ∃ t, exec (.deadlockReport ⟨p, []⟩) s = .next t ∧
      t.reports = ⟨10, p :: l.flatMap (fun n => [n.1, n.2.1, n.2.2])⟩ :: s.reports ∧
      (s.clk + s.lat.toltar, Event.deadlockProbe ⟨p, []⟩) ∈ t.agenda ∧
      mfind t.plans p = some { pl with reported := some s.gtime, probe := none } ∧ t.warps = s.warps) ∧
  (busy ∨ s.gtime < pl.quiet ∨ reportable s p pl pl.far = none →
    ∃ t, exec (.deadlockReport ⟨p, []⟩) s = .next t ∧ t.reports = s.reports ∧ t.plans = s.plans ∧ t.warps = s.warps ∧
      (busy → (s.clk + s.lat.toltar, Event.deadlockReport ⟨p, []⟩) ∈ t.agenda)) ∧
  (∀ l, pl.probe = none → reportable s p pl pl.far = some l → probeCycle s pl.far l ≠ [] →
    ∃ t, exec (.deadlockProbe ⟨p, []⟩) s = .next t ∧ mfind t.plans p = some { pl with probe := some (probeCycle s pl.far l) } ∧
      if crosses s (probeCycle s pl.far l) then t.reports = ⟨38, p :: edges (probeCycle s pl.far l)⟩ :: s.reports
      else (s.clk + s.lat.toltar, Event.deadlockProbe ⟨p, []⟩) ∈ t.agenda) ∧
  (∀ c far, pl.probe = some c → pl.drain = none → (crosses s c = true → far ≠ []) →
    let known := if far = [] then pl.far else far
    let s' := if far = [] then s else s.modPlan p (fun q => { q with far := far })
    let waits := ∀ e ∈ c, ∃ a ∈ nodeWaits s' known e.node, a.1 = e.pipe ∧ a.2.1 = e.kind ∧ a.2.2.1 = e.seq
    (waits → ∃ t, exec (.deadlockProbe ⟨p, far⟩) s = .next t ∧ (s.clk, Event.deadlockDrain (.turn p)) ∈ t.agenda ∧
      mfind t.plans p = some { pl with far := known, drain := some ⟨0, false, none, false⟩ }) ∧
    (¬waits → ∃ t, exec (.deadlockProbe ⟨p, far⟩) s = .next t ∧
      (s.clk + window, Event.deadlockReport ⟨p, []⟩) ∈ t.agenda ∧
      mfind t.plans p = some { pl with far := known, probe := none, quiet := s.gtime + 1000 * pl.window + 1 })) ∧
  (∀ c pos any key plan pi, pl.probe = some c → pl.drain = some ⟨pos, any, none, false⟩ →
    (fullPipes s c)[pos]? = some (key, plan, pi) →
    ∃ t, exec (.deadlockDrain (.turn p)) s = .next t ∧ ∃ pl', mfind t.plans p = some pl' ∧
      match plan with
      | none => pl' = { pl with drain := some ⟨pos + 1, any, none, true⟩ } ∧
          t.reports = ⟨31, p :: key :: pi :: edges c⟩ :: s.reports
      | some pp => match spillOne s pp pi with
        | some (true, _) => pl'.drain = some ⟨pos + 1, true, some s.gtime, false⟩ ∧
            (s.clk + clkOfNs 999, Event.deadlockDrain (.turn p)) ∈ t.agenda
        | _ => pl' = { pl with drain := some ⟨pos + 1, any, none, false⟩ } ∧
            (s.clk, Event.deadlockDrain (.turn p)) ∈ t.agenda) ∧
  (∀ c pos, pl.probe = some c → pl.drain = some ⟨pos, false, none, false⟩ → (fullPipes s c).length ≤ pos →
    ∃ t q, exec (.deadlockDrain (.turn p)) s = .next t ∧ t.reports = ⟨11, [p]⟩ :: s.reports ∧ mfind t.plans p = some q ∧
      ended t q ∧ q.unresolved = c :: pl.unresolved) ∧
  (∀ c pos any since, pl.probe = some c → pl.drain = some ⟨pos, any, some since, false⟩ →
    (∃ e ∈ c, e.dev = s.device ∧ filledSince s e.plan e.stage since = true) →
    ∃ t q, exec (.deadlockDrain (.turn p)) s = .next t ∧ mfind t.plans p = some q ∧ ended t q ∧ t.reports = s.reports) ∧
  (∀ d spilled filled, pl.drain = some d → d.asked = true →
    ∃ t q, exec (.deadlockDrain (.told p spilled filled)) s = .next t ∧ mfind t.plans p = some q ∧
      if filled then ended t q
      else q.drain = some { d with any := d.any || spilled, asked := false } ∧ (s.clk, Event.deadlockDrain (.turn p)) ∈ t.agenda)


/-! The tensor copy engine and the matrix engine (R230 to R246, R355 to R366). -/

/-- TCOPY is queued with its token (R230); the engine, at its oldest copy, moves scratchpad bytes as the descriptor says and
reports 0, or reports code 1 where the descriptor breaks R231 (R231 to R234). Stated of an issuer that is not being terminated.
The delay is log entry 2. -/
def Obligations.TensorCopy : Prop :=
  (∀ (f : LongF) s c x, Issuing s c x → x.tmode.getLsbD 4 = false → feCause c x (.tcopy f) = none → c.act x (.tcopy f) ≠ 0 →
    readableCause s c.warp x.asid (x.s64 (bReg f)) 256 = none →
    ∃ t y q, exec (.tcopy f) s = .next t ∧ mfind t.warps c.warp = some y ∧
      (t.core (coreOf c.warp)).tce = (s.core (coreOf c.warp)).tce ++ [q] ∧ q.warp = c.warp ∧ q.reg = f.t.toNat ∧
      q.wid = s.nextId ∧ q.desc = x.s64 (bReg f) ∧ q.asid = x.asid ∧ sEmptyIn y.sE f.t.toNat = true ∧
      y.tokens = x.tokens ++ [⟨f.t.toNat, s.nextId, false⟩] ∧
      (s.clk + s.lat.tce, Event.tcopyComplete (coreOf c.warp)) ∈ t.agenda ∧ RegsSame x y ∧ OthersSame s t c.warp ∧
      MemSame s t) ∧
  let described := fun (s : State) (core : Nat) (q : TceCmd) (e : TlbEntry) => s.msgs = [] ∧ e.r = true ∧ q.desc + 256 ≤ 2 ^ 57 ∧
    ∀ i, i < 256 → coreXlate s core q.asid (q.desc + i) = some e ∧ homeDown s (dieOfCore core) (e.key s (q.desc + i)) = false ∧
      homeErr s (e.key s (q.desc + i)) 1 = false
  let bytes := fun (s : State) (q : TceCmd) (e : TlbEntry) => (List.range 256).map (fun i => cohByte s (e.key s (q.desc + i)))
  (∀ s core (q : TceCmd) rest x e d n, (s.core core).tce = q :: rest → Waits s q.warp x q.wid → x.termReq = false → described s core q e →
    copyDesc (bytes s q e) = some d → d.sspace = 1 → d.dspace = 1 → d.conv = 0 → d.wmode = 0 →
    d.ssw = 0 → d.dsw = 0 → d.dims = [(n, (d.esize : Int), (d.esize : Int))] → d.src < 2 ^ 19 → d.dst < 2 ^ 19 →
    d.src + n * d.esize ≤ (s.core core).spad → d.dst + n * d.esize ≤ (s.core core).spad →
    (d.src + n * d.esize ≤ d.dst ∨ d.dst + n * d.esize ≤ d.src) →
    (∀ i, i < n * d.esize → mget (s.core core).eccBad (d.src + i) false = false) →
    ∃ t, exec (.tcopyComplete core) s = .next t ∧ Filled t q.warp x q.reg 0 q.wid ∧
      (∀ i, i < n * d.esize → memByte (t.core core).opst (d.dst + i) = memByte (s.core core).opst (d.src + i)) ∧
      (∀ a, a < d.dst ∨ d.dst + n * d.esize ≤ a → memByte (t.core core).opst a = memByte (s.core core).opst a)) ∧
  (∀ s core (q : TceCmd) rest x e, (s.core core).tce = q :: rest → Waits s q.warp x q.wid → x.termReq = false → described s core q e →
    copyDesc (bytes s q e) = none →
    ∃ t, exec (.tcopyComplete core) s = .next t ∧ Filled t q.warp x q.reg (2 ^ 24) q.wid ∧
      ∀ a, memByte (t.core core).opst a = memByte (s.core core).opst a)

/-- MCFG loads a tile register whose descriptor passes the checks of R238, MREL frees one; a busy register traps (R238, R239). -/
def Obligations.TileRegisters : Prop := ∀ (f : LongF) (s : State) (c : IssueCtx) (x : Warp), Issuing s c x →
  let t := tileOf x (bReg f)
  let lim := (s.core (coreOf c.warp)).spad + (s.core (coreOf c.warp)).stash
  (c.act x (.mcfg f) ≠ 0 → feCause c x (.mcfg f) = none → t.base % 64 = 0 → t.stride % 64 = 0 → t.stride ≠ 0 →
    t.wmoff % 64 = 0 → t.base + t.rows * t.stride ≤ lim → (t.wmv = true → t.wmoff + 2 * t.rows * t.stride / 64 ≤ lim) →
    mget x.busy f.d.toNat 0 = 0 →
    exec (.mcfg f) s = .next (s.modWarp c.warp (fun _ => { x with tile := mput x.tile f.d.toNat t 0 }))) ∧
  (c.act x (.mrel f) ≠ 0 → mget x.busy f.d.toNat 0 = 0 →
    exec (.mrel f) s = .next (s.modWarp c.warp (fun _ => { x with tile := mdel x.tile f.d.toNat }))) ∧
  (c.act x (.mrel f) ≠ 0 → mget x.busy f.d.toNat 0 ≠ 0 →
    exec (.mrel f) s = .next (trapAtIssue s c 0x0A (BitVec.ofNat 64 f.d.toNat)))

/-- The matrix commands are accepted by a context that no stage owns or their own does (R239 to R245, R361): at the queue's end,
with their token, their tile register busy. -/
def Obligations.MatrixCommandsIssue : Prop := ∀ (f : LongF) (s : State) (c : IssueCtx) (x : Warp), Issuing s c x →
  c.warp < 49152 → x.tmode.getLsbD 4 = false →
  let n := if f.m.getLsbD 0 then 1 else 0
  let old := s.ctx (coreOf c.warp) n
  let d := f.d.toNat
  let accepted := fun (t : State) (y : Warp) (cmd : RmeCmd) =>
    mfind t.warps c.warp = some y ∧ RegsSame x y ∧ MemSame s t ∧ (t.ctx (coreOf c.warp) n).tag = some x.tag ∧
    ∃ e, (t.ctx (coreOf c.warp) n).queue = (if old.tag.isSome then old.queue else []) ++ [e] ∧ e.cmd = cmd ∧
      e.warp = c.warp ∧ e.reg = f.t.toNat ∧ e.phase = 0 ∧ e.panel = 0 ∧ e.traps = c.mctl.getLsbD 16
  let token := fun (y : Warp) => sEmptyIn y.sE f.t.toNat = true ∧ y.tokens = x.tokens ++ [⟨f.t.toNat, s.nextId, false⟩]
  (old.tag = none ∨ old.tag = some x.tag) →
  (feCause c x (.mload f) = none → c.act x (.mload f) ≠ 0 →
    ∃ t y, exec (.mload f) s = .next t ∧ accepted t y (.mload (x.t d) d) ∧ token y ∧
      mget y.busy d 0 = mget x.busy d 0 + 1 ∧ OthersSame s t c.warp) ∧
  (feCause c x (.mloop f) = none → c.act x (.mloop f) ≠ 0 → f.m.getLsbD 2 = false → old.bindReg = none →
    ∃ t y, exec (.mloop f) s = .next t ∧ token y ∧ mget y.busy d 0 = mget x.busy d 0 + 1 ∧ OthersSame s t c.warp ∧
      accepted t y (.mloop (x.t d) d f.a.toNat ((List.range 4).map (fun i => x.s (bReg f + i))) (f.m.getLsbD 1) none)) ∧
  (∀ gi g, feCause c x (.mloop f) = none → c.act x (.mloop f) ≠ 0 → f.m.getLsbD 2 = true →
    let p3 := (x.s (bReg f + 3)).toNat
    let b := p3 % 16
    x.group? (p3 / 16 % 4) = some gi → mfind s.groups gi = some g →
    ∃ t y g', exec (.mloop f) s = .next t ∧ token y ∧ mfind t.groups gi = some g' ∧
      mget g'.engines (16 * mget g.phases b 0 + b) 0 = mget g.engines (16 * mget g.phases b 0 + b) 0 + 1 ∧
      accepted t y (.mloop (x.t d) d f.a.toNat ((List.range 4).map (fun i => x.s (bReg f + i))) (f.m.getLsbD 1)
        (some (gi, b, mget g.phases b 0)))) ∧
  (feCause c x (.mdrain f) = none → c.act x (.mdrain f) ≠ 0 →
    ∃ t y, exec (.mdrain f) s = .next t ∧ token y ∧ mget y.busy d 0 = mget x.busy d 0 + 1 ∧ OthersSame s t c.warp ∧
      accepted t y (.mdrain (x.t d) d f.a.toNat (f.m.toNat / 4 % 4)
        (if n = 0 then c.mctl.toNat % 32 else c.mctl.toNat / 256 % 32) c.pc)) ∧
  (feCause c x (.mzero f) = none → c.act x (.mzero f) ≠ 0 →
    ∃ t y, exec (.mzero f) s = .next t ∧ accepted t y (.mzero f.a.toNat) ∧ y.tokens = x.tokens ∧ OthersSame s t c.warp)

/-- The load port and the array (R242, R243, R357, R358): a panel goes into the macro, for an INT8 tile without watermarks its
bytes as signed integers, column by column; a unit adds its contributions to its registers and moves the MLOOP on. -/
def Obligations.MatrixLoadAndLoop : Prop := ∀ (s : State) (c n : Nat) (e : RmeEntry), mainHead (s.ctx c n) = some e →
  e.due ≤ s.clk → (∀ a ∈ (s.ctx c n).queue, a.seq = e.seq → a = e) → (∀ v ∈ s.warps, v.2.holds = []) →
  (∀ (tile : Tile) r bt, (s.core c).portBusy = some n → e.phase = 1 → e.cmd = .mload bt r → (s.ctx c n).bind = some tile →
    let got := loadPanel (s.core c) (s.ctx c n) tile 0
    ∃ t k e', exec (.panelLoad c) s = .next t ∧ t.ctx c n = k ∧ k = { got.1 with queue := k.queue } ∧
      (t.core c).portBusy = none ∧ mainHead k = some e' ∧
      e' = { e with flags := e.flags ||| got.2.1, ecc := e.ecc || got.2.2, phase := 3 } ∧
      (s.clk, Event.mloadComplete c n) ∈ t.agenda ∧ t.warps = s.warps ∧
      (tile.sw = 0 → tile.wmv = false → tile.fmt = 2 → tile.base % 64 = 0 → tile.stride % 64 = 0 → tile.cols ≤ tile.stride →
        (∀ a, mget (s.core c).eccBad a false = false) → k.panel = some 0 ∧ ∀ col i, col < 128 → i < 128 →
        mget k.bmac (128 * col + i) 0 =
          if col < tile.rows ∧ i < tile.cols then (opByte (s.core c) (tile.base + col * tile.stride + i)).toInt else 0)) ∧
  (∀ (tile : Tile) r a p bt arr, (s.core c).arrBusy = some n → e.phase = 2 → e.cmd = .mloop tile r a p bt arr →
    (s.ctx c n).armed = false →
    let par := mloopPar p
    let steps := unitSteps (s.core c) (s.ctx c n) tile a par e.panel
    ∃ t e', exec (.arrayUnit c) s = .next t ∧ (t.core c).arrBusy = none ∧ mainHead (t.ctx c n) = some e' ∧
      (t.ctx c n).accs = (steps.foldl (fun k st => setAccs k st.acc (stepAccs k bt st)) (s.ctx c n)).accs ∧
      (t.ctx c n).bmac = (s.ctx c n).bmac ∧ (t.ctx c n).exps = (s.ctx c n).exps ∧ e'.panel = e.panel + 1 ∧
      e'.phase = (if par.panels ≤ e.panel + 1 then 3 else 0) ∧
      (par.panels ≤ e.panel + 1 → (s.clk + 12, Event.mloopComplete c n) ∈ t.agenda))

/-- A matrix command that is over fills its token with its MSTAT bits and frees its tile register (R239, R240, R359); a drain
converts for 16 clk, writes 24 clk later, and leaves every element of its 8 by 128 tile where R244 puts it. -/
def Obligations.MatrixCompletion : Prop := ∀ (s : State) (c n : Nat) (e : RmeEntry) (x : Warp),
  (∀ v ∈ s.warps, v.2.holds = []) → Waits s e.warp x e.wid → e.due ≤ s.clk →
  let ended := fun (t : State) (r : Nat) =>
    Filled t e.warp x e.reg (boolNat e.ecc * 5 * 2 ^ 24 + e.flags) e.wid ∧
    (t.ctx c n).queue = (s.ctx c n).queue.filter (fun a => a.seq != e.seq) ∧
    ∃ y, mfind t.warps e.warp = some y ∧ mget y.busy r 0 = mget x.busy r 0 - 1 ∧ y.mstat = x.mstat ||| BitVec.ofNat 32 e.flags
  (∀ tile r, mainHead (s.ctx c n) = some e → e.cmd = .mload tile r → e.phase = 3 →
    ∃ t, exec (.mloadComplete c n) s = .next t ∧ ended t r ∧ MemSame s t) ∧
  (∀ tile r a p bt, mainHead (s.ctx c n) = some e → e.cmd = .mloop tile r a p bt none → e.bind = none → e.phase = 3 →
    ∃ t, exec (.mloopComplete c n) s = .next t ∧ ended t r ∧ MemSame s t) ∧
  (∀ a, mainHead (s.ctx c n) = some e → e.cmd = .mzero a → e.phase = 3 →
    ∃ t, exec (.mloopComplete c n) s = .next t ∧
      (t.ctx c n).queue = (s.ctx c n).queue.filter (fun a => a.seq != e.seq) ∧ MemSame s t) ∧
  (∀ (tile : Tile) r a mode k pc, n < 2 → (s.ctx c n).queue = [e] → (s.ctx c (1 - n)).queue = [] → e.cmd = .mdrain tile r a mode k pc →
    e.phase = 1 → ∃ t, exec (.mdrainComplete c) s = .next t ∧
      (t.ctx c n).queue = [{ e with phase := 3, due := s.clk + 24 }] ∧
      (s.clk + 24, Event.mdrainComplete c) ∈ t.agenda ∧ t.warps = s.warps ∧ MemSame s t) ∧
  (∀ (tile : Tile) r a mode k pc, n < 2 → (s.ctx c n).queue = [e] → (s.ctx c (1 - n)).queue = [] → e.cmd = .mdrain tile r a mode k pc →
    e.phase = 3 → mode < 4 → tile.sw = 0 → tile.wmv = false → 128 * drainSize mode ≤ tile.stride →
    tile.base + 8 * tile.stride ≤ (s.core c).spad → risingFrom 0 e.snap = true →
    let elem := fun (row col : Nat) => drainElem mode e.snapE (mget e.snap (1024 * a + 128 * row + col) accZero)
    (∀ row col, row < 8 → col < 128 → (elem row col).2 &&& mChk = 0) →
    ∃ t, exec (.mdrainComplete c) s = .next t ∧ (t.ctx c n).queue = [] ∧
      (∀ row col, row < 8 → col < 128 → memRead (t.core c).opst (tile.base + row * tile.stride + col * drainSize mode)
        (drainSize mode) = leBytes (drainSize mode) (elem row col).1) ∧
      (∀ adr, (∀ row, row < 8 → adr < tile.base + row * tile.stride ∨
        tile.base + row * tile.stride + 128 * drainSize mode ≤ adr) →
        memByte (t.core c).opst adr = memByte (s.core c).opst adr))

/-- Residues stand for their number (R65, R66, R68): every signed number that fits is recovered from its residues, adding a
contribution adds, and an integer drain of a value in range gives that value (R69). -/
def Obligations.ResidueArithmetic : Prop :=
  let holds := fun (a : Acc) (v : Int) => (a.c1 : Int) = v % 65535 ∧ (a.c2 : Int) = v % 65536 ∧ (a.c3 : Int) = v % 65537 ∧
    (a.c4 : Int) = v % 31
  let fits := fun (v : Int) => -(2 ^ 47 - 2 ^ 15) ≤ v ∧ v < 2 ^ 47 - 2 ^ 15
  (∀ v : Int, fits v → crt48 (v % 65535).toNat (v % 65536).toNat (v % 65537).toNat = v) ∧
  (∀ a v p, holds a v → holds (accAdd a p) (v + p)) ∧
  (∀ a v, holds a v → fits v → a.poison = false → a.bad = false → -(2 ^ 31) ≤ v → v < 2 ^ 31 →
    drainElem 2 0 a = ((BitVec.ofInt 32 v).toNat, 0))

/-- The shadow unit and the matrix control port (R72, R363, R366, R419): a recomputed sample makes one deviation record; a save
empties and zeroes the context, a restore fills an empty one and refuses any other. -/
def Obligations.ShadowAndControlPort : Prop := ∀ (s : State) (c : Nat),
  (∀ j, (s.core c).shadow = some j → j.due ≤ s.clk →
    exec (.shadowSample c) s = .next (devPut (s.modCore c (fun k => { k with shadow := none })) j.asid
      (let r := shadowResult j
       leBytes 8 j.gtime ++ leBytes 4 j.dnum ++ leBytes 2 r.1 ++ leBytes 1 1 ++ leBytes 1 (j.ctx + 2 * j.acc) ++ leBytes 4 r.2.1 ++
         leBytes 4 r.2.2 ++ leBytes 2 (c % 96) ++ leBytes 1 (c / 96) ++ leBytes 5 0))) ∧
  (let n := (s.core c).mcpCmd.toNat % 2
   (s.core c).mcpStat.getLsbD 0 = true → (s.ctx c n).queue = [] →
   ((s.core c).mcpCmd.getLsbD 1 = false → ∃ t, exec (.mcpSave c) s = .next t ∧ t.ctx c n = RmeCtx.fresh ∧
      (t.core c).mcpStat = 2 ∧ (NoRegistration s → t.warps = s.warps) ∧
      t.hbm = (homeWrite s (s.core c).mcpAddr.toNat (ctxImage (s.ctx c n))).hbm ∧
      t.l2 = (homeWrite s (s.core c).mcpAddr.toNat (ctxImage (s.ctx c n))).l2) ∧
   (s.msgs = [] → (s.core c).mcpCmd.getLsbD 1 = true → (s.ctx c n).tag = none → ∃ t, exec (.mcpRestore c) s = .next t ∧
      t.ctx c n = imageCtx (homeRead s none (s.core c).mcpAddr.toNat 99136).1 ∧ (t.core c).mcpStat = 2 ∧ t.warps = s.warps) ∧
   ((s.core c).mcpCmd.getLsbD 1 = true → (s.ctx c n).tag ≠ none → ∃ t, exec (.mcpRestore c) s = .next t ∧
      t.ctx c n = s.ctx c n ∧ (t.core c).mcpStat = 4 ∧ t.warps = s.warps))


/-! Memory after issue (R159 to R191, R268 to R286). -/

/-- A load from the scratchpad or from L1 copies, and an atomic of a scratchpad location, perform (R167, R177 to R179): the
value is in the destination's lanes, an atomic's location holds the new one, and nothing else of the store changes. -/
def Obligations.ReadsPerform : Prop := ∀ (s : State) (w r : Nat) (x : Warp) (f : Flight) (m : LaneMask) (adr : Nat → Nat)
    (old : LaneVec),
  let k := s.core (coreOf w)
  MayPerform s w x f → f.writes = [.v r m old] → f.acc = (lanesOf m).map (fun l => ⟨l, adr l, []⟩) →
  let got := fun (t : State) (v : Nat → Word) => ∃ y, mfind t.warps w = some y ∧
    y.flights = x.flights.filter (fun g => g.seq != f.seq) ∧
    (∀ l, l < 32 → y.v r l = if m.getLsbD l then v l else x.v r l) ∧ (∀ q l, q ≠ r → y.v q l = x.v q l) ∧
    vEmptyIn y.vE r &&& m = 0 ∧ y.sreg = x.sreg ∧ y.pred = x.pred ∧ y.pc = x.pc ∧ OthersSame s t w
  (∀ size signed, 1 ≤ size → size ≤ 4 → f.kind = .load .spad size signed → (∀ l ∈ lanesOf m, adr l + size ≤ k.spad ∧ adr l < k.spad) →
    (∀ l ∈ lanesOf m, ∀ i, i < size → mget k.eccBad (adr l + i) false = false) →
    ∃ t, exec (.loadReturn w f.seq) s = .next t ∧ MemSame s t ∧
      got t (fun l => BitVec.ofNat 32 (extendLoad size signed (memRead k.opst (adr l) size)))) ∧
  (∀ size signed (e : Nat → TlbEntry), 1 ≤ size → size ≤ 4 → f.kind = .load .global size signed →
    (∀ l ∈ lanesOf m, adr l < 2 ^ 57 ∧ adr l % 65536 + size ≤ 65536 ∧ coreXlate s (coreOf w) x.asid (adr l) = some (e l) ∧
      (e l).r = true ∧ ∀ i, i < size → l1Hit s (coreOf w) ((e l).key s (adr l + i)) = true ∧
        mget k.l1Bad ((e l).key s (adr l + i) / 4) false = false) →
    ∃ t, exec (.loadReturn w f.seq) s = .next t ∧ MemSame s t ∧ got t (fun l => BitVec.ofNat 32 (extendLoad size signed
      ((List.range size).map (fun i => l1Byte s (coreOf w) ((e l).key s (adr l + i))))))) ∧
  (∀ op l b a, f.kind = .atom op 1 .spad [b] → l < 32 → m = laneBit l → adr l = a → a % 4 = 0 → a + 4 ≤ k.spad →
    (∀ i, i < 4 → mget k.eccBad (a + i) false = false) →
    let was := BitVec.ofNat 32 (leNat (memRead k.opst a 4))
    let opnd := b.truncate 32
    let is := match op with
      | .add => was + opnd
      | .min => if opnd.ult was then opnd else was
      | .max => if was.ult opnd then opnd else was
      | .and => was &&& opnd
      | .or => was ||| opnd
      | .xor => was ^^^ opnd
      | .exch => opnd
      | .cas => if was = laneGet old l then opnd else was
    b < 2 ^ 32 →
    ∃ t, exec (.homeAtomic w f.seq) s = .next t ∧ got t (fun _ => was) ∧
      memRead (t.core (coreOf w)).opst a 4 = leBytes 4 is.toNat ∧ t.hbm = s.hbm ∧ t.l2 = s.l2 ∧
      ∀ c j, c ≠ coreOf w ∨ j < a ∨ a + 4 ≤ j → memByte (t.core c).opst j = memByte (s.core c).opst j)

/-- The oldest queued store leaves (R168, R269, R272): a scratchpad store is in the scratchpad; a global store whose L1 holds the
bytes is in the L1, registered, home memory standing; a failed one becomes a record while there is room (R169, R380). -/
def Obligations.StoresLeave : Prop := ∀ (s : State) (w : Nat) (x : Warp) (e : StoreEntry) (rest : List StoreEntry),
  mfind s.warps w = some x → w < 49152 → x.storeq = e :: rest → (∀ q ∈ rest, q.seq ≠ e.seq) → x.holds = [] →
  x.tmode.getLsbD 4 = false →
  let c := coreOf w
  let left := fun (t : State) (y : Warp) => mfind t.warps w = some y ∧ y.storeq = rest ∧ RegsSame x y ∧ OthersSame s t w
  (∀ l, e.fail = none → x.flights = [] → e.kind = .store → e.space = .spad → e.acc = [l] →
    l.addr + l.bytes.length ≤ (s.core c).spad → l.addr < (s.core c).spad →
    ∃ t y, exec (.storeQueueExit w) s = .next t ∧ left t y ∧ t.hbm = s.hbm ∧ t.l2 = s.l2 ∧
      (∀ i, i < l.bytes.length → memByte (t.core c).opst (l.addr + i) = l.bytes.getD i 0) ∧
      ∀ d a, d ≠ c ∨ a < l.addr ∨ l.addr + l.bytes.length ≤ a → memByte (t.core d).opst a = memByte (s.core d).opst a) ∧
  (∀ l p, e.fail = none → x.flights = [] → e.kind = .store → e.space = .global → e.acc = [l] → e.size = l.bytes.length →
    1 ≤ l.bytes.length → l.addr % 32 + l.bytes.length ≤ 32 → l.addr < 2 ^ 57 → coreXlate s c x.asid l.addr = some p →
    p.w = true → p.base % 32 = 0 → p.pa % 32 = 0 → p.dev = s.device → p.pa + p.size ≤ 2 ^ 39 → p.base ≤ l.addr → l.addr < p.base + p.size →
    l1Has s c (p.key s l.addr) = true →
    let key := p.key s l.addr
    ∃ t y, exec (.storeQueueExit w) s = .next t ∧ mfind t.warps w = some y ∧ y.storeq = rest ∧ RegsSame x y ∧
      t.hbm = s.hbm ∧ t.l2 = s.l2 ∧ t.words = s.words ∧
      (∀ i, i < l.bytes.length → l1Hit t c (key + i) = true ∧ l1Byte t c (key + i) = l.bytes.getD i 0) ∧
      (∀ a, a < key ∨ key + l.bytes.length ≤ a → l1Byte t c a = l1Byte s c a)) ∧
  (∀ r, e.fail = some r → x.termReq = false → x.tmode.getLsbD 0 = false → x.sfq.length < 16 →
    ∃ t y, exec (.storeFaultRecord w e.seq) s = .next t ∧ mfind t.warps w = some y ∧ y.sfq = x.sfq ++ [r] ∧ y.storeq = rest ∧
      (s.clk, Event.trapEntry w) ∈ t.agenda ∧ RegsSame x y ∧ MemSame s t)

/-- Messages at their homes (R272, R180, R181), those of other devices too, which may ring a queue (R274, R415, R431, R432), and the caches' own moves (R270, R273, R275): what every reader sees changes only
where a message writes; a registration names its core; RED.TRIG counts down and keeps its flags. -/
def Obligations.HomesAndCaches : Prop := ∀ (s : State), s.memWf = true →
  (∀ n x, mfind s.warps n = some x → x.holds = []) →
  (∀ id mm word c, msg? s id = some mm → mm.id = id → mm.body = .register word c → registrant s (word * 4) = none →
    ∃ t, exec (.registration id) s = .next t ∧ mfind t.words word = some (.reg c) ∧ (∀ n ∈ t.msgs, n.id ≠ id) ∧
      ∀ v, v ≠ word → mfind t.words v = mfind s.words v) ∧
  (∀ id mm word c, msg? s id = some mm → mm.id = id → mm.body = .notice word c → mfind s.words word = some (.regrd c) →
    ∃ t, exec (.readThroughNotice id) s = .next t ∧ mfind t.words word = some (.reg c) ∧
      mget t.vers (word / 8) 0 = mget s.vers (word / 8) 0 + 1) ∧
  (∀ word, s.msgs = [] → ∃ t, exec (.forwardedRead word) s = .next t ∧ t.warps = s.warps ∧
    (∀ c, mfind s.words word = some (.reg c) → mfind t.words word = some (.regrd c)) ∧ ∀ a, cohByte t a = cohByte s a) ∧
  (∀ id mm key bs, msg? s id = some mm → mm.id = id → mm.body = .through key bs → 2 ^ 54 ≤ key →
    (∀ i, i < bs.length → registrant s (key + i) = none) → NoRegistration s →
    ∃ t, exec (.remoteWriteThrough (.sent id)) s = .next t ∧ (∀ i, i < bs.length → memByte t.hbm (key + i) = bs.getD i 0) ∧
      ∀ a, a < key ∨ key + bs.length ≤ a → memByte t.hbm a = memByte s.hbm a) ∧
  (∀ id mm key lane v, msg? s id = some mm → mm.id = id → mm.body = .red .add 1 key 4 [(lane, v)] → key % 4 = 0 →
    key < 2 ^ 54 → registrant s key = none → NoRegistration s → overfull s (key / 128) 1 = [] →
    ∃ t, exec (.redPerform (.sent id)) s = .next t ∧
      cohBytes t key 4 = leBytes 4 ((leNat (cohBytes s key 4) + v.toNat) % 2 ^ 32) ∧
      ∀ a, a < key ∨ key + 4 ≤ a → cohByte t a = cohByte s a) ∧
  (∀ id mm key lane v, msg? s id = some mm → mm.id = id → mm.body = .trig key [(lane, v)] → key % 4 = 0 → key < 2 ^ 54 →
    registrant s key = none → NoRegistration s → overfull s (key / 128) 1 = [] →
    (∀ r ∈ allRecords s, r.place = none) →
    let was := leNat (cohBytes s key 4)
    0 < was % 2 ^ 24 →
    ∃ t, exec (.redTrigStep (.sent id)) s = .next t ∧
      cohBytes t key 4 = leBytes 4 ((was / 2 ^ 24 ||| v.toNat % 256) * 2 ^ 24 + (was % 2 ^ 24 - 1)) ∧
      (was % 2 ^ 24 = 1 → ∀ r ∈ allRecords t, r.regd = true → counterKey t r = some key → r.ready = true)) ∧
  (∀ dev pa op ty vals, let bs := vals.map (BitVec.ofNat 8)
    let write := exec (.remoteWriteThrough (.peer dev pa op ty vals)) s
    rangeStalls s pa (max 1 vals.length) = false → vals ≠ [] → vals.length ≤ 256 →
    (pa + vals.length ≤ 2 ^ 39 → write = .next { homeWrite s pa bs with
      reports := ⟨42, [dev, pa, vals.length]⟩ :: (homeWrite s pa bs).reports }) ∧
    (2 ^ 40 - 2 ^ 16 ≤ pa → pa < 2 ^ 40 →
      (vals.length = 64 → pa % 64 = 0 → ∃ t, write = .next t ∧ (s.clk, Event.notify bs) ∈ t.agenda ∧ t.warps = s.warps ∧
        t.notifyErr = s.notifyErr ∧ MemSame s t) ∧
      (vals.length ≠ 64 ∨ pa % 64 ≠ 0 → write = .next { s with notifyErr := s.notifyErr + 1 }))) ∧
  (∀ dev pa b, rangeStalls s pa 1 = false → pa % 4 = 0 → pa + 4 ≤ 2 ^ 39 → registrant s pa = none → s.msgs = [] →
    overfull s (pa / 128) 1 = [] →
    ∃ t, exec (.redPerform (.peer dev pa 0 1 [b])) s = .next t ∧ t.warps = s.warps ∧
      cohBytes t pa 4 = leBytes 4 ((leNat (cohBytes s pa 4) + b) % 2 ^ 32) ∧
      t.reports = ⟨28, [dev, pa, leNat (cohBytes s pa 4)]⟩ :: s.reports) ∧
  (∀ dev, exec (.remoteWriteThrough (.foreign dev)) s = .next { s with foreign := s.foreign + 1 }) ∧
  (∀ core word since, wroteAt s core word = some since → since + 4096 ≤ s.clk → registrant s (word * 4) = some core →
    word * 4 < 2 ^ 54 → risingFrom 0 (s.core core).slines = true → overfull s (word / 32) 1 = [] →
    ∃ t, exec (.l1Dryer core word) s = .next t ∧ registrant t (word * 4) = none ∧ t.warps = s.warps ∧
      ∀ a, cohByte t a = cohByte s a) ∧
  (∀ line ln, mfind s.l2 line = some ln →
    ∃ t, exec (.l2Dryer line) s = .next t ∧ (∃ l, mfind t.l2 line = some l ∧ l.dirty = 0) ∧ t.warps = s.warps ∧
      (∀ i, i < 128 → ln.dirty.getLsbD (i / 32) = true → memByte t.hbm (line * 128 + i) = memByte ln.data i) ∧
      ∀ a, cohByte t a = cohByte s a) ∧
  (∀ line ln, mfind s.l2 line = some ln → (∀ i, i < 32 → mfind s.words (line * 32 + i) = none) →
    (∀ i, i < 128 → ln.dirty.getLsbD (i / 32) = false → memByte ln.data i = memByte s.hbm (line * 128 + i)) →
    ∃ t, exec (.l2Eviction line) s = .next t ∧ mfind t.l2 line = none ∧ t.warps = s.warps ∧
      ∀ a, cohByte t a = cohByte s a) ∧
  (∀ core region tag, mfind (s.core core).l1 region = some tag → tag.reg = 0 → s.msgs = [] →
    exec (.l1Eviction core region) s = .next (s.modCore core (fun k => { k with l1 := mdel k.l1 region }))) ∧
  (∀ w grain x, mfind s.warps w = some x →
    ∃ t y, exec (.watchConfirm w grain) s = .next t ∧ mfind t.warps w = some y ∧ RegsSame x y ∧
      y.watch = x.watch.map (fun e =>
        if e.grain = grain ∧ e.state = .pending ∧ ∀ f ∈ x.flights, f.seq ≠ e.seq then
        { e with state := if e.ver = some (grainVer s e.size grain) then .confirmed else .struck } else e))

/-- Translation misses (R278 to R285, R417) and uncorrectable errors (R286): a leaf is installed, an invalid entry goes to the
fault queue, Toltar's journaled answer takes effect, an invalidated page translates nowhere, an error is kept where it hit.
The kinds of records are the model's, log entry 53. -/
def Obligations.TranslationAndErrors : Prop := ∀ (s : State),
  (∀ id k e n, s.msgs = [] → walk? s id = some k → k.declined = false → k.walker = some n → k.src < 49152 →
    (∀ q ∈ (s.die k.die).fq, q.2.walk ≠ id) → (walkOn s k.die k.asid k.va).1 = .leaf e →
    ∃ t, exec (.tableWalk id) s = .next t ∧ coreXlate t (coreOf k.src) k.asid k.va = some e ∧ walk? t id = none ∧
      t.hbm = s.hbm ∧ t.l2 = s.l2) ∧
  (∀ id k i n, s.msgs = [] → walk? s id = some k → k.declined = false → k.walker = some n →
    (∀ q ∈ (s.die k.die).fq, q.2.walk ≠ id) → (walkOn s k.die k.asid k.va).1 = .invalid →
    (List.range 32).find? (fun i => (mfind (s.die k.die).fq i).isNone) = some i →
    ∃ t q, exec (.tableWalk id) s = .next t ∧ mfind (t.die k.die).fq i = some q ∧ q.va = k.va ∧ q.asid = k.asid ∧
      q.src = walkSource s k ∧ q.kind = k.kind ∧ q.need = k.need ∧ q.walker = n ∧ q.walk = id ∧ t.warps = s.warps) ∧
  (∀ die idx a pte h e r, s.msgs = [] → mfind (s.die die).fq idx = some e → mget (s.die die).duties 0 0 = h + 1 →
    (mget s.pairs h (Pair.fresh .spare)).journal.find? (fun q => q.kind == 4 &&
      q.args == [die, idx, e.walk, a, pte.toNat] && !q.applied) = some r → r.mirrored = true → mfind s.newSpaces e.asid = none →
    ∃ t, exec (.fqrespReplay die idx a pte) s = .next t ∧ mfind (t.die die).fq idx = none ∧
      (s.clk, Event.tableWalk e.walk) ∈ t.agenda ∧ t.hbm = (homeWrite s a (leBytes 8 pte.toNat)).hbm ∧
      t.l2 = (homeWrite s a (leBytes 8 pte.toNat)).l2) ∧
  (∀ die idx h e r k, mfind (s.die die).fq idx = some e → mget (s.die die).duties 0 0 = h + 1 → walk? s e.walk = some k →
    (mget s.pairs h (Pair.fresh .spare)).journal.find? (fun q => q.kind == 4 && q.args == [die, idx, e.walk] && !q.applied) =
      some r → r.mirrored = true →
    ∃ t k', exec (.fqrespDecline die idx) s = .next t ∧ mfind (t.die die).fq idx = none ∧ walk? t e.walk = some k' ∧
      k'.declined = true ∧ k'.walker = none ∧ k'.va = k.va ∧ t.warps = s.warps) ∧
  (∀ asid va, s.msgs = [] → mfind s.newSpaces asid = none →
    ∃ t, exec (.tlbInvalidate asid va) s = .next t ∧ (∀ c, coreXlate t c asid va = none) ∧ t.warps = s.warps ∧
    (∀ c e, e ∈ (t.core c).tlb ↔ e ∈ (s.core c).tlb ∧ ¬(e.asid = asid ∧ e.base ≤ va ∧ va < e.base + e.size))) ∧
  (∀ asid va d q, mfind s.newSpaces asid = some d → d.asid = asid → (0, q) ∈ s.dies → s.msgs = [] →
    ∃ t, exec (.tlbInvalidate asid va) s = .next t ∧ t.space asid = some d ∧ t.warps = s.warps) ∧
  (∀ c a, ∃ t, exec (.eccError (.spad c a)) s = .next t ∧ mget (t.core c).eccBad a false = true ∧ t.warps = s.warps ∧
    (t.core c).opst = (s.core c).opst) ∧
  (∀ a, ∃ t, exec (.eccError (.home a)) s = .next t ∧ homeErr t a 1 = true ∧ t.warps = s.warps ∧ t.hbm = s.hbm) ∧
  (∀ c, ∃ t, exec (.eccError (.tlb c)) s = .next t ∧ (t.core c).tlb = [] ∧ t.warps = s.warps) ∧
  (∀ c n r e, ∃ t a, exec (.eccError (.accum c n r e)) s = .next t ∧ mfind (t.ctx c n).accs (1024 * r + e) = some a ∧
    a.bad = true ∧ ∀ mode, ((drainElem mode 0 a).2).testBit 0 = true) ∧
  (∀ c word tag, mfind (s.core c).l1 (word / 128) = some tag → tag.reg.getLsbD (word % 128) = true →
    ∃ t, exec (.eccError (.l1 c word)) s = .next t ∧ mget (t.core c).l1Bad word false = true ∧ (t.core c).l1 = (s.core c).l1) ∧
  (∀ c word tag, mfind (s.core c).l1 (word / 128) = some tag → tag.reg.getLsbD (word % 128) = false →
    ∃ t, exec (.eccError (.l1 c word)) s = .next t ∧ l1Hit t c (4 * word) = false ∧ t.warps = s.warps ∧ t.hbm = s.hbm) ∧
  (∀ d, ∃ t, exec (.eccError (.dieTlb d)) s = .next t ∧ (t.die d).tlb = [] ∧ (t.die d).wcache = [] ∧ t.warps = s.warps) ∧
  (∀ u, exec (.eccError (.corrected u)) s = .next { s with corrected := mset s.corrected u (mget s.corrected u 0 + 1) })


/-! Summaries (R247 to R264). -/

/-- Summary commands (R247 to R264): the nine instructions queue a command with its operands, an update takes a token, a query is in
flight with the lanes of its result empty; performed on a scratchpad summary, an update writes what its operation makes and fills the token with its
code and flags, distinct counts take the largest rank of each key and the larger of each register in a merge, a register above 55
makes the summary bad and leaves it unchanged, and HHTOP, DCEST and SKQ answer in the lanes of the query. Another device's command
on a summary homed here is performed and answered, or dropped and counted if the device is not a BR880.
The answer is the model's report 35, log entry 57. -/
def Obligations.Summaries : Prop :=
  (∀ (f : LongF) (s : State) (c : IssueCtx) (x : Warp),
  Issuing s c x → x.tmode.getLsbD 4 = false →
  let spad := f.m.getLsbD 2
  let adr := fun (r : Nat) => if spad then (x.s r).toNat else x.s64 r
  let queued := fun (i : Instr) (op : Nat) => feCause c x i = none → c.act x i ≠ 0 →
    let dst := adr (bReg f)
    let src := if op % 3 = 1 then adr (bReg f + 2) else dst
    sumCause s c.warp x.asid op dst spad (!sumQuery op) = none →
    sumCause s c.warp x.asid op src spad false = none →
    ∃ t y q, exec i s = .next t ∧ mfind t.warps c.warp = some y ∧
      (t.core (coreOf c.warp)).sumq = (s.core (coreOf c.warp)).sumq ++ [q] ∧ q.op = op ∧ q.warp = c.warp ∧
      q.wid = s.nextId ∧ q.coin = (if sumQuery op then 0 else f.m.toNat % 4) ∧ q.spad = spad ∧ q.dst = dst ∧ q.src = src ∧
      q.acc = (lanesOf (c.act x i)).map (fun l => (l, x.v f.a.toNat l)) ∧ q.lanes = c.act x i ∧
      (sumQuery op = false → q.reg = f.t.toNat ∧ sEmptyIn y.sE f.t.toNat = true ∧
        y.tokens = x.tokens ++ [⟨f.t.toNat, s.nextId, false⟩]) ∧
      (sumQuery op = true → q.reg = f.d.toNat ∧ q.seq = x.nextSeq ∧
        (∃ g, y.flights = x.flights ++ [g] ∧ g.seq = x.nextSeq ∧ g.kind = .query ∧ g.lanes = c.act x i) ∧ vEmptyIn y.vE f.d.toNat &&& c.act x i = c.act x i ∧
        (op = 5 → vEmptyIn y.vE (f.d.toNat + 1) &&& c.act x i = c.act x i)) ∧
      (s.clk + (if op % 3 = 1 then 64 else 8), Event.summaryPerform (.core (coreOf c.warp))) ∈ t.agenda ∧
      RegsSame x y ∧ OthersSame s t c.warp ∧ MemSame s t
  queued (.skadd f) 0 ∧ queued (.skmerge f) 1 ∧ queued (.skq f) 2 ∧ queued (.hhadd f) 3 ∧ queued (.hhmerge f) 4 ∧
  queued (.hhtop f) 5 ∧ queued (.dcadd f) 6 ∧ queued (.dcmerge f) 7 ∧ queued (.dcest f) 8) ∧
  (∀ (s : State) (core : Nat) (x : Warp) (q : SumCmd),
  let k := s.core core
  let n := sumSize q.op
  let src := if q.op % 3 = 1 then q.src else q.dst
  let d := memRead k.opst q.dst n
  k.sumq = [q] → (q.wait.look s).isDone s = true → q.spad = true → q.op < 9 →
  q.dst + n ≤ k.spad → src + n ≤ k.spad →
  (∀ i, i < n → mget k.eccBad (q.dst + i) false = false ∧ mget k.eccBad (src + i) false = false) →
  (sumQuery q.op = false → Waits s q.warp x q.wid →
    let o := sumUpdate q d (memRead k.opst src n) s.free
    ∃ t, exec (.summaryPerform (.core core)) s = .next t ∧ (t.core core).sumq = [] ∧
      Filled t q.warp x q.reg (o.code * 2 ^ 24 + boolNat o.nan * 2 ^ 16 + boolNat o.sat * 2 ^ 15 + min o.comps 255) q.wid ∧
      (o.bytes = none → ∀ a, memByte (t.core core).opst a = memByte k.opst a) ∧
      (∀ bs, o.bytes = some bs → (∀ i, i < bs.length → memByte (t.core core).opst (q.dst + i) = bs.getD i 0) ∧
        ∀ a, a < q.dst ∨ q.dst + bs.length ≤ a → memByte (t.core core).opst a = memByte k.opst a)) ∧
  (q.op = 6 → Waits s q.warp x q.wid → (∀ i, i < 1024 → (memByte k.opst (q.dst + i)).toNat ≤ 55) →
    let rank := fun (key : Nat) => let low := mix64 key % 2 ^ 54; if low = 0 then 55 else 54 - Nat.log2 low
    ∃ t, exec (.summaryPerform (.core core)) s = .next t ∧ Filled t q.warp x q.reg 0 q.wid ∧
      ∀ i, i < 1024 → (memByte (t.core core).opst (q.dst + i)).toNat =
        ((q.acc.map (fun e => e.2.toNat)).filter (fun v => mix64 v / 2 ^ 54 == i)).foldl (fun m v => max m (rank v))
          (memByte k.opst (q.dst + i)).toNat) ∧
  (q.op = 7 → Waits s q.warp x q.wid → (∀ i, i < 1024 → (memByte k.opst (q.dst + i)).toNat ≤ 55 ∧ (memByte k.opst (q.src + i)).toNat ≤ 55) →
    ∃ t, exec (.summaryPerform (.core core)) s = .next t ∧ Filled t q.warp x q.reg 0 q.wid ∧
      ∀ i, i < 1024 → (memByte (t.core core).opst (q.dst + i)).toNat =
        max (memByte k.opst (q.dst + i)).toNat (memByte k.opst (q.src + i)).toNat) ∧
  (∀ i, q.op = 6 → Waits s q.warp x q.wid → i < 1024 → 55 < (memByte k.opst (q.dst + i)).toNat →
    ∃ t, exec (.summaryPerform (.core core)) s = .next t ∧ Filled t q.warp x q.reg (2 ^ 24) q.wid ∧
      ∀ a, memByte (t.core core).opst a = memByte k.opst a) ∧
  (∀ fl, mfind s.warps q.warp = some x → x.flights.find? (fun g => g.seq == q.seq) = some fl → x.holds = [] →
    x.tmode.getLsbD 4 = false →
  (∀ l, q.op = 5 → hhRead d = some l → ∃ t y, exec (.summaryPerform (.core core)) s = .next t ∧ mfind t.warps q.warp = some y ∧
    MemSame s t ∧ ∀ i, i < 32 → q.lanes.getLsbD i = true → y.v q.reg i = BitVec.ofNat 32 (l.getD i (0, 0, 0)).1 ∧
      y.v (q.reg + 1) i = BitVec.ofNat 32 (min (l.getD i (0, 0, 0)).2.1 (2 ^ 32 - 1))) ∧
  (∀ l, q.op = 8 → dcRead d = some l → ∃ t y, exec (.summaryPerform (.core core)) s = .next t ∧ mfind t.warps q.warp = some y ∧
    MemSame s t ∧ ∀ i, i < 32 → q.lanes.getLsbD i = true → y.v q.reg i = BitVec.ofNat 32 (dcEstimate l)) ∧
  (∀ sk (v : Nat → Word), q.op = 2 → sketchRead d s.free = some sk → q.acc = (lanesOf q.lanes).map (fun l => (l, v l)) →
    ∃ t y, exec (.summaryPerform (.core core)) s = .next t ∧ mfind t.warps q.warp = some y ∧ MemSame s t ∧
      ∀ i, i < 32 → q.lanes.getLsbD i = true →
        (sk.n = 0 → y.v q.reg i = 0x7FC00000) ∧ (sk.n ≠ 0 → v i = 0 → y.v q.reg i = BitVec.ofNat 32 sk.mn) ∧
        (sk.n ≠ 0 → v i = 0x3F800000 → y.v q.reg i = BitVec.ofNat 32 sk.mx)))) ∧
  (∀ (s : State) (dev op coin dst : Nat) (vals : List Nat) (src : List Byte), let n := sumSize op
    let d := cohBytes s dst n
    (s.msgs = [] → op < 9 → dst % n = 0 → dst + n ≤ 2 ^ 39 → homeStalls s dst = false → homeErr s dst n = false →
      (sumQuery op = true → ∃ t, exec (.summaryPerform (.peer dev op coin dst vals src)) s = .next t ∧ t.warps = s.warps ∧
        t.hbm = s.hbm ∧ t.l2 = s.l2 ∧ t.reports = ⟨35, [dev, dst, 0] ++ d.map (·.toNat)⟩ :: s.reports) ∧
      (op = 7 → (∀ i, i < 1024 → (d.getD i 0).toNat ≤ 55 ∧ (src.getD i 0).toNat ≤ 55) →
        ∃ t, exec (.summaryPerform (.peer dev op coin dst vals src)) s = .next t ∧ t.warps = s.warps ∧
          t.reports = ⟨35, [dev, dst, 0]⟩ :: s.reports)) ∧
    (homeStalls s dst = true → exec (.summaryPerform (.peer dev op coin dst vals src)) s =
      .next (s.after 64 (.summaryPerform (.peer dev op coin dst vals src)))) ∧
    exec (.summaryPerform (.foreign dev)) s = .next { s with foreign := s.foreign + 1 })


/-! The supervisor (R401 to R409). -/

/-- The supervisor (R401 to R409): the four custom instructions of a hart, its fence and a timed-out SWAIT give their result in rd
and go four bytes on; a misaligned address or a malformed operand takes the exception of the instruction with its subcode in
xdetail; taking an exception saves pc, cause and value in the registers of the mode it is delegated to, and MRET and SRET restore pc
and mode. The layout of the status register is the model's, log entry 6. -/
def Obligations.Supervisor : Prop :=
  (∀ (s : State) (h : Nat) (p : Pair), mfind s.pairs h = some p →
  let b := { s with hartTurn := none }
  let ret := fun (t : State) (rd : Nat) (v : DWord) => t.modPair h (fun q => { q.put rd v with pc := q.pc + 4 })
  let trap := fun (cause sub tval : Nat) => b.modPair h (fun _ => trapPair (p.setC csrXdetail sub) cause tval)
  (∀ f : RvR, s.hartTurn = some h →
    let x := (p.get f.a.toNat).toNat
    let y := (p.get f.b.toNat).toNat
    let pos := y % 64
    let len := y / 256 % 128
    let good := 1 ≤ len ∧ len ≤ 64 ∧ pos + len ≤ 64 ∧ y / 64 % 4 = 0 ∧ y.testBit 15 = false ∧ y < 2 ^ 17
    (good → exec (.bfx f) s = .next (ret b f.d.toNat (BitVec.ofInt 64 (src len (y.testBit 16) (x / 2 ^ pos % 2 ^ len))))) ∧
    (¬good → exec (.bfx f) s = .next (trap 25 4 0)) ∧
    (x % 32 ≠ 0 → exec (.rfetch f) s = .next (trap 24 1 x)) ∧
    (∀ pa, x % 32 = 0 → svXlate b p .r x 32 = .ok pa → svXlate b p .w x 32 = .ok pa →
      let b := paTouch b pa 32
      paBad b pa 32 = false →
      let r := paRead b pa 32
      let base := field r 0 8
      let rd := field r 8 8
      let lg := field r 16 1
      let ent := field r 17 1
      1 ≤ lg → lg ≤ 20 → 3 ≤ ent → ent ≤ 12 → base % 2 ^ ent = 0 → field r 18 14 = 0 →
      (rd < y → y - rd ≤ 2 ^ lg → exec (.rfetch f) s = .next (ret (paWrite b (pa + 8) (leBytes 8 (rd + 1))) f.d.toNat
        (BitVec.ofNat 64 (base + rd % 2 ^ lg * 2 ^ ent)))) ∧
      (y = rd → exec (.rfetch f) s = .next (ret b f.d.toNat 0))) ∧
    (x % 64 ≠ 0 → exec (.dispatch f) s = .next (trap 27 1 x)) ∧
    (∀ pa k, x % 64 = 0 → svXlate b p .r x 64 = .ok pa → paBad b pa 64 = false → y < 2 ^ 14 → p.mode ≠ .u →
      queueNow b y = some k → k.state = 1 →
      let b := paTouch b pa 64
      (∃ i, checkCmd b k (paRead b pa 64) = .inr i) →
      let buf := mget s.dispatchq y []
      (buf.length < 16 → exec (.dispatch f) s =
        .next (ret { b with dispatchq := mset s.dispatchq y (buf ++ [paRead b pa 64]) } f.d.toNat 0)) ∧
      (16 ≤ buf.length → exec (.dispatch f) s = .next (ret b f.d.toNat 1))) ∧
    (∀ pa, x % 64 = 0 → svXlate b p .r x 64 = .ok pa → paBad b pa 64 = false → y < 2 ^ 14 → p.mode ≠ .u →
      queueNow b y = none →
      exec (.dispatch f) s = .next (ret (paTouch b pa 64) f.d.toNat 2))) ∧
  (∀ f : RvC, s.hartTurn = some h →
    let x := (p.get f.a.toNat).toNat
    let y := (p.get f.b.toNat).toNat
    (x % 8 ≠ 0 → exec (.swait f) s = .next (trap 26 1 x)) ∧
    (∀ pa, s.msgs = [] → x % 8 = 0 → svXlate b p .r x 8 = .ok pa → paBad b pa 8 = false →
      let v := leNat (paRead b pa 8)
      let met := match f.c.toNat with
        | 0 => v ≠ y
        | 1 => v = y
        | 2 => y ≤ v
        | _ => v < y
      ∃ t q, exec (.swait f) s = .next t ∧ mfind t.pairs h = some q ∧ t.hbm = s.hbm ∧ t.warps = s.warps ∧
        (met → q = { p.put f.d.toNat (BitVec.ofNat 64 v) with pc := p.pc + 4, wait := none }) ∧
        (¬met → q = { p with wait := some ⟨pa, s.gtime, f.d.toNat, f.c.toNat, y⟩ } ∧
          (p.c csrSwaitto ≠ 0 → ∃ e ∈ t.agenda, e.2 = Event.swaitTimeout h)))) ∧
  (∀ j, p.wait = some j → p.c csrSwaitto ≠ 0 → 1000 * p.c csrSwaitto ≤ s.gtime - j.start →
    exec (.swaitTimeout h) s = .next ((paTouch s j.pa 8).modPair h (fun _ =>
      { p.put j.rd (BitVec.ofNat 64 (leNat (paRead s j.pa 8))) with pc := p.pc + 4, wait := none }))) ∧
  (∀ pw sr io, exec (.supervisorFence h pw sr io) s = .next (s.modPair h (fun _ => { p with pc := p.pc + 4 })))) ∧
  (∀ (s : State) (h : Nat) (p : Pair) (cause tval : Nat), mfind s.pairs h = some p →
  cause < 64 → tval < 2 ^ 64 →
  let del := p.mode ≠ .m ∧ (p.c csrMedeleg).testBit cause = true
  ∃ q, mfind (trapHart s h cause tval).pairs h = some q ∧ q.x = p.x ∧ q.wait = p.wait ∧
    (∀ k, k ≠ h → mfind (trapHart s h cause tval).pairs k = mfind s.pairs k) ∧
    (del → q.mode = .s ∧ mget q.csr 0x141 0 = p.pc ∧ q.c 0x142 = cause ∧ q.c 0x143 = tval ∧ q.pc.toNat = p.c 0x105 / 4 * 4 ∧
      (q.c csrMstatus).testBit 1 = false ∧ (q.c csrMstatus).testBit 5 = (p.c csrMstatus).testBit 1 ∧
      ((q.c csrMstatus).testBit 8 = true ↔ p.mode = .s) ∧
      (returnPair q true).pc = p.pc ∧ (returnPair q true).mode = p.mode ∧ (returnPair q true).x = p.x) ∧
    (¬del → q.mode = .m ∧ mget q.csr 0x341 0 = p.pc ∧ q.c 0x342 = cause ∧ q.c 0x343 = tval ∧ q.pc.toNat = p.c 0x305 / 4 * 4 ∧
      (q.c csrMstatus).testBit 3 = false ∧ (q.c csrMstatus).testBit 7 = (p.c csrMstatus).testBit 3 ∧
      (q.c csrMstatus) / 2 ^ 11 % 4 = svLevel p.mode ∧
      (returnPair q false).pc = p.pc ∧ (returnPair q false).mode = p.mode ∧ (returnPair q false).x = p.x))
/-- Base instructions of a supervisor hart (R402): arithmetic, jumps, branches, loads, stores, atomics, a load-reserved and
store-conditional pair, calls, returns, CSR accesses and floating-point sums retire with their result, or take the exception for
which the operands or the mode give cause. A fence retires with every access done (R403). What each of them does is RISC-V's, not
the spec's: log entry 8. -/
def Obligations.BaseInstructions : Prop := ∀ (s : State) (c : RvCtx) (p : Pair), mfind s.pairs c.h = some p →
  let next := p.pc + BitVec.ofNat 64 c.len
  let put := fun (t : State) (q : Pair) => Host.Outcome.next (t.modPair c.h (fun _ => q))
  let ret := fun (t : State) (q : Pair) => put t { q with pc := next }
  let trap := fun (cause tval : Nat) => put s (trapPair p cause tval)
  (∀ rd r1 r2, rd < 32 → r1 < 32 → r2 < 32 →
    let a := p.get r1
    let b := p.get r2
    let r := fun (f7 f3 op : Nat) => rvExec s c (rvR f7 r2 r1 f3 rd op)
    (r 0 0 0x33 = ret s (p.put rd (a + b)) ∧ r 32 0 0x33 = ret s (p.put rd (a - b)) ∧
      r 0 3 0x33 = ret s (p.put rd (if a.toNat < b.toNat then 1 else 0)) ∧ r 0 4 0x33 = ret s (p.put rd (a ^^^ b)) ∧
      r 32 5 0x33 = ret s (p.put rd (a.sshiftRight (b.toNat % 64))) ∧ r 1 0 0x33 = ret s (p.put rd (a * b)) ∧
      (b.toNat = 0 → r 1 5 0x33 = ret s (p.put rd (BitVec.allOnes 64)) ∧ r 1 7 0x33 = ret s (p.put rd a)) ∧
      (b.toNat ≠ 0 → r 1 5 0x33 = ret s (p.put rd (a / b)) ∧ r 1 7 0x33 = ret s (p.put rd (a % b))) ∧
      r 0 0 0x3B = ret s (p.put rd (((a + b).extractLsb' 0 32).signExtend 64))) ∧
    (∀ i, i < 4096 →
      let d := BitVec.ofInt 64 (intOf 12 true i)
      let va := (a + d).toNat
      rvExec s c (rvI i r1 0 rd 0x13) = ret s (p.put rd (a + d)) ∧
      rvExec s c (rvI i r1 0 rd 0x67) = put s { p.put rd next with pc := (a + d) &&& 0xFFFFFFFFFFFFFFFE } ∧
      (va % 8 ≠ 0 → rvExec s c (rvI i r1 3 rd 0x03) = trap 4 va ∧ rvExec s c (rvS i r2 r1 3 0x23) = trap 6 va) ∧
      (∀ pa, va % 8 = 0 → svXlate s p .r va 8 = .ok pa →
        (paBad s pa 8 = false →
          rvExec s c (rvI i r1 3 rd 0x03) = ret (paTouch s pa 8) (p.put rd (BitVec.ofNat 64 (leNat (paRead s pa 8))))) ∧
        (paBad s pa 8 = true → rvExec s c (rvI i r1 3 rd 0x03) = trap 5 va)) ∧
      (∀ e, va % 8 = 0 → svXlate s p .r va 8 = .error e → e = .none_ ∨ e = .perm →
        rvExec s c (rvI i r1 3 rd 0x03) = trap 13 va) ∧
      (∀ pa, va % 8 = 0 → svXlate s p .w va 8 = .ok pa → ∃ t, rvExec s c (rvS i r2 r1 3 0x23) = .next t ∧
        t = (paWrite s pa (leBytes 8 b.toNat)).modPair c.h (fun q => { q with pc := q.pc + BitVec.ofNat 64 c.len }))) ∧
    (∀ pa, a.toNat % 8 = 0 → svXlate s p .r a.toNat 8 = .ok pa → svXlate s p .w a.toNat 8 = .ok pa → paBad s pa 8 = false →
      let old := BitVec.ofInt 64 (intOf 64 true (leNat (paRead s pa 8)))
      let done := fun (bs : List Byte) (v : DWord) => Host.Outcome.next ((paWrite s pa bs).modPair c.h (fun q =>
        { q.put rd v with pc := q.pc + BitVec.ofNat 64 c.len }))
      rvExec s c (rvR 0 r2 r1 3 rd 0x2F) = done (leBytes 8 (leNat (paRead s pa 8) + b.toNat)) old ∧
      rvExec s c (rvR 4 r2 r1 3 rd 0x2F) = done (leBytes 8 b.toNat) old ∧
      rvExec s c (rvR 8 0 r1 3 rd 0x2F) =
        ret (paTouch s pa 8) { p.put rd old with resv := some (pa, resvVer (paTouch s pa 8) pa) } ∧
      (p.resv ≠ some (pa, resvVer s pa) →
        rvExec s c (rvR 12 r2 r1 3 rd 0x2F) = ret s { p.put rd 1 with resv := none }) ∧
      (p.resv = some (pa, resvVer s pa) → rvExec s c (rvR 12 r2 r1 3 rd 0x2F) =
        .next ((paWrite s pa (leBytes 8 b.toNat)).modPair c.h (fun q =>
          { q.put rd 0 with resv := none, pc := q.pc + BitVec.ofNat 64 c.len })))) ∧
    (∀ i, i < 4096 →
      let d := BitVec.ofInt 64 (intOf 13 true (2 * i))
      rvExec s c (rvB (2 * i) r2 r1 0) = (if a = b then put s { p with pc := (p.pc + d) &&& 0xFFFFFFFFFFFFFFFE } else ret s p)) ∧
    (p.mode = .m → rvExec s c (rvI 0x340 r1 1 rd 0x73) = ret s ((p.writeCsr 0x340 a).put rd (BitVec.ofNat 64 (p.c 0x340)))) ∧
    (p.mode ≠ .m → rvExec s c (rvI 0x340 r1 1 rd 0x73) = trap 2 c.raw) ∧
    (fsOf p = 0 → rvExec s c (rvR 1 r2 r1 0 rd 0x53) = trap 2 c.raw) ∧
    (fsOf p ≠ 0 →
      let v := addV .rn (fp64.unpack (p.getF true r1)) (fp64.unpack (p.getF true r2))
      let x := rvPack fp64 .rne v.1 v.2
      rvExec s c (rvR 1 r2 r1 0 rd 0x53) = ret s ((p.putF true rd x.bits).accrue x.flags))) ∧
  (∀ rd i, rd < 32 → i < 2 ^ 20 →
    rvExec s c (i * 4096 + rd * 128 + 0x37) = ret s (p.put rd (BitVec.ofInt 64 (intOf 32 true (i * 4096))))) ∧
  rvExec s c 0x00000073 = trap (match p.mode with
    | .u => 8
    | .s => 9
    | .m => 11) 0 ∧
  rvExec s c 0x00100073 = trap 3 p.pc.toNat ∧
  (p.mode = .m → rvExec s c 0x30200073 = put s (returnPair p false)) ∧
  (p.mode ≠ .m → rvExec s c 0x30200073 = trap 2 c.raw) ∧
  (p.mode = .m → rvExec s c 0x10200073 = put s (returnPair p true)) ∧
  (p.mode = .u → rvExec s c 0x10200073 = trap 2 c.raw) ∧
  (c.len = 4 → rvExec s c 0x0FF0000F = ret s p) ∧
  rvExec s c 0x00000000 = trap 2 c.raw


/-! Queues and plans (R206 to R209, R304 to R332). -/

/-- Commands in progress (R312, R313): NOP and ATTACH complete, SIGNAL and FENCE wait for the earlier commands of their queue,
WAIT ends when its comparison holds; a notify raises the write index of its queue (R311), and one that comes before the queue's
address space or key is there, or with no entry of it in the directory, is dropped (R450). -/
def Obligations.QueueCommands : Prop := ∀ (s : State) (q : Nat),
  let ends := fun (t : State) (e : Event) => ∀ w, s.work.find? (fun v => v.queue == q && v.instr == e) = some w →
    t.work = s.work.filter (fun v => v.order != w.order)
  (∃ t, exec (.cmdNop q) s = .next t ∧ ends t (.cmdNop q) ∧ t.warps = s.warps ∧ MemSame s t) ∧
  (∀ feat a, ∃ t, exec (.attach q feat a) s = .next t ∧ ends t (.attach q feat a) ∧ q ∈ t.attached ∧
    ∀ e ∈ t.slots, e.2.queue = q → ∀ i, i < 4 → e.2.feat.getD i 0 = feat.getD i 0 &&& s.feat.getD i 0) ∧
  (∀ a v wide w t0, let e := Event.signal q a v wide
    s.work.find? (fun v => v.queue == q && v.instr == e) = some w →
    (earlierWork s q e = true → exec (.signal q a v wide) s = .next s) ∧
    (earlierWork s q e = false → vWrite s (queueAsid s q) a (leBytes (if wide then 8 else 4) v) = some t0 →
      ∃ t, exec (.signal q a v wide) s = .next t ∧ ends t e ∧ t.hbm = t0.hbm ∧ t.l2 = t0.l2 ∧ t.warps = t0.warps)) ∧
  (earlierWork s q (.cmdFence q) = false → ∃ t, exec (.cmdFence q) s = .next t ∧ ends t (.cmdFence q) ∧ MemSame s t) ∧
  (earlierWork s q (.cmdFence q) = true → exec (.cmdFence q) s = .next s) ∧
  (∀ a v mask cmp wide i k b, slotOfQueue s q = some (i, k) →
    let u := unitTouch s k.asid a (if wide then 8 else 4)
    vRead u k.asid a (if wide then 8 else 4) = some b →
    let n := if wide then 64 else 32
    let x := BitVec.ofNat n (leNat b) &&& BitVec.ofNat n mask
    let r := BitVec.ofNat n v
    let met := match cmp with
      | 0 => x = r
      | 1 => x ≠ r
      | 2 => r ≤ x
      | _ => x < r
    (met → ∃ t, exec (.waitWord q a v mask cmp wide) s = .next t ∧ ends t (.waitWord q a v mask cmp wide) ∧ MemSame u t) ∧
    (¬met → exec (.waitWord q a v mask cmp wide) s = .next u) ∧
    (waitOf s q = some (.waitWord q a v mask cmp wide) →
      exec (.waitReevaluate q) s = exec (.waitWord q a v mask cmp wide) s)) ∧
  (∀ m k, m.length = 64 → field m 0 2 = q → queueNow s q = some k →
    shadowHalf s q = none ∨ s.space k.asid = none ∨ (k.key ≠ 255 ∧ mfind s.keys k.key = none) →
    exec (.notify m) s = .next { s with notifyErr := s.notifyErr + 1 }) ∧
  (∀ m k i key, (shadowHalf s q).isSome = true → (s.space k.asid).isSome = true → m.length = 64 → field m 0 2 = q → q < 16384 → zeros m 2 2 = true → zeros m 16 32 = true →
    slotOfQueue s q = some (i, k) → k.key ≠ 255 → k.devfed = false → mfind s.keys k.key = some key →
    (hmacSm3 key (m.take 48)).take 16 = m.drop 48 → k.ctr < field m 4 4 →
    let n := field m 8 8
    k.rd ≤ n → n - k.rd ≤ 2 ^ k.lgsize →
    ∃ t, exec (.notify m) s = .next t ∧ t.notifyErr = s.notifyErr ∧ t.warps = s.warps ∧
      ∀ e ∈ t.slots, e.2.queue = q → ∃ o ∈ s.slots, e = (o.1, { o.2 with ctr := field m 4 4, wr := max o.2.wr n })) ∧
  (∀ m, m.length ≠ 64 → exec (.notify m) s = .next { s with notifyErr := s.notifyErr + 1 })

/-- Queues take and give up slots, and LAUNCH and ENQ are answered (R208, R209, R307, R308, R315). -/
def Obligations.QueueSlots : Prop := ∀ (s : State) (q : Nat),
  (∀ a b i, slotOfQueue s q = none → shadowHalf s q = some (a, b) →
    let u := forwardRead s none a 64
    let k := queueFromHalves u q b
    let v := unitTouch u k.asid k.user 64
    (List.range 64).find? (fun i => (mfind s.slots i).isNone) = some i → shadowOk v b = true →
    (vRead v k.asid k.user 64).isSome = true → k.rd ≤ k.wr → k.wr - k.rd ≤ 2 ^ k.lgsize →
    ∃ t, exec (.queueLoad q) s = .next t ∧ mfind t.slots i = some k ∧ (∀ j, j ≠ i → mfind t.slots j = mfind s.slots j) ∧
      (s.clk + max 1 (clkOfNs (1000 * k.slice * 1000 / 1001)), Event.sliceExpiry q) ∈ t.agenda) ∧
  (∀ i k, slotOfQueue s q = some (i, k) → k.expired = true ∨ queuePending s k = false →
    ∃ t, exec (.queueUnload q) s = .next t ∧ mfind t.slots i = none ∧ ∀ j, j ≠ i → mfind t.slots j = mfind s.slots j) ∧
  (∀ i k, slotOfQueue s q = some (i, k) → k.loaded + 1000 * k.slice ≤ s.gtime →
    ∃ t, exec (.sliceExpiry q) s = .next t ∧ MemSame s t ∧ ∀ e ∈ t.slots, e.2.queue = q → e.2.expired = true) ∧
  (∀ w x f plan rec_ n, s.msgs = [] → s.warps = [(w, x)] → x.flights = [f] → f.kind = .launch plan rec_ → f.writes = [.q n false] →
    f.due ≤ s.clk → x.storeq = [] → x.unacked = [] → x.holds = [] → n ≠ 7 → x.tmode.getLsbD 4 = false →
    let full := 64 ≤ (s.die (dieOf w)).launchq.length ∨ (plan = true ∧ freePlanSlot s = none)
    ∃ t y, exec (.launchAccept (dieOf w)) s = .next t ∧ mfind t.warps w = some y ∧ y.flights = [] ∧
      (y.q n = true ↔ full) ∧ y.vreg = x.vreg ∧ y.sreg = x.sreg ∧
      (full → (t.die (dieOf w)).launchq = (s.die (dieOf w)).launchq) ∧
      (∀ b e, ¬full → vRead s x.asid rec_ 64 = some b → field b 0 1 = (if plan then 2 else 4) →
        cmdEvent (launchQueue (dieOf w) x.asid) b = some e → cmdAddrs s x.asid e = true →
        (t.die (dieOf w)).launchq = (s.die (dieOf w)).launchq ++ [e])) ∧
  (∀ w x f user cmd n k b, s.msgs = [] → mfind s.warps w = some x → x.flights.find? (fun g => g.seq == f.seq) = some f →
    f.kind = .enq user cmd → f.writes = [.q n false] → n ≠ 7 → x.storeq = [] → x.unacked = [] → x.holds = [] →
    x.tmode.getLsbD 4 = false → queueByUser s x.asid user = some k → vRead s x.asid cmd 64 = some b →
    let full := k.state ≠ 1 ∨ k.devfed = false ∨ k.cmds.testBit (field b 0 1) = false ∨ 2 ^ k.lgsize ≤ k.wr - k.rd
    (full → ∃ t y, exec (.enqStep w f.seq) s = .next t ∧ mfind t.warps w = some y ∧ y.q n = true ∧ t.slots = s.slots ∧
      t.hbm = s.hbm ∧ t.l2 = s.l2) ∧
    (∀ t0, ¬full → vWrite s k.asid (k.base + 64 * (k.wr % 2 ^ k.lgsize)) b = some t0 →
      ∃ t y, exec (.enqStep w f.seq) s = .next t ∧ mfind t.warps w = some y ∧ y.q n = false ∧
        ∀ e ∈ t.slots, e.2.queue = k.queue → ∃ o ∈ s.slots, e = (o.1, { o.2 with wr := o.2.wr + 1 })))

/-- Plans start, are placed, stop and end (R312 to R327, R332): a right record takes a slot, every stage gets its cores at
once and its warps start as R20 says, STOP and ABORT wind a plan down, the deckle moves a unit. -/
def Obligations.PlanLife : Prop := ∀ (s : State) (q : Nat),
  (∀ a args h gs ps p, readPlan (recordTouch s (queueAsid s q) a) q (queueAsid s q) a true = .ok h gs ps → freePlanSlot s = some p →
    ∃ t pl, exec (.planStart q a args) s = .next t ∧ mfind t.plans p = some pl ∧ pl.state = .waitCores ∧ pl.stages = gs ∧
      pl.pipes = ps ∧ pl.args = args ∧ pl.cword = h.cword ∧ (s.clk, Event.planPlacement) ∈ t.agenda ∧
      ∀ d, d < s.nDies → (t.die d).pinned = (s.die d).pinned + linesOn ps d) ∧
  (∀ a args g cword p, let u := unitTouch s (queueAsid s q) a 128
    readStage u (queueAsid s q) a true = some (g, true, cword) → featBit u q 0 = true → g.cmin ≤ dieCores u g → freePlanSlot s = some p →
    ∃ t pl, exec (.stageLaunch q a args) s = .next t ∧ mfind t.plans p = some pl ∧ pl.state = .waitCores ∧
      pl.stages = [g] ∧ pl.pipes = [] ∧ pl.args = args ∧ pl.cword = cword) ∧
  (∀ a args h gs ps p pl, let u := recordTouch s (queueAsid s q) a
    readPlan u q (queueAsid s q) a false = .ok h gs ps → featBit u q 1 = true → restartRefused u q (queueAsid s q) a = none → stoppedPlan s (queueAsid s q) a = some (p, pl) →
    mfind s.plans p = some pl → gs.length = pl.stages.length → h.npipes = pl.pipes.length →
    ∃ t pl', exec (.planRestart q a args) s = .next t ∧ mfind t.plans p = some pl' ∧ pl'.state = .waitCores ∧
      pl'.restart = true ∧ pl'.args = args ∧ pl'.stages.map (·.ring) = pl.stages.map (·.ring) ∧ pl'.pipes.length = pl.pipes.length) ∧
  (∀ pl r p, s.waitPlans = pl :: r → freePlanSlot s = some p →
    ∃ t, exec .planSlotGrant s = .next t ∧ t.waitPlans = r ∧ mfind t.plans p = some { pl with state := .waitCores }) ∧
  (∀ p pl g c, nextWaiting s = some (p, pl) → mfind s.plans p = some pl → pl.stages = [g] →
    saveRoom s pl.asid (g.cinit * (launchedIdx g).length) = true → pickAll s pl.stages [] = some [[[c]]] →
    ∃ t pl', exec .planPlacement s = .next t ∧ mfind t.plans p = some pl' ∧ pl'.state = .running ∧
      (t.core c).owner = some (p, 0) ∧ (t.core c).opst = [] ∧ (t.core c).l1 = [] ∧ (t.core c).spad = g.spad ∧
      ∀ li, li < g.warps → li / 8 < partHold g.vregs → li / 8 < 16 →
        ∃ y, mfind t.warps (c * 128 + li % 8 * 16 + li / 8) = some y ∧ y.asid = pl.asid ∧ y.plan = p ∧ y.stage = 0 ∧
          y.pc = List.replicate 32 (g.cbase + 12 * g.entry) ∧ y.active = 0xFFFFFFFF ∧ y.waiting = 0 ∧ y.exited = 0 ∧
          (∀ j, j < 12 → y.s j = pl.args.getD j 0) ∧ y.vreg = [] ∧ y.pred = [] ∧ y.fpctl = 0 ∧ y.tmode = 0 ∧
          y.cause = 0x0000FF00 ∧ y.trapbase = BitVec.ofNat 64 g.trapbase ∧ y.prio = BitVec.ofNat 32 g.prio) ∧
  (∀ p pl, mfind s.plans p = some pl → pl.state = .running →
    (∃ t pl', exec (.planStop q p) s = .next t ∧ mfind t.plans p = some pl' ∧ pl'.state = .stopping ∧
      (∀ st ∈ pl.stages, ∀ c ∈ st.cores, (t.core c).revoked = true) ∧ (s.clk, Event.planStopped p) ∈ t.agenda ∧
      t.warps = s.warps) ∧
    (s.saved = [] → ∃ t pl', exec (.planAbort q p) s = .next t ∧ mfind t.plans p = some pl' ∧ pl'.state = .ending ∧
      pl'.aborted = true ∧ (s.clk, Event.planStopped p) ∈ t.agenda ∧
      ∀ w x, mfind s.warps w = some x → w < 49152 → x.plan = p → ∃ y, mfind t.warps w = some y ∧ y.termReq = true)) ∧
  (∀ p pl, mfind s.plans p = some pl → planWarps s p = [] → (∀ st ∈ pl.stages, ∀ c ∈ st.cores, coreIdle s c = true) →
    (pl.state = .stopping → pl.aborted = false → ∃ t pl', exec (.planStopped p) s = .next t ∧ mfind t.plans p = some pl' ∧
      pl'.state = .stopped ∧ (∀ st ∈ pl'.stages, st.cores = []) ∧
      ∀ st ∈ pl.stages, ∀ c ∈ st.cores, (t.core c).owner = none ∧ (t.core c).opst = []) ∧
    (pl.state = .ending → pl.aborted = true → ∃ t, exec (.planStopped p) s = .next t ∧ mfind t.plans p = none ∧
      ∀ st ∈ pl.stages, ∀ c ∈ st.cores, (t.core c).owner = none)) ∧
  (∀ p pl g, mfind s.plans p = some pl → pl.stages = [g] → pl.state = .running → g.ended = false → stageWarps s p 0 = [] →
    (∀ r ∈ chestsOf s g.cores ++ g.ring, recordLive r = false) → (∀ c ∈ g.cores, coreIdle s c = true) →
    ∃ t, exec (.stageEnd p 0) s = .next t ∧ mfind t.plans p = none ∧ ∀ c ∈ g.cores, (t.core c).owner = none) ∧
  (∀ p pl b d g, mfind s.plans p = some pl → pl.state = .running → pl.epochAt ≤ s.gtime → pl.move = none → decklePick pl = some (b, d) →
    pl.stages[d]? = some g →
    let cs := g.cores.drop (g.cores.length - g.unit)
    ∃ t pl', exec (.deckleEpoch p) s = .next t ∧ mfind t.plans p = some pl' ∧ pl'.move = some (d, b, cs) ∧
      ∀ c ∈ cs, (t.core c).revoked = true) ∧
  (∀ p pl d b cs g, mfind s.plans p = some pl → pl.move = some (d, b, cs) → pl.stages[b]? = some g →
    (∀ e ∈ s.warps, coreOf e.1 ∉ cs) → (∀ v ∈ s.saved, coreOf v.src ∉ cs) → chestsOf s cs = [] →
    (∀ c ∈ cs, coreIdle s c = true) → saveRoom s pl.asid (cs.length * (launchedIdx g).length) = true →
    ∃ t pl', exec (.deckleHandover p) s = .next t ∧ mfind t.plans p = some pl' ∧ pl'.move = none ∧
      (∀ c ∈ cs, (t.core c).owner = some (p, b) ∧ (t.core c).opst = []) ∧
      ∃ g', pl'.stages[b]? = some g' ∧ ∀ c ∈ cs, c ∈ g'.cores)


/-! Warps between instructions (R15, R173, R197, R206, R207, R210, R240, R328 to R332, R373, R381 to R384). -/

/-- Continuation records become READY and form warps (R206, R207, R328 to R331): an armed one whose counter is zero at its
registration takes the counter's flags as its status; a formed warp has one record a lane, arguments in v0 to v11.
The delay is log entry 2. -/
def Obligations.RecordsAndFormation : Prop := ∀ (s : State),
  (∀ id r, findRecord s id = some r → (∀ a ∈ allRecords s, a.id = id → a = r) → r.eligible = false →
    (r.wait.look s).isDone s = true → r.place = none ∨ NoRegistration s →
    ∃ t, exec (.recordEligible id) s = .next t ∧ t.warps = s.warps ∧ (∀ a ∈ allRecords t, a.id = id → a.eligible = true) ∧
      (r.armed = none → ∀ a ∈ allRecords t, a.id = id → a.ready = true ∧ a.readyClk = s.clk) ∧
      (r.armed ≠ none → (s.clk + s.lat.hop, Event.armedRegistration id) ∈ t.agenda)) ∧
  (∀ id r key, s.msgs = [] → findRecord s id = some r → (∀ a ∈ allRecords s, a.id = id → a = r) → r.eligible = true → r.ready = false →
    r.regd = false → counterKey s r = some key →
    let n := leNat (cohBytes s key 4)
    ∃ t, exec (.armedRegistration id) s = .next t ∧ t.warps = s.warps ∧ ∀ a ∈ allRecords t, a.id = id →
      a.regd = true ∧ a.ready = decide (n % 2 ^ 24 = 0) ∧ (n % 2 ^ 24 = 0 → a.status = n / 2 ^ 24)) ∧
  (∀ p st g r c, s.stage? p st = some g → g.ring = [r] → r.place = none ∨ NoRegistration s → (sortBy id g.cores).find? (fun c =>
      !(s.core c).revoked && decide ((s.core c).chest.length < 512)) = some c →
    ∃ t g', exec (.ringToChest p st) s = .next t ∧ (t.core c).chest = (s.core c).chest ++ [ringTake s r] ∧ t.stage? p st = some g' ∧
      g'.ring = [] ∧ (s.clk, Event.warpFormation c) ∈ t.agenda) ∧
  (∀ c i b, mfind (s.core c).bins i = some b → binEligible s b = true →
    ∃ t, exec (.binTimeout c i) s = .next t ∧ (s.clk, Event.warpFormation c) ∈ t.agenda ∧ t.warps = s.warps) ∧
  (∀ c p st pl g i b w, (s.core c).owner = some (p, st) → mfind s.plans p = some pl → pl.stages[st]? = some g →
    (s.core c).revoked = false → pl.state = .running → saveRoom s pl.asid 1 = true → fillBins (s.core c) = [(i, b)] → binEligible s b = true →
    (List.range 8).findSome? (fun q => if partRoom s c q g.vregs then (freeSlot s c q).map (fun k => c * 128 + q * 16 + k)
      else none) = some w →
    let rs := b.recs.take 32
    ∃ t y, exec (.warpFormation c) s = .next t ∧ mfind t.warps w = some y ∧ y.pc = (List.range 32).map (fun l => if l < rs.length then b.pc else 0) ∧
      y.asid = pl.asid ∧ y.plan = p ∧ y.stage = st ∧ y.waiting = 0 ∧ y.tmode = 0 ∧ y.sreg = [] ∧
      (∀ l, l < 32 → (y.active.getLsbD l = decide (l < rs.length)) ∧ (y.exited.getLsbD l = !decide (l < rs.length))) ∧
      (∀ l r, rs[l]? = some r → (∀ j, j < 12 → y.v j l = r.args.getD j 0) ∧ y.v 12 l = BitVec.ofNat 32 (r.status % 256)) ∧
      (∀ a ∈ (t.core c).chest, ∀ r ∈ rs, a.id ≠ r.id) ∧ ∀ v, v ≠ w → mfind t.warps v = mfind s.warps v)

/-- A warp's end and its interruptions (R15, R173, R197, R210, R381 to R384): retirement, termination, pre-emption in two parts,
resumption, Toltar's decision on a trap, TMODE.nopre, the heartbeat, a write of 1 to MSTAT. -/
def Obligations.WarpTransitions : Prop := ∀ (s : State) (w : Nat) (x : Warp), mfind s.warps w = some x → w < 49152 →
  (x.exited = 0xFFFFFFFF → Hold.retire ∈ x.holds → x.storeq = [] → x.unacked = [] → x.tokens = [] → x.flights = [] →
    x.sfq = [] → ∃ t, exec (.warpRetire w) s = .next t ∧ mfind t.warps w = none ∧
      (∀ g gi, mfind t.groups g = some gi → w ∉ gi.members) ∧ OthersSame s t w ∧
      (s.clk, Event.stageEnd x.plan x.stage) ∈ t.agenda) ∧
  (x.termReq = true → ∃ t y, exec (.warpTerminate w) s = .next t ∧ mfind t.warps w = some y ∧ y.exited = 0xFFFFFFFF ∧
    y.active = 0 ∧ y.waiting = 0 ∧ y.flights = [] ∧ y.tokens = [] ∧ y.pend = [] ∧ y.sfq = [] ∧ y.holds = [.retire] ∧
    y.storeq = x.storeq ∧ (s.clk, Event.warpRetire w) ∈ t.agenda ∧ OthersSame s t w ∧ MemSame s t) ∧
  (∃ t y, exec (.preemptRequest (.warp w)) s = .next t ∧ mfind t.warps w = some y ∧ y = { x with preemptReq := true } ∧
    (s.clk, Event.preempt w) ∈ t.agenda ∧ MemSame s t) ∧
  (x.preRep = none → x.preemptReq = true → x.termReq = false → x.captured = false → x.tmode = 0 → x.storeq = [] →
    x.holds = [] → x.pend = [] → x.sfq = [] → x.flights = [] →
    wouldFuse s w = false →
    ∃ t y, exec (.preempt w) s = .next t ∧ mfind t.warps w = some y ∧ y.preRep = some ([], barLanes x) ∧ RegsSame x y ∧
      (s.clk, Event.preempt w) ∈ t.agenda ∧ OthersSame s t w ∧ MemSame s t) ∧
  (∀ reps barw, x.preRep = some (reps, barw) → x.storeq = [] → x.unacked = [] → x.termReq = false →
    x.holds.any Hold.isArrive = false → NoRegistration s →
    ∃ t v, exec (.preempt w) s = .next t ∧ mfind t.warps w = none ∧ t.saved = s.saved ++ [v] ∧ v.id = s.nextId ∧ v.src = w ∧
      RegsSame x v.warp ∧ OthersSame s t w) ∧
  (x.captured = true → x.holds.any Hold.isReturn = false → dutyOwned s (dieOf w) 2 = true → undelivered s 2 w = false →
    exec (.toltarReturn w .ret []) s =
      .next (settle (s.modWarp w (fun _ => { x with holds := x.holds ++ [.rett x.nextSeq 0] })) w)) ∧
  (x.captured = true → x.holds.any Hold.isReturn = false → dutyOwned s (dieOf w) 2 = true → undelivered s 2 w = false → x.trapbase ≠ 0 →
    ((x.trapbase.toNat : Int) - x.codeBase) % 12 = 0 → capturing (s.core (coreOf w)).dbg = false →
    ∃ t y, exec (.toltarReturn w .handler []) s = .next t ∧ mfind t.warps w = some y ∧ y.tmode = x.tmode ||| 1 ∧
      y.captured = false ∧ y.active = ~~~x.exited ∧ y.waiting = 0 ∧ y.pc = x.pc.map (fun _ => x.trapbase.toNat) ∧
      y.s 0 = BitVec.ofNat 32 x.saveArea ∧ y.s 1 = BitVec.ofNat 32 (x.saveArea / 2 ^ 32) ∧ y.vreg = x.vreg ∧
      y.wake = s.clk + 32 ∧ OthersSame s t w ∧ MemSame s t) ∧
  (x.captured = true → x.holds.any Hold.isReturn = false → dutyOwned s (dieOf w) 2 = true → undelivered s 2 w = false → x.groupList = [] →
    ∃ t y, exec (.toltarReturn w .terminate []) s = .next t ∧ mfind t.warps w = some y ∧ y.termReq = true ∧
      y.byToltar = true ∧ y.captured = false ∧ RegsSame x y ∧ OthersSame s t w) ∧
  (x.tmode.getLsbD 1 = true → x.nopreEnd ≤ s.clk →
    ∃ t y, exec (.nopreExpiry w) s = .next t ∧ mfind t.warps w = some y ∧
      y = { x with tmode := (x.tmode &&& ~~~(2 : Word)) ||| 8 } ∧ OthersSame s t w ∧ MemSame s t) ∧
  (x.tmode.getLsbD 0 = true → x.tmode.getLsbD 3 = false →
    ∃ t y, exec (.tmodeNopreWrite w) s = .next t ∧ mfind t.warps w = some y ∧
      y = { x with tmode := x.tmode ||| 2, nopreEnd := s.clk + 4096 } ∧ (s.clk + 4096, Event.nopreExpiry w) ∈ t.agenda ∧
      OthersSame s t w) ∧
  (∀ bits, exec (.mstatClear w bits) s = .next (s.modWarp w (fun _ => { x with mstat := x.mstat &&& ~~~bits }))) ∧
  (∀ v id u b, s.saved.find? (fun v => v.id == id) = some v → u ≠ w → mayResume s v u = true →
    vRead s v.warp.asid v.warp.saveArea (saveBytes v.warp.nv v.warp.ns) = some b → field b 0x1C2 1 = 0 →
    field b 0x18C 4 / 65536 % 256 = 0 → NoRegistration s →
    ∃ t y, exec (.resume id u) s = .next t ∧ mfind t.warps u = some y ∧ RegsSame (restoreWarp s b v u) y ∧
      (∀ a ∈ t.saved, a.id ≠ id) ∧ mfind t.warps w = some x) ∧
  (∀ dom scope seq mark, s.warps = [(w, x)] → x.holds = [.fenceSc scope seq true mark] → (scope = 3 ↔ dom = true) →
    ∃ t y, exec (.heartbeatTick dom) s = .next t ∧ mfind t.warps w = some y ∧ y.holds = [] ∧
      y.flights = x.flights.filter (fun f => f.seq != seq) ∧ RegsSame x y)


/-! What joins the dies and the devices (R428, R430 to R436). -/

/-- Partition reset and rejoining (R428), links between dies (R430), devices that fall silent or ask again (R433), time
(R434, R435) and Ultra Ethernet windows (R436). A device leads while it sends its time as the master.
The reports to peers are the model's, log entry 57. -/
def Obligations.Fabric : Prop := ∀ (s : State),
  (∀ part : LostPart, let die := part.die
    (s.die die).up = true → (s.die die).resetting = false → (∀ e ∈ s.cores, e.2.sumq = []) →
    (∀ e ∈ s.cores, dieOfCore e.1 ≠ die → e.2.tce = []) →
    ∃ t, exec (.partitionReset part) s = .next t ∧ (t.die die).resetting = true ∧ (t.die die).decs = [] ∧
      (s.clk + 1, Event.partitionReset part) ∈ t.agenda ∧
      (die < 4 → 2 ≤ s.feat.length → (t.feat.getD 1 0).getLsbD die = false) ∧
      (∀ w x, w < 49152 → dieOf w = die → mfind s.warps w = some x → ∃ y, mfind t.warps w = some y ∧ y.termReq = true) ∧
      (∀ c, dieOfCore c = die → (t.core c).tce = [] ∧ (t.core c).portBusy = none ∧ (t.core c).portLast = 0 ∧
        (t.core c).arrLast = 0) ∧
      (∀ c, dieOfCore c ≠ die → (t.core c).owner = (s.core c).owner ∧ (t.core c).opst = (s.core c).opst ∧
        (t.core c).l1 = (s.core c).l1)) ∧
  (∀ part : LostPart, let die := part.die
    (s.die die).up = true → (s.die die).resetting = true → (∀ w, dieOf w = die → mfind s.warps w = none) →
    ∃ t, exec (.partitionReset part) s = .next t ∧ (t.die die).fq = [] ∧ (t.die die).tlb = [] ∧ (t.die die).wcache = [] ∧ (t.die die).resetting = true ∧
      (t.die die).slices = (s.die die).slices - (part.slices.filter (fun x => x / 64 == die)).eraseDups.length ∧
      (∀ c ∈ part.cores, dieOfCore c = die → c ∈ (t.die die).lost) ∧
      (∀ c, dieOfCore c = die → (t.core c).owner = none) ∧
      ((∀ e ∈ s.cores, dieOfCore e.1 = die → e.2.owner = none) → ∀ v n, mfind s.vers v = some n →
        mfind t.vers v = some (if keyLocal (v * 32) = true ∧ homeDie s (v * 32) = die then n + 1 else n))) ∧
  (∀ die, (s.die die).up = true → (s.die die).resetting = true → (∀ w, dieOf w = die → mfind s.warps w = none) →
    (∀ e ∈ s.cores, dieOfCore e.1 = die → e.2.owner = none) →
    (∀ ok, ok = false ∨ (s.die die).slices < 64 → ∃ t, exec (.partitionRejoin die ok) s = .next t ∧ (t.die die).up = false ∧
      ∀ d e, mfind s.dies d = some e → (t.die d).mstate.getLsbD 5 = true) ∧
    (64 ≤ (s.die die).slices → (∀ p ∈ s.plans, p.2.state ≠ .running) → ∃ t, exec (.partitionRejoin die true) s = .next t ∧
      (t.die die).up = true ∧ (t.die die).resetting = false ∧ t.clock die = 0 ∧
      (∀ m ∈ s.msgs, (s.clk, m.body.event m.id) ∈ t.agenda) ∧ (s.clk, Event.planPlacement) ∈ t.agenda ∧
      (∀ k, k < 4 → (s.clk, Event.decoderJobStart die k) ∈ t.agenda) ∧ t.warps = s.warps)) ∧
  (∀ a b, a ≠ b → mget s.d2d (linkKey a b) 0 = 0 →
    ∃ t, exec (.d2dLinkFailure a b) s = .next t ∧ mget t.d2d (linkKey a b) 0 = s.gtime + 2 ∧
      (s.clk + max 1 (clkOfNs (10000000 * 1000 / 1001)), Event.d2dRetrainTimeout a b) ∈ t.agenda ∧ t.warps = s.warps ∧ MemSame s t ∧
      ∀ k, k ≠ linkKey a b → mget t.d2d k 0 = mget s.d2d k 0) ∧
  (∀ a b since, mget s.d2d (linkKey a b) 0 = since + 2 →
    (since + 10000000 ≤ s.gtime → ∃ t, exec (.d2dRetrainTimeout a b) s = .next t ∧ mget t.d2d (linkKey a b) 0 = 1 ∧
      ((s.die (min a b)).events.length < 255 → (t.die (min a b)).events = (s.die (min a b)).events ++ [7])) ∧
    (s.gtime < since + 10000000 → exec (.d2dRetrainTimeout a b) s =
      .next (s.untilTime (since + 10000000) (.d2dRetrainTimeout a b))) ∧
    ∃ t, exec (.d2dLinkRetrained a b) s = .next t ∧ mget t.d2d (linkKey a b) 0 = 0) ∧
  (∀ port seq lost p, port < 4 * s.nDies → mfind s.ports port = some p →
    (let gone := p.off = false ∧ ∃ n, (n, false) ∈ p.replay ∧ seq ≤ n ∧ n ∈ lost
     (¬ gone → exec (.ualinkReplay port seq lost) s = .next s) ∧
     (gone → ∃ t q, exec (.ualinkReplay port seq lost) s = .next t ∧ mfind t.ports port = some q ∧
       q.retrains = p.retrains + 1 ∧ q.nextSeq = p.nextSeq + p.replay.length ∧
       q.replay = (List.range p.replay.length).map (fun i => (p.nextSeq + i, true))))) ∧
  (∀ dev pa len, s.msgs = [] → rangeStalls s pa len = false → overfull s (pa / 128) 1 = [] → pa + len ≤ 2 ^ 39 → 0 < len → len ≤ 256 →
    ∃ t, exec (.ualinkRemoteRead dev pa len) s = .next t ∧ t.warps = s.warps ∧ t.hbm = s.hbm ∧
      t.reports = ⟨22, dev :: pa :: (cohBytes s pa len).map (·.toNat)⟩ :: s.reports) ∧
  (∀ dev, dev ≠ s.device → s.gtime < unreachableAt s dev →
    exec (.deviceUnreachable dev) s = .next (s.untilTime (unreachableAt s dev) (.deviceUnreachable dev))) ∧
  (∀ dev w x f l size sg, dev ≠ s.device → mfind s.silent dev = none → s.warps = [(w, x)] → x.flights = [f] → f.kind = .load .global size sg →
    x.pend.any (fun p => p.entry == some f.seq) = false →
    accOn s w x dev f.acc = some l → (∀ m ∈ s.msgs, m.body.key / 2 ^ 54 ≠ dev + 1) → (∀ e ∈ s.cores, e.2.tce = [] ∧ e.2.sumq = []) →
    s.plans = [] → ∃ t y, exec (.deviceUnreachable dev) s = .next t ∧ mfind t.warps w = some y ∧ MemSame s t ∧
      y = { x with pend := ⟨0x01, BitVec.ofNat 64 l.addr, 0xFFFFFFFF, s.clk, some f.seq⟩ :: x.pend }) ∧
  (∀ dev w x m seq r, dev ≠ s.device → mfind s.silent dev = none → s.warps = [(w, x)] → x.flights = [] → x.holds = [] → x.storeq = [] →
    s.msgs = [m] → m.warp = w → m.body.key / 2 ^ 54 = dev + 1 → m.fault = some (seq, r) → (∀ e ∈ s.cores, e.2.tce = [] ∧ e.2.sumq = []) →
    s.plans = [] →
    ∃ t y e, exec (.deviceUnreachable dev) s = .next t ∧ t.msgs = [] ∧ mfind t.warps w = some y ∧ y.storeq = [e] ∧
      e.seq = seq ∧ e.fail = some r ∧ y.unacked = x.unacked.filter (· != m.id) ∧ RegsSame x y ∧ MemSame s t ∧
      (s.clk, Event.storeFaultRecord w seq) ∈ t.agenda) ∧
  (∀ dev p pl i q d, dev ≠ s.device → mfind s.silent dev = none → s.warps = [] → s.msgs = [] → (∀ e ∈ s.cores, e.2.tce = [] ∧ e.2.sumq = []) → s.plans = [(p, pl)] →
    pl.pipes = [(i, q)] → q.remote = some (dev, d) →
    ∃ t r, exec (.deviceUnreachable dev) s = .next t ∧ t.pipe? p i = some r ∧ r.entries = q.entries ∧
      (q.consHere = true → r.pClosed = true) ∧ (q.consHere = false → r.cClosed = true)) ∧
  (∀ dev time, ∃ t, exec (.timeMessage dev time) s = .next t ∧ t.gtime = s.gtime ∧
    (dev = s.device → t.lastTime = s.lastTime ∧ t.locked = s.locked ∧
      t.reports = ⟨41, [dev, s.master, boolNat s.leads, s.gtime]⟩ :: s.reports ∧ ∃ n, (n, Event.timeMessage dev 0) ∈ t.agenda) ∧
    (dev ≠ s.device → t.lastTime = s.gtime ∧
      (s.leads = true → t.slew = s.slew ∧ t.locked = s.locked ∧ t.master = s.master) ∧
      (s.leads = false → t.master = dev ∧ t.masterTime = s.gtime ∧ t.slew = (time : Int) - s.gtime ∧
        (t.locked = true ↔ (time : Int) - s.gtime ≤ 20 ∧ (s.gtime : Int) - time ≤ 20) ∧
        (s.clk + max 1 (clkOfNs (10000000 * 1000 / 1001)), Event.syncLoss) ∈ t.agenda))) ∧
  (s.leads = false → s.lastTime + 10000000 ≤ s.gtime →
    ∃ t, exec .syncLoss s = .next t ∧ t.gtime = s.gtime ∧ t.slew = 0 ∧ t.locked = false ∧ t.reports = ⟨19, []⟩ :: s.reports) ∧
  (s.leads = false → s.gtime < s.lastTime + 10000000 →
    exec .syncLoss s = .next (s.untilTime (s.lastTime + 10000000) .syncLoss)) ∧
  (∀ next, let gone := next ≠ s.master ∧ s.leads = false ∧ s.masterTime + 1000000 ≤ s.gtime ∧ (next = s.device → s.locked = true)
    (gone → ∃ t, exec (.timeMasterLoss next) s = .next t ∧ t.master = next ∧ t.gtime = s.gtime ∧
      (t.locked = true ↔ next = s.device) ∧ (t.leads = true ↔ next = s.device) ∧
      (next = s.device → (s.clk, Event.timeMessage s.device 0) ∈ t.agenda)) ∧
    (¬gone → exec (.timeMasterLoss next) s = .next s)) ∧
  (∀ port asid va (bytes : List Byte), let write := exec (.ueRemoteWrite ⟨port, asid⟩ va bytes) s
    vaStalls s asid va bytes.length needW = false →
    (uePort s port = true → inWindow s asid va bytes.length true = true →
      let v := vWriteD s asid va bytes
      write = .next { v with reports := ⟨42, [port, asid, va, bytes.length]⟩ :: v.reports } ∧
      (∀ e, let u := unitWalk s asid va bytes.length
        xlateNow u asid va needW = some e → va % 65536 + bytes.length ≤ 65536 → bytes ≠ [] →
        v = homeWrite u (e.key u va) bytes)) ∧
    (uePort s port = false ∨ inWindow s asid va bytes.length true = false → write = .next s)) ∧
  (∀ port asid va len b, uePort s port = true → vaStalls s asid va len needR = false → s.msgs = [] → 0 < len →
    inWindow s asid va len false = true → vRead s asid va len = some b →
    ∃ t, exec (.ueRemoteRead ⟨port, asid⟩ va len) s = .next t ∧ t.warps = s.warps ∧ t.hbm = s.hbm ∧ t.l2 = s.l2 ∧
      t.reports = ⟨23, asid :: va :: b.map (·.toNat)⟩ :: s.reports) ∧
  (∀ port asid va len, vaStalls s asid va len needR = false → uePort s port = false ∨ inWindow s asid va len false = false →
    exec (.ueRemoteRead ⟨port, asid⟩ va len) s = .next s) ∧
  (∀ dev, dev ≠ s.device →
    (mfind s.silent dev = none → ∃ t, exec (.registerWrite (.deviceSilent dev true)) s = .next t ∧
      mfind t.silent dev = some s.gtime ∧ (s.clk + max 1 (clkOfNs (100000000 * 1000 / 1001)), Event.deviceUnreachable dev) ∈ t.agenda ∧
      (∀ key die, key / 2 ^ 54 = dev + 1 → homeDown t die key = true) ∧ t.warps = s.warps ∧ MemSame s t) ∧
    ∃ t, exec (.registerWrite (.deviceSilent dev false)) s = .next t ∧ mfind t.silent dev = none ∧ t.warps = s.warps ∧
      (∀ m ∈ s.msgs, m.body.key / 2 ^ 54 = dev + 1 → (s.clk, m.body.event m.id) ∈ t.agenda))



/-! Video decoders and the debug block (R389 to R392, R399, R437 to R441). -/

/-- Decoder rings are registered and noticed, jobs are taken in order and checked, frames are reserved and committed in a pipe or
written to a window's buffer, and a job ends with its results and code (R353, R354, R437 to R442); frames keep the order of the
bitstream, hidden ones are held, what waits for slots or a phase comes again, and a window's next arrival is announced when the
phase of the frame before it completes. A plane is cut into tiles in raster order, its samples converted.
The report of a fault is the model's, log entry 57, the frames' samples are inputs of the model, log entry 11, a sample beyond a
plane's edge log entry 51. -/
def Obligations.VideoDecoders : Prop := ∀ (s : State) (die : Nat),
  (∀ asid ctl i, dutyOwned s 0 3 = true → (s.space asid).isSome = true →
    (List.range 16).find? (fun i => (mfind (s.die die).rings i).isNone) = some i →
    ∃ t, exec (.decoderRingRegistration die asid ctl) s = .next t ∧ t.warps = s.warps ∧ MemSame s t ∧
      (t.die die).rings = mset (s.die die).rings i ⟨asid, ctl, 0⟩ ∧ (s.clk, Event.decoderRingNotice die i) ∈ t.agenda) ∧
  (∀ ring r b, mfind (s.die die).rings ring = some r → vRead s r.asid (r.ctl + 16) 8 = some b →
    let u := unitTouch s r.asid (r.ctl + 16) 8
    ∃ t, exec (.decoderRingNotice die ring) s = .next t ∧ t.warps = u.warps ∧ MemSame u t ∧
      (t.die die).rings = mset (s.die die).rings ring { r with wr := leNat b } ∧
      ∀ k, k < 4 → mfind (s.die die).decs k = none → (s.clk, Event.decoderJobStart die k) ∈ t.agenda) ∧
  (∀ dec i r rd job, dec < 4 → mfind (s.die die).decs dec = none → (s.die die).up = true → (s.die die).resetting = false →
    (s.die die).rings = [(i, r)] → i < 16 → ringJob s r = some (rd, job) →
    let u := (vWriteD (unitTouch (unitTouch s r.asid r.ctl 32) r.asid job 128) r.asid (r.ctl + 24) (leBytes 8 (rd + 1))).modDie die
      (fun d => { d with decNext := (i + 1) % 16 })
    let new := fun (arr : Option (Nat × Nat × Nat)) => (
      { job := job, asid := r.asid, ring := i, shown := 0, bad := 0, arrive := arr,
        told := 1, next := 0, tiles := 0, badHdr := false, began := u.gtime, poison := [], undelim := 0 } : Decoder)
    (∀ b, vRead u r.asid job 128 = some b → jobOk u die r.asid b = true → field b 17 1 = 0 →
      exec (.decoderJobStart die dec) s =
        .next (u.modDie die (fun d => { d with decs := mset d.decs dec (new none) }))) ∧
    (∀ b g gi, vRead u r.asid job 128 = some b → jobOk u die r.asid b = true → field b 17 1 = 1 →
      jobGroup u r.asid (96 * die + field b 31 1) b = some g → mfind u.groups g = some gi →
      ∃ t gj, exec (.decoderJobStart die dec) s = .next t ∧ mfind t.groups g = some gj ∧
        mfind (t.die die).decs dec = some (new (some (g, field b 34 1, gi.phase (field b 34 1)))) ∧
        mget gj.engines (16 * gi.phase (field b 34 1) + field b 34 1) 0 =
          mget gi.engines (16 * gi.phase (field b 34 1) + field b 34 1) 0 + 1) ∧
    (vRead u r.asid job 128 = none ∨ (∃ b, vRead u r.asid job 128 = some b ∧ jobOk u die r.asid b = false) →
      exec (.decoderJobStart die dec) s = .next (endJob u die dec (new none) 1))) ∧
  (∀ dec d undelim (lost : Bool), dec < 4 → mfind (s.die die).decs dec = some d → d.arrive = none →
    (frameHeld s die dec = true → exec (.decoderJobEnd die dec undelim lost) s =
      .next (s.after s.lat.pipe (.decoderJobEnd die dec undelim lost))) ∧
    (frameHeld s die dec = false →
    let code := if lost then 3 else 0
    let u := vWriteD s d.asid (d.job + 116) (leBytes 4 d.shown ++ leBytes 4 d.bad ++ leBytes 4 (d.undelim + undelim))
    let v := vWriteD u d.asid (d.job + 112) [BitVec.ofNat 8 code]
    ∃ t, exec (.decoderJobEnd die dec undelim lost) s = .next t ∧ mfind (t.die die).decs dec = none ∧ MemSame v t ∧
      t.warps = v.warps ∧ (s.clk, Event.decoderJobStart die dec) ∈ t.agenda ∧
      (lost = true → (⟨24, [die, dec, d.asid, d.job]⟩ : Report) ∈ t.reports))) ∧
  (∀ dec d b (pic : Picture) (note : FrameNote), dec < 4 → mfind (s.die die).decs dec = some d →
    vRead s d.asid d.job 128 = some b →
    let later := Event.decoderFrameComplete die dec pic note
    let frame := Instr.decoderFrameComplete die dec pic note
    let src := decSource die dec
    let n := if d.shown = 0 then (pictureTiles b pic).length else d.tiles
    let tiles := frameTiles b pic n
    let bad := framePoisoned d pic note
    let taken := fun (e : Decoder) => e.next = d.next + 1 ∧ e.undelim = d.undelim + note.skipped ∧ e.badHdr = badHeader d pic note ∧
      e.poison = if bad then d.poison ++ [d.next] else d.poison
    let fits := 0 < n ∧ ¬(note.chroma = 400 ∧ 2 ≤ field b 19 1)
    let counted := fun (t : State) => ∃ e, mfind (t.die die).decs dec = some e ∧ taken e ∧ e.shown = d.shown + 1 ∧ e.tiles = n ∧
      e.bad = d.bad + (if bad then 1 else 0)
    let head := note.profile = 0 ∧ note.level ≤ 61 ∧ (pic.depth = 8 ∨ pic.depth = 10) ∧ (note.chroma = 420 ∨ note.chroma = 400)
    (badHeader d pic note = true ↔ ¬head ∨ (d.badHdr = true ∧ note.key = false)) ∧
    (bad = true ↔ note.err = true ∨ badHeader d pic note = true ∨ ∃ r ∈ note.refs, r ∈ d.poison ∨ d.next ≤ r) ∧
    (note.num < d.next → exec frame s = .next s) ∧
    (d.next < note.num → exec frame s = .next (s.after s.lat.pipe later)) ∧
    (note.num = d.next → note.shown = false → ∃ t e, exec frame s = .next t ∧ mfind (t.die die).decs dec = some e ∧ taken e ∧
      e.shown = d.shown ∧ e.bad = d.bad ∧ t.warps = s.warps ∧ t.plans = s.plans ∧ MemSame s t) ∧
    (note.num = d.next → note.shown = true → field b 17 1 = 0 →
      (jobPipe s b = none → exec frame s = .next (endJob s die dec d 2)) ∧
      (∀ q, jobPipe s b = some q →
        (d.shown = 0 → ¬fits ∨ q.depth < n → exec frame s = .next (endJob s die dec d 1)) ∧
        (d.shown ≠ 0 ∨ (fits ∧ n ≤ q.depth) →
          (q.pClosed = true ∨ q.cClosed = true → exec frame s = .next (endJob s die dec d 2)) ∧
          (q.pClosed = false → q.cClosed = false →
            (frameWaits q src = true → exec frame s = .next (s.after s.lat.pipe later)) ∧
            (frameWaits q src = false → (frameSlots q src).length < n →
              ∃ t r os, exec frame s = .next t ∧ t.pipe? (field b 28 1) (field b 29 1) = some r ∧ r.ops = q.ops ++ os ∧
                os.length = n - (frameSlots q src).length ∧ (∀ o ∈ os, o.kind = 0 ∧ o.warp = src) ∧
                (s.clk + s.lat.pipe, later) ∈ t.agenda ∧ t.warps = s.warps ∧ MemSame s t) ∧
            (frameWaits q src = false → n ≤ (frameSlots q src).length → (q.entries.map (·.seq)).Nodup →
              d.shown + 1 ≠ field b 24 4 →
              ∃ t r, exec frame s = .next t ∧ t.pipe? (field b 28 1) (field b 29 1) = some r ∧ t.warps = s.warps ∧
                MemSame s t ∧ counted t ∧
                ∀ (i : Nat) (p : List Byte) (e : PipeEntry), tiles[i]? = some p → (frameSlots q src)[i]? = some e →
                  ∃ f ∈ r.entries, f.seq = e.seq ∧ f.state = 1 ∧ f.status = (if bad then 2 else 0) ∧
                    f.payload = if bad then [] else memWrite [] 0 (padTo (jobTile b) p)))))) ∧
    (∀ g bar p0 gi, note.num = d.next → note.shown = true → field b 17 1 ≠ 0 → d.arrive = some (g, bar, p0) →
      mfind s.groups g = some gi → d.shown ≠ 0 ∨ (fits ∧ 2 * n * jobTile b ≤ field b 44 4) →
      (d.told ≤ d.shown → exec frame s = .next (s.after s.lat.pipe later)) ∧
      (d.shown < d.told → d.shown + 1 ≠ field b 24 4 →
        ∃ t, exec frame s = .next t ∧
          MemSame (frameWindow s (96 * die + field b 31 1) d.shown (jobTile b) b tiles bad) t ∧
          (s.clk, Event.barrierPhaseComplete g bar) ∈ t.agenda ∧ t.warps = s.warps ∧ counted t))) ∧
  (∀ (b : List Byte) depth w h (px : List Nat), let rows := field b 20 2
    let cols := field b 22 2
    let nx := (w + cols - 1) / cols
    let size := if field b 18 1 = 2 then 1 else 2
    0 < rows → 0 < cols →
    (planeTiles b depth (w, h, px)).length = (h + rows - 1) / rows * nx ∧
    ∀ ty tx y x i, ty < (h + rows - 1) / rows → tx < nx → y < rows → x < cols → i < size →
      let v := if ty * rows + y < h ∧ tx * cols + x < w then px.getD ((ty * rows + y) * w + (tx * cols + x)) 0 else 0
      ((planeTiles b depth (w, h, px)).getD (ty * nx + tx) []).getD ((y * cols + x) * size + i) 0 =
        (leBytes size (sampleBits (field b 18 1) depth v)).getD i 0) ∧
  (∀ v, v < 256 → sampleBits 2 8 v = (BitVec.ofInt 8 ((v : Int) - 128)).toNat ∧ sampleBits 3 8 v = v) ∧
  (∀ v, v < 1024 → sampleBits 2 10 v = (BitVec.ofInt 8 ((v / 4 : Nat) - 128)).toNat ∧ sampleBits 3 10 v = v) ∧
  (∀ x dec d g bar p0 gi, s.dies = [(die, x)] → x.decs = [(dec, d)] → d.arrive = some (g, bar, p0) → mfind s.groups g = some gi →
    let ph := mget gi.phases bar 0
    gi.members ≠ [] → (∀ m ∈ gi.members, m ∈ mget gi.arrived bar []) → mget gi.engines (16 * ph + bar) 0 = 0 →
    p0 + d.told = ph + 1 →
    ∃ t gj e, exec (.barrierPhaseComplete g bar) s = .next t ∧ mfind t.groups g = some gj ∧
      mget gj.engines (16 * (ph + 1) + bar) 0 = mget gi.engines (16 * (ph + 1) + bar) 0 + 1 ∧
      mfind (t.die die).decs dec = some e ∧ e.told = d.told + 1)

/-- Samples, the trigger, stop points and core images (R389, R391, R392, R399): what each writes and whom it stops; a sample
changes no warp.
The report of an image is the model's, log entry 57. -/
def Obligations.DebugBlocks : Prop := ∀ (s : State) (core : Nat),
  let d := (s.core core).dbg
  (∀ i l x, ((List.range 128).map (fun i => (d.slot + i) % 128)).find? (fun i =>
      (mfind s.warps (128 * core + i)).isSome) = some i → mfind s.warps (128 * core + i) = some x →
    ((List.range 32).map (fun j => (mget d.lanes i 0 + j) % 32)).find? (fun l => !x.exited.getLsbD l) = some l →
    let w := 128 * core + i
    let u := s.modCore core (fun k => { k with dbg := { k.dbg with slot := (i + 1) % 128 } })
    ∃ t reason, exec (.sample core) s = .next t ∧ (d.size = 0 ∨ NoRegistration s → t.warps = s.warps) ∧ (t.core core).dbg.slot = (i + 1) % 128 ∧
      mfind (t.core core).dbg.lanes i = some (l + 1) ∧
      (x.active.getLsbD l = false → reason = 0) ∧
      (x.active.getLsbD l = true → x.lastIssue + 1 = s.clk → x.issued.getLsbD l = true → reason = 0) ∧
      (x.active.getLsbD l = true → x.lastIssue + 1 ≠ s.clk → (barHeld x).getLsbD l = true → reason = 2) ∧
      (x.active.getLsbD l = true → x.lastIssue + 1 = s.clk → x.issued.getLsbD l = false →
        (barHeld x).getLsbD l = false → reason = 6) ∧
      (d.size ≠ 0 → (t.core core).dbg.head = d.head + 1 ∧ MemSame (homeWrite u (d.base + 32 * (d.head % d.size))
        (debugRec s w l 1 (laneState x l) reason (x.pc.getD l 0) 0)) t) ∧
      (d.size = 0 → MemSame s t)) ∧
  (d.trig = .armed → condHolds s d d.reqStart d.start = true →
    ∃ t, exec (.triggerStart core) s = .next t ∧ (NoRegistration s → t.warps = s.warps) ∧ (d.size ≠ 0 → (t.core core).dbg.head = d.head + 1) ∧
      (t.core core).dbg.trig = if condHolds s d d.reqStop d.stop then .once else .capturing) ∧
  (d.trig ≠ .armed ∨ condHolds s d d.reqStart d.start = false → exec (.triggerStart core) s = .next s) ∧
  (d.trig = .once ∨ d.trig = .capturing ∧ condHolds s d d.reqStop d.stop = true →
    ∃ t, exec (.triggerStop core) s = .next t ∧ (NoRegistration s → t.warps = s.warps) ∧ (t.core core).dbg.trig = .disarmed ∧
      (d.size ≠ 0 → (t.core core).dbg.head = d.head + 1)) ∧
  (d.trig = .disarmed ∨ d.trig = .armed → exec (.triggerStop core) s = .next s) ∧
  (∀ w x, mfind s.warps w = some x →
    (stoppedLanes s w x ≠ 0 → ∃ t, exec (.stopPoint w) s = .next t ∧ mfind t.warps w = some { x with preemptReq := true } ∧
      (s.clk, Event.preempt w) ∈ t.agenda ∧ OthersSame s t w ∧ MemSame s t) ∧
    (stoppedLanes s w x = 0 → exec (.stopPoint w) s = .next s)) ∧
  (∀ asid, (∀ f ∈ s.fallen, f.1 = asid → dutyOwned s (dieOf f.2.1) 2 = true ∧ undelivered s 1 f.2.1 = false) → spaceStill s asid = false →
    ∃ t, exec (.coreImageDump asid) s = .next t ∧ asid ∈ t.stopped ∧ (s.clk + 64, Event.coreImageDump asid) ∈ t.agenda ∧
      MemSame s t ∧ ∀ w x, mfind s.warps w = some x → x.asid = asid →
        mfind t.warps w = some { x with preemptReq := true } ∧ (s.clk, Event.preempt w) ∈ t.agenda) ∧
  (∀ asid f, f ∈ s.fallen → f.1 = asid → dutyOwned s (dieOf f.2.1) 2 = false →
    exec (.coreImageDump asid) s = .next (s.after 64 (.coreImageDump asid))) ∧
  (∀ asid, (∀ f ∈ s.fallen, f.1 = asid → dutyOwned s (dieOf f.2.1) 2 = true ∧ undelivered s 1 f.2.1 = false) → spaceStill s asid = true →
    let img := elfCore (imageNotes s asid)
    let dump := mget s.dumpTo asid (0, 0)
    let u := if dump.2 = 0 then s else homeWrite s dump.2 img
    ∃ t, exec (.coreImageDump asid) s = .next t ∧ t.images = s.images ++ [(asid, img)] ∧ t.warps = u.warps ∧ MemSame u t ∧
      t.fallen = s.fallen.filter (fun f => f.1 != asid) ∧
      t.reports = ⟨25, asid :: (s.images.filter (fun e => e.1 == asid)).length :: dump.1 ::
        (exported s asid img).map (·.toNat)⟩ :: u.reports)


/-! What Toltar does for warps and peers (R384, R412 to R423). -/

/-- The five services, answered once the warp's stores are acknowledged and the completion stands in the journal (R418, R420):
the status in s0, what each does, and each bad argument; an answer without an owner of the duty waits (R423).
The kinds of records are the model's, log entry 53, answers to unknown services log entry 23. -/
def Obligations.Services : Prop := ∀ (s : State) (w : Nat) (q : SvcReq),
  let dv := svcDie s w
  let id := q.id
  let u := marked s dv 2 5 [id]
  let va := argAddr q.args 2
  let n := (q.args.getD 4 0).toNat
  let touch := unitTouch u (keyAsid u w) va 32
  let still := ∀ e ∈ leavesOf s (keyAsid s w) va n, stuckIn s e = false
  let req := fun (k : Nat) => svcReq s w (· == k) = some q
  let other := svcReq s w (fun n => n != 1 && n != 2 && n != 0x10 && n != 0x11) = some q
  (svcReady s w q = true → Recorded s dv 2 5 [id] →
    (req 1 → va % 64 = 0 → 
      (∀ nonce v, vRead touch (keyAsid u w) va 32 = some nonce →
        vWrite touch (keyAsid u w) va (attestReport touch (keyAsid u w) nonce) = some v →
        exec (.svcAttest w) s = .next (answerSvc v w id [0])) ∧
      (vRead touch (keyAsid u w) va 32 = none → exec (.svcAttest w) s = .next (answerSvc touch w id [2]))) ∧
    (req 1 → va % 64 ≠ 0 → exec (.svcAttest w) s = .next (answerSvc u w id [2])) ∧
    (req 2 → spaceStill s (keyAsid s w) = true → exec (.svcDump w) s =
      .next (answerSvc (writeImage u (keyAsid s w)) w id [0, BitVec.ofNat 32 (imageCount s (keyAsid s w))])) ∧
    (∀ d, s.space (keyAsid s w) = some d → req 16 → va % 65536 = 0 → va + 65536 * n ≤ 2 ^ 57 →
      (q.args.getD 5 0).toNat / 16 % 4 ≠ 3 → (d.saveBase + d.saveLen ≤ va ∨ va + 65536 * n ≤ d.saveBase) →
      ((∀ i, i < n → walkAll u d.asid (va + 65536 * i) = .invalid) →
        (∀ v, mapPages u d.root va (leafBits (q.args.getD 5 0).toNat) n = some v →
          exec (.svcMap w) s = .next (answerSvc v w id [0])) ∧
        (mapPages u d.root va (leafBits (q.args.getD 5 0).toNat) n = none →
          exec (.svcMap w) s = .next (answerSvc u w id [1]))) ∧
      ((∃ i, i < n ∧ walkAll u d.asid (va + 65536 * i) ≠ .invalid) → exec (.svcMap w) s = .next (answerSvc u w id [2]))) ∧
    (∀ d, s.space (keyAsid s w) = some d → req 16 → va % 65536 = 0 → va + 65536 * n ≤ 2 ^ 57 →
      (q.args.getD 5 0).toNat / 16 % 4 ≠ 3 → va < d.saveBase + d.saveLen → d.saveBase < va + 65536 * n →
      exec (.svcMap w) s = .next (answerSvc u w id [3])) ∧
    (req 16 → va % 65536 ≠ 0 ∨ (q.args.getD 5 0).toNat / 16 % 4 = 3 → exec (.svcMap w) s = .next (answerSvc u w id [2])) ∧
    (∀ d, s.space (keyAsid s w) = some d → req 17 → still → va % 65536 = 0 → va + 65536 * n ≤ 2 ^ 57 →
      let leaves := leavesOf u d.asid va n
      ((∀ e ∈ leaves, va ≤ e.base ∧ e.base + e.size ≤ va + 65536 * n) → exec (.svcUnmap w) s =
        .next (answerSvc (leaves.eraseDups.foldl (fun s e => unmapLeaf s d.root e) u) w id [0])) ∧
      ((∃ e ∈ leaves, e.base < va ∨ va + 65536 * n < e.base + e.size) →
        exec (.svcUnmap w) s = .next (answerSvc u w id [2]))) ∧
    (req 17 → still → va % 65536 ≠ 0 → exec (.svcUnmap w) s = .next (answerSvc u w id [2])) ∧
    (other → q.num ≠ 32 → exec (.svcLog w) s = .next (answerSvc u w id [0xFFFFFFFF, 0, 0, 0])) ∧
    (other → q.num = 32 → ∃ v, exec (.svcLog w) s = .next (answerSvc v w id [0]) ∧ v.warps = s.warps ∧ MemSame s v ∧
      mfind v.tenantLog (keyAsid s w) = some (mget s.tenantLog (keyAsid s w) [] ++
        (List.range 6).flatMap (fun i => leBytes 4 (q.args.getD (i + 2) 0).toNat) ++ leBytes 8 s.gtime))) ∧
  (svcReady s w q = false →
    (req 1 → exec (.svcAttest w) s = .next ((svcWaits s w q).after s.lat.toltar (.svcAttest w))) ∧
    (req 16 → exec (.svcMap w) s = .next ((svcWaits s w q).after s.lat.toltar (.svcMap w))) ∧
    (req 17 → still → exec (.svcUnmap w) s = .next ((svcWaits s w q).after s.lat.toltar (.svcUnmap w))) ∧
    (other → exec (.svcLog w) s = .next ((svcWaits s w q).after s.lat.toltar (.svcLog w)))) ∧
  (svcReady s w q = true → req 1 → Records (.svcAttest w) s dv 2 5 [id] (.svcAttest w)) ∧
  (svcReady s w q = true ↔ dutyOwned s (svcDie s w) 2 = true ∧ undelivered s 32 q.id = false ∧ (svcLook s w q.wait).isDone s = true) ∧
  (req 17 → ¬still → exec (.svcUnmap w) s = .next (s.after 64 (.svcUnmap w))) ∧
  (spaceStill s (keyAsid s w) = false → req 2 → ∃ t, exec (.svcDump w) s = .next t ∧ keyAsid s w ∈ t.stopped ∧
    (s.clk + 64, Event.svcDump w) ∈ t.agenda)

/-- Attestation requests, keys, address spaces and delegation words (R384, R412 to R416, R420, R423): each changes what it names
and nothing of a warp; what peers can see is journalled first; without an owner nothing happens.
Reports and the kinds of journal records are the model's, log entries 57 and 53. -/
def Obligations.ManagementRequests : Prop := ∀ (s : State),
  (∀ asid nonce, dutyOwned s 0 3 = true → 7 ≤ stepOf (s.die 0) → exec (.attestationRequest asid nonce) s =
    .next { s with reports := ⟨26, (attestReport s asid nonce).map (·.toNat)⟩ :: s.reports }) ∧
  (∀ asid nonce, dutyOwned s 0 3 = false ∨ stepOf (s.die 0) < 7 → exec (.attestationRequest asid nonce) s = .next s) ∧
  (∀ asid nonce, (attestReport s asid nonce).length = 256 ∧ (nonce.length = 32 → (attestReport s asid nonce).take 32 = nonce) ∧
    field (attestReport s asid nonce) 32 2 = s.device % 65536) ∧
  (∀ slot (key : List Byte), slot ≤ 254 →
    let args := slot :: (List.range 32).map (fun i => (Config.monitorSeal (padTo 32 key) i).toNat)
    (Recorded s 0 3 1 args → ∃ t, exec (.keyInstall slot key) s = .next t ∧ (NoRegistration s → t.warps = s.warps) ∧
      t.keys = mset s.keys slot (padTo 32 key) ∧ t.reports = ⟨27, [slot]⟩ :: s.reports ∧
      (∀ i e, mfind s.slots i = some e → mfind t.slots i = some (if e.key = slot then { e with ctr := 0 } else e))) ∧
    Records (.keyInstall slot key) s 0 3 1 args (.keyInstall slot key) ∧
    (mget (s.die 0).duties 3 0 = 0 → exec (.keyInstall slot key) s = .next s)) ∧
  (∀ d : AsDescriptor, stepOf (s.die 0) = 8 → d.asid < 4096 →
    let args := [d.asid, d.root, d.wmbase, d.drbase, d.drsize, boolNat d.conf, d.dbgKey, d.saveBase, d.saveLen]
    (Recorded s 0 3 3 args → ∃ t, exec (.addressSpaceRegister d) s = .next t ∧ (NoRegistration s → t.warps = s.warps) ∧
      (s.space d.asid = none → ∀ k e, mfind s.dies k = some e → mfind (t.die k).spaces d.asid = some d) ∧
      (s.space d.asid ≠ none → mfind t.newSpaces d.asid = some d ∧ t.dies = s.dies ∧ MemSame s t) ∧
      (mfind s.runm d.asid = none → mfind t.runm d.asid = some (List.replicate 32 0)) ∧
      (mfind s.runm d.asid ≠ none → t.runm = s.runm)) ∧
    Records (.addressSpaceRegister d) s 0 3 3 args (.addressSpaceRegister d)) ∧
  (∀ d : AsDescriptor, stepOf (s.die 0) ≠ 8 ∨ 4096 ≤ d.asid → exec (.addressSpaceRegister d) s = .next s) ∧
  (∀ die p st (word : Word), let args := [die, p, st, word.toNat]
    (Recorded s die 2 7 args → ∃ t, exec (.delegationWrite die p st word) s = .next t ∧
      (∀ k e, mfind s.dies k = some e → (t.die k).deleg = mset e.deleg (16 * p + st) (word &&& 0x7FFFE)) ∧
      t.warps = s.warps ∧ MemSame s t) ∧
    Records (.delegationWrite die p st word) s die 2 7 args (.delegationWrite die p st word) ∧
    (dutyOwned s die 2 = false → exec (.delegationWrite die p st word) s = .next s))


/-- Supervisor pairs and the registers Toltar writes (R363, R389 to R396, R400, R405, R419 to R423): failure, watchdog, takeover, self
test and journal; each register write changes its register alone. The layout of the journal and the time the takeover takes are
the model's, log entries 2 and 9.
Delays are log entry 2, the kinds of records log entry 53. -/
def Obligations.PairsAndRegisters : Prop := ∀ (s : State),
  (∀ h p, mfind s.pairs h = some p →
    (p.state = .active ∨ p.state = .spare → ∃ t q, exec (.pairFailure h) s = .next t ∧ mfind t.pairs h = some q ∧
      q.state = (if p.fails.any (fun f => decide (s.gtime ≤ f + 1000000000)) then .retired else .failed) ∧
      q.journal = p.journal ∧ q.lost = dutiesOf s h ∧ q.orphan = decide (p.state = .active) ∧
      q.selfTest = (!p.fails.any (fun f => decide (s.gtime ≤ f + 1000000000))) ∧ q.fails = s.gtime :: p.fails ∧ q.x = [] ∧ q.mode = .m ∧ t.warps = s.warps ∧ MemSame s t ∧
      (∀ k, k ≠ h → mfind t.pairs k = mfind s.pairs k) ∧ (∀ d u, mget (t.die d).duties u 0 ≠ h + 1) ∧
      (p.state = .active → (s.clk + s.lat.toltar, Event.spareTakeover h) ∈ t.agenda) ∧
      ((s.die (h / 4)).events.length < 255 → (t.die (h / 4)).events = (s.die (h / 4)).events ++ [2])) ∧
    (p.state = .failed ∨ p.state = .retired → exec (.pairFailure h) s = .next s) ∧
    (p.state ≠ .active → exec (.watchdogKick h) s = .next s ∧
      exec (.journalCheckpoint h) s = .next s) ∧
    (p.state = .active → exec (.watchdogKick h) s =
      .next ((s.modPair h (fun _ => { p with lastKick := s.gtime })).inTime 10000000 (.watchdogExpiry h))) ∧
    (p.lastKick + 10000000 ≤ s.gtime → exec (.watchdogExpiry h) s = .next (failPair s h) ∧
      exec (.pairFailure h) s = .next (failPair s h)) ∧
    (s.gtime < p.lastKick + 10000000 → exec (.watchdogExpiry h) s =
      .next (s.untilTime (p.lastKick + 10000000) (.watchdogExpiry h))) ∧
    (∀ n q, p.orphan = true → successor s h = some n → mfind s.pairs n = some q →
      ∃ t r, exec (.spareTakeover h) s = .next t ∧ mfind t.pairs n = some r ∧ r.state = .active ∧
        r.journal = q.journal ++ (p.journal.filter (fun j => j.mirrored || decide (n / 4 = h / 4))).map (fun j => { j with applied := true }) ++
          p.lost.map (fun u => ⟨6, [u.1, u.2, n], true, true⟩) ∧
        (∀ d u, (d, u) ∈ p.lost → mget (t.die d).duties u 0 = n + 1) ∧ (t.pair h).lost = [] ∧ (t.pair h).orphan = false ∧
        (q.state = .spare → r.mode = .s ∧ r.pc = (runToltar s n q).pc ∧ r.lastKick = s.gtime) ∧
        ((∀ u ∈ p.lost, u.2 = 2 → (s.die u.1).toltarq = []) → t.reports = s.reports) ∧ t.warps = s.warps ∧
        MemSame s t) ∧
    (∀ i, i < 16 → i ≠ h → i / 4 = h / 4 → h / 4 < s.nDies → (s.pair i).state = .spare →
      ∃ n, successor s h = some n ∧ n / 4 = h / 4 ∧ (s.pair n).state = .spare) ∧
    (p.state = .failed → p.selfTest = true →
      (∃ t, exec (.pairSelfTest h true) s = .next t ∧ mfind t.pairs h = some { monitorBoot p with state := .spare, selfTest := false } ∧
        ∀ k q, mfind s.pairs k = some q → k ≠ h → q.orphan = true → (s.clk + s.lat.toltar, Event.spareTakeover k) ∈ t.agenda) ∧
      exec (.pairSelfTest h false) s = .next (s.modPair h (fun _ => { p with selfTest := false }))) ∧
    (∃ t q, exec (.journalMirror h) s = .next t ∧ mfind t.pairs h = some q ∧
      q = { p with journal := p.journal.map (fun r => { r with mirrored := true }), mirror := p.journal.length }) ∧
    (p.state = .active → ∃ t q, exec (.journalCheckpoint h) s = .next t ∧ mfind t.pairs h = some q ∧ q.ckpt = p.ckpt + 1 ∧
      q.journal = p.journal.filter (fun r => !r.applied) ∧ q.x = p.x ∧ q.pc = p.pc ∧
      (s.clk + max 1 (clkOfNs (10000000 * 1000 / 1001)), Event.journalCheckpoint h) ∈ t.agenda)) ∧
  (let rw := fun (r : RegTarget) => exec (.registerWrite r) s
   let dbg := fun (c : Nat) (r : RegTarget) (f : DebugBlock → DebugBlock) => ∃ t, rw r = .next t ∧
     (t.core c).dbg = f (s.core c).dbg ∧ t.warps = s.warps ∧ MemSame s t ∧ ∀ k, k ≠ c → t.core k = s.core k
   (∀ h p num val, mfind s.pairs h = some p →
     (csrKnown num = false ∨ svLevel p.mode < num / 256 % 4 ∨ num / 1024 = 3 → rw (.csr h num val) = .next (trapHart s h 2 0)) ∧
     (csrKnown num = true → num / 256 % 4 ≤ svLevel p.mode → num / 1024 ≠ 3 →
       rw (.csr h num val) = .next (s.modPair h (fun _ => p.writeCsr num val)))) ∧
   (∀ h p r v mode pc, mfind s.pairs h = some p → ∃ t q, rw (.hart h mode pc [(r, v)]) = .next t ∧ t.hartTurn = some h ∧
     mfind t.pairs h = some q ∧ q.pc = pc ∧ q.mode = svMode mode ∧ (r ≠ 0 → q.get r = v) ∧ q.get 0 = 0 ∧
     ∀ k, k ≠ r → q.get k = p.get k) ∧
   (∀ h, rw (.turn h) = .next { s with hartTurn := some h }) ∧
   (∀ (c : Nat) (val : DWord), (s.core c).mcpStat.getLsbD 0 = false → ∃ t, rw (.mcpAddr c val) = .next t ∧
     (t.core c).mcpAddr = val &&& 0xFFFFFFFFFFFFFFC0 ∧ t.warps = s.warps ∧ MemSame s t) ∧
   (∀ (c : Nat) (val : Word), (s.core c).mcpStat.getLsbD 0 = false → ∃ t, rw (.mcpCmd c val) = .next t ∧
     (t.core c).mcpCmd = val &&& 7 ∧ (val.getLsbD 2 = true → (t.core c).mcpStat = 1 ∧ (s.clk + s.lat.hop,
       if val.getLsbD 1 then Event.mcpRestore c else Event.mcpSave c) ∈ t.agenda) ∧ t.warps = s.warps ∧ MemSame s t) ∧
   (∀ c val val', (s.core c).mcpStat.getLsbD 0 = true → rw (.mcpAddr c val) = .next s ∧ rw (.mcpCmd c val') = .next s) ∧
   (∀ c j, dbg c (.sampler c j) (fun d => { d with j := if 10 ≤ j ∧ j ≤ 20 then j else 0 })) ∧
   (∀ c b n, dbg c (.debugRing c b n) (fun d => { d with base := b, size := n, head := 0, read := 0, skipped := 0 })) ∧
   (∀ c n, NoRegistration s → let d := (s.core c).dbg
     let recs := (List.range' d.read (min n d.head - d.read)).map (fun i => cohBytes s (d.base + 32 * (i % d.size)) 32)
     dbg c (.debugRead c n) (fun d => { d with read := max d.read (min n d.head) }) ∧
     ∃ t, rw (.debugRead c n) = .next t ∧ (min n d.head ≤ d.read → t.reports = s.reports) ∧
       (d.read < min n d.head → ∃ out : List Byte, t.reports = ⟨33, c :: out.map (·.toNat)⟩ :: s.reports ∧
         ((s.core c).owner = none → out = recs.flatten))) ∧
   (∀ w x n, w < 1000000 → mfind s.warps w = some x → x.undo = none → rw (.undoRead w n) = .next s) ∧
   (∀ w x ring, w < 1000000 → mfind s.warps w = some x → x.undo = some ring → NoRegistration s → 0 < x.undoN →
     let a := ring + 160 * ((x.undoN - 1) % 4096)
     let u := unitTouch s x.asid a 160
     ∃ t, rw (.undoRead w 1) = .next t ∧ t.warps = s.warps ∧ MemSame s t ∧
       ((vRead u x.asid a 160).isNone → t.reports = ⟨34, [w]⟩ :: u.reports) ∧
       ∀ b, vRead u x.asid a 160 = some b →
         t.reports = ⟨34, w :: (exportUnits u (some x.asid) [(w, field b 0 8, b)]).map (·.toNat)⟩ :: u.reports) ∧
   (∀ a dest area, rw (.dumpSetting a dest area) = .next { s with dumpTo := mset s.dumpTo a (dest, area) }) ∧
   (∀ dev ps, rw (.route dev ps) = .next { s with routes := mset s.routes dev ps }) ∧
   (∀ c i w l, i < 4 → l < 32 → dbg c (.traced c i w l) (fun d => { d with traced := mset d.traced i ⟨w, l, 0⟩ })) ∧
   (∀ c i w l a, i < 4 → l < 32 → dbg c (.stopPoint c i w l a) (fun d => { d with stops := mset d.stops i ⟨w, l, a⟩ })) ∧
   (∀ c i w l a, i < 4 → 32 ≤ l → dbg c (.stopPoint c i w l a) (fun d => { d with stops := mdel d.stops i })) ∧
   (∀ c a b, dbg c (.trigger c a b) (fun d => { d with start := a, stop := b })) ∧
   (∀ c, dbg c (.triggerArm c) (fun d => if d.trig = .disarmed then
     { d with trig := .armed, reqStart := false, reqStop := false } else d)) ∧
   (∀ c, dbg c (.triggerRequest c true) (fun d => { d with reqStart := d.reqStart || decide (d.trig ≠ .disarmed) })) ∧
   (∀ c, dbg c (.triggerRequest c false) (fun d => { d with reqStop := d.reqStop || decide (d.trig ≠ .disarmed) })) ∧
   (∀ c l, dbg c (.stepLane c l) (fun d => { d with stepLane := l % 32 })) ∧
   (∀ w x step db, w < 1000000 → mfind s.warps w = some x → ∃ t y, rw (.tmodeDebug w step db) = .next t ∧
     mfind t.warps w = some y ∧ y = { x with tmode := y.tmode } ∧ OthersSame s t w ∧ y.tmode.getLsbD 5 = step ∧
     y.tmode.getLsbD 4 = db ∧ ∀ i, i ≠ 4 → i ≠ 5 → y.tmode.getLsbD i = x.tmode.getLsbD i) ∧
   (∀ w x n ev g, w < 1000000 → n < 16 → mfind s.warps w = some x → rw (.counterConfig w n ev g) =
     .next (s.modWarp w (fun _ => { x with ctr := mset x.ctr n ⟨ev, g, false, 0, 0, 0⟩ }))) ∧
   (∀ w x a, w < 1000000 → mfind s.warps w = some x → rw (.undoRing w a) =
     .next (s.modWarp w (fun _ => { x with undo := some a, undoN := 0 }))) ∧
   (∀ q a, q < 16384 → rw (.directory q a) = .next { s with
     queues := mset s.queues q a
     attached := if mget s.queues q 0 = a then s.attached else s.attached.filter (fun k => k != q) }) ∧
   (∀ q (bytes : List Byte), Recorded s (q * s.nDies / 16384) 1 2 (q :: bytes.map (·.toNat)) → bytes.length = 64 →
     rw (.shadowWrite q bytes) = .next (shadowPut (marked s (q * s.nDies / 16384) 1 2 (q :: bytes.map (·.toNat))) q 0 bytes)) ∧
   (∀ d u h, (s.pair h).state ≠ .active → rw (.duty d u h) = .next s) ∧
   (∀ d u h p r, mfind s.pairs h = some p → p.state = .active → p.journal.find? (isRecord 6 [d, u, h]) = some r → r.mirrored = true →
     ∃ t, rw (.duty d u h) = .next t ∧ mget (t.die d).duties u 0 = h + 1 ∧ MemSame s t ∧ t.warps = s.warps ∧
       (u = 2 → (t.die d).toltarq = [] ∧ t.reports = (s.die d).toltarq.reverse ++ s.reports) ∧ (u ≠ 2 → t.reports = s.reports)) ∧
   (∀ d u h p, mfind s.pairs h = some p → p.state = .active → p.journal.find? (isRecord 6 [d, u, h]) = none →
     ∃ t q, rw (.duty d u h) = .next t ∧ mfind t.pairs h = some q ∧ q.journal = p.journal ++ [⟨6, [d, u, h], false, false⟩] ∧
       t.dies = s.dies ∧ (s.clk + s.lat.hop, Event.journalMirror h) ∈ t.agenda ∧
       (s.clk + s.lat.hop, Event.registerWrite (.duty d u h)) ∈ t.agenda) ∧
   (∀ a b n r w, rw (.ueWindow a b n r w) = .next { s with ueWins := s.ueWins ++ [(a, b, n, r, w)] }) ∧
   (∀ a, ∃ t, rw (.stepResume a) = .next t ∧ a ∉ t.stopped ∧ ∀ v ∈ t.saved, v.warp.asid = a → v.stopped = false) ∧
   (∀ ps, rw (.freePages ps) = .next { s with pool := s.pool ++ ps }) ∧
   (∀ a (file : List Byte), ∃ t, rw (.codeObject a file) = .next t ∧
     mfind t.runm a = some (sm3 (padTo 32 (mget s.runm a []) ++ sm3 file)) ∧ t.bootm = s.bootm))


/-! The package as the board sees it (R410, R411, R446 to R450). -/

/-- The I3C registers, bring-up, boot, power and heat: what each step and each write does, and when one is ignored. The board
event codes and the law of withholding are the model's, log entry 7.
Reports are the model's, log entry 57. -/
def Obligations.BoardAndBringup : Prop := ∀ (s : State) (die : Nat),
  (∀ val : Word, stepOf (s.die die) = 0 → ∃ t, exec (.mdevWrite die val) s = .next t ∧ t.device = val.toNat % 1024 ∧
    (t.die die).mdev.toNat = val.toNat % 1024 ∧ (t.die die).mdevSet = true ∧ t.warps = s.warps ∧ MemSame s t) ∧
  (∀ val, stepOf (s.die die) ≠ 0 → exec (.mdevWrite die val) s = .next s) ∧
  (∀ val : Word, (150 ≤ val.toNat → val.toNat ≤ 600 → ∃ t, exec (.mbudgetWrite die val) s = .next t ∧
      (t.die die).mbudget = val ∧ t.warps = s.warps ∧ MemSame s t) ∧
    (val.toNat < 150 ∨ 600 < val.toNat → exec (.mbudgetWrite die val) s = .next s)) ∧
  (∃ t, exec (.meventRead die) s = .next t ∧ (t.die die).events = (s.die die).events.drop 1 ∧
    t.reports = ⟨20, [die, meventOf (s.die die)]⟩ :: s.reports ∧ t.warps = s.warps ∧
    ((s.die die).events.length < 256 →
      meventOf (s.die die) = (s.die die).events.length + 256 * (s.die die).events.headD 0)) ∧
  (∀ code, let ev := (s.die die).events
    let fed := ((boardEvent s die code).die die).events
    (ev.length < 255 → fed = ev ++ [code]) ∧ (255 ≤ ev.length → fed.take 255 = ev.take 255 ∧ fed.length = 256)) ∧
  (∀ t, die < s.nDies → t = 48 + die → let d := s.die die
    (∀ off v, (off, v) ∈ [(0, d.mstate), (4, d.mdev), (8, d.mbudget), (12, d.mtemp), (16, d.mpower)] →
      exec (.registerWrite (.i3cRead t off)) s = .next (s.tell 43 [t, off, v.toNat])) ∧
    (exec (.registerWrite (.i3cRead t 20)) s =
      .next ((s.tell 43 [t, 20, meventOf d]).modDie die (fun d => { d with events := d.events.drop 1 }))) ∧
    (∀ off, off % 4 ≠ 0 ∨ 24 ≤ off → exec (.registerWrite (.i3cRead t off)) s = .next s) ∧
    (∀ val, exec (.registerWrite (.i3cWrite t 4 val)) s = exec (.mdevWrite die val) s ∧
      exec (.registerWrite (.i3cWrite t 8 val)) s = exec (.mbudgetWrite die val) s ∧
      ∀ off, off ≠ 4 → off ≠ 8 → exec (.registerWrite (.i3cWrite t off val)) s = .next s)) ∧
  (∀ t off val, t < 48 ∨ 48 + s.nDies ≤ t →
    exec (.registerWrite (.i3cRead t off)) s = .next s ∧ exec (.registerWrite (.i3cWrite t off val)) s = .next s) ∧
  (∀ watts, ∃ t, exec (.powerWindow die watts) s = .next t ∧ (t.die die).mpower.toNat = watts % 65536 ∧
    (t.die die).withheld ≤ 15 ∧ ((s.die die).thermal = false → watts < 65536 → watts ≤ (s.die die).mbudget.toNat →
      (t.die die).withheld = 0) ∧ t.warps = s.warps ∧ MemSame s t ∧ t.agenda = s.agenda) ∧
  (∀ temp, ∃ t, exec (.thermalThrottle die temp) s = .next t ∧ (t.die die).mtemp.toNat = temp % 65536 ∧
    (1680 ≤ temp → (t.die die).thermal = true ∧ (t.die die).withheld = 15) ∧ (temp ≤ 1600 → (t.die die).thermal = false) ∧
    (1600 < temp → temp < 1680 → (t.die die).thermal = (s.die die).thermal) ∧ t.warps = s.warps ∧ MemSame s t) ∧
  (∃ t, exec .thermalShutdown s = .next t ∧ t.warps = [] ∧ t.hbm = s.hbm.filter (fun c => !keyLocal c.1) ∧ t.plans = [] ∧ t.flash = s.flash ∧
    t.bootm = List.replicate 32 0 ∧ t.pgood = false ∧ t.nDies = (if s.nDies = 1 then 1 else 4) ∧
    (∀ e ∈ t.agenda, ∃ n, (n, e.2) ∈ s.agenda ∧ outsideInput e.2 = true) ∧ t.reports = ⟨21, []⟩ :: s.reports) ∧
  (exec .powerGood s = .next { s with pgood := true }) ∧
  (let d := s.die die
   let n := stepOf d + 1
   let may := s.pgood = true ∧ (s.die 0).mdevSet = true ∧ d.mstate.getLsbD 4 = false ∧ n ≤ 8 ∧ (5 ≤ n → d.up = true)
   (¬may → ∀ res, exec (.bringupStep die res) s = .next s) ∧
   (∀ dup, may → mfind s.dies die = some d →
     (n = 1 → ∃ t, exec (.bringupStep die ⟨true, dup⟩) s = .next t ∧ ∀ k, (mfind s.dies k).isSome → stepOf (t.die k) = 1) ∧
     (∀ b, n = 2 → bootChoice s = some b → ∃ t, exec (.bringupStep die ⟨true, dup⟩) s = .next t ∧
       t.bootm = sm3 (b.hdr ++ b.image) ∧ t.svn = b.svn ∧ ∀ k e, mfind s.dies k = some e →
         stepOf (t.die k) = 2 ∧ (t.die k).sram = memWrite e.sram 0 b.image) ∧
     ((n = 2 ∨ n = 3) → bootChoice s = none → ∃ t, exec (.bringupStep die ⟨true, dup⟩) s = .next t ∧ t.bootm = s.bootm ∧
       t.svn = s.svn ∧ ∀ k e, mfind s.dies k = some e → (t.die k).mstate.getLsbD 4 = true ∧ (t.die k).sram = e.sram) ∧
     (∀ b h p, n = 3 → bootChoice s = some b → mfind s.pairs h = some p → p.state = .active → h < 16 → h / 4 < s.nDies →
       b.entry < 2 ^ 21 → ∃ t q, exec (.bringupStep die ⟨true, dup⟩) s = .next t ∧ mfind t.pairs h = some q ∧ q.mode = .s ∧
         q.c csrMedeleg = p.c csrMedeleg ||| 0xF000000 ∧ q.pc.toNat = 2 ^ 47 + 2 ^ 21 * (h / 4) + b.entry ∧
         (s.clk + max 1 (clkOfNs (10000000 * 1000 / 1001)), Event.watchdogExpiry h) ∈ t.agenda) ∧
     (n = 4 → ∃ t, exec (.bringupStep die ⟨true, dup⟩) s = .next t ∧ (t.die die).up = true ∧ t.clock die = 0 ∧
       stepOf (t.die die) = 4 ∧ (∀ a, keyLocal a = true → homeDie s a = die → memByte t.hbm a = 0) ∧
       (∀ c, dieOfCore c = die → (t.core c).opst = [])) ∧
     (n = 8 → ∃ t, exec (.bringupStep die ⟨true, dup⟩) s = .next t ∧ stepOf (t.die die) = 8 ∧ t.feat.length = 4 ∧
       t.feat.getD 0 0 = 0xFF ∧
       t.feat.getD 3 0 = BitVec.ofNat 32 (s.svn % 2 ^ 24 * 256 + Config.siliconRev.toNat) ∧ (t.feat.getD 2 0).toNat = s.device % 2 ^ 32) ∧
     (5 ≤ n → n ≤ 7 → ∃ t, exec (.bringupStep die ⟨true, dup⟩) s = .next t ∧ stepOf (t.die die) = n ∧ t.warps = s.warps ∧
       MemSame s t ∧ (n = 6 → t.locked = true ∧ t.lastTime = s.gtime ∧ (s.clk, Event.timeMessage s.device 0) ∈ t.agenda ∧
         t.leads = (s.leads || (s.device == 0 && s.master == 0 && s.lastTime == 0))) ∧ (n = 5 → ∀ k, k < 4 → (mget t.ports (4 * die + k) UaPort.fresh).off =
         ((mget s.ports (4 * die + k) UaPort.fresh).off || decide (k ∈ dup)))) ∧
     (n ≤ 3 → ∃ t, exec (.bringupStep die ⟨false, dup⟩) s = .next t ∧ ∀ k, (mfind s.dies k).isSome →
       (t.die k).mstate.getLsbD 4 = true) ∧
     (4 ≤ n → ∃ t, exec (.bringupStep die ⟨false, dup⟩) s = .next t ∧ (t.die die).up = false ∧ ∀ k, (mfind s.dies k).isSome →
       (t.die k).mstate.getLsbD 5 = true)))


/-! The step and the decoder (R34, R76 to R83, R404). -/

/-- A step runs the decoded instruction. Where the words fetched at a path's program counter decode to an instruction that ends
its group and nothing forbids it, that group is what issues (R76 to R82); its step is `exec` of the instruction in a state that
names warp, path and address, with the path's program counters at the word after the group, past NOPs up to the packet's end (R78, R79), and every register as it stood.
The members of a group follow in order (R83); an occurrence that is due and a supervisor's custom word run alike; a custom-0
word that is not assigned takes the illegal-instruction exception (R404), and any other word of a supervisor runs as a base
instruction (R402).
The order of what a step looks at is the model's, log entries 1 and 8. -/
def Obligations.StepRunsDecoded : Prop := ∀ (s : State),
  (∀ (x : Warp) (pc k : Nat) (n : Int), k < 3 → (pc : Int) = x.codeBase + 12 * n + 4 * k →
    slotAt x pc = k ∧ (4 * k ≤ pc → pc < 2 ^ 64 → packetStart x pc = pc - 4 * k)) ∧
  (∀ w x pc packet u rest i, fetchWords s w (packetStart x pc) 3 = .ok packet → packet.drop (slotAt x pc) = u :: rest →
    u ≠ 0 → decode u rest.head? = .ok i → u.getLsbD 31 = false → illegalHere s w x i = false → illegalValue x i = false →
    privBad x i = false →
    ∃ w1, atPc s w x pc = 
      .group [(i, pc, u, w1)] (afterNops (rest.drop (i.words - 1)) (pc + 4 * i.words)) ∧ (i.words = 2 → rest.head? = some w1)) ∧
  (∀ w x pc packet, fetchWords s w (packetStart x pc) 3 = .ok packet → (∀ u ∈ packet.drop (slotAt x pc), u = 0) →
    atPc s w x pc = .skip (pc + 4 * (3 - slotAt x pc))) ∧
  (∀ w x pc packet u rest, fetchWords s w (packetStart x pc) 3 = .ok packet → packet.drop (slotAt x pc) = u :: rest → u ≠ 0 →
    ((∃ e, decode u rest.head? = .error e) ∨ (∃ i, decode u rest.head? = .ok i ∧ u.getLsbD 31 = false ∧
      (illegalHere s w x i = true ∨ illegalValue x i = true))) → atPc s w x pc = .fault 0x02 (BitVec.ofNat 64 pc)) ∧
  (∀ w x pc packet u rest i, fetchWords s w (packetStart x pc) 3 = .ok packet → packet.drop (slotAt x pc) = u :: rest →
    u ≠ 0 → decode u rest.head? = .ok i → u.getLsbD 31 = false → illegalHere s w x i = false → illegalValue x i = false →
    privBad x i = true → atPc s w x pc = .fault 0x04 (BitVec.ofNat 64 pc)) ∧
  (∀ w x l path at0 pc i w0 w1 next, s.pend = [] → (∀ e ∈ s.agenda.head?, s.clk < e.1) → s.hartTurn = none → s.second = none →
    selectWarp s = some (w, x, l) → mfind s.warps w = some x → primaryPath x l = some (path, at0, .go [(i, pc, w0, w1)] next) →
    ∃ t c y, step s = thenEnd (exec i t) ∧ Issuing t c y ∧ c.warp = w ∧ c.path = path ∧ c.pc = pc ∧ c.next = next ∧
      c.w0 = w0 ∧ c.w1 = w1 ∧ c.vE = x.vE ∧ c.sE = x.sE ∧ c.fpctl = x.fpctl ∧ c.mctl = x.mctl ∧ y.vreg = x.vreg ∧
      y.sreg = x.sreg ∧ y.pred = x.pred ∧ y.upred = x.upred ∧ y.tile = x.tile ∧ y.active = x.active ∧ y.exited = x.exited ∧
      y.tmode = x.tmode ∧ y.flights = x.flights ∧ y.storeq = x.storeq ∧
      t.clk = s.clk ∧ t.pend = [] ∧ ((heldPacket s w x pc).isSome → t.words = s.words) ∧
      ((heldPacket s w x pc).isSome ∨ s.msgs = [] → t.hbm = s.hbm ∧ t.l2 = s.l2 ∧ OthersSame s t w) ∧
      ∀ l, l < 32 → y.pc.getD l 0 = if path.getLsbD l then next else x.pc.getD l 0) ∧
  (∀ i a w0 w1 rest, s.pend = (i, a, w0, w1) :: rest → step s = thenEnd (exec i { s with
    pend := rest, issue := s.issue.map (fun c => { c with pc := a, w0 := w0, w1 := w1 }) })) ∧
  (∀ c, s.issue = some c → s.pend = [] → (s.warpD c.warp).tmode.getLsbD 5 = false → (s.warpD c.warp).preemptReq = false →
    (s.warpD c.warp).holds.any Hold.isReturn = false → thenEnd (.next s) = .next { s with issue := none }) ∧
  (∀ c, s.issue = some c → s.pend ≠ [] → thenEnd (.next s) = .next s) ∧
  (∀ t e r, s.pend = [] → s.agenda = (t, e) :: r → t ≤ s.clk → step s = runEvent e { s with agenda := r }) ∧
  (∀ h w, s.pend = [] → (∀ e ∈ s.agenda.head?, s.clk < e.1) → s.hartTurn = some h → (s.pair h).state = .active →
    (s.pair h).wait = none → irqOf (s.pair h) = none → hartFetch s (s.pair h) = .ok w →
    (∀ i, decodeSupervisor w = .ok i → step s = exec i s) ∧
    (∀ e, decodeSupervisor w = .error e → w.extractLsb' 0 7 = 0x0B →
      step s = .next (trapHart { s with hartTurn := none } h 2 w.toNat)) ∧
    (∀ e, decodeSupervisor w = .error e → w.extractLsb' 0 7 ≠ 0x0B → step s = rvRun { s with hartTurn := none } h w)) ∧
  (∀ h, s.pend = [] → (∀ e ∈ s.agenda.head?, s.clk < e.1) → s.hartTurn = some h → (s.pair h).state = .active →
    (s.pair h).wait = none →
    (∀ i, irqOf (s.pair h) = some i → step s = .next (trapHart { s with hartTurn := none } h (2 ^ 63 + i) 0)) ∧
    (∀ e, irqOf (s.pair h) = none → hartFetch s (s.pair h) = .error e →
      step s = .next (trapHart { s with hartTurn := none } h e.1 e.2))) ∧
  (s.pend = [] → (∀ e ∈ s.agenda.head?, s.clk < e.1) → s.hartTurn = none → s.second = none → selectWarp s = none →
    selectSkip s = none → step s = .next (tick s))

/-- Words written out from the encoding tables (R84 to R103, R404) decode to the instructions they stand for. -/
def Obligations.DecodedWords : Prop :=
  decodeTableWord 32 0x00000000 = some .nop ∧
  decodeTableWord 32 0x81030102 = some (.iaddShort ⟨true, 3, 1, 2⟩) ∧
  decodeTableWord 64 0x0000170470030102 = some (.iadd ⟨false, 3, 1, 2, 0, false, 2, true, 6, 4⟩) ∧
  decodeTableWord 64 0x2302380370010203 = some (.ffma ⟨false, 1, 2, 3, 4, false, 7, false, 0, 3⟩) ∧
  decodeTableWord 64 0x0203800E75020100 = none ∧
  decodeTableWord 64 0x082B3C357332091A = some (.ssetpImm ⟨false, 100, 0x12345678, 53⟩) ∧
  decodeTableWord 64 0x2706381E74040306 = some (.atomCas ⟨false, 4, 3, 6, 12, false, 7, false, 0, 30⟩) ∧
  decodeTableWord 64 0x0B04780177051004 = some (.spawn ⟨false, 5, 16, 4, 8, true, 7, false, 0, 1⟩) ∧
  decodeTableWord 64 0x0303F8057A020104 = some (.mloop ⟨false, 2, 1, 4, 7, true, 7, false, 0, 5⟩) ∧
  decodeTableWord 32 0x80000000 = none ∧
  (decodeSupervisor 0x06C5A50B).toOption = some (.swait ⟨3, 10, 11, 12⟩)

/-- Decoding what was encoded: the bytes of every well-formed instruction of a warp (R76, R77, R84 to R103), followed by any
others, decode to it and leave the others; the word of every supervisor instruction decodes to it (R404). -/
def Obligations.EncodeThenDecode : Prop := ∀ (i : Instr), i.wellFormed = true → (info i).enc ≠ .event →
  ((∃ a b f, (info i).enc = .rv a b f) → ∃ w, encode i = [w] ∧ (decodeSupervisor w).toOption = some i) ∧
  ((∀ a b f, (info i).enc ≠ .rv a b f) →
    (∀ rest : List Byte, (decodeBytes (encodeBytes i ++ rest)).toOption = some (i, rest)) ∧
    (encodeBytes i).length = 4 * i.words ∧
    ∀ n, decodeTableWord n (leNat (encodeBytes i)) = some i)

/-- The boot measurement stays: in every state where MEASURE is its reset value or the measurement of the image that the flash
boots, every step keeps it so (R410, R411). -/
def Obligations.MeasuredKept : Prop := ∀ (s t : State), s.Measured → step s = .next t → t.Measured

/-- The machine right after reset: measured, memory listing nothing and in canonical form, no warp, no plan, no registered word,
pairs 0 to 2 of each die active and pair 3 spare in M mode, the dies not up (R401, R411, R450); values the spec gives none for
are the model's, log entries 6 and 7. -/
def Obligations.ResetState : Prop :=
  State.reset.Measured ∧ State.reset.memWf = true ∧ State.reset.hbm = [] ∧ State.reset.warps = [] ∧ State.reset.saved = [] ∧
  State.reset.plans = [] ∧ State.reset.words = [] ∧ State.reset.slots = [] ∧ State.reset.keys = [] ∧ State.reset.issue = none ∧
  (∀ h, h < 16 → (State.reset.pair h).state = (if h % 4 = 3 then .spare else .active) ∧ (State.reset.pair h).mode = .m) ∧
  (∀ d, (State.reset.die d).up = false ∧ (State.reset.die d).mstate = 0) ∧
  State.reset.nDies = 4 ∧ State.resetD.nDies = 1 ∧ State.resetD.dies.map (·.1) = [0] ∧
  State.resetD.pairs.map (·.1) = [0, 1, 2, 3] ∧ State.resetD.hbm = [] ∧ State.resetD.memWf = true ∧
  (∀ pa, homeDie State.resetD pa = 0) ∧
  (∀ d k, mget (State.reset.die d).duties k 0 = 0)
end

