-- ==== Sys2Proof/Laws/Encoding.lean ====
section
/-!
SUPPORT. Reading back what the encoder writes: one lemma per layout of R84 to R87 and R404.
-/

set_option linter.unusedSimpArgs false

namespace Sys2Proof.Laws

open Sys2Proof Sys2Proof.Machine

/-- The number of an append. -/
theorem toNat_cat {n m : Nat} (x : BitVec n) (y : BitVec m) : (x ++ y).toNat = x.toNat * 2 ^ m + y.toNat := by
  rw [BitVec.toNat_append, Nat.shiftLeft_eq, Nat.mul_comm, Nat.two_pow_add_eq_or_of_lt y.isLt]

theorem shortV_back (op : BitVec 7) (f : ShortV) :
    shortVOf (BitVec.ofBool f.c ++ op ++ f.d ++ f.a ++ f.b : BitVec 32) = f ∧
    BitVec.extractLsb' 24 7 (BitVec.ofBool f.c ++ op ++ f.d ++ f.a ++ f.b : BitVec 32) = op := by
  obtain ⟨c, d, a, b⟩ := f
  have h0 : (BitVec.ofBool c ++ op ++ d ++ a ++ b).toNat =
      ((((c.toNat) * 2 ^ 7 + op.toNat) * 2 ^ 8 + d.toNat) * 2 ^ 8 + a.toNat) * 2 ^ 8 + b.toNat := by
    simp only [toNat_cat, BitVec.toNat_ofBool, BitVec.extractLsb'_toNat, Nat.shiftRight_eq_div_pow, BitVec.reduceToNat]
  generalize hw0 : (BitVec.ofBool c ++ op ++ d ++ a ++ b : BitVec 32) = w0
  replace h0 : w0.toNat = _ := hw0 ▸ h0
  have := c.toNat_le
  have := d.isLt
  have := a.isLt
  have := b.isLt
  have := op.isLt
  simp only [shortVOf, ShortV.mk.injEq, BitVec.toNat_eq, BitVec.extractLsb'_toNat, Nat.shiftRight_eq_div_pow, BitVec.getLsbD,
    Nat.testBit, Nat.one_and_eq_mod_two, toNat_cat]
  refine ⟨⟨?_, ?_, ?_, ?_⟩, ?_⟩
  all_goals first
    | omega
    | (cases c <;> simp_all <;> omega)

theorem shortA_back (sub : BitVec 6) (f : ShortA) :
    shortAOf (BitVec.ofBool f.c ++ 0x40#7 ++ f.d ++ f.b ++ sub : BitVec 32) = f ∧
    BitVec.extractLsb' 24 7 (BitVec.ofBool f.c ++ 0x40#7 ++ f.d ++ f.b ++ sub : BitVec 32) = 0x40#7 ∧
    BitVec.extractLsb' 0 6 (BitVec.ofBool f.c ++ 0x40#7 ++ f.d ++ f.b ++ sub : BitVec 32) = sub := by
  obtain ⟨c, d, b⟩ := f
  have h0 : (BitVec.ofBool c ++ 0x40#7 ++ d ++ b ++ sub).toNat =
      ((((c.toNat) * 2 ^ 7 + 64) * 2 ^ 9 + d.toNat) * 2 ^ 9 + b.toNat) * 2 ^ 6 + sub.toNat := by
    simp only [toNat_cat, BitVec.toNat_ofBool, BitVec.extractLsb'_toNat, Nat.shiftRight_eq_div_pow, BitVec.reduceToNat]
  generalize hw0 : (BitVec.ofBool c ++ 0x40#7 ++ d ++ b ++ sub : BitVec 32) = w0
  replace h0 : w0.toNat = _ := hw0 ▸ h0
  have := c.toNat_le
  have := d.isLt
  have := b.isLt
  have := sub.isLt
  simp only [shortAOf, ShortA.mk.injEq, BitVec.toNat_eq, BitVec.extractLsb'_toNat, Nat.shiftRight_eq_div_pow, BitVec.getLsbD,
    Nat.testBit, Nat.one_and_eq_mod_two, toNat_cat]
  refine ⟨⟨?_, ?_, ?_⟩, ?_, ?_⟩
  all_goals first
    | omega
    | (cases c <;> simp_all <;> omega)

theorem shortU_back (op : BitVec 7) (f : ShortU) :
    shortUOf (BitVec.ofBool f.c ++ op ++ f.d ++ f.b ++ f.sub : BitVec 32) = f ∧
    BitVec.extractLsb' 24 7 (BitVec.ofBool f.c ++ op ++ f.d ++ f.b ++ f.sub : BitVec 32) = op := by
  obtain ⟨c, d, b, sub⟩ := f
  have h0 : (BitVec.ofBool c ++ op ++ d ++ b ++ sub).toNat =
      ((((c.toNat) * 2 ^ 7 + op.toNat) * 2 ^ 9 + d.toNat) * 2 ^ 9 + b.toNat) * 2 ^ 6 + sub.toNat := by
    simp only [toNat_cat, BitVec.toNat_ofBool, BitVec.extractLsb'_toNat, Nat.shiftRight_eq_div_pow, BitVec.reduceToNat]
  generalize hw0 : (BitVec.ofBool c ++ op ++ d ++ b ++ sub : BitVec 32) = w0
  replace h0 : w0.toNat = _ := hw0 ▸ h0
  have := c.toNat_le
  have := d.isLt
  have := b.isLt
  have := sub.isLt
  have := op.isLt
  simp only [shortUOf, ShortU.mk.injEq, BitVec.toNat_eq, BitVec.extractLsb'_toNat, Nat.shiftRight_eq_div_pow, BitVec.getLsbD,
    Nat.testBit, Nat.one_and_eq_mod_two, toNat_cat]
  refine ⟨⟨?_, ?_, ?_, ?_⟩, ?_⟩
  all_goals first
    | omega
    | (cases c <;> simp_all <;> omega)

theorem shortB_back (op : BitVec 7) (f : ShortB) :
    shortBOf (BitVec.ofBool f.c ++ op ++ f.p ++ BitVec.ofBool f.n ++ f.off : BitVec 32) = f ∧
    BitVec.extractLsb' 24 7 (BitVec.ofBool f.c ++ op ++ f.p ++ BitVec.ofBool f.n ++ f.off : BitVec 32) = op := by
  obtain ⟨c, p, n, off⟩ := f
  have h0 : (BitVec.ofBool c ++ op ++ p ++ BitVec.ofBool n ++ off).toNat =
      ((((c.toNat) * 2 ^ 7 + op.toNat) * 2 ^ 3 + p.toNat) * 2 ^ 1 + n.toNat) * 2 ^ 20 + off.toNat := by
    simp only [toNat_cat, BitVec.toNat_ofBool, BitVec.extractLsb'_toNat, Nat.shiftRight_eq_div_pow, BitVec.reduceToNat]
  generalize hw0 : (BitVec.ofBool c ++ op ++ p ++ BitVec.ofBool n ++ off : BitVec 32) = w0
  replace h0 : w0.toNat = _ := hw0 ▸ h0
  have := c.toNat_le
  have := p.isLt
  have := n.toNat_le
  have := off.isLt
  have := op.isLt
  simp only [shortBOf, ShortB.mk.injEq, BitVec.toNat_eq, BitVec.extractLsb'_toNat, Nat.shiftRight_eq_div_pow, BitVec.getLsbD,
    Nat.testBit, Nat.one_and_eq_mod_two, toNat_cat]
  refine ⟨⟨?_, ?_, ?_, ?_⟩, ?_⟩
  all_goals first
    | omega
    | (cases c <;> cases n <;> simp_all <;> omega)

theorem long_back (op : BitVec 7) (x : BitVec 8) (f : LongF) :
    longOf (BitVec.ofBool f.c ++ op ++ f.d ++ f.a ++ f.b : BitVec 32) (x ++ f.t ++ BitVec.ofBool f.k ++ f.g ++ BitVec.ofBool f.n ++ f.w ++ f.m : BitVec 32) = f ∧
    BitVec.extractLsb' 24 7 (BitVec.ofBool f.c ++ op ++ f.d ++ f.a ++ f.b : BitVec 32) = op ∧
    BitVec.extractLsb' 24 8 (x ++ f.t ++ BitVec.ofBool f.k ++ f.g ++ BitVec.ofBool f.n ++ f.w ++ f.m : BitVec 32) = x := by
  obtain ⟨c, d, a, b, t, k, g, n, w, m⟩ := f
  have h0 : (BitVec.ofBool c ++ op ++ d ++ a ++ b).toNat =
      ((((c.toNat) * 2 ^ 7 + op.toNat) * 2 ^ 8 + d.toNat) * 2 ^ 8 + a.toNat) * 2 ^ 8 + b.toNat := by
    simp only [toNat_cat, BitVec.toNat_ofBool, BitVec.extractLsb'_toNat, Nat.shiftRight_eq_div_pow, BitVec.reduceToNat]
  generalize hw0 : (BitVec.ofBool c ++ op ++ d ++ a ++ b : BitVec 32) = w0
  replace h0 : w0.toNat = _ := hw0 ▸ h0
  have h1 : (x ++ t ++ BitVec.ofBool k ++ g ++ BitVec.ofBool n ++ w ++ m).toNat =
      ((((((x.toNat) * 2 ^ 9 + t.toNat) * 2 ^ 1 + k.toNat) * 2 ^ 3 + g.toNat) * 2 ^ 1 + n.toNat) * 2 ^ 3 + w.toNat) * 2 ^ 7 + m.toNat := by
    simp only [toNat_cat, BitVec.toNat_ofBool, BitVec.extractLsb'_toNat, Nat.shiftRight_eq_div_pow, BitVec.reduceToNat]
  generalize hw1 : (x ++ t ++ BitVec.ofBool k ++ g ++ BitVec.ofBool n ++ w ++ m : BitVec 32) = w1
  replace h1 : w1.toNat = _ := hw1 ▸ h1
  have := c.toNat_le
  have := d.isLt
  have := a.isLt
  have := b.isLt
  have := t.isLt
  have := k.toNat_le
  have := g.isLt
  have := n.toNat_le
  have := w.isLt
  have := m.isLt
  have := op.isLt
  have := x.isLt
  simp only [longOf, LongF.mk.injEq, BitVec.toNat_eq, BitVec.extractLsb'_toNat, Nat.shiftRight_eq_div_pow, BitVec.getLsbD,
    Nat.testBit, Nat.one_and_eq_mod_two, toNat_cat]
  refine ⟨⟨?_, ?_, ?_, ?_, ?_, ?_, ?_, ?_, ?_, ?_⟩, ?_, ?_⟩
  all_goals first
    | omega
    | (cases c <;> cases k <;> cases n <;> simp_all <;> omega)

theorem immV_back (x : BitVec 8) (f : ImmV) :
    immVOf (BitVec.ofBool f.c ++ 0x71#7 ++ f.d ++ f.a ++ BitVec.extractLsb' 24 8 f.imm : BitVec 32) (x ++ BitVec.extractLsb' 0 24 f.imm : BitVec 32) = f ∧
    BitVec.extractLsb' 24 7 (BitVec.ofBool f.c ++ 0x71#7 ++ f.d ++ f.a ++ BitVec.extractLsb' 24 8 f.imm : BitVec 32) = 0x71#7 ∧
    BitVec.extractLsb' 24 8 (x ++ BitVec.extractLsb' 0 24 f.imm : BitVec 32) = x := by
  obtain ⟨c, d, a, imm⟩ := f
  have h0 : (BitVec.ofBool c ++ 0x71#7 ++ d ++ a ++ BitVec.extractLsb' 24 8 imm).toNat =
      ((((c.toNat) * 2 ^ 7 + 113) * 2 ^ 8 + d.toNat) * 2 ^ 8 + a.toNat) * 2 ^ 8 + (imm.toNat / 2 ^ 24 % 2 ^ 8) := by
    simp only [toNat_cat, BitVec.toNat_ofBool, BitVec.extractLsb'_toNat, Nat.shiftRight_eq_div_pow, BitVec.reduceToNat]
  generalize hw0 : (BitVec.ofBool c ++ 0x71#7 ++ d ++ a ++ BitVec.extractLsb' 24 8 imm : BitVec 32) = w0
  replace h0 : w0.toNat = _ := hw0 ▸ h0
  have h1 : (x ++ BitVec.extractLsb' 0 24 imm).toNat =
      (x.toNat) * 2 ^ 24 + (imm.toNat / 2 ^ 0 % 2 ^ 24) := by
    simp only [toNat_cat, BitVec.toNat_ofBool, BitVec.extractLsb'_toNat, Nat.shiftRight_eq_div_pow, BitVec.reduceToNat]
  generalize hw1 : (x ++ BitVec.extractLsb' 0 24 imm : BitVec 32) = w1
  replace h1 : w1.toNat = _ := hw1 ▸ h1
  have := c.toNat_le
  have := d.isLt
  have := a.isLt
  have := imm.isLt
  have := x.isLt
  simp only [immVOf, ImmV.mk.injEq, BitVec.toNat_eq, BitVec.extractLsb'_toNat, Nat.shiftRight_eq_div_pow, BitVec.getLsbD,
    Nat.testBit, Nat.one_and_eq_mod_two, toNat_cat]
  refine ⟨⟨?_, ?_, ?_, ?_⟩, ?_, ?_⟩
  all_goals first
    | omega
    | (cases c <;> simp_all <;> omega)

theorem immU_back (x : BitVec 8) (f : ImmU) :
    immUOf (BitVec.ofBool f.c ++ 0x73#7 ++ f.d ++ BitVec.extractLsb' 17 15 f.imm : BitVec 32) (x ++ BitVec.extractLsb' 0 17 f.imm ++ f.x : BitVec 32) = f ∧
    BitVec.extractLsb' 24 7 (BitVec.ofBool f.c ++ 0x73#7 ++ f.d ++ BitVec.extractLsb' 17 15 f.imm : BitVec 32) = 0x73#7 ∧
    BitVec.extractLsb' 24 8 (x ++ BitVec.extractLsb' 0 17 f.imm ++ f.x : BitVec 32) = x := by
  obtain ⟨c, d, imm, x2⟩ := f
  have h0 : (BitVec.ofBool c ++ 0x73#7 ++ d ++ BitVec.extractLsb' 17 15 imm).toNat =
      (((c.toNat) * 2 ^ 7 + 115) * 2 ^ 9 + d.toNat) * 2 ^ 15 + (imm.toNat / 2 ^ 17 % 2 ^ 15) := by
    simp only [toNat_cat, BitVec.toNat_ofBool, BitVec.extractLsb'_toNat, Nat.shiftRight_eq_div_pow, BitVec.reduceToNat]
  generalize hw0 : (BitVec.ofBool c ++ 0x73#7 ++ d ++ BitVec.extractLsb' 17 15 imm : BitVec 32) = w0
  replace h0 : w0.toNat = _ := hw0 ▸ h0
  have h1 : (x ++ BitVec.extractLsb' 0 17 imm ++ x2).toNat =
      ((x.toNat) * 2 ^ 17 + (imm.toNat / 2 ^ 0 % 2 ^ 17)) * 2 ^ 7 + x2.toNat := by
    simp only [toNat_cat, BitVec.toNat_ofBool, BitVec.extractLsb'_toNat, Nat.shiftRight_eq_div_pow, BitVec.reduceToNat]
  generalize hw1 : (x ++ BitVec.extractLsb' 0 17 imm ++ x2 : BitVec 32) = w1
  replace h1 : w1.toNat = _ := hw1 ▸ h1
  have := c.toNat_le
  have := d.isLt
  have := imm.isLt
  have := x2.isLt
  have := x.isLt
  simp only [immUOf, ImmU.mk.injEq, BitVec.toNat_eq, BitVec.extractLsb'_toNat, Nat.shiftRight_eq_div_pow, BitVec.getLsbD,
    Nat.testBit, Nat.one_and_eq_mod_two, toNat_cat]
  refine ⟨⟨?_, ?_, ?_, ?_⟩, ?_, ?_⟩
  all_goals first
    | omega
    | (cases c <;> simp_all <;> omega)

theorem uni_back (x : BitVec 8) (f : UniF) :
    uniFOf (BitVec.ofBool f.c ++ 0x72#7 ++ f.d ++ f.a ++ 0#6 : BitVec 32) (x ++ f.t ++ 0#1 ++ f.g ++ BitVec.ofBool f.n ++ f.w ++ 0#1 ++ f.m : BitVec 32) = f ∧
    BitVec.extractLsb' 24 7 (BitVec.ofBool f.c ++ 0x72#7 ++ f.d ++ f.a ++ 0#6 : BitVec 32) = 0x72#7 ∧
    BitVec.extractLsb' 24 8 (x ++ f.t ++ 0#1 ++ f.g ++ BitVec.ofBool f.n ++ f.w ++ 0#1 ++ f.m : BitVec 32) = x ∧
    BitVec.extractLsb' 0 6 (BitVec.ofBool f.c ++ 0x72#7 ++ f.d ++ f.a ++ 0#6 : BitVec 32) = 0#6 ∧
    ((x ++ f.t ++ 0#1 ++ f.g ++ BitVec.ofBool f.n ++ f.w ++ 0#1 ++ f.m : BitVec 32)).getLsbD 14 = false ∧
    ((x ++ f.t ++ 0#1 ++ f.g ++ BitVec.ofBool f.n ++ f.w ++ 0#1 ++ f.m : BitVec 32)).getLsbD 6 = false := by
  obtain ⟨c, d, a, t, g, n, w, m⟩ := f
  have h0 : (BitVec.ofBool c ++ 0x72#7 ++ d ++ a ++ 0#6).toNat =
      ((((c.toNat) * 2 ^ 7 + 114) * 2 ^ 9 + d.toNat) * 2 ^ 9 + a.toNat) * 2 ^ 6 + 0 := by
    simp only [toNat_cat, BitVec.toNat_ofBool, BitVec.extractLsb'_toNat, Nat.shiftRight_eq_div_pow, BitVec.reduceToNat]
  generalize hw0 : (BitVec.ofBool c ++ 0x72#7 ++ d ++ a ++ 0#6 : BitVec 32) = w0
  replace h0 : w0.toNat = _ := hw0 ▸ h0
  have h1 : (x ++ t ++ 0#1 ++ g ++ BitVec.ofBool n ++ w ++ 0#1 ++ m).toNat =
      (((((((x.toNat) * 2 ^ 9 + t.toNat) * 2 ^ 1 + 0) * 2 ^ 3 + g.toNat) * 2 ^ 1 + n.toNat) * 2 ^ 3 + w.toNat) * 2 ^ 1 + 0) * 2 ^ 6 + m.toNat := by
    simp only [toNat_cat, BitVec.toNat_ofBool, BitVec.extractLsb'_toNat, Nat.shiftRight_eq_div_pow, BitVec.reduceToNat]
  generalize hw1 : (x ++ t ++ 0#1 ++ g ++ BitVec.ofBool n ++ w ++ 0#1 ++ m : BitVec 32) = w1
  replace h1 : w1.toNat = _ := hw1 ▸ h1
  have := c.toNat_le
  have := d.isLt
  have := a.isLt
  have := t.isLt
  have := g.isLt
  have := n.toNat_le
  have := w.isLt
  have := m.isLt
  have := x.isLt
  simp only [uniFOf, UniF.mk.injEq, BitVec.toNat_eq, BitVec.extractLsb'_toNat, Nat.shiftRight_eq_div_pow, BitVec.getLsbD,
    Nat.testBit, Nat.one_and_eq_mod_two, toNat_cat]
  refine ⟨⟨?_, ?_, ?_, ?_, ?_, ?_, ?_, ?_⟩, ?_, ?_, ?_, ?_, ?_⟩
  all_goals first
    | omega
    | (cases c <;> cases n <;> simp_all <;> omega)

/-! The decoder on a layout. -/

/-- What the decoders read from the words of a layout. -/
def readBack (e : Enc) (ws : List Word) : Option Instr :=
  match e, ws with
  | .rv _ _ _, [w] => (decodeSupervisor w).toOption
  | _, [w] => (decode w none).toOption
  | _, [w, u] => (decode w (some u)).toOption
  | _, _ => none

/-- A well-formed instruction is read back from its words. -/
def ReadsBack (i : Instr) : Prop :=
  i.wellFormed = true → (info i).enc ≠ .event → readBack (info i).enc (encode i) = some i

theorem ofTwo_long (op : BitVec 7) (x : Nat) (w u : Word) (h : op ≠ 0x71#7 ∧ op ≠ 0x72#7 ∧ op ≠ 0x73#7) :
    ofTwo op.toNat x w u = ofLong op.toNat x (longOf w u) := by
  unfold ofTwo
  split
  · rename_i e; exact absurd (BitVec.eq_of_toNat_eq e) h.1
  · rename_i e; exact absurd (BitVec.eq_of_toNat_eq e) h.2.2
  · rename_i e; exact absurd (BitVec.eq_of_toNat_eq e) h.2.1
  · rfl

theorem long_rt {op : BitVec 7} {x : BitVec 8} {f : LongF} {i : Instr} (he : (info i).enc = .long op x f)
    (h1 : isLongOp op.toNat = true) (h2 : op ≠ 0x71#7 ∧ op ≠ 0x72#7 ∧ op ≠ 0x73#7)
    (hl : ofLong op.toNat x.toNat f = some i) : ReadsBack i := by
  intro hw _
  obtain ⟨a, b, c⟩ := long_back op x f
  simp only [encode, he, readBack, encodeWords, decode, b, h1, decodeLong, c, if_true, ofTwo_long _ _ _ _ h2, a, hl]
  simp [checkFields, hw, Except.toOption]

theorem immV_rt {x : BitVec 8} {f : ImmV} {i : Instr} (he : (info i).enc = .immV x f)
    (hl : ofImmV x.toNat f = some i) : ReadsBack i := by
  intro hw _
  obtain ⟨a, b, c⟩ := immV_back x f
  have h1 : isLongOp (0x71#7).toNat = true := rfl
  have h2 (y : Nat) (w u : Word) : ofTwo (0x71#7).toNat y w u = ofImmV y (immVOf w u) := rfl
  simp only [encode, he, readBack, encodeWords, decode, b, h1, decodeLong, c, if_true, h2, a, hl]
  simp [checkFields, hw, Except.toOption]

theorem immU_rt {x : BitVec 8} {f : ImmU} {i : Instr} (he : (info i).enc = .immU x f)
    (hl : ofImmU x.toNat f = some i) : ReadsBack i := by
  intro hw _
  obtain ⟨a, b, c⟩ := immU_back x f
  have h1 : isLongOp (0x73#7).toNat = true := rfl
  have h2 (y : Nat) (w u : Word) : ofTwo (0x73#7).toNat y w u = ofImmU y (immUOf w u) := rfl
  simp only [encode, he, readBack, encodeWords, decode, b, h1, decodeLong, c, if_true, h2, a, hl]
  simp [checkFields, hw, Except.toOption]

theorem uni_rt {x : BitVec 8} {f : UniF} {i : Instr} (he : (info i).enc = .uni x f)
    (hl : ofUni x.toNat f = some i) : ReadsBack i := by
  intro hw _
  obtain ⟨a, b, c, d, e, g⟩ := uni_back x f
  have h1 : isLongOp (0x72#7).toNat = true := rfl
  have h2 (y : Nat) (w u : Word) : ofTwo (0x72#7).toNat y w u =
    if w.extractLsb' 0 6 == 0 && !u.getLsbD 14 && !u.getLsbD 6 then ofUni y (uniFOf w u) else none := rfl
  simp only [encode, he, readBack, encodeWords, decode, b, h1, decodeLong, c, if_true, h2, d, e, g, a, hl]
  simp [checkFields, hw, Except.toOption]

/-- A word whose OP is not zero is not the NOP word. -/
theorem op_zero {w : Word} {op : BitVec 7} (h : BitVec.extractLsb' 24 7 w = op) (h0 : op ≠ 0#7) : (w == 0) = false := by
  rw [beq_eq_false_iff_ne]
  rintro rfl
  exact h0 (h ▸ rfl)

theorem shortV_rt {op : BitVec 7} {f : ShortV} {i : Instr} (he : (info i).enc = .shortV op f)
    (h1 : isLongOp op.toNat = false) (h0 : op ≠ 0#7 ∧ op ≠ 0x40#7) (hl : ofShortV op.toNat f = some i) : ReadsBack i := by
  intro hw _
  obtain ⟨a, b⟩ := shortV_back op f
  have z := op_zero b h0.1
  have o0 : (op.toNat == 0) = false := by simpa using fun h => h0.1 (BitVec.eq_of_toNat_eq h)
  have o4 : (op.toNat == 64) = false := by simpa using fun h => h0.2 (BitVec.eq_of_toNat_eq h)
  simp only [encode, he, readBack, encodeWords, decode, b, h1, decodeShort, z, o0, o4, ofShort, a, hl,
    Bool.false_eq_true, if_false]
  simp [checkFields, hw, Except.toOption]

theorem shortA_rt {sub : BitVec 6} {f : ShortA} {i : Instr} (he : (info i).enc = .shortA sub f)
    (hl : ofShortA sub.toNat f = some i) : ReadsBack i := by
  intro hw _
  obtain ⟨a, b, c⟩ := shortA_back sub f
  have z := op_zero b (by decide)
  have h1 : isLongOp (0x40#7).toNat = false := rfl
  have o0 : ((0x40#7).toNat == 0) = false := rfl
  have o4 : ((0x40#7).toNat == 64) = true := rfl
  simp only [encode, he, readBack, encodeWords, decode, b, h1, decodeShort, z, o0, o4, a, c, hl,
    Bool.false_eq_true, if_false, if_true]
  simp [checkFields, hw, Except.toOption]

theorem shortU_rt {op : BitVec 7} {f : ShortU} {i : Instr} (he : (info i).enc = .shortU op f)
    (h1 : isLongOp op.toNat = false) (h0 : op ≠ 0#7 ∧ op ≠ 0x40#7) (hv : ∀ g, ofShortV op.toNat g = none)
    (hl : ofShortU op.toNat f = some i) : ReadsBack i := by
  intro hw _
  obtain ⟨a, b⟩ := shortU_back op f
  have z := op_zero b h0.1
  have o0 : (op.toNat == 0) = false := by simpa using fun h => h0.1 (BitVec.eq_of_toNat_eq h)
  have o4 : (op.toNat == 64) = false := by simpa using fun h => h0.2 (BitVec.eq_of_toNat_eq h)
  simp only [encode, he, readBack, encodeWords, decode, b, h1, decodeShort, z, o0, o4, ofShort, hv, a, hl,
    Bool.false_eq_true, if_false]
  simp [checkFields, hw, Except.toOption]

theorem shortB_rt {op : BitVec 7} {f : ShortB} {i : Instr} (he : (info i).enc = .shortB op f)
    (h1 : isLongOp op.toNat = false) (h0 : op ≠ 0#7 ∧ op ≠ 0x40#7) (hv : ∀ g, ofShortV op.toNat g = none)
    (hu : ∀ g, ofShortU op.toNat g = none) (hl : ofShortB op.toNat f = some i) : ReadsBack i := by
  intro hw _
  obtain ⟨a, b⟩ := shortB_back op f
  have z := op_zero b h0.1
  have o0 : (op.toNat == 0) = false := by simpa using fun h => h0.1 (BitVec.eq_of_toNat_eq h)
  have o4 : (op.toNat == 64) = false := by simpa using fun h => h0.2 (BitVec.eq_of_toNat_eq h)
  simp only [encode, he, readBack, encodeWords, decode, b, h1, decodeShort, z, o0, o4, ofShort, hv, hu, a, hl,
    Bool.false_eq_true, if_false]
  simp [checkFields, hw, Except.toOption]

theorem event_rt {i : Instr} (he : (info i).enc = .event) : ReadsBack i := fun _ h => absurd he h

/-- The fields of a custom-0 word (R404). -/
theorem rv_back (f3 : BitVec 3) (f7 : BitVec 7) (f : RvR) :
    let w : BitVec 32 := f7 ++ f.b ++ f.a ++ f3 ++ f.d ++ 0x0B#7
    BitVec.extractLsb' 0 7 w = 0x0B#7 ∧ BitVec.extractLsb' 7 5 w = f.d ∧ BitVec.extractLsb' 12 3 w = f3 ∧
    BitVec.extractLsb' 15 5 w = f.a ∧ BitVec.extractLsb' 20 5 w = f.b ∧ BitVec.extractLsb' 25 7 w = f7 ∧
    BitVec.extractLsb' 25 2 w = f7.setWidth 2 := by
  obtain ⟨d, a, b⟩ := f
  intro w
  have h0 : w.toNat = ((((f7.toNat * 2 ^ 5 + b.toNat) * 2 ^ 5 + a.toNat) * 2 ^ 3 + f3.toNat) * 2 ^ 5 + d.toNat) * 2 ^ 7 + 11 := by
    have h : (f7 ++ b ++ a ++ f3 ++ d ++ 0x0B#7).toNat =
        ((((f7.toNat * 2 ^ 5 + b.toNat) * 2 ^ 5 + a.toNat) * 2 ^ 3 + f3.toNat) * 2 ^ 5 + d.toNat) * 2 ^ 7 + 11 := by
      simp only [toNat_cat, BitVec.reduceToNat]
    exact h
  clear_value w
  have := d.isLt
  have := a.isLt
  have := b.isLt
  have := f3.isLt
  have := f7.isLt
  simp only [BitVec.toNat_eq, BitVec.extractLsb'_toNat, Nat.shiftRight_eq_div_pow, BitVec.toNat_setWidth]
  refine ⟨?_, ?_, ?_, ?_, ?_, ?_, ?_⟩ <;> (try simp only [BitVec.reduceToNat]) <;> omega

theorem rfetch_rt (f : RvR) : ReadsBack (.rfetch f) := by
  intro _ _
  obtain ⟨a, b, c, d, e, g, _⟩ := rv_back 0#3 0#7 f
  have h : encode (.rfetch f) = [(0#7 ++ f.b ++ f.a ++ 0#3 ++ f.d ++ 0x0B#7 : BitVec 32)] := rfl
  have h2 : (info (.rfetch f)).enc = .rv 0 0 f := rfl
  rw [h, h2]
  simp only [readBack, decodeSupervisor, a, b, c, d, e, g]
  rfl
theorem bfx_rt (f : RvR) : ReadsBack (.bfx f) := by
  intro _ _
  obtain ⟨a, b, c, d, e, g, _⟩ := rv_back 1#3 0#7 f
  have h : encode (.bfx f) = [(0#7 ++ f.b ++ f.a ++ 1#3 ++ f.d ++ 0x0B#7 : BitVec 32)] := rfl
  have h2 : (info (.bfx f)).enc = .rv 1 0 f := rfl
  rw [h, h2]
  simp only [readBack, decodeSupervisor, a, b, c, d, e, g]
  rfl
theorem dispatch_rt (f : RvR) : ReadsBack (.dispatch f) := by
  intro _ _
  obtain ⟨a, b, c, d, e, g, _⟩ := rv_back 3#3 0#7 f
  have h : encode (.dispatch f) = [(0#7 ++ f.b ++ f.a ++ 3#3 ++ f.d ++ 0x0B#7 : BitVec 32)] := rfl
  have h2 : (info (.dispatch f)).enc = .rv 3 0 f := rfl
  rw [h, h2]
  simp only [readBack, decodeSupervisor, a, b, c, d, e, g]
  rfl
theorem swait_rt (f : RvC) : ReadsBack (.swait f) := by
  intro _ _
  obtain ⟨cc, fd, fa, fb⟩ := f
  obtain ⟨a, b, c, d, e, g, k⟩ := rv_back 2#3 (cc.setWidth 7) ⟨fd, fa, fb⟩
  have h : encode (.swait ⟨cc, fd, fa, fb⟩) =
    [((cc.setWidth 7 : BitVec 7) ++ fb ++ fa ++ 2#3 ++ fd ++ 0x0B#7 : BitVec 32)] := rfl
  have h2 : (info (.swait ⟨cc, fd, fa, fb⟩)).enc = .rv 2 (cc.setWidth 7) ⟨fd, fa, fb⟩ := rfl
  have h3 : (cc.setWidth 7 : BitVec 7).toNat < 4 := by simpa using Nat.lt_of_le_of_lt (Nat.mod_le _ _) cc.isLt
  have h4 : (cc.setWidth 7 : BitVec 7).setWidth 2 = cc := by simp
  rw [h, h2]
  simp only [readBack, decodeSupervisor, a, b, c, d, e, g, k, h4, h3, if_true]
  rfl

end Sys2Proof.Laws
end

