-- ==== Sys2Proof/Laws/Maps.lean ====
section
/-!
SUPPORT. Reading maps and memory after each of their operations, and the canonical form, which every operation over
memory keeps.
-/

namespace Sys2Proof.Laws

open Sys2Proof Sys2Proof.Machine

/-! Reading a map. -/

@[simp] theorem mfind_nil {α : Type} (k : Nat) : mfind ([] : NMap α) k = none := rfl

@[simp] theorem mget_nil {α : Type} (k : Nat) (d : α) : mget ([] : NMap α) k d = d := rfl

theorem mget_of_mfind {α : Type} {m : NMap α} {k : Nat} {v : α} (h : mfind m k = some v) (d : α) : mget m k d = v := by
  simp [mget, h]

@[simp] theorem mfind_mset_self {α : Type} (m : NMap α) (k : Nat) (v : α) : mfind (mset m k v) k = some v := by
  induction m with
  | nil => simp [mset, mfind]
  | cons e r ih =>
    obtain ⟨j, w⟩ := e
    simp only [mset]
    split
    · simp [mfind]
    · split
      · simp [mfind]
      · simp [mfind, ih, Ne.symm ‹¬k = j›]

theorem mfind_mset_other {α : Type} (m : NMap α) {k j : Nat} (v : α) (h : j ≠ k) : mfind (mset m k v) j = mfind m j := by
  induction m with
  | nil => simp [mset, mfind, h.symm]
  | cons e r ih =>
    obtain ⟨i, w⟩ := e
    simp only [mset]
    split
    · simp [mfind, h.symm]
    · split
      · subst ‹k = i›; simp [mfind, h.symm]
      · simp [mfind, ih]

theorem mem_mdel {α : Type} {m : NMap α} {k : Nat} {e : Nat × α} (h : e ∈ mdel m k) : e ∈ m := by
  induction m with
  | nil => simp [mdel] at h
  | cons a r ih =>
    simp only [mdel] at h
    split at h
    · exact List.mem_cons_of_mem _ (ih h)
    · rcases List.mem_cons.1 h with rfl | h
      · exact List.mem_cons_self ..
      · exact List.mem_cons_of_mem _ (ih h)

@[simp] theorem mfind_mdel_self {α : Type} (m : NMap α) (k : Nat) : mfind (mdel m k) k = none := by
  induction m with
  | nil => rfl
  | cons e r ih =>
    obtain ⟨j, w⟩ := e
    by_cases hj : j = k <;> simp [mdel, mfind, hj, ih]

theorem mfind_mdel_other {α : Type} (m : NMap α) {k j : Nat} (h : j ≠ k) : mfind (mdel m k) j = mfind m j := by
  induction m with
  | nil => rfl
  | cons e r ih =>
    obtain ⟨i, w⟩ := e
    by_cases hi : i = k
    · subst hi; simp [mdel, mfind, h.symm, ih]
    · simp [mdel, mfind, hi, ih]

@[simp] theorem mfind_mmod_self {α : Type} (m : NMap α) (k : Nat) (f : α → α) :
    mfind (mmod m k f) k = (mfind m k).map f := by
  induction m with
  | nil => rfl
  | cons e r ih =>
    obtain ⟨j, w⟩ := e
    by_cases hj : j = k <;> simp [mmod, mfind, hj, ih]

theorem mfind_mmod_other {α : Type} (m : NMap α) {k j : Nat} (f : α → α) (h : j ≠ k) :
    mfind (mmod m k f) j = mfind m j := by
  induction m with
  | nil => rfl
  | cons e r ih =>
    obtain ⟨i, w⟩ := e
    by_cases hi : i = k
    · subst hi; simp [mmod, mfind, h.symm]
    · simp [mmod, mfind, hi, ih]

@[simp] theorem mget_mset_self {α : Type} (m : NMap α) (k : Nat) (v d : α) : mget (mset m k v) k d = v := by simp [mget]

theorem mget_mset_other {α : Type} (m : NMap α) {k j : Nat} (v d : α) (h : j ≠ k) :
    mget (mset m k v) j d = mget m j d := by simp [mget, mfind_mset_other m v h]

@[simp] theorem mget_mdel_self {α : Type} (m : NMap α) (k : Nat) (d : α) : mget (mdel m k) k d = d := by simp [mget]

theorem mget_mdel_other {α : Type} (m : NMap α) {k j : Nat} (d : α) (h : j ≠ k) :
    mget (mdel m k) j d = mget m j d := by simp [mget, mfind_mdel_other m h]

@[simp] theorem mget_mput_self {α : Type} [DecidableEq α] (m : NMap α) (k : Nat) (v d : α) :
    mget (mput m k v d) k d = v := by
  unfold mput
  split <;> simp [*]

theorem mget_mput_other {α : Type} [DecidableEq α] (m : NMap α) {k j : Nat} (v d e : α) (h : j ≠ k) :
    mget (mput m k v d) j e = mget m j e := by
  unfold mput
  split
  · exact mget_mdel_other m e h
  · exact mget_mset_other m v e h

/-! Reading memory. -/

@[simp] theorem memByte_nil (a : Nat) : memByte [] a = 0 := rfl

@[simp] theorem memByte_memPut_self (m : Memory) (a : Nat) (b : Byte) : memByte (memPut m a b) a = b :=
  mget_mput_self m a b 0

theorem memByte_memPut_other (m : Memory) {a i : Nat} (b : Byte) (h : i ≠ a) : memByte (memPut m a b) i = memByte m i :=
  mget_mput_other m b 0 0 h

/-- A read after a write: the written byte inside, the old byte outside. -/
theorem memByte_memWrite (m : Memory) (a : Nat) (bs : List Byte) (i : Nat) :
    memByte (memWrite m a bs) i = if a ≤ i ∧ i < a + bs.length then bs.getD (i - a) 0 else memByte m i := by
  induction bs generalizing m a with
  | nil => simp only [memWrite, List.length_nil, Nat.add_zero]; rw [if_neg (by omega)]
  | cons b r ih =>
    simp only [memWrite, ih, List.length_cons]
    by_cases h : i = a
    · subst h
      rw [if_neg (by omega), if_pos (by omega), memByte_memPut_self, Nat.sub_self]
      rfl
    · rw [memByte_memPut_other m b h]
      by_cases h1 : a + 1 ≤ i ∧ i < a + 1 + r.length
      · rw [if_pos h1, if_pos (by omega), show i - a = i - (a + 1) + 1 by omega]
        rfl
      · rw [if_neg h1, if_neg (by omega)]

theorem memByte_memWrite_outside (m : Memory) {a i : Nat} {bs : List Byte} (h : i < a ∨ a + bs.length ≤ i) :
    memByte (memWrite m a bs) i = memByte m i := by
  rw [memByte_memWrite, if_neg (by omega)]

@[simp] theorem length_memRead (m : Memory) (a n : Nat) : (memRead m a n).length = n := by
  induction n generalizing a with
  | zero => rfl
  | succ n ih => simp [memRead, ih]

theorem getElem_memRead (m : Memory) (a n : Nat) {i : Nat} (h : i < (memRead m a n).length) :
    (memRead m a n)[i] = memByte m (a + i) := by
  induction n generalizing a i with
  | zero => simp [memRead] at h
  | succ n ih =>
    cases i with
    | zero => rfl
    | succ i =>
      simp only [memRead, List.getElem_cons_succ]
      rw [ih, Nat.add_right_comm a 1 i, Nat.add_assoc]

/-- Reading back what was written. -/
theorem memRead_memWrite (m : Memory) (a : Nat) (bs : List Byte) : memRead (memWrite m a bs) a bs.length = bs := by
  refine List.ext_getElem (by simp) fun i h h' => ?_
  rw [getElem_memRead, memByte_memWrite, if_pos (by omega), Nat.add_sub_cancel_left]
  simp [h']

/-! The canonical form. -/

theorem risingFrom_of_le {α : Type} {m : NMap α} {lo lo' : Nat} (h : risingFrom lo m = true) (hl : lo' ≤ lo) :
    risingFrom lo' m = true := by
  cases m with
  | nil => rfl
  | cons e r =>
    simp only [risingFrom, Bool.and_eq_true, decide_eq_true_eq] at h ⊢
    exact ⟨by omega, h.2⟩

/-- In a rising map an entry below the first key is unlisted. -/
theorem mfind_of_risingFrom {α : Type} {m : NMap α} {lo k : Nat} (h : risingFrom lo m = true) (hk : k < lo) :
    mfind m k = none := by
  induction m generalizing lo with
  | nil => rfl
  | cons e r ih =>
    simp only [risingFrom, Bool.and_eq_true, decide_eq_true_eq] at h
    simp only [mfind, if_neg (show ¬e.1 = k by omega)]
    exact ih h.2 (by omega)

theorem risingFrom_mset {α : Type} {m : NMap α} {lo k : Nat} (v : α) (h : risingFrom lo m = true) (hk : lo ≤ k) :
    risingFrom lo (mset m k v) = true := by
  induction m generalizing lo with
  | nil => simp [mset, risingFrom, hk]
  | cons e r ih =>
    obtain ⟨j, w⟩ := e
    simp only [risingFrom, Bool.and_eq_true, decide_eq_true_eq] at h
    simp only [mset]
    split
    · simp only [risingFrom, Bool.and_eq_true, decide_eq_true_eq]
      exact ⟨hk, by omega, h.2⟩
    · split
      · subst ‹k = j›
        simp [risingFrom, h]
      · simp only [risingFrom, Bool.and_eq_true, decide_eq_true_eq]
        exact ⟨h.1, ih h.2 (by omega)⟩

theorem risingFrom_mdel {α : Type} {m : NMap α} {lo : Nat} (k : Nat) (h : risingFrom lo m = true) :
    risingFrom lo (mdel m k) = true := by
  induction m generalizing lo with
  | nil => rfl
  | cons e r ih =>
    obtain ⟨j, w⟩ := e
    simp only [risingFrom, Bool.and_eq_true, decide_eq_true_eq] at h
    simp only [mdel]
    split
    · exact ih (risingFrom_of_le h.2 (by omega))
    · simp only [risingFrom, Bool.and_eq_true, decide_eq_true_eq]
      exact ⟨h.1, ih h.2⟩

theorem risingFrom_mput {α : Type} [DecidableEq α] {m : NMap α} {lo k : Nat} (v d : α) (h : risingFrom lo m = true)
    (hk : lo ≤ k) : risingFrom lo (mput m k v d) = true := by
  unfold mput
  split
  · exact risingFrom_mdel k h
  · exact risingFrom_mset v h hk

theorem risingFrom_mmod {α : Type} {m : NMap α} {lo : Nat} (k : Nat) (f : α → α) (h : risingFrom lo m = true) :
    risingFrom lo (mmod m k f) = true := by
  induction m generalizing lo with
  | nil => rfl
  | cons e r ih =>
    obtain ⟨j, w⟩ := e
    simp only [risingFrom, Bool.and_eq_true, decide_eq_true_eq] at h
    simp only [mmod]
    split <;> simp only [risingFrom, Bool.and_eq_true, decide_eq_true_eq]
    · exact h
    · exact ⟨h.1, ih h.2⟩

theorem risingFrom_filter {α : Type} {m : NMap α} {lo : Nat} (p : Nat × α → Bool) (h : risingFrom lo m = true) :
    risingFrom lo (m.filter p) = true := by
  induction m generalizing lo with
  | nil => rfl
  | cons e r ih =>
    simp only [risingFrom, Bool.and_eq_true, decide_eq_true_eq] at h
    by_cases hp : p e = true
    · simp only [List.filter_cons, hp, if_true, risingFrom, Bool.and_eq_true, decide_eq_true_eq]
      exact ⟨h.1, ih h.2⟩
    · simp only [List.filter_cons, hp]
      exact risingFrom_of_le (ih h.2) (by omega)

theorem all_mset {α : Type} {p : Nat × α → Bool} {m : NMap α} {k : Nat} {v : α} (h : m.all p = true)
    (hv : p (k, v) = true) : (mset m k v).all p = true := by
  induction m with
  | nil => simp [mset, hv]
  | cons e r ih =>
    obtain ⟨j, w⟩ := e
    simp only [List.all_cons, Bool.and_eq_true] at h
    simp only [mset]
    split
    · simp [hv, h.1, h.2]
    · split <;> simp [hv, h.1, h.2, ih]

theorem all_mdel {α : Type} {p : Nat × α → Bool} {m : NMap α} (k : Nat) (h : m.all p = true) :
    (mdel m k).all p = true := by
  induction m with
  | nil => rfl
  | cons e r ih =>
    obtain ⟨j, w⟩ := e
    simp only [List.all_cons, Bool.and_eq_true] at h
    simp only [mdel]
    split <;> simp [h.1, ih h.2]

/-! What keeps the canonical form of memory. -/

theorem wf_iff (m : Memory) : Memory.wf m = true ↔ risingFrom 0 m = true ∧ m.all (fun c => c.2 != 0) = true := by
  rw [Memory.wf, Bool.and_eq_true]

@[simp] theorem wf_nil : Memory.wf [] = true := rfl

theorem wf_memPut {m : Memory} (a : Nat) (b : Byte) (h : Memory.wf m = true) : Memory.wf (memPut m a b) = true := by
  rw [wf_iff] at h ⊢
  refine ⟨risingFrom_mput b 0 h.1 (Nat.zero_le a), ?_⟩
  unfold memPut mput
  split
  · exact all_mdel a h.2
  · exact all_mset h.2 (by simpa using ‹¬b = 0›)

theorem wf_memWrite {m : Memory} (a : Nat) (bs : List Byte) (h : Memory.wf m = true) :
    Memory.wf (memWrite m a bs) = true := by
  induction bs generalizing m a with
  | nil => exact h
  | cons b r ih => exact ih (a + 1) (wf_memPut a b h)

theorem wf_filter {m : Memory} (p : Host.Cell → Bool) (h : Memory.wf m = true) : Memory.wf (m.filter p) = true := by
  rw [wf_iff] at h ⊢
  refine ⟨risingFrom_filter p h.1, ?_⟩
  rw [List.all_eq_true] at h ⊢
  exact fun c hc => h.2 c (List.mem_filter.1 hc).1

/-- A fold of single writes, such as a fill or an eviction, keeps the form. -/
theorem wf_foldl {α : Type} {f : Memory → α → Memory} (hf : ∀ m i, Memory.wf m = true → Memory.wf (f m i) = true)
    (l : List α) {m : Memory} (h : Memory.wf m = true) : Memory.wf (l.foldl f m) = true := by
  induction l generalizing m with
  | nil => exact h
  | cons i r ih => exact ih (hf m i h)

theorem risingFrom_memSlice {m : Memory} {a n lo : Nat} (h : risingFrom lo m = true) :
    risingFrom (lo - a) (memSlice m a n) = true := by
  induction m generalizing lo with
  | nil => rfl
  | cons e r ih =>
    obtain ⟨j, b⟩ := e
    simp only [risingFrom, Bool.and_eq_true, decide_eq_true_eq] at h
    simp only [memSlice]
    split
    · exact risingFrom_of_le (ih h.2) (by omega)
    · split
      · simp only [risingFrom, Bool.and_eq_true, decide_eq_true_eq]
        exact ⟨by omega, risingFrom_of_le (ih h.2) (by omega)⟩
      · rfl

theorem all_memSlice {m : Memory} {p : Byte → Bool} {a n : Nat} (h : m.all (fun c => p c.2) = true) :
    (memSlice m a n).all (fun c => p c.2) = true := by
  induction m with
  | nil => rfl
  | cons e r ih =>
    obtain ⟨j, b⟩ := e
    simp only [List.all_cons, Bool.and_eq_true] at h
    simp only [memSlice]
    split
    · exact ih h.2
    · split
      · simp [h.1, ih h.2]
      · rfl

theorem wf_memSlice {m : Memory} (a n : Nat) (h : Memory.wf m = true) : Memory.wf (memSlice m a n) = true := by
  rw [wf_iff] at h ⊢
  exact ⟨risingFrom_of_le (risingFrom_memSlice h.1) (by omega), all_memSlice (p := fun b => b != 0) h.2⟩

/-- The listed bytes of a slice are those of the range. -/
theorem memByte_memSlice {m : Memory} {a n i : Nat} (h : Memory.wf m = true) (hi : i < n) :
    memByte (memSlice m a n) i = memByte m (a + i) := by
  have go : ∀ (m : Memory) (lo : Nat), risingFrom lo m = true → mfind (memSlice m a n) i = mfind m (a + i) := by
    intro m
    induction m with
    | nil => intros; rfl
    | cons e r ih =>
      intro lo hr
      obtain ⟨j, b⟩ := e
      simp only [risingFrom, Bool.and_eq_true, decide_eq_true_eq] at hr
      simp only [memSlice]
      split
      · rw [ih _ hr.2]; simp only [mfind]; rw [if_neg (by omega)]
      · split
        · simp only [mfind]
          by_cases hj : j = a + i
          · rw [if_pos (by omega), if_pos hj]
          · rw [if_neg (by omega), if_neg hj, ih _ hr.2]
        · simp only [mfind]
          rw [if_neg (by omega), mfind_of_risingFrom hr.2 (by omega)]
  simp only [memByte, mget, go m 0 ((wf_iff m).1 h).1]

/-- Equal reads make equal memories: the form is canonical. -/
theorem memory_ext {m n : Memory} (hm : Memory.wf m = true) (hn : Memory.wf n = true)
    (h : ∀ a, memByte m a = memByte n a) : m = n := by
  have go : ∀ (m n : Memory) (lo : Nat), risingFrom lo m = true → risingFrom lo n = true →
      m.all (fun c => c.2 != 0) = true → n.all (fun c => c.2 != 0) = true →
      (∀ a, mget m a 0 = mget n a 0) → m = n := by
    intro m
    induction m with
    | nil =>
      intro n lo _ hr _ ha h
      cases n with
      | nil => rfl
      | cons e r =>
        obtain ⟨j, b⟩ := e
        have := h j
        simp only [List.all_cons, Bool.and_eq_true] at ha
        simp [mget, mfind] at this
        simp [this] at ha
    | cons e r ih =>
      intro n lo hr hr' ha ha' h
      obtain ⟨j, b⟩ := e
      simp only [risingFrom, Bool.and_eq_true, decide_eq_true_eq, List.all_cons] at hr ha
      cases n with
      | nil =>
        have := h j
        simp [mget, mfind] at this
        simp [this] at ha
      | cons e' r' =>
        obtain ⟨j', b'⟩ := e'
        simp only [risingFrom, Bool.and_eq_true, decide_eq_true_eq, List.all_cons] at hr' ha'
        have hjj : j = j' := by
          rcases Nat.lt_trichotomy j j' with hlt | heq | hlt
          · have := h j
            simp only [mget, mfind, if_neg (show ¬j' = j by omega), mfind_of_risingFrom hr'.2 (show j < j' + 1 by omega)] at this
            simp at this
            simp [this] at ha
          · exact heq
          · have := h j'
            simp only [mget, mfind, if_neg (show ¬j = j' by omega), mfind_of_risingFrom hr.2 (show j' < j + 1 by omega)] at this
            simp at this
            simp [← this] at ha'
        subst hjj
        have hb : b = b' := by simpa [mget, mfind] using h j
        subst hb
        rw [ih r' (j + 1) hr.2 hr'.2 ha.2 ha'.2 fun a => ?_]
        by_cases hja : j = a
        · subst hja
          rw [mget, mget, mfind_of_risingFrom hr.2 (by omega), mfind_of_risingFrom hr'.2 (by omega)]
        · simpa [mget, mfind, hja] using h a
  exact go m n 0 ((wf_iff m).1 hm).1 ((wf_iff n).1 hn).1 ((wf_iff m).1 hm).2 ((wf_iff n).1 hn).2 h

/-! The memory of the package. -/

theorem reset_memWf : State.reset.memWf = true := by decide +kernel

end Sys2Proof.Laws
end

