-- ==== Sys2Proof/Laws/State.lean ====
section
/-!
SUPPORT. What each update of the state and of a warp does to each field: one lemma per field and update.
-/

namespace Sys2Proof.Laws

open Sys2Proof Sys2Proof.Machine

/-! `State.setWarp`. -/

@[simp] theorem setWarp_clk (s : State) (w : Nat) (x : Warp) : (s.setWarp w x).clk = s.clk := rfl
@[simp] theorem setWarp_gtOff (s : State) (w : Nat) (x : Warp) : (s.setWarp w x).gtOff = s.gtOff := rfl
@[simp] theorem setWarp_device (s : State) (w : Nat) (x : Warp) : (s.setWarp w x).device = s.device := rfl
@[simp] theorem setWarp_nDies (s : State) (w : Nat) (x : Warp) : (s.setWarp w x).nDies = s.nDies := rfl
@[simp] theorem setWarp_warps (s : State) (w : Nat) (x : Warp) : (s.setWarp w x).warps = mset s.warps w x := rfl
@[simp] theorem setWarp_saved (s : State) (w : Nat) (x : Warp) : (s.setWarp w x).saved = s.saved := rfl
@[simp] theorem setWarp_cores (s : State) (w : Nat) (x : Warp) : (s.setWarp w x).cores = s.cores := rfl
@[simp] theorem setWarp_dies (s : State) (w : Nat) (x : Warp) : (s.setWarp w x).dies = s.dies := rfl
@[simp] theorem setWarp_plans (s : State) (w : Nat) (x : Warp) : (s.setWarp w x).plans = s.plans := rfl
@[simp] theorem setWarp_waitPlans (s : State) (w : Nat) (x : Warp) : (s.setWarp w x).waitPlans = s.waitPlans := rfl
@[simp] theorem setWarp_groups (s : State) (w : Nat) (x : Warp) : (s.setWarp w x).groups = s.groups := rfl
@[simp] theorem setWarp_hbm (s : State) (w : Nat) (x : Warp) : (s.setWarp w x).hbm = s.hbm := rfl
@[simp] theorem setWarp_l2 (s : State) (w : Nat) (x : Warp) : (s.setWarp w x).l2 = s.l2 := rfl
@[simp] theorem setWarp_words (s : State) (w : Nat) (x : Warp) : (s.setWarp w x).words = s.words := rfl
@[simp] theorem setWarp_vers (s : State) (w : Nat) (x : Warp) : (s.setWarp w x).vers = s.vers := rfl
@[simp] theorem setWarp_homeBad (s : State) (w : Nat) (x : Warp) : (s.setWarp w x).homeBad = s.homeBad := rfl
@[simp] theorem setWarp_corrected (s : State) (w : Nat) (x : Warp) : (s.setWarp w x).corrected = s.corrected := rfl
@[simp] theorem setWarp_msgs (s : State) (w : Nat) (x : Warp) : (s.setWarp w x).msgs = s.msgs := rfl
@[simp] theorem setWarp_walks (s : State) (w : Nat) (x : Warp) : (s.setWarp w x).walks = s.walks := rfl
@[simp] theorem setWarp_queues (s : State) (w : Nat) (x : Warp) : (s.setWarp w x).queues = s.queues := rfl
@[simp] theorem setWarp_slots (s : State) (w : Nat) (x : Warp) : (s.setWarp w x).slots = s.slots := rfl
@[simp] theorem setWarp_work (s : State) (w : Nat) (x : Warp) : (s.setWarp w x).work = s.work := rfl
@[simp] theorem setWarp_attached (s : State) (w : Nat) (x : Warp) : (s.setWarp w x).attached = s.attached := rfl
@[simp] theorem setWarp_dispatchq (s : State) (w : Nat) (x : Warp) : (s.setWarp w x).dispatchq = s.dispatchq := rfl
@[simp] theorem setWarp_keys (s : State) (w : Nat) (x : Warp) : (s.setWarp w x).keys = s.keys := rfl
@[simp] theorem setWarp_notifyErr (s : State) (w : Nat) (x : Warp) : (s.setWarp w x).notifyErr = s.notifyErr := rfl
@[simp] theorem setWarp_pairs (s : State) (w : Nat) (x : Warp) : (s.setWarp w x).pairs = s.pairs := rfl
@[simp] theorem setWarp_hartTurn (s : State) (w : Nat) (x : Warp) : (s.setWarp w x).hartTurn = s.hartTurn := rfl
@[simp] theorem setWarp_feat (s : State) (w : Nat) (x : Warp) : (s.setWarp w x).feat = s.feat := rfl
@[simp] theorem setWarp_bootm (s : State) (w : Nat) (x : Warp) : (s.setWarp w x).bootm = s.bootm := rfl
@[simp] theorem setWarp_runm (s : State) (w : Nat) (x : Warp) : (s.setWarp w x).runm = s.runm := rfl
@[simp] theorem setWarp_svn (s : State) (w : Nat) (x : Warp) : (s.setWarp w x).svn = s.svn := rfl
@[simp] theorem setWarp_pgood (s : State) (w : Nat) (x : Warp) : (s.setWarp w x).pgood = s.pgood := rfl
@[simp] theorem setWarp_flash (s : State) (w : Nat) (x : Warp) : (s.setWarp w x).flash = s.flash := rfl
@[simp] theorem setWarp_pool (s : State) (w : Nat) (x : Warp) : (s.setWarp w x).pool = s.pool := rfl
@[simp] theorem setWarp_ports (s : State) (w : Nat) (x : Warp) : (s.setWarp w x).ports = s.ports := rfl
@[simp] theorem setWarp_d2d (s : State) (w : Nat) (x : Warp) : (s.setWarp w x).d2d = s.d2d := rfl
@[simp] theorem setWarp_routes (s : State) (w : Nat) (x : Warp) : (s.setWarp w x).routes = s.routes := rfl
@[simp] theorem setWarp_silent (s : State) (w : Nat) (x : Warp) : (s.setWarp w x).silent = s.silent := rfl
@[simp] theorem setWarp_master (s : State) (w : Nat) (x : Warp) : (s.setWarp w x).master = s.master := rfl
@[simp] theorem setWarp_leads (s : State) (w : Nat) (x : Warp) : (s.setWarp w x).leads = s.leads := rfl
@[simp] theorem setWarp_masterTime (s : State) (w : Nat) (x : Warp) : (s.setWarp w x).masterTime = s.masterTime := rfl
@[simp] theorem setWarp_hqTurn (s : State) (w : Nat) (x : Warp) : (s.setWarp w x).hqTurn = s.hqTurn := rfl
@[simp] theorem setWarp_devRings (s : State) (w : Nat) (x : Warp) : (s.setWarp w x).devRings = s.devRings := rfl
@[simp] theorem setWarp_lastTime (s : State) (w : Nat) (x : Warp) : (s.setWarp w x).lastTime = s.lastTime := rfl
@[simp] theorem setWarp_slew (s : State) (w : Nat) (x : Warp) : (s.setWarp w x).slew = s.slew := rfl
@[simp] theorem setWarp_locked (s : State) (w : Nat) (x : Warp) : (s.setWarp w x).locked = s.locked := rfl
@[simp] theorem setWarp_ueWins (s : State) (w : Nat) (x : Warp) : (s.setWarp w x).ueWins = s.ueWins := rfl
@[simp] theorem setWarp_tenantLog (s : State) (w : Nat) (x : Warp) : (s.setWarp w x).tenantLog = s.tenantLog := rfl
@[simp] theorem setWarp_images (s : State) (w : Nat) (x : Warp) : (s.setWarp w x).images = s.images := rfl
@[simp] theorem setWarp_dumpTo (s : State) (w : Nat) (x : Warp) : (s.setWarp w x).dumpTo = s.dumpTo := rfl
@[simp] theorem setWarp_fallen (s : State) (w : Nat) (x : Warp) : (s.setWarp w x).fallen = s.fallen := rfl
@[simp] theorem setWarp_foreign (s : State) (w : Nat) (x : Warp) : (s.setWarp w x).foreign = s.foreign := rfl
@[simp] theorem setWarp_newSpaces (s : State) (w : Nat) (x : Warp) : (s.setWarp w x).newSpaces = s.newSpaces := rfl
@[simp] theorem setWarp_stopped (s : State) (w : Nat) (x : Warp) : (s.setWarp w x).stopped = s.stopped := rfl
@[simp] theorem setWarp_reports (s : State) (w : Nat) (x : Warp) : (s.setWarp w x).reports = s.reports := rfl
@[simp] theorem setWarp_totals (s : State) (w : Nat) (x : Warp) : (s.setWarp w x).totals = s.totals := rfl
@[simp] theorem setWarp_nextId (s : State) (w : Nat) (x : Warp) : (s.setWarp w x).nextId = s.nextId := rfl
@[simp] theorem setWarp_free (s : State) (w : Nat) (x : Warp) : (s.setWarp w x).free = s.free := rfl
@[simp] theorem setWarp_beat (s : State) (w : Nat) (x : Warp) : (s.setWarp w x).beat = s.beat := rfl
@[simp] theorem setWarp_lat (s : State) (w : Nat) (x : Warp) : (s.setWarp w x).lat = s.lat := rfl
@[simp] theorem setWarp_agenda (s : State) (w : Nat) (x : Warp) : (s.setWarp w x).agenda = s.agenda := rfl
@[simp] theorem setWarp_issue (s : State) (w : Nat) (x : Warp) : (s.setWarp w x).issue = s.issue := rfl
@[simp] theorem setWarp_pend (s : State) (w : Nat) (x : Warp) : (s.setWarp w x).pend = s.pend := rfl
@[simp] theorem setWarp_second (s : State) (w : Nat) (x : Warp) : (s.setWarp w x).second = s.second := rfl
@[simp] theorem setWarp_partDone (s : State) (w : Nat) (x : Warp) : (s.setWarp w x).partDone = s.partDone := rfl

/-! `State.modWarp`. -/

@[simp] theorem modWarp_clk (s : State) (w : Nat) (f : Warp → Warp) : (s.modWarp w f).clk = s.clk := rfl
@[simp] theorem modWarp_gtOff (s : State) (w : Nat) (f : Warp → Warp) : (s.modWarp w f).gtOff = s.gtOff := rfl
@[simp] theorem modWarp_device (s : State) (w : Nat) (f : Warp → Warp) : (s.modWarp w f).device = s.device := rfl
@[simp] theorem modWarp_nDies (s : State) (w : Nat) (f : Warp → Warp) : (s.modWarp w f).nDies = s.nDies := rfl
@[simp] theorem modWarp_warps (s : State) (w : Nat) (f : Warp → Warp) : (s.modWarp w f).warps = mmod s.warps w f := rfl
@[simp] theorem modWarp_saved (s : State) (w : Nat) (f : Warp → Warp) : (s.modWarp w f).saved = s.saved := rfl
@[simp] theorem modWarp_cores (s : State) (w : Nat) (f : Warp → Warp) : (s.modWarp w f).cores = s.cores := rfl
@[simp] theorem modWarp_dies (s : State) (w : Nat) (f : Warp → Warp) : (s.modWarp w f).dies = s.dies := rfl
@[simp] theorem modWarp_plans (s : State) (w : Nat) (f : Warp → Warp) : (s.modWarp w f).plans = s.plans := rfl
@[simp] theorem modWarp_waitPlans (s : State) (w : Nat) (f : Warp → Warp) : (s.modWarp w f).waitPlans = s.waitPlans := rfl
@[simp] theorem modWarp_groups (s : State) (w : Nat) (f : Warp → Warp) : (s.modWarp w f).groups = s.groups := rfl
@[simp] theorem modWarp_hbm (s : State) (w : Nat) (f : Warp → Warp) : (s.modWarp w f).hbm = s.hbm := rfl
@[simp] theorem modWarp_l2 (s : State) (w : Nat) (f : Warp → Warp) : (s.modWarp w f).l2 = s.l2 := rfl
@[simp] theorem modWarp_words (s : State) (w : Nat) (f : Warp → Warp) : (s.modWarp w f).words = s.words := rfl
@[simp] theorem modWarp_vers (s : State) (w : Nat) (f : Warp → Warp) : (s.modWarp w f).vers = s.vers := rfl
@[simp] theorem modWarp_homeBad (s : State) (w : Nat) (f : Warp → Warp) : (s.modWarp w f).homeBad = s.homeBad := rfl
@[simp] theorem modWarp_corrected (s : State) (w : Nat) (f : Warp → Warp) : (s.modWarp w f).corrected = s.corrected := rfl
@[simp] theorem modWarp_msgs (s : State) (w : Nat) (f : Warp → Warp) : (s.modWarp w f).msgs = s.msgs := rfl
@[simp] theorem modWarp_walks (s : State) (w : Nat) (f : Warp → Warp) : (s.modWarp w f).walks = s.walks := rfl
@[simp] theorem modWarp_queues (s : State) (w : Nat) (f : Warp → Warp) : (s.modWarp w f).queues = s.queues := rfl
@[simp] theorem modWarp_slots (s : State) (w : Nat) (f : Warp → Warp) : (s.modWarp w f).slots = s.slots := rfl
@[simp] theorem modWarp_work (s : State) (w : Nat) (f : Warp → Warp) : (s.modWarp w f).work = s.work := rfl
@[simp] theorem modWarp_attached (s : State) (w : Nat) (f : Warp → Warp) : (s.modWarp w f).attached = s.attached := rfl
@[simp] theorem modWarp_dispatchq (s : State) (w : Nat) (f : Warp → Warp) : (s.modWarp w f).dispatchq = s.dispatchq := rfl
@[simp] theorem modWarp_keys (s : State) (w : Nat) (f : Warp → Warp) : (s.modWarp w f).keys = s.keys := rfl
@[simp] theorem modWarp_notifyErr (s : State) (w : Nat) (f : Warp → Warp) : (s.modWarp w f).notifyErr = s.notifyErr := rfl
@[simp] theorem modWarp_pairs (s : State) (w : Nat) (f : Warp → Warp) : (s.modWarp w f).pairs = s.pairs := rfl
@[simp] theorem modWarp_hartTurn (s : State) (w : Nat) (f : Warp → Warp) : (s.modWarp w f).hartTurn = s.hartTurn := rfl
@[simp] theorem modWarp_feat (s : State) (w : Nat) (f : Warp → Warp) : (s.modWarp w f).feat = s.feat := rfl
@[simp] theorem modWarp_bootm (s : State) (w : Nat) (f : Warp → Warp) : (s.modWarp w f).bootm = s.bootm := rfl
@[simp] theorem modWarp_runm (s : State) (w : Nat) (f : Warp → Warp) : (s.modWarp w f).runm = s.runm := rfl
@[simp] theorem modWarp_svn (s : State) (w : Nat) (f : Warp → Warp) : (s.modWarp w f).svn = s.svn := rfl
@[simp] theorem modWarp_pgood (s : State) (w : Nat) (f : Warp → Warp) : (s.modWarp w f).pgood = s.pgood := rfl
@[simp] theorem modWarp_flash (s : State) (w : Nat) (f : Warp → Warp) : (s.modWarp w f).flash = s.flash := rfl
@[simp] theorem modWarp_pool (s : State) (w : Nat) (f : Warp → Warp) : (s.modWarp w f).pool = s.pool := rfl
@[simp] theorem modWarp_ports (s : State) (w : Nat) (f : Warp → Warp) : (s.modWarp w f).ports = s.ports := rfl
@[simp] theorem modWarp_d2d (s : State) (w : Nat) (f : Warp → Warp) : (s.modWarp w f).d2d = s.d2d := rfl
@[simp] theorem modWarp_routes (s : State) (w : Nat) (f : Warp → Warp) : (s.modWarp w f).routes = s.routes := rfl
@[simp] theorem modWarp_silent (s : State) (w : Nat) (f : Warp → Warp) : (s.modWarp w f).silent = s.silent := rfl
@[simp] theorem modWarp_master (s : State) (w : Nat) (f : Warp → Warp) : (s.modWarp w f).master = s.master := rfl
@[simp] theorem modWarp_leads (s : State) (w : Nat) (f : Warp → Warp) : (s.modWarp w f).leads = s.leads := rfl
@[simp] theorem modWarp_masterTime (s : State) (w : Nat) (f : Warp → Warp) : (s.modWarp w f).masterTime = s.masterTime := rfl
@[simp] theorem modWarp_hqTurn (s : State) (w : Nat) (f : Warp → Warp) : (s.modWarp w f).hqTurn = s.hqTurn := rfl
@[simp] theorem modWarp_devRings (s : State) (w : Nat) (f : Warp → Warp) : (s.modWarp w f).devRings = s.devRings := rfl
@[simp] theorem modWarp_lastTime (s : State) (w : Nat) (f : Warp → Warp) : (s.modWarp w f).lastTime = s.lastTime := rfl
@[simp] theorem modWarp_slew (s : State) (w : Nat) (f : Warp → Warp) : (s.modWarp w f).slew = s.slew := rfl
@[simp] theorem modWarp_locked (s : State) (w : Nat) (f : Warp → Warp) : (s.modWarp w f).locked = s.locked := rfl
@[simp] theorem modWarp_ueWins (s : State) (w : Nat) (f : Warp → Warp) : (s.modWarp w f).ueWins = s.ueWins := rfl
@[simp] theorem modWarp_tenantLog (s : State) (w : Nat) (f : Warp → Warp) : (s.modWarp w f).tenantLog = s.tenantLog := rfl
@[simp] theorem modWarp_images (s : State) (w : Nat) (f : Warp → Warp) : (s.modWarp w f).images = s.images := rfl
@[simp] theorem modWarp_dumpTo (s : State) (w : Nat) (f : Warp → Warp) : (s.modWarp w f).dumpTo = s.dumpTo := rfl
@[simp] theorem modWarp_fallen (s : State) (w : Nat) (f : Warp → Warp) : (s.modWarp w f).fallen = s.fallen := rfl
@[simp] theorem modWarp_foreign (s : State) (w : Nat) (f : Warp → Warp) : (s.modWarp w f).foreign = s.foreign := rfl
@[simp] theorem modWarp_newSpaces (s : State) (w : Nat) (f : Warp → Warp) : (s.modWarp w f).newSpaces = s.newSpaces := rfl
@[simp] theorem modWarp_stopped (s : State) (w : Nat) (f : Warp → Warp) : (s.modWarp w f).stopped = s.stopped := rfl
@[simp] theorem modWarp_reports (s : State) (w : Nat) (f : Warp → Warp) : (s.modWarp w f).reports = s.reports := rfl
@[simp] theorem modWarp_totals (s : State) (w : Nat) (f : Warp → Warp) : (s.modWarp w f).totals = s.totals := rfl
@[simp] theorem modWarp_nextId (s : State) (w : Nat) (f : Warp → Warp) : (s.modWarp w f).nextId = s.nextId := rfl
@[simp] theorem modWarp_free (s : State) (w : Nat) (f : Warp → Warp) : (s.modWarp w f).free = s.free := rfl
@[simp] theorem modWarp_beat (s : State) (w : Nat) (f : Warp → Warp) : (s.modWarp w f).beat = s.beat := rfl
@[simp] theorem modWarp_lat (s : State) (w : Nat) (f : Warp → Warp) : (s.modWarp w f).lat = s.lat := rfl
@[simp] theorem modWarp_agenda (s : State) (w : Nat) (f : Warp → Warp) : (s.modWarp w f).agenda = s.agenda := rfl
@[simp] theorem modWarp_issue (s : State) (w : Nat) (f : Warp → Warp) : (s.modWarp w f).issue = s.issue := rfl
@[simp] theorem modWarp_pend (s : State) (w : Nat) (f : Warp → Warp) : (s.modWarp w f).pend = s.pend := rfl
@[simp] theorem modWarp_second (s : State) (w : Nat) (f : Warp → Warp) : (s.modWarp w f).second = s.second := rfl
@[simp] theorem modWarp_partDone (s : State) (w : Nat) (f : Warp → Warp) : (s.modWarp w f).partDone = s.partDone := rfl

/-! `State.setCore`. -/

@[simp] theorem setCore_clk (s : State) (c : Nat) (x : Core) : (s.setCore c x).clk = s.clk := rfl
@[simp] theorem setCore_gtOff (s : State) (c : Nat) (x : Core) : (s.setCore c x).gtOff = s.gtOff := rfl
@[simp] theorem setCore_device (s : State) (c : Nat) (x : Core) : (s.setCore c x).device = s.device := rfl
@[simp] theorem setCore_nDies (s : State) (c : Nat) (x : Core) : (s.setCore c x).nDies = s.nDies := rfl
@[simp] theorem setCore_warps (s : State) (c : Nat) (x : Core) : (s.setCore c x).warps = s.warps := rfl
@[simp] theorem setCore_saved (s : State) (c : Nat) (x : Core) : (s.setCore c x).saved = s.saved := rfl
@[simp] theorem setCore_cores (s : State) (c : Nat) (x : Core) : (s.setCore c x).cores = mset s.cores c x := rfl
@[simp] theorem setCore_dies (s : State) (c : Nat) (x : Core) : (s.setCore c x).dies = s.dies := rfl
@[simp] theorem setCore_plans (s : State) (c : Nat) (x : Core) : (s.setCore c x).plans = s.plans := rfl
@[simp] theorem setCore_waitPlans (s : State) (c : Nat) (x : Core) : (s.setCore c x).waitPlans = s.waitPlans := rfl
@[simp] theorem setCore_groups (s : State) (c : Nat) (x : Core) : (s.setCore c x).groups = s.groups := rfl
@[simp] theorem setCore_hbm (s : State) (c : Nat) (x : Core) : (s.setCore c x).hbm = s.hbm := rfl
@[simp] theorem setCore_l2 (s : State) (c : Nat) (x : Core) : (s.setCore c x).l2 = s.l2 := rfl
@[simp] theorem setCore_words (s : State) (c : Nat) (x : Core) : (s.setCore c x).words = s.words := rfl
@[simp] theorem setCore_vers (s : State) (c : Nat) (x : Core) : (s.setCore c x).vers = s.vers := rfl
@[simp] theorem setCore_homeBad (s : State) (c : Nat) (x : Core) : (s.setCore c x).homeBad = s.homeBad := rfl
@[simp] theorem setCore_corrected (s : State) (c : Nat) (x : Core) : (s.setCore c x).corrected = s.corrected := rfl
@[simp] theorem setCore_msgs (s : State) (c : Nat) (x : Core) : (s.setCore c x).msgs = s.msgs := rfl
@[simp] theorem setCore_walks (s : State) (c : Nat) (x : Core) : (s.setCore c x).walks = s.walks := rfl
@[simp] theorem setCore_queues (s : State) (c : Nat) (x : Core) : (s.setCore c x).queues = s.queues := rfl
@[simp] theorem setCore_slots (s : State) (c : Nat) (x : Core) : (s.setCore c x).slots = s.slots := rfl
@[simp] theorem setCore_work (s : State) (c : Nat) (x : Core) : (s.setCore c x).work = s.work := rfl
@[simp] theorem setCore_attached (s : State) (c : Nat) (x : Core) : (s.setCore c x).attached = s.attached := rfl
@[simp] theorem setCore_dispatchq (s : State) (c : Nat) (x : Core) : (s.setCore c x).dispatchq = s.dispatchq := rfl
@[simp] theorem setCore_keys (s : State) (c : Nat) (x : Core) : (s.setCore c x).keys = s.keys := rfl
@[simp] theorem setCore_notifyErr (s : State) (c : Nat) (x : Core) : (s.setCore c x).notifyErr = s.notifyErr := rfl
@[simp] theorem setCore_pairs (s : State) (c : Nat) (x : Core) : (s.setCore c x).pairs = s.pairs := rfl
@[simp] theorem setCore_hartTurn (s : State) (c : Nat) (x : Core) : (s.setCore c x).hartTurn = s.hartTurn := rfl
@[simp] theorem setCore_feat (s : State) (c : Nat) (x : Core) : (s.setCore c x).feat = s.feat := rfl
@[simp] theorem setCore_bootm (s : State) (c : Nat) (x : Core) : (s.setCore c x).bootm = s.bootm := rfl
@[simp] theorem setCore_runm (s : State) (c : Nat) (x : Core) : (s.setCore c x).runm = s.runm := rfl
@[simp] theorem setCore_svn (s : State) (c : Nat) (x : Core) : (s.setCore c x).svn = s.svn := rfl
@[simp] theorem setCore_pgood (s : State) (c : Nat) (x : Core) : (s.setCore c x).pgood = s.pgood := rfl
@[simp] theorem setCore_flash (s : State) (c : Nat) (x : Core) : (s.setCore c x).flash = s.flash := rfl
@[simp] theorem setCore_pool (s : State) (c : Nat) (x : Core) : (s.setCore c x).pool = s.pool := rfl
@[simp] theorem setCore_ports (s : State) (c : Nat) (x : Core) : (s.setCore c x).ports = s.ports := rfl
@[simp] theorem setCore_d2d (s : State) (c : Nat) (x : Core) : (s.setCore c x).d2d = s.d2d := rfl
@[simp] theorem setCore_routes (s : State) (c : Nat) (x : Core) : (s.setCore c x).routes = s.routes := rfl
@[simp] theorem setCore_silent (s : State) (c : Nat) (x : Core) : (s.setCore c x).silent = s.silent := rfl
@[simp] theorem setCore_master (s : State) (c : Nat) (x : Core) : (s.setCore c x).master = s.master := rfl
@[simp] theorem setCore_leads (s : State) (c : Nat) (x : Core) : (s.setCore c x).leads = s.leads := rfl
@[simp] theorem setCore_masterTime (s : State) (c : Nat) (x : Core) : (s.setCore c x).masterTime = s.masterTime := rfl
@[simp] theorem setCore_hqTurn (s : State) (c : Nat) (x : Core) : (s.setCore c x).hqTurn = s.hqTurn := rfl
@[simp] theorem setCore_devRings (s : State) (c : Nat) (x : Core) : (s.setCore c x).devRings = s.devRings := rfl
@[simp] theorem setCore_lastTime (s : State) (c : Nat) (x : Core) : (s.setCore c x).lastTime = s.lastTime := rfl
@[simp] theorem setCore_slew (s : State) (c : Nat) (x : Core) : (s.setCore c x).slew = s.slew := rfl
@[simp] theorem setCore_locked (s : State) (c : Nat) (x : Core) : (s.setCore c x).locked = s.locked := rfl
@[simp] theorem setCore_ueWins (s : State) (c : Nat) (x : Core) : (s.setCore c x).ueWins = s.ueWins := rfl
@[simp] theorem setCore_tenantLog (s : State) (c : Nat) (x : Core) : (s.setCore c x).tenantLog = s.tenantLog := rfl
@[simp] theorem setCore_images (s : State) (c : Nat) (x : Core) : (s.setCore c x).images = s.images := rfl
@[simp] theorem setCore_dumpTo (s : State) (c : Nat) (x : Core) : (s.setCore c x).dumpTo = s.dumpTo := rfl
@[simp] theorem setCore_fallen (s : State) (c : Nat) (x : Core) : (s.setCore c x).fallen = s.fallen := rfl
@[simp] theorem setCore_foreign (s : State) (c : Nat) (x : Core) : (s.setCore c x).foreign = s.foreign := rfl
@[simp] theorem setCore_newSpaces (s : State) (c : Nat) (x : Core) : (s.setCore c x).newSpaces = s.newSpaces := rfl
@[simp] theorem setCore_stopped (s : State) (c : Nat) (x : Core) : (s.setCore c x).stopped = s.stopped := rfl
@[simp] theorem setCore_reports (s : State) (c : Nat) (x : Core) : (s.setCore c x).reports = s.reports := rfl
@[simp] theorem setCore_totals (s : State) (c : Nat) (x : Core) : (s.setCore c x).totals = s.totals := rfl
@[simp] theorem setCore_nextId (s : State) (c : Nat) (x : Core) : (s.setCore c x).nextId = s.nextId := rfl
@[simp] theorem setCore_free (s : State) (c : Nat) (x : Core) : (s.setCore c x).free = s.free := rfl
@[simp] theorem setCore_beat (s : State) (c : Nat) (x : Core) : (s.setCore c x).beat = s.beat := rfl
@[simp] theorem setCore_lat (s : State) (c : Nat) (x : Core) : (s.setCore c x).lat = s.lat := rfl
@[simp] theorem setCore_agenda (s : State) (c : Nat) (x : Core) : (s.setCore c x).agenda = s.agenda := rfl
@[simp] theorem setCore_issue (s : State) (c : Nat) (x : Core) : (s.setCore c x).issue = s.issue := rfl
@[simp] theorem setCore_pend (s : State) (c : Nat) (x : Core) : (s.setCore c x).pend = s.pend := rfl
@[simp] theorem setCore_second (s : State) (c : Nat) (x : Core) : (s.setCore c x).second = s.second := rfl
@[simp] theorem setCore_partDone (s : State) (c : Nat) (x : Core) : (s.setCore c x).partDone = s.partDone := rfl

/-! `State.modCore`. -/

@[simp] theorem modCore_clk (s : State) (c : Nat) (f : Core → Core) : (s.modCore c f).clk = s.clk := rfl
@[simp] theorem modCore_gtOff (s : State) (c : Nat) (f : Core → Core) : (s.modCore c f).gtOff = s.gtOff := rfl
@[simp] theorem modCore_device (s : State) (c : Nat) (f : Core → Core) : (s.modCore c f).device = s.device := rfl
@[simp] theorem modCore_nDies (s : State) (c : Nat) (f : Core → Core) : (s.modCore c f).nDies = s.nDies := rfl
@[simp] theorem modCore_warps (s : State) (c : Nat) (f : Core → Core) : (s.modCore c f).warps = s.warps := rfl
@[simp] theorem modCore_saved (s : State) (c : Nat) (f : Core → Core) : (s.modCore c f).saved = s.saved := rfl
@[simp] theorem modCore_cores (s : State) (c : Nat) (f : Core → Core) : (s.modCore c f).cores = mset s.cores c (f (s.core c)) := rfl
@[simp] theorem modCore_dies (s : State) (c : Nat) (f : Core → Core) : (s.modCore c f).dies = s.dies := rfl
@[simp] theorem modCore_plans (s : State) (c : Nat) (f : Core → Core) : (s.modCore c f).plans = s.plans := rfl
@[simp] theorem modCore_waitPlans (s : State) (c : Nat) (f : Core → Core) : (s.modCore c f).waitPlans = s.waitPlans := rfl
@[simp] theorem modCore_groups (s : State) (c : Nat) (f : Core → Core) : (s.modCore c f).groups = s.groups := rfl
@[simp] theorem modCore_hbm (s : State) (c : Nat) (f : Core → Core) : (s.modCore c f).hbm = s.hbm := rfl
@[simp] theorem modCore_l2 (s : State) (c : Nat) (f : Core → Core) : (s.modCore c f).l2 = s.l2 := rfl
@[simp] theorem modCore_words (s : State) (c : Nat) (f : Core → Core) : (s.modCore c f).words = s.words := rfl
@[simp] theorem modCore_vers (s : State) (c : Nat) (f : Core → Core) : (s.modCore c f).vers = s.vers := rfl
@[simp] theorem modCore_homeBad (s : State) (c : Nat) (f : Core → Core) : (s.modCore c f).homeBad = s.homeBad := rfl
@[simp] theorem modCore_corrected (s : State) (c : Nat) (f : Core → Core) : (s.modCore c f).corrected = s.corrected := rfl
@[simp] theorem modCore_msgs (s : State) (c : Nat) (f : Core → Core) : (s.modCore c f).msgs = s.msgs := rfl
@[simp] theorem modCore_walks (s : State) (c : Nat) (f : Core → Core) : (s.modCore c f).walks = s.walks := rfl
@[simp] theorem modCore_queues (s : State) (c : Nat) (f : Core → Core) : (s.modCore c f).queues = s.queues := rfl
@[simp] theorem modCore_slots (s : State) (c : Nat) (f : Core → Core) : (s.modCore c f).slots = s.slots := rfl
@[simp] theorem modCore_work (s : State) (c : Nat) (f : Core → Core) : (s.modCore c f).work = s.work := rfl
@[simp] theorem modCore_attached (s : State) (c : Nat) (f : Core → Core) : (s.modCore c f).attached = s.attached := rfl
@[simp] theorem modCore_dispatchq (s : State) (c : Nat) (f : Core → Core) : (s.modCore c f).dispatchq = s.dispatchq := rfl
@[simp] theorem modCore_keys (s : State) (c : Nat) (f : Core → Core) : (s.modCore c f).keys = s.keys := rfl
@[simp] theorem modCore_notifyErr (s : State) (c : Nat) (f : Core → Core) : (s.modCore c f).notifyErr = s.notifyErr := rfl
@[simp] theorem modCore_pairs (s : State) (c : Nat) (f : Core → Core) : (s.modCore c f).pairs = s.pairs := rfl
@[simp] theorem modCore_hartTurn (s : State) (c : Nat) (f : Core → Core) : (s.modCore c f).hartTurn = s.hartTurn := rfl
@[simp] theorem modCore_feat (s : State) (c : Nat) (f : Core → Core) : (s.modCore c f).feat = s.feat := rfl
@[simp] theorem modCore_bootm (s : State) (c : Nat) (f : Core → Core) : (s.modCore c f).bootm = s.bootm := rfl
@[simp] theorem modCore_runm (s : State) (c : Nat) (f : Core → Core) : (s.modCore c f).runm = s.runm := rfl
@[simp] theorem modCore_svn (s : State) (c : Nat) (f : Core → Core) : (s.modCore c f).svn = s.svn := rfl
@[simp] theorem modCore_pgood (s : State) (c : Nat) (f : Core → Core) : (s.modCore c f).pgood = s.pgood := rfl
@[simp] theorem modCore_flash (s : State) (c : Nat) (f : Core → Core) : (s.modCore c f).flash = s.flash := rfl
@[simp] theorem modCore_pool (s : State) (c : Nat) (f : Core → Core) : (s.modCore c f).pool = s.pool := rfl
@[simp] theorem modCore_ports (s : State) (c : Nat) (f : Core → Core) : (s.modCore c f).ports = s.ports := rfl
@[simp] theorem modCore_d2d (s : State) (c : Nat) (f : Core → Core) : (s.modCore c f).d2d = s.d2d := rfl
@[simp] theorem modCore_routes (s : State) (c : Nat) (f : Core → Core) : (s.modCore c f).routes = s.routes := rfl
@[simp] theorem modCore_silent (s : State) (c : Nat) (f : Core → Core) : (s.modCore c f).silent = s.silent := rfl
@[simp] theorem modCore_master (s : State) (c : Nat) (f : Core → Core) : (s.modCore c f).master = s.master := rfl
@[simp] theorem modCore_leads (s : State) (c : Nat) (f : Core → Core) : (s.modCore c f).leads = s.leads := rfl
@[simp] theorem modCore_masterTime (s : State) (c : Nat) (f : Core → Core) : (s.modCore c f).masterTime = s.masterTime := rfl
@[simp] theorem modCore_hqTurn (s : State) (c : Nat) (f : Core → Core) : (s.modCore c f).hqTurn = s.hqTurn := rfl
@[simp] theorem modCore_devRings (s : State) (c : Nat) (f : Core → Core) : (s.modCore c f).devRings = s.devRings := rfl
@[simp] theorem modCore_lastTime (s : State) (c : Nat) (f : Core → Core) : (s.modCore c f).lastTime = s.lastTime := rfl
@[simp] theorem modCore_slew (s : State) (c : Nat) (f : Core → Core) : (s.modCore c f).slew = s.slew := rfl
@[simp] theorem modCore_locked (s : State) (c : Nat) (f : Core → Core) : (s.modCore c f).locked = s.locked := rfl
@[simp] theorem modCore_ueWins (s : State) (c : Nat) (f : Core → Core) : (s.modCore c f).ueWins = s.ueWins := rfl
@[simp] theorem modCore_tenantLog (s : State) (c : Nat) (f : Core → Core) : (s.modCore c f).tenantLog = s.tenantLog := rfl
@[simp] theorem modCore_images (s : State) (c : Nat) (f : Core → Core) : (s.modCore c f).images = s.images := rfl
@[simp] theorem modCore_dumpTo (s : State) (c : Nat) (f : Core → Core) : (s.modCore c f).dumpTo = s.dumpTo := rfl
@[simp] theorem modCore_fallen (s : State) (c : Nat) (f : Core → Core) : (s.modCore c f).fallen = s.fallen := rfl
@[simp] theorem modCore_foreign (s : State) (c : Nat) (f : Core → Core) : (s.modCore c f).foreign = s.foreign := rfl
@[simp] theorem modCore_newSpaces (s : State) (c : Nat) (f : Core → Core) : (s.modCore c f).newSpaces = s.newSpaces := rfl
@[simp] theorem modCore_stopped (s : State) (c : Nat) (f : Core → Core) : (s.modCore c f).stopped = s.stopped := rfl
@[simp] theorem modCore_reports (s : State) (c : Nat) (f : Core → Core) : (s.modCore c f).reports = s.reports := rfl
@[simp] theorem modCore_totals (s : State) (c : Nat) (f : Core → Core) : (s.modCore c f).totals = s.totals := rfl
@[simp] theorem modCore_nextId (s : State) (c : Nat) (f : Core → Core) : (s.modCore c f).nextId = s.nextId := rfl
@[simp] theorem modCore_free (s : State) (c : Nat) (f : Core → Core) : (s.modCore c f).free = s.free := rfl
@[simp] theorem modCore_beat (s : State) (c : Nat) (f : Core → Core) : (s.modCore c f).beat = s.beat := rfl
@[simp] theorem modCore_lat (s : State) (c : Nat) (f : Core → Core) : (s.modCore c f).lat = s.lat := rfl
@[simp] theorem modCore_agenda (s : State) (c : Nat) (f : Core → Core) : (s.modCore c f).agenda = s.agenda := rfl
@[simp] theorem modCore_issue (s : State) (c : Nat) (f : Core → Core) : (s.modCore c f).issue = s.issue := rfl
@[simp] theorem modCore_pend (s : State) (c : Nat) (f : Core → Core) : (s.modCore c f).pend = s.pend := rfl
@[simp] theorem modCore_second (s : State) (c : Nat) (f : Core → Core) : (s.modCore c f).second = s.second := rfl
@[simp] theorem modCore_partDone (s : State) (c : Nat) (f : Core → Core) : (s.modCore c f).partDone = s.partDone := rfl

/-! `State.modDie`. -/

@[simp] theorem modDie_clk (s : State) (d : Nat) (f : Die → Die) : (s.modDie d f).clk = s.clk := rfl
@[simp] theorem modDie_gtOff (s : State) (d : Nat) (f : Die → Die) : (s.modDie d f).gtOff = s.gtOff := rfl
@[simp] theorem modDie_device (s : State) (d : Nat) (f : Die → Die) : (s.modDie d f).device = s.device := rfl
@[simp] theorem modDie_nDies (s : State) (d : Nat) (f : Die → Die) : (s.modDie d f).nDies = s.nDies := rfl
@[simp] theorem modDie_warps (s : State) (d : Nat) (f : Die → Die) : (s.modDie d f).warps = s.warps := rfl
@[simp] theorem modDie_saved (s : State) (d : Nat) (f : Die → Die) : (s.modDie d f).saved = s.saved := rfl
@[simp] theorem modDie_cores (s : State) (d : Nat) (f : Die → Die) : (s.modDie d f).cores = s.cores := rfl
@[simp] theorem modDie_dies (s : State) (d : Nat) (f : Die → Die) : (s.modDie d f).dies = mset s.dies d (f (s.die d)) := rfl
@[simp] theorem modDie_plans (s : State) (d : Nat) (f : Die → Die) : (s.modDie d f).plans = s.plans := rfl
@[simp] theorem modDie_waitPlans (s : State) (d : Nat) (f : Die → Die) : (s.modDie d f).waitPlans = s.waitPlans := rfl
@[simp] theorem modDie_groups (s : State) (d : Nat) (f : Die → Die) : (s.modDie d f).groups = s.groups := rfl
@[simp] theorem modDie_hbm (s : State) (d : Nat) (f : Die → Die) : (s.modDie d f).hbm = s.hbm := rfl
@[simp] theorem modDie_l2 (s : State) (d : Nat) (f : Die → Die) : (s.modDie d f).l2 = s.l2 := rfl
@[simp] theorem modDie_words (s : State) (d : Nat) (f : Die → Die) : (s.modDie d f).words = s.words := rfl
@[simp] theorem modDie_vers (s : State) (d : Nat) (f : Die → Die) : (s.modDie d f).vers = s.vers := rfl
@[simp] theorem modDie_homeBad (s : State) (d : Nat) (f : Die → Die) : (s.modDie d f).homeBad = s.homeBad := rfl
@[simp] theorem modDie_corrected (s : State) (d : Nat) (f : Die → Die) : (s.modDie d f).corrected = s.corrected := rfl
@[simp] theorem modDie_msgs (s : State) (d : Nat) (f : Die → Die) : (s.modDie d f).msgs = s.msgs := rfl
@[simp] theorem modDie_walks (s : State) (d : Nat) (f : Die → Die) : (s.modDie d f).walks = s.walks := rfl
@[simp] theorem modDie_queues (s : State) (d : Nat) (f : Die → Die) : (s.modDie d f).queues = s.queues := rfl
@[simp] theorem modDie_slots (s : State) (d : Nat) (f : Die → Die) : (s.modDie d f).slots = s.slots := rfl
@[simp] theorem modDie_work (s : State) (d : Nat) (f : Die → Die) : (s.modDie d f).work = s.work := rfl
@[simp] theorem modDie_attached (s : State) (d : Nat) (f : Die → Die) : (s.modDie d f).attached = s.attached := rfl
@[simp] theorem modDie_dispatchq (s : State) (d : Nat) (f : Die → Die) : (s.modDie d f).dispatchq = s.dispatchq := rfl
@[simp] theorem modDie_keys (s : State) (d : Nat) (f : Die → Die) : (s.modDie d f).keys = s.keys := rfl
@[simp] theorem modDie_notifyErr (s : State) (d : Nat) (f : Die → Die) : (s.modDie d f).notifyErr = s.notifyErr := rfl
@[simp] theorem modDie_pairs (s : State) (d : Nat) (f : Die → Die) : (s.modDie d f).pairs = s.pairs := rfl
@[simp] theorem modDie_hartTurn (s : State) (d : Nat) (f : Die → Die) : (s.modDie d f).hartTurn = s.hartTurn := rfl
@[simp] theorem modDie_feat (s : State) (d : Nat) (f : Die → Die) : (s.modDie d f).feat = s.feat := rfl
@[simp] theorem modDie_bootm (s : State) (d : Nat) (f : Die → Die) : (s.modDie d f).bootm = s.bootm := rfl
@[simp] theorem modDie_runm (s : State) (d : Nat) (f : Die → Die) : (s.modDie d f).runm = s.runm := rfl
@[simp] theorem modDie_svn (s : State) (d : Nat) (f : Die → Die) : (s.modDie d f).svn = s.svn := rfl
@[simp] theorem modDie_pgood (s : State) (d : Nat) (f : Die → Die) : (s.modDie d f).pgood = s.pgood := rfl
@[simp] theorem modDie_flash (s : State) (d : Nat) (f : Die → Die) : (s.modDie d f).flash = s.flash := rfl
@[simp] theorem modDie_pool (s : State) (d : Nat) (f : Die → Die) : (s.modDie d f).pool = s.pool := rfl
@[simp] theorem modDie_ports (s : State) (d : Nat) (f : Die → Die) : (s.modDie d f).ports = s.ports := rfl
@[simp] theorem modDie_d2d (s : State) (d : Nat) (f : Die → Die) : (s.modDie d f).d2d = s.d2d := rfl
@[simp] theorem modDie_routes (s : State) (d : Nat) (f : Die → Die) : (s.modDie d f).routes = s.routes := rfl
@[simp] theorem modDie_silent (s : State) (d : Nat) (f : Die → Die) : (s.modDie d f).silent = s.silent := rfl
@[simp] theorem modDie_master (s : State) (d : Nat) (f : Die → Die) : (s.modDie d f).master = s.master := rfl
@[simp] theorem modDie_leads (s : State) (d : Nat) (f : Die → Die) : (s.modDie d f).leads = s.leads := rfl
@[simp] theorem modDie_masterTime (s : State) (d : Nat) (f : Die → Die) : (s.modDie d f).masterTime = s.masterTime := rfl
@[simp] theorem modDie_hqTurn (s : State) (d : Nat) (f : Die → Die) : (s.modDie d f).hqTurn = s.hqTurn := rfl
@[simp] theorem modDie_devRings (s : State) (d : Nat) (f : Die → Die) : (s.modDie d f).devRings = s.devRings := rfl
@[simp] theorem modDie_lastTime (s : State) (d : Nat) (f : Die → Die) : (s.modDie d f).lastTime = s.lastTime := rfl
@[simp] theorem modDie_slew (s : State) (d : Nat) (f : Die → Die) : (s.modDie d f).slew = s.slew := rfl
@[simp] theorem modDie_locked (s : State) (d : Nat) (f : Die → Die) : (s.modDie d f).locked = s.locked := rfl
@[simp] theorem modDie_ueWins (s : State) (d : Nat) (f : Die → Die) : (s.modDie d f).ueWins = s.ueWins := rfl
@[simp] theorem modDie_tenantLog (s : State) (d : Nat) (f : Die → Die) : (s.modDie d f).tenantLog = s.tenantLog := rfl
@[simp] theorem modDie_images (s : State) (d : Nat) (f : Die → Die) : (s.modDie d f).images = s.images := rfl
@[simp] theorem modDie_dumpTo (s : State) (d : Nat) (f : Die → Die) : (s.modDie d f).dumpTo = s.dumpTo := rfl
@[simp] theorem modDie_fallen (s : State) (d : Nat) (f : Die → Die) : (s.modDie d f).fallen = s.fallen := rfl
@[simp] theorem modDie_foreign (s : State) (d : Nat) (f : Die → Die) : (s.modDie d f).foreign = s.foreign := rfl
@[simp] theorem modDie_newSpaces (s : State) (d : Nat) (f : Die → Die) : (s.modDie d f).newSpaces = s.newSpaces := rfl
@[simp] theorem modDie_stopped (s : State) (d : Nat) (f : Die → Die) : (s.modDie d f).stopped = s.stopped := rfl
@[simp] theorem modDie_reports (s : State) (d : Nat) (f : Die → Die) : (s.modDie d f).reports = s.reports := rfl
@[simp] theorem modDie_totals (s : State) (d : Nat) (f : Die → Die) : (s.modDie d f).totals = s.totals := rfl
@[simp] theorem modDie_nextId (s : State) (d : Nat) (f : Die → Die) : (s.modDie d f).nextId = s.nextId := rfl
@[simp] theorem modDie_free (s : State) (d : Nat) (f : Die → Die) : (s.modDie d f).free = s.free := rfl
@[simp] theorem modDie_beat (s : State) (d : Nat) (f : Die → Die) : (s.modDie d f).beat = s.beat := rfl
@[simp] theorem modDie_lat (s : State) (d : Nat) (f : Die → Die) : (s.modDie d f).lat = s.lat := rfl
@[simp] theorem modDie_agenda (s : State) (d : Nat) (f : Die → Die) : (s.modDie d f).agenda = s.agenda := rfl
@[simp] theorem modDie_issue (s : State) (d : Nat) (f : Die → Die) : (s.modDie d f).issue = s.issue := rfl
@[simp] theorem modDie_pend (s : State) (d : Nat) (f : Die → Die) : (s.modDie d f).pend = s.pend := rfl
@[simp] theorem modDie_second (s : State) (d : Nat) (f : Die → Die) : (s.modDie d f).second = s.second := rfl
@[simp] theorem modDie_partDone (s : State) (d : Nat) (f : Die → Die) : (s.modDie d f).partDone = s.partDone := rfl

/-! `State.modPlan`. -/

@[simp] theorem modPlan_clk (s : State) (p : Nat) (f : Plan → Plan) : (s.modPlan p f).clk = s.clk := rfl
@[simp] theorem modPlan_gtOff (s : State) (p : Nat) (f : Plan → Plan) : (s.modPlan p f).gtOff = s.gtOff := rfl
@[simp] theorem modPlan_device (s : State) (p : Nat) (f : Plan → Plan) : (s.modPlan p f).device = s.device := rfl
@[simp] theorem modPlan_nDies (s : State) (p : Nat) (f : Plan → Plan) : (s.modPlan p f).nDies = s.nDies := rfl
@[simp] theorem modPlan_warps (s : State) (p : Nat) (f : Plan → Plan) : (s.modPlan p f).warps = s.warps := rfl
@[simp] theorem modPlan_saved (s : State) (p : Nat) (f : Plan → Plan) : (s.modPlan p f).saved = s.saved := rfl
@[simp] theorem modPlan_cores (s : State) (p : Nat) (f : Plan → Plan) : (s.modPlan p f).cores = s.cores := rfl
@[simp] theorem modPlan_dies (s : State) (p : Nat) (f : Plan → Plan) : (s.modPlan p f).dies = s.dies := rfl
@[simp] theorem modPlan_plans (s : State) (p : Nat) (f : Plan → Plan) : (s.modPlan p f).plans = mmod s.plans p f := rfl
@[simp] theorem modPlan_waitPlans (s : State) (p : Nat) (f : Plan → Plan) : (s.modPlan p f).waitPlans = s.waitPlans := rfl
@[simp] theorem modPlan_groups (s : State) (p : Nat) (f : Plan → Plan) : (s.modPlan p f).groups = s.groups := rfl
@[simp] theorem modPlan_hbm (s : State) (p : Nat) (f : Plan → Plan) : (s.modPlan p f).hbm = s.hbm := rfl
@[simp] theorem modPlan_l2 (s : State) (p : Nat) (f : Plan → Plan) : (s.modPlan p f).l2 = s.l2 := rfl
@[simp] theorem modPlan_words (s : State) (p : Nat) (f : Plan → Plan) : (s.modPlan p f).words = s.words := rfl
@[simp] theorem modPlan_vers (s : State) (p : Nat) (f : Plan → Plan) : (s.modPlan p f).vers = s.vers := rfl
@[simp] theorem modPlan_homeBad (s : State) (p : Nat) (f : Plan → Plan) : (s.modPlan p f).homeBad = s.homeBad := rfl
@[simp] theorem modPlan_corrected (s : State) (p : Nat) (f : Plan → Plan) : (s.modPlan p f).corrected = s.corrected := rfl
@[simp] theorem modPlan_msgs (s : State) (p : Nat) (f : Plan → Plan) : (s.modPlan p f).msgs = s.msgs := rfl
@[simp] theorem modPlan_walks (s : State) (p : Nat) (f : Plan → Plan) : (s.modPlan p f).walks = s.walks := rfl
@[simp] theorem modPlan_queues (s : State) (p : Nat) (f : Plan → Plan) : (s.modPlan p f).queues = s.queues := rfl
@[simp] theorem modPlan_slots (s : State) (p : Nat) (f : Plan → Plan) : (s.modPlan p f).slots = s.slots := rfl
@[simp] theorem modPlan_work (s : State) (p : Nat) (f : Plan → Plan) : (s.modPlan p f).work = s.work := rfl
@[simp] theorem modPlan_attached (s : State) (p : Nat) (f : Plan → Plan) : (s.modPlan p f).attached = s.attached := rfl
@[simp] theorem modPlan_dispatchq (s : State) (p : Nat) (f : Plan → Plan) : (s.modPlan p f).dispatchq = s.dispatchq := rfl
@[simp] theorem modPlan_keys (s : State) (p : Nat) (f : Plan → Plan) : (s.modPlan p f).keys = s.keys := rfl
@[simp] theorem modPlan_notifyErr (s : State) (p : Nat) (f : Plan → Plan) : (s.modPlan p f).notifyErr = s.notifyErr := rfl
@[simp] theorem modPlan_pairs (s : State) (p : Nat) (f : Plan → Plan) : (s.modPlan p f).pairs = s.pairs := rfl
@[simp] theorem modPlan_hartTurn (s : State) (p : Nat) (f : Plan → Plan) : (s.modPlan p f).hartTurn = s.hartTurn := rfl
@[simp] theorem modPlan_feat (s : State) (p : Nat) (f : Plan → Plan) : (s.modPlan p f).feat = s.feat := rfl
@[simp] theorem modPlan_bootm (s : State) (p : Nat) (f : Plan → Plan) : (s.modPlan p f).bootm = s.bootm := rfl
@[simp] theorem modPlan_runm (s : State) (p : Nat) (f : Plan → Plan) : (s.modPlan p f).runm = s.runm := rfl
@[simp] theorem modPlan_svn (s : State) (p : Nat) (f : Plan → Plan) : (s.modPlan p f).svn = s.svn := rfl
@[simp] theorem modPlan_pgood (s : State) (p : Nat) (f : Plan → Plan) : (s.modPlan p f).pgood = s.pgood := rfl
@[simp] theorem modPlan_flash (s : State) (p : Nat) (f : Plan → Plan) : (s.modPlan p f).flash = s.flash := rfl
@[simp] theorem modPlan_pool (s : State) (p : Nat) (f : Plan → Plan) : (s.modPlan p f).pool = s.pool := rfl
@[simp] theorem modPlan_ports (s : State) (p : Nat) (f : Plan → Plan) : (s.modPlan p f).ports = s.ports := rfl
@[simp] theorem modPlan_d2d (s : State) (p : Nat) (f : Plan → Plan) : (s.modPlan p f).d2d = s.d2d := rfl
@[simp] theorem modPlan_routes (s : State) (p : Nat) (f : Plan → Plan) : (s.modPlan p f).routes = s.routes := rfl
@[simp] theorem modPlan_silent (s : State) (p : Nat) (f : Plan → Plan) : (s.modPlan p f).silent = s.silent := rfl
@[simp] theorem modPlan_master (s : State) (p : Nat) (f : Plan → Plan) : (s.modPlan p f).master = s.master := rfl
@[simp] theorem modPlan_leads (s : State) (p : Nat) (f : Plan → Plan) : (s.modPlan p f).leads = s.leads := rfl
@[simp] theorem modPlan_masterTime (s : State) (p : Nat) (f : Plan → Plan) : (s.modPlan p f).masterTime = s.masterTime := rfl
@[simp] theorem modPlan_hqTurn (s : State) (p : Nat) (f : Plan → Plan) : (s.modPlan p f).hqTurn = s.hqTurn := rfl
@[simp] theorem modPlan_devRings (s : State) (p : Nat) (f : Plan → Plan) : (s.modPlan p f).devRings = s.devRings := rfl
@[simp] theorem modPlan_lastTime (s : State) (p : Nat) (f : Plan → Plan) : (s.modPlan p f).lastTime = s.lastTime := rfl
@[simp] theorem modPlan_slew (s : State) (p : Nat) (f : Plan → Plan) : (s.modPlan p f).slew = s.slew := rfl
@[simp] theorem modPlan_locked (s : State) (p : Nat) (f : Plan → Plan) : (s.modPlan p f).locked = s.locked := rfl
@[simp] theorem modPlan_ueWins (s : State) (p : Nat) (f : Plan → Plan) : (s.modPlan p f).ueWins = s.ueWins := rfl
@[simp] theorem modPlan_tenantLog (s : State) (p : Nat) (f : Plan → Plan) : (s.modPlan p f).tenantLog = s.tenantLog := rfl
@[simp] theorem modPlan_images (s : State) (p : Nat) (f : Plan → Plan) : (s.modPlan p f).images = s.images := rfl
@[simp] theorem modPlan_dumpTo (s : State) (p : Nat) (f : Plan → Plan) : (s.modPlan p f).dumpTo = s.dumpTo := rfl
@[simp] theorem modPlan_fallen (s : State) (p : Nat) (f : Plan → Plan) : (s.modPlan p f).fallen = s.fallen := rfl
@[simp] theorem modPlan_foreign (s : State) (p : Nat) (f : Plan → Plan) : (s.modPlan p f).foreign = s.foreign := rfl
@[simp] theorem modPlan_newSpaces (s : State) (p : Nat) (f : Plan → Plan) : (s.modPlan p f).newSpaces = s.newSpaces := rfl
@[simp] theorem modPlan_stopped (s : State) (p : Nat) (f : Plan → Plan) : (s.modPlan p f).stopped = s.stopped := rfl
@[simp] theorem modPlan_reports (s : State) (p : Nat) (f : Plan → Plan) : (s.modPlan p f).reports = s.reports := rfl
@[simp] theorem modPlan_totals (s : State) (p : Nat) (f : Plan → Plan) : (s.modPlan p f).totals = s.totals := rfl
@[simp] theorem modPlan_nextId (s : State) (p : Nat) (f : Plan → Plan) : (s.modPlan p f).nextId = s.nextId := rfl
@[simp] theorem modPlan_free (s : State) (p : Nat) (f : Plan → Plan) : (s.modPlan p f).free = s.free := rfl
@[simp] theorem modPlan_beat (s : State) (p : Nat) (f : Plan → Plan) : (s.modPlan p f).beat = s.beat := rfl
@[simp] theorem modPlan_lat (s : State) (p : Nat) (f : Plan → Plan) : (s.modPlan p f).lat = s.lat := rfl
@[simp] theorem modPlan_agenda (s : State) (p : Nat) (f : Plan → Plan) : (s.modPlan p f).agenda = s.agenda := rfl
@[simp] theorem modPlan_issue (s : State) (p : Nat) (f : Plan → Plan) : (s.modPlan p f).issue = s.issue := rfl
@[simp] theorem modPlan_pend (s : State) (p : Nat) (f : Plan → Plan) : (s.modPlan p f).pend = s.pend := rfl
@[simp] theorem modPlan_second (s : State) (p : Nat) (f : Plan → Plan) : (s.modPlan p f).second = s.second := rfl
@[simp] theorem modPlan_partDone (s : State) (p : Nat) (f : Plan → Plan) : (s.modPlan p f).partDone = s.partDone := rfl

/-! `State.modGroup`. -/

@[simp] theorem modGroup_clk (s : State) (g : Nat) (f : GroupInst → GroupInst) : (s.modGroup g f).clk = s.clk := rfl
@[simp] theorem modGroup_gtOff (s : State) (g : Nat) (f : GroupInst → GroupInst) : (s.modGroup g f).gtOff = s.gtOff := rfl
@[simp] theorem modGroup_device (s : State) (g : Nat) (f : GroupInst → GroupInst) : (s.modGroup g f).device = s.device := rfl
@[simp] theorem modGroup_nDies (s : State) (g : Nat) (f : GroupInst → GroupInst) : (s.modGroup g f).nDies = s.nDies := rfl
@[simp] theorem modGroup_warps (s : State) (g : Nat) (f : GroupInst → GroupInst) : (s.modGroup g f).warps = s.warps := rfl
@[simp] theorem modGroup_saved (s : State) (g : Nat) (f : GroupInst → GroupInst) : (s.modGroup g f).saved = s.saved := rfl
@[simp] theorem modGroup_cores (s : State) (g : Nat) (f : GroupInst → GroupInst) : (s.modGroup g f).cores = s.cores := rfl
@[simp] theorem modGroup_dies (s : State) (g : Nat) (f : GroupInst → GroupInst) : (s.modGroup g f).dies = s.dies := rfl
@[simp] theorem modGroup_plans (s : State) (g : Nat) (f : GroupInst → GroupInst) : (s.modGroup g f).plans = s.plans := rfl
@[simp] theorem modGroup_waitPlans (s : State) (g : Nat) (f : GroupInst → GroupInst) : (s.modGroup g f).waitPlans = s.waitPlans := rfl
@[simp] theorem modGroup_groups (s : State) (g : Nat) (f : GroupInst → GroupInst) : (s.modGroup g f).groups = mmod s.groups g f := rfl
@[simp] theorem modGroup_hbm (s : State) (g : Nat) (f : GroupInst → GroupInst) : (s.modGroup g f).hbm = s.hbm := rfl
@[simp] theorem modGroup_l2 (s : State) (g : Nat) (f : GroupInst → GroupInst) : (s.modGroup g f).l2 = s.l2 := rfl
@[simp] theorem modGroup_words (s : State) (g : Nat) (f : GroupInst → GroupInst) : (s.modGroup g f).words = s.words := rfl
@[simp] theorem modGroup_vers (s : State) (g : Nat) (f : GroupInst → GroupInst) : (s.modGroup g f).vers = s.vers := rfl
@[simp] theorem modGroup_homeBad (s : State) (g : Nat) (f : GroupInst → GroupInst) : (s.modGroup g f).homeBad = s.homeBad := rfl
@[simp] theorem modGroup_corrected (s : State) (g : Nat) (f : GroupInst → GroupInst) : (s.modGroup g f).corrected = s.corrected := rfl
@[simp] theorem modGroup_msgs (s : State) (g : Nat) (f : GroupInst → GroupInst) : (s.modGroup g f).msgs = s.msgs := rfl
@[simp] theorem modGroup_walks (s : State) (g : Nat) (f : GroupInst → GroupInst) : (s.modGroup g f).walks = s.walks := rfl
@[simp] theorem modGroup_queues (s : State) (g : Nat) (f : GroupInst → GroupInst) : (s.modGroup g f).queues = s.queues := rfl
@[simp] theorem modGroup_slots (s : State) (g : Nat) (f : GroupInst → GroupInst) : (s.modGroup g f).slots = s.slots := rfl
@[simp] theorem modGroup_work (s : State) (g : Nat) (f : GroupInst → GroupInst) : (s.modGroup g f).work = s.work := rfl
@[simp] theorem modGroup_attached (s : State) (g : Nat) (f : GroupInst → GroupInst) : (s.modGroup g f).attached = s.attached := rfl
@[simp] theorem modGroup_dispatchq (s : State) (g : Nat) (f : GroupInst → GroupInst) : (s.modGroup g f).dispatchq = s.dispatchq := rfl
@[simp] theorem modGroup_keys (s : State) (g : Nat) (f : GroupInst → GroupInst) : (s.modGroup g f).keys = s.keys := rfl
@[simp] theorem modGroup_notifyErr (s : State) (g : Nat) (f : GroupInst → GroupInst) : (s.modGroup g f).notifyErr = s.notifyErr := rfl
@[simp] theorem modGroup_pairs (s : State) (g : Nat) (f : GroupInst → GroupInst) : (s.modGroup g f).pairs = s.pairs := rfl
@[simp] theorem modGroup_hartTurn (s : State) (g : Nat) (f : GroupInst → GroupInst) : (s.modGroup g f).hartTurn = s.hartTurn := rfl
@[simp] theorem modGroup_feat (s : State) (g : Nat) (f : GroupInst → GroupInst) : (s.modGroup g f).feat = s.feat := rfl
@[simp] theorem modGroup_bootm (s : State) (g : Nat) (f : GroupInst → GroupInst) : (s.modGroup g f).bootm = s.bootm := rfl
@[simp] theorem modGroup_runm (s : State) (g : Nat) (f : GroupInst → GroupInst) : (s.modGroup g f).runm = s.runm := rfl
@[simp] theorem modGroup_svn (s : State) (g : Nat) (f : GroupInst → GroupInst) : (s.modGroup g f).svn = s.svn := rfl
@[simp] theorem modGroup_pgood (s : State) (g : Nat) (f : GroupInst → GroupInst) : (s.modGroup g f).pgood = s.pgood := rfl
@[simp] theorem modGroup_flash (s : State) (g : Nat) (f : GroupInst → GroupInst) : (s.modGroup g f).flash = s.flash := rfl
@[simp] theorem modGroup_pool (s : State) (g : Nat) (f : GroupInst → GroupInst) : (s.modGroup g f).pool = s.pool := rfl
@[simp] theorem modGroup_ports (s : State) (g : Nat) (f : GroupInst → GroupInst) : (s.modGroup g f).ports = s.ports := rfl
@[simp] theorem modGroup_d2d (s : State) (g : Nat) (f : GroupInst → GroupInst) : (s.modGroup g f).d2d = s.d2d := rfl
@[simp] theorem modGroup_routes (s : State) (g : Nat) (f : GroupInst → GroupInst) : (s.modGroup g f).routes = s.routes := rfl
@[simp] theorem modGroup_silent (s : State) (g : Nat) (f : GroupInst → GroupInst) : (s.modGroup g f).silent = s.silent := rfl
@[simp] theorem modGroup_master (s : State) (g : Nat) (f : GroupInst → GroupInst) : (s.modGroup g f).master = s.master := rfl
@[simp] theorem modGroup_leads (s : State) (g : Nat) (f : GroupInst → GroupInst) : (s.modGroup g f).leads = s.leads := rfl
@[simp] theorem modGroup_masterTime (s : State) (g : Nat) (f : GroupInst → GroupInst) : (s.modGroup g f).masterTime = s.masterTime := rfl
@[simp] theorem modGroup_hqTurn (s : State) (g : Nat) (f : GroupInst → GroupInst) : (s.modGroup g f).hqTurn = s.hqTurn := rfl
@[simp] theorem modGroup_devRings (s : State) (g : Nat) (f : GroupInst → GroupInst) : (s.modGroup g f).devRings = s.devRings := rfl
@[simp] theorem modGroup_lastTime (s : State) (g : Nat) (f : GroupInst → GroupInst) : (s.modGroup g f).lastTime = s.lastTime := rfl
@[simp] theorem modGroup_slew (s : State) (g : Nat) (f : GroupInst → GroupInst) : (s.modGroup g f).slew = s.slew := rfl
@[simp] theorem modGroup_locked (s : State) (g : Nat) (f : GroupInst → GroupInst) : (s.modGroup g f).locked = s.locked := rfl
@[simp] theorem modGroup_ueWins (s : State) (g : Nat) (f : GroupInst → GroupInst) : (s.modGroup g f).ueWins = s.ueWins := rfl
@[simp] theorem modGroup_tenantLog (s : State) (g : Nat) (f : GroupInst → GroupInst) : (s.modGroup g f).tenantLog = s.tenantLog := rfl
@[simp] theorem modGroup_images (s : State) (g : Nat) (f : GroupInst → GroupInst) : (s.modGroup g f).images = s.images := rfl
@[simp] theorem modGroup_dumpTo (s : State) (g : Nat) (f : GroupInst → GroupInst) : (s.modGroup g f).dumpTo = s.dumpTo := rfl
@[simp] theorem modGroup_fallen (s : State) (g : Nat) (f : GroupInst → GroupInst) : (s.modGroup g f).fallen = s.fallen := rfl
@[simp] theorem modGroup_foreign (s : State) (g : Nat) (f : GroupInst → GroupInst) : (s.modGroup g f).foreign = s.foreign := rfl
@[simp] theorem modGroup_newSpaces (s : State) (g : Nat) (f : GroupInst → GroupInst) : (s.modGroup g f).newSpaces = s.newSpaces := rfl
@[simp] theorem modGroup_stopped (s : State) (g : Nat) (f : GroupInst → GroupInst) : (s.modGroup g f).stopped = s.stopped := rfl
@[simp] theorem modGroup_reports (s : State) (g : Nat) (f : GroupInst → GroupInst) : (s.modGroup g f).reports = s.reports := rfl
@[simp] theorem modGroup_totals (s : State) (g : Nat) (f : GroupInst → GroupInst) : (s.modGroup g f).totals = s.totals := rfl
@[simp] theorem modGroup_nextId (s : State) (g : Nat) (f : GroupInst → GroupInst) : (s.modGroup g f).nextId = s.nextId := rfl
@[simp] theorem modGroup_free (s : State) (g : Nat) (f : GroupInst → GroupInst) : (s.modGroup g f).free = s.free := rfl
@[simp] theorem modGroup_beat (s : State) (g : Nat) (f : GroupInst → GroupInst) : (s.modGroup g f).beat = s.beat := rfl
@[simp] theorem modGroup_lat (s : State) (g : Nat) (f : GroupInst → GroupInst) : (s.modGroup g f).lat = s.lat := rfl
@[simp] theorem modGroup_agenda (s : State) (g : Nat) (f : GroupInst → GroupInst) : (s.modGroup g f).agenda = s.agenda := rfl
@[simp] theorem modGroup_issue (s : State) (g : Nat) (f : GroupInst → GroupInst) : (s.modGroup g f).issue = s.issue := rfl
@[simp] theorem modGroup_pend (s : State) (g : Nat) (f : GroupInst → GroupInst) : (s.modGroup g f).pend = s.pend := rfl
@[simp] theorem modGroup_second (s : State) (g : Nat) (f : GroupInst → GroupInst) : (s.modGroup g f).second = s.second := rfl
@[simp] theorem modGroup_partDone (s : State) (g : Nat) (f : GroupInst → GroupInst) : (s.modGroup g f).partDone = s.partDone := rfl

/-! `State.modCtx`. -/

@[simp] theorem modCtx_clk (s : State) (c x : Nat) (f : RmeCtx → RmeCtx) : (s.modCtx c x f).clk = s.clk := rfl
@[simp] theorem modCtx_gtOff (s : State) (c x : Nat) (f : RmeCtx → RmeCtx) : (s.modCtx c x f).gtOff = s.gtOff := rfl
@[simp] theorem modCtx_device (s : State) (c x : Nat) (f : RmeCtx → RmeCtx) : (s.modCtx c x f).device = s.device := rfl
@[simp] theorem modCtx_nDies (s : State) (c x : Nat) (f : RmeCtx → RmeCtx) : (s.modCtx c x f).nDies = s.nDies := rfl
@[simp] theorem modCtx_warps (s : State) (c x : Nat) (f : RmeCtx → RmeCtx) : (s.modCtx c x f).warps = s.warps := rfl
@[simp] theorem modCtx_saved (s : State) (c x : Nat) (f : RmeCtx → RmeCtx) : (s.modCtx c x f).saved = s.saved := rfl
@[simp] theorem modCtx_cores (s : State) (c x : Nat) (f : RmeCtx → RmeCtx) : (s.modCtx c x f).cores = mset s.cores c { s.core c with rme := mset (s.core c).rme x (f (s.ctx c x)) } := rfl
@[simp] theorem modCtx_dies (s : State) (c x : Nat) (f : RmeCtx → RmeCtx) : (s.modCtx c x f).dies = s.dies := rfl
@[simp] theorem modCtx_plans (s : State) (c x : Nat) (f : RmeCtx → RmeCtx) : (s.modCtx c x f).plans = s.plans := rfl
@[simp] theorem modCtx_waitPlans (s : State) (c x : Nat) (f : RmeCtx → RmeCtx) : (s.modCtx c x f).waitPlans = s.waitPlans := rfl
@[simp] theorem modCtx_groups (s : State) (c x : Nat) (f : RmeCtx → RmeCtx) : (s.modCtx c x f).groups = s.groups := rfl
@[simp] theorem modCtx_hbm (s : State) (c x : Nat) (f : RmeCtx → RmeCtx) : (s.modCtx c x f).hbm = s.hbm := rfl
@[simp] theorem modCtx_l2 (s : State) (c x : Nat) (f : RmeCtx → RmeCtx) : (s.modCtx c x f).l2 = s.l2 := rfl
@[simp] theorem modCtx_words (s : State) (c x : Nat) (f : RmeCtx → RmeCtx) : (s.modCtx c x f).words = s.words := rfl
@[simp] theorem modCtx_vers (s : State) (c x : Nat) (f : RmeCtx → RmeCtx) : (s.modCtx c x f).vers = s.vers := rfl
@[simp] theorem modCtx_homeBad (s : State) (c x : Nat) (f : RmeCtx → RmeCtx) : (s.modCtx c x f).homeBad = s.homeBad := rfl
@[simp] theorem modCtx_corrected (s : State) (c x : Nat) (f : RmeCtx → RmeCtx) : (s.modCtx c x f).corrected = s.corrected := rfl
@[simp] theorem modCtx_msgs (s : State) (c x : Nat) (f : RmeCtx → RmeCtx) : (s.modCtx c x f).msgs = s.msgs := rfl
@[simp] theorem modCtx_walks (s : State) (c x : Nat) (f : RmeCtx → RmeCtx) : (s.modCtx c x f).walks = s.walks := rfl
@[simp] theorem modCtx_queues (s : State) (c x : Nat) (f : RmeCtx → RmeCtx) : (s.modCtx c x f).queues = s.queues := rfl
@[simp] theorem modCtx_slots (s : State) (c x : Nat) (f : RmeCtx → RmeCtx) : (s.modCtx c x f).slots = s.slots := rfl
@[simp] theorem modCtx_work (s : State) (c x : Nat) (f : RmeCtx → RmeCtx) : (s.modCtx c x f).work = s.work := rfl
@[simp] theorem modCtx_attached (s : State) (c x : Nat) (f : RmeCtx → RmeCtx) : (s.modCtx c x f).attached = s.attached := rfl
@[simp] theorem modCtx_dispatchq (s : State) (c x : Nat) (f : RmeCtx → RmeCtx) : (s.modCtx c x f).dispatchq = s.dispatchq := rfl
@[simp] theorem modCtx_keys (s : State) (c x : Nat) (f : RmeCtx → RmeCtx) : (s.modCtx c x f).keys = s.keys := rfl
@[simp] theorem modCtx_notifyErr (s : State) (c x : Nat) (f : RmeCtx → RmeCtx) : (s.modCtx c x f).notifyErr = s.notifyErr := rfl
@[simp] theorem modCtx_pairs (s : State) (c x : Nat) (f : RmeCtx → RmeCtx) : (s.modCtx c x f).pairs = s.pairs := rfl
@[simp] theorem modCtx_hartTurn (s : State) (c x : Nat) (f : RmeCtx → RmeCtx) : (s.modCtx c x f).hartTurn = s.hartTurn := rfl
@[simp] theorem modCtx_feat (s : State) (c x : Nat) (f : RmeCtx → RmeCtx) : (s.modCtx c x f).feat = s.feat := rfl
@[simp] theorem modCtx_bootm (s : State) (c x : Nat) (f : RmeCtx → RmeCtx) : (s.modCtx c x f).bootm = s.bootm := rfl
@[simp] theorem modCtx_runm (s : State) (c x : Nat) (f : RmeCtx → RmeCtx) : (s.modCtx c x f).runm = s.runm := rfl
@[simp] theorem modCtx_svn (s : State) (c x : Nat) (f : RmeCtx → RmeCtx) : (s.modCtx c x f).svn = s.svn := rfl
@[simp] theorem modCtx_pgood (s : State) (c x : Nat) (f : RmeCtx → RmeCtx) : (s.modCtx c x f).pgood = s.pgood := rfl
@[simp] theorem modCtx_flash (s : State) (c x : Nat) (f : RmeCtx → RmeCtx) : (s.modCtx c x f).flash = s.flash := rfl
@[simp] theorem modCtx_pool (s : State) (c x : Nat) (f : RmeCtx → RmeCtx) : (s.modCtx c x f).pool = s.pool := rfl
@[simp] theorem modCtx_ports (s : State) (c x : Nat) (f : RmeCtx → RmeCtx) : (s.modCtx c x f).ports = s.ports := rfl
@[simp] theorem modCtx_d2d (s : State) (c x : Nat) (f : RmeCtx → RmeCtx) : (s.modCtx c x f).d2d = s.d2d := rfl
@[simp] theorem modCtx_routes (s : State) (c x : Nat) (f : RmeCtx → RmeCtx) : (s.modCtx c x f).routes = s.routes := rfl
@[simp] theorem modCtx_silent (s : State) (c x : Nat) (f : RmeCtx → RmeCtx) : (s.modCtx c x f).silent = s.silent := rfl
@[simp] theorem modCtx_master (s : State) (c x : Nat) (f : RmeCtx → RmeCtx) : (s.modCtx c x f).master = s.master := rfl
@[simp] theorem modCtx_leads (s : State) (c x : Nat) (f : RmeCtx → RmeCtx) : (s.modCtx c x f).leads = s.leads := rfl
@[simp] theorem modCtx_masterTime (s : State) (c x : Nat) (f : RmeCtx → RmeCtx) : (s.modCtx c x f).masterTime = s.masterTime := rfl
@[simp] theorem modCtx_hqTurn (s : State) (c x : Nat) (f : RmeCtx → RmeCtx) : (s.modCtx c x f).hqTurn = s.hqTurn := rfl
@[simp] theorem modCtx_devRings (s : State) (c x : Nat) (f : RmeCtx → RmeCtx) : (s.modCtx c x f).devRings = s.devRings := rfl
@[simp] theorem modCtx_lastTime (s : State) (c x : Nat) (f : RmeCtx → RmeCtx) : (s.modCtx c x f).lastTime = s.lastTime := rfl
@[simp] theorem modCtx_slew (s : State) (c x : Nat) (f : RmeCtx → RmeCtx) : (s.modCtx c x f).slew = s.slew := rfl
@[simp] theorem modCtx_locked (s : State) (c x : Nat) (f : RmeCtx → RmeCtx) : (s.modCtx c x f).locked = s.locked := rfl
@[simp] theorem modCtx_ueWins (s : State) (c x : Nat) (f : RmeCtx → RmeCtx) : (s.modCtx c x f).ueWins = s.ueWins := rfl
@[simp] theorem modCtx_tenantLog (s : State) (c x : Nat) (f : RmeCtx → RmeCtx) : (s.modCtx c x f).tenantLog = s.tenantLog := rfl
@[simp] theorem modCtx_images (s : State) (c x : Nat) (f : RmeCtx → RmeCtx) : (s.modCtx c x f).images = s.images := rfl
@[simp] theorem modCtx_dumpTo (s : State) (c x : Nat) (f : RmeCtx → RmeCtx) : (s.modCtx c x f).dumpTo = s.dumpTo := rfl
@[simp] theorem modCtx_fallen (s : State) (c x : Nat) (f : RmeCtx → RmeCtx) : (s.modCtx c x f).fallen = s.fallen := rfl
@[simp] theorem modCtx_foreign (s : State) (c x : Nat) (f : RmeCtx → RmeCtx) : (s.modCtx c x f).foreign = s.foreign := rfl
@[simp] theorem modCtx_newSpaces (s : State) (c x : Nat) (f : RmeCtx → RmeCtx) : (s.modCtx c x f).newSpaces = s.newSpaces := rfl
@[simp] theorem modCtx_stopped (s : State) (c x : Nat) (f : RmeCtx → RmeCtx) : (s.modCtx c x f).stopped = s.stopped := rfl
@[simp] theorem modCtx_reports (s : State) (c x : Nat) (f : RmeCtx → RmeCtx) : (s.modCtx c x f).reports = s.reports := rfl
@[simp] theorem modCtx_totals (s : State) (c x : Nat) (f : RmeCtx → RmeCtx) : (s.modCtx c x f).totals = s.totals := rfl
@[simp] theorem modCtx_nextId (s : State) (c x : Nat) (f : RmeCtx → RmeCtx) : (s.modCtx c x f).nextId = s.nextId := rfl
@[simp] theorem modCtx_free (s : State) (c x : Nat) (f : RmeCtx → RmeCtx) : (s.modCtx c x f).free = s.free := rfl
@[simp] theorem modCtx_beat (s : State) (c x : Nat) (f : RmeCtx → RmeCtx) : (s.modCtx c x f).beat = s.beat := rfl
@[simp] theorem modCtx_lat (s : State) (c x : Nat) (f : RmeCtx → RmeCtx) : (s.modCtx c x f).lat = s.lat := rfl
@[simp] theorem modCtx_agenda (s : State) (c x : Nat) (f : RmeCtx → RmeCtx) : (s.modCtx c x f).agenda = s.agenda := rfl
@[simp] theorem modCtx_issue (s : State) (c x : Nat) (f : RmeCtx → RmeCtx) : (s.modCtx c x f).issue = s.issue := rfl
@[simp] theorem modCtx_pend (s : State) (c x : Nat) (f : RmeCtx → RmeCtx) : (s.modCtx c x f).pend = s.pend := rfl
@[simp] theorem modCtx_second (s : State) (c x : Nat) (f : RmeCtx → RmeCtx) : (s.modCtx c x f).second = s.second := rfl
@[simp] theorem modCtx_partDone (s : State) (c x : Nat) (f : RmeCtx → RmeCtx) : (s.modCtx c x f).partDone = s.partDone := rfl

/-! `State.modPair`. -/

@[simp] theorem modPair_clk (s : State) (h : Nat) (f : Pair → Pair) : (s.modPair h f).clk = s.clk := rfl
@[simp] theorem modPair_gtOff (s : State) (h : Nat) (f : Pair → Pair) : (s.modPair h f).gtOff = s.gtOff := rfl
@[simp] theorem modPair_device (s : State) (h : Nat) (f : Pair → Pair) : (s.modPair h f).device = s.device := rfl
@[simp] theorem modPair_nDies (s : State) (h : Nat) (f : Pair → Pair) : (s.modPair h f).nDies = s.nDies := rfl
@[simp] theorem modPair_warps (s : State) (h : Nat) (f : Pair → Pair) : (s.modPair h f).warps = s.warps := rfl
@[simp] theorem modPair_saved (s : State) (h : Nat) (f : Pair → Pair) : (s.modPair h f).saved = s.saved := rfl
@[simp] theorem modPair_cores (s : State) (h : Nat) (f : Pair → Pair) : (s.modPair h f).cores = s.cores := rfl
@[simp] theorem modPair_dies (s : State) (h : Nat) (f : Pair → Pair) : (s.modPair h f).dies = s.dies := rfl
@[simp] theorem modPair_plans (s : State) (h : Nat) (f : Pair → Pair) : (s.modPair h f).plans = s.plans := rfl
@[simp] theorem modPair_waitPlans (s : State) (h : Nat) (f : Pair → Pair) : (s.modPair h f).waitPlans = s.waitPlans := rfl
@[simp] theorem modPair_groups (s : State) (h : Nat) (f : Pair → Pair) : (s.modPair h f).groups = s.groups := rfl
@[simp] theorem modPair_hbm (s : State) (h : Nat) (f : Pair → Pair) : (s.modPair h f).hbm = s.hbm := rfl
@[simp] theorem modPair_l2 (s : State) (h : Nat) (f : Pair → Pair) : (s.modPair h f).l2 = s.l2 := rfl
@[simp] theorem modPair_words (s : State) (h : Nat) (f : Pair → Pair) : (s.modPair h f).words = s.words := rfl
@[simp] theorem modPair_vers (s : State) (h : Nat) (f : Pair → Pair) : (s.modPair h f).vers = s.vers := rfl
@[simp] theorem modPair_homeBad (s : State) (h : Nat) (f : Pair → Pair) : (s.modPair h f).homeBad = s.homeBad := rfl
@[simp] theorem modPair_corrected (s : State) (h : Nat) (f : Pair → Pair) : (s.modPair h f).corrected = s.corrected := rfl
@[simp] theorem modPair_msgs (s : State) (h : Nat) (f : Pair → Pair) : (s.modPair h f).msgs = s.msgs := rfl
@[simp] theorem modPair_walks (s : State) (h : Nat) (f : Pair → Pair) : (s.modPair h f).walks = s.walks := rfl
@[simp] theorem modPair_queues (s : State) (h : Nat) (f : Pair → Pair) : (s.modPair h f).queues = s.queues := rfl
@[simp] theorem modPair_slots (s : State) (h : Nat) (f : Pair → Pair) : (s.modPair h f).slots = s.slots := rfl
@[simp] theorem modPair_work (s : State) (h : Nat) (f : Pair → Pair) : (s.modPair h f).work = s.work := rfl
@[simp] theorem modPair_attached (s : State) (h : Nat) (f : Pair → Pair) : (s.modPair h f).attached = s.attached := rfl
@[simp] theorem modPair_dispatchq (s : State) (h : Nat) (f : Pair → Pair) : (s.modPair h f).dispatchq = s.dispatchq := rfl
@[simp] theorem modPair_keys (s : State) (h : Nat) (f : Pair → Pair) : (s.modPair h f).keys = s.keys := rfl
@[simp] theorem modPair_notifyErr (s : State) (h : Nat) (f : Pair → Pair) : (s.modPair h f).notifyErr = s.notifyErr := rfl
@[simp] theorem modPair_hartTurn (s : State) (h : Nat) (f : Pair → Pair) : (s.modPair h f).hartTurn = s.hartTurn := rfl
@[simp] theorem modPair_feat (s : State) (h : Nat) (f : Pair → Pair) : (s.modPair h f).feat = s.feat := rfl
@[simp] theorem modPair_bootm (s : State) (h : Nat) (f : Pair → Pair) : (s.modPair h f).bootm = s.bootm := rfl
@[simp] theorem modPair_runm (s : State) (h : Nat) (f : Pair → Pair) : (s.modPair h f).runm = s.runm := rfl
@[simp] theorem modPair_svn (s : State) (h : Nat) (f : Pair → Pair) : (s.modPair h f).svn = s.svn := rfl
@[simp] theorem modPair_pgood (s : State) (h : Nat) (f : Pair → Pair) : (s.modPair h f).pgood = s.pgood := rfl
@[simp] theorem modPair_flash (s : State) (h : Nat) (f : Pair → Pair) : (s.modPair h f).flash = s.flash := rfl
@[simp] theorem modPair_pool (s : State) (h : Nat) (f : Pair → Pair) : (s.modPair h f).pool = s.pool := rfl
@[simp] theorem modPair_ports (s : State) (h : Nat) (f : Pair → Pair) : (s.modPair h f).ports = s.ports := rfl
@[simp] theorem modPair_d2d (s : State) (h : Nat) (f : Pair → Pair) : (s.modPair h f).d2d = s.d2d := rfl
@[simp] theorem modPair_routes (s : State) (h : Nat) (f : Pair → Pair) : (s.modPair h f).routes = s.routes := rfl
@[simp] theorem modPair_silent (s : State) (h : Nat) (f : Pair → Pair) : (s.modPair h f).silent = s.silent := rfl
@[simp] theorem modPair_master (s : State) (h : Nat) (f : Pair → Pair) : (s.modPair h f).master = s.master := rfl
@[simp] theorem modPair_leads (s : State) (h : Nat) (f : Pair → Pair) : (s.modPair h f).leads = s.leads := rfl
@[simp] theorem modPair_masterTime (s : State) (h : Nat) (f : Pair → Pair) : (s.modPair h f).masterTime = s.masterTime := rfl
@[simp] theorem modPair_hqTurn (s : State) (h : Nat) (f : Pair → Pair) : (s.modPair h f).hqTurn = s.hqTurn := rfl
@[simp] theorem modPair_devRings (s : State) (h : Nat) (f : Pair → Pair) : (s.modPair h f).devRings = s.devRings := rfl
@[simp] theorem modPair_lastTime (s : State) (h : Nat) (f : Pair → Pair) : (s.modPair h f).lastTime = s.lastTime := rfl
@[simp] theorem modPair_slew (s : State) (h : Nat) (f : Pair → Pair) : (s.modPair h f).slew = s.slew := rfl
@[simp] theorem modPair_locked (s : State) (h : Nat) (f : Pair → Pair) : (s.modPair h f).locked = s.locked := rfl
@[simp] theorem modPair_ueWins (s : State) (h : Nat) (f : Pair → Pair) : (s.modPair h f).ueWins = s.ueWins := rfl
@[simp] theorem modPair_tenantLog (s : State) (h : Nat) (f : Pair → Pair) : (s.modPair h f).tenantLog = s.tenantLog := rfl
@[simp] theorem modPair_images (s : State) (h : Nat) (f : Pair → Pair) : (s.modPair h f).images = s.images := rfl
@[simp] theorem modPair_dumpTo (s : State) (h : Nat) (f : Pair → Pair) : (s.modPair h f).dumpTo = s.dumpTo := rfl
@[simp] theorem modPair_fallen (s : State) (h : Nat) (f : Pair → Pair) : (s.modPair h f).fallen = s.fallen := rfl
@[simp] theorem modPair_foreign (s : State) (h : Nat) (f : Pair → Pair) : (s.modPair h f).foreign = s.foreign := rfl
@[simp] theorem modPair_newSpaces (s : State) (h : Nat) (f : Pair → Pair) : (s.modPair h f).newSpaces = s.newSpaces := rfl
@[simp] theorem modPair_stopped (s : State) (h : Nat) (f : Pair → Pair) : (s.modPair h f).stopped = s.stopped := rfl
@[simp] theorem modPair_reports (s : State) (h : Nat) (f : Pair → Pair) : (s.modPair h f).reports = s.reports := rfl
@[simp] theorem modPair_totals (s : State) (h : Nat) (f : Pair → Pair) : (s.modPair h f).totals = s.totals := rfl
@[simp] theorem modPair_nextId (s : State) (h : Nat) (f : Pair → Pair) : (s.modPair h f).nextId = s.nextId := rfl
@[simp] theorem modPair_free (s : State) (h : Nat) (f : Pair → Pair) : (s.modPair h f).free = s.free := rfl
@[simp] theorem modPair_beat (s : State) (h : Nat) (f : Pair → Pair) : (s.modPair h f).beat = s.beat := rfl
@[simp] theorem modPair_lat (s : State) (h : Nat) (f : Pair → Pair) : (s.modPair h f).lat = s.lat := rfl
@[simp] theorem modPair_agenda (s : State) (h : Nat) (f : Pair → Pair) : (s.modPair h f).agenda = s.agenda := rfl
@[simp] theorem modPair_issue (s : State) (h : Nat) (f : Pair → Pair) : (s.modPair h f).issue = s.issue := rfl
@[simp] theorem modPair_pend (s : State) (h : Nat) (f : Pair → Pair) : (s.modPair h f).pend = s.pend := rfl
@[simp] theorem modPair_second (s : State) (h : Nat) (f : Pair → Pair) : (s.modPair h f).second = s.second := rfl
@[simp] theorem modPair_partDone (s : State) (h : Nat) (f : Pair → Pair) : (s.modPair h f).partDone = s.partDone := rfl

/-! `State.modStage`. -/

@[simp] theorem modStage_clk (s : State) (p i : Nat) (f : Stage → Stage) : (s.modStage p i f).clk = s.clk := rfl
@[simp] theorem modStage_gtOff (s : State) (p i : Nat) (f : Stage → Stage) : (s.modStage p i f).gtOff = s.gtOff := rfl
@[simp] theorem modStage_device (s : State) (p i : Nat) (f : Stage → Stage) : (s.modStage p i f).device = s.device := rfl
@[simp] theorem modStage_nDies (s : State) (p i : Nat) (f : Stage → Stage) : (s.modStage p i f).nDies = s.nDies := rfl
@[simp] theorem modStage_warps (s : State) (p i : Nat) (f : Stage → Stage) : (s.modStage p i f).warps = s.warps := rfl
@[simp] theorem modStage_saved (s : State) (p i : Nat) (f : Stage → Stage) : (s.modStage p i f).saved = s.saved := rfl
@[simp] theorem modStage_cores (s : State) (p i : Nat) (f : Stage → Stage) : (s.modStage p i f).cores = s.cores := rfl
@[simp] theorem modStage_dies (s : State) (p i : Nat) (f : Stage → Stage) : (s.modStage p i f).dies = s.dies := rfl
@[simp] theorem modStage_waitPlans (s : State) (p i : Nat) (f : Stage → Stage) : (s.modStage p i f).waitPlans = s.waitPlans := rfl
@[simp] theorem modStage_groups (s : State) (p i : Nat) (f : Stage → Stage) : (s.modStage p i f).groups = s.groups := rfl
@[simp] theorem modStage_hbm (s : State) (p i : Nat) (f : Stage → Stage) : (s.modStage p i f).hbm = s.hbm := rfl
@[simp] theorem modStage_l2 (s : State) (p i : Nat) (f : Stage → Stage) : (s.modStage p i f).l2 = s.l2 := rfl
@[simp] theorem modStage_words (s : State) (p i : Nat) (f : Stage → Stage) : (s.modStage p i f).words = s.words := rfl
@[simp] theorem modStage_vers (s : State) (p i : Nat) (f : Stage → Stage) : (s.modStage p i f).vers = s.vers := rfl
@[simp] theorem modStage_homeBad (s : State) (p i : Nat) (f : Stage → Stage) : (s.modStage p i f).homeBad = s.homeBad := rfl
@[simp] theorem modStage_corrected (s : State) (p i : Nat) (f : Stage → Stage) : (s.modStage p i f).corrected = s.corrected := rfl
@[simp] theorem modStage_msgs (s : State) (p i : Nat) (f : Stage → Stage) : (s.modStage p i f).msgs = s.msgs := rfl
@[simp] theorem modStage_walks (s : State) (p i : Nat) (f : Stage → Stage) : (s.modStage p i f).walks = s.walks := rfl
@[simp] theorem modStage_queues (s : State) (p i : Nat) (f : Stage → Stage) : (s.modStage p i f).queues = s.queues := rfl
@[simp] theorem modStage_slots (s : State) (p i : Nat) (f : Stage → Stage) : (s.modStage p i f).slots = s.slots := rfl
@[simp] theorem modStage_work (s : State) (p i : Nat) (f : Stage → Stage) : (s.modStage p i f).work = s.work := rfl
@[simp] theorem modStage_attached (s : State) (p i : Nat) (f : Stage → Stage) : (s.modStage p i f).attached = s.attached := rfl
@[simp] theorem modStage_dispatchq (s : State) (p i : Nat) (f : Stage → Stage) : (s.modStage p i f).dispatchq = s.dispatchq := rfl
@[simp] theorem modStage_keys (s : State) (p i : Nat) (f : Stage → Stage) : (s.modStage p i f).keys = s.keys := rfl
@[simp] theorem modStage_notifyErr (s : State) (p i : Nat) (f : Stage → Stage) : (s.modStage p i f).notifyErr = s.notifyErr := rfl
@[simp] theorem modStage_pairs (s : State) (p i : Nat) (f : Stage → Stage) : (s.modStage p i f).pairs = s.pairs := rfl
@[simp] theorem modStage_hartTurn (s : State) (p i : Nat) (f : Stage → Stage) : (s.modStage p i f).hartTurn = s.hartTurn := rfl
@[simp] theorem modStage_feat (s : State) (p i : Nat) (f : Stage → Stage) : (s.modStage p i f).feat = s.feat := rfl
@[simp] theorem modStage_bootm (s : State) (p i : Nat) (f : Stage → Stage) : (s.modStage p i f).bootm = s.bootm := rfl
@[simp] theorem modStage_runm (s : State) (p i : Nat) (f : Stage → Stage) : (s.modStage p i f).runm = s.runm := rfl
@[simp] theorem modStage_svn (s : State) (p i : Nat) (f : Stage → Stage) : (s.modStage p i f).svn = s.svn := rfl
@[simp] theorem modStage_pgood (s : State) (p i : Nat) (f : Stage → Stage) : (s.modStage p i f).pgood = s.pgood := rfl
@[simp] theorem modStage_flash (s : State) (p i : Nat) (f : Stage → Stage) : (s.modStage p i f).flash = s.flash := rfl
@[simp] theorem modStage_pool (s : State) (p i : Nat) (f : Stage → Stage) : (s.modStage p i f).pool = s.pool := rfl
@[simp] theorem modStage_ports (s : State) (p i : Nat) (f : Stage → Stage) : (s.modStage p i f).ports = s.ports := rfl
@[simp] theorem modStage_d2d (s : State) (p i : Nat) (f : Stage → Stage) : (s.modStage p i f).d2d = s.d2d := rfl
@[simp] theorem modStage_routes (s : State) (p i : Nat) (f : Stage → Stage) : (s.modStage p i f).routes = s.routes := rfl
@[simp] theorem modStage_silent (s : State) (p i : Nat) (f : Stage → Stage) : (s.modStage p i f).silent = s.silent := rfl
@[simp] theorem modStage_master (s : State) (p i : Nat) (f : Stage → Stage) : (s.modStage p i f).master = s.master := rfl
@[simp] theorem modStage_leads (s : State) (p i : Nat) (f : Stage → Stage) : (s.modStage p i f).leads = s.leads := rfl
@[simp] theorem modStage_masterTime (s : State) (p i : Nat) (f : Stage → Stage) : (s.modStage p i f).masterTime = s.masterTime := rfl
@[simp] theorem modStage_hqTurn (s : State) (p i : Nat) (f : Stage → Stage) : (s.modStage p i f).hqTurn = s.hqTurn := rfl
@[simp] theorem modStage_devRings (s : State) (p i : Nat) (f : Stage → Stage) : (s.modStage p i f).devRings = s.devRings := rfl
@[simp] theorem modStage_lastTime (s : State) (p i : Nat) (f : Stage → Stage) : (s.modStage p i f).lastTime = s.lastTime := rfl
@[simp] theorem modStage_slew (s : State) (p i : Nat) (f : Stage → Stage) : (s.modStage p i f).slew = s.slew := rfl
@[simp] theorem modStage_locked (s : State) (p i : Nat) (f : Stage → Stage) : (s.modStage p i f).locked = s.locked := rfl
@[simp] theorem modStage_ueWins (s : State) (p i : Nat) (f : Stage → Stage) : (s.modStage p i f).ueWins = s.ueWins := rfl
@[simp] theorem modStage_tenantLog (s : State) (p i : Nat) (f : Stage → Stage) : (s.modStage p i f).tenantLog = s.tenantLog := rfl
@[simp] theorem modStage_images (s : State) (p i : Nat) (f : Stage → Stage) : (s.modStage p i f).images = s.images := rfl
@[simp] theorem modStage_dumpTo (s : State) (p i : Nat) (f : Stage → Stage) : (s.modStage p i f).dumpTo = s.dumpTo := rfl
@[simp] theorem modStage_fallen (s : State) (p i : Nat) (f : Stage → Stage) : (s.modStage p i f).fallen = s.fallen := rfl
@[simp] theorem modStage_foreign (s : State) (p i : Nat) (f : Stage → Stage) : (s.modStage p i f).foreign = s.foreign := rfl
@[simp] theorem modStage_newSpaces (s : State) (p i : Nat) (f : Stage → Stage) : (s.modStage p i f).newSpaces = s.newSpaces := rfl
@[simp] theorem modStage_stopped (s : State) (p i : Nat) (f : Stage → Stage) : (s.modStage p i f).stopped = s.stopped := rfl
@[simp] theorem modStage_reports (s : State) (p i : Nat) (f : Stage → Stage) : (s.modStage p i f).reports = s.reports := rfl
@[simp] theorem modStage_totals (s : State) (p i : Nat) (f : Stage → Stage) : (s.modStage p i f).totals = s.totals := rfl
@[simp] theorem modStage_nextId (s : State) (p i : Nat) (f : Stage → Stage) : (s.modStage p i f).nextId = s.nextId := rfl
@[simp] theorem modStage_free (s : State) (p i : Nat) (f : Stage → Stage) : (s.modStage p i f).free = s.free := rfl
@[simp] theorem modStage_beat (s : State) (p i : Nat) (f : Stage → Stage) : (s.modStage p i f).beat = s.beat := rfl
@[simp] theorem modStage_lat (s : State) (p i : Nat) (f : Stage → Stage) : (s.modStage p i f).lat = s.lat := rfl
@[simp] theorem modStage_agenda (s : State) (p i : Nat) (f : Stage → Stage) : (s.modStage p i f).agenda = s.agenda := rfl
@[simp] theorem modStage_issue (s : State) (p i : Nat) (f : Stage → Stage) : (s.modStage p i f).issue = s.issue := rfl
@[simp] theorem modStage_pend (s : State) (p i : Nat) (f : Stage → Stage) : (s.modStage p i f).pend = s.pend := rfl
@[simp] theorem modStage_second (s : State) (p i : Nat) (f : Stage → Stage) : (s.modStage p i f).second = s.second := rfl
@[simp] theorem modStage_partDone (s : State) (p i : Nat) (f : Stage → Stage) : (s.modStage p i f).partDone = s.partDone := rfl

/-! `State.modPipe`. -/

@[simp] theorem modPipe_clk (s : State) (p i : Nat) (f : PipeSt → PipeSt) : (s.modPipe p i f).clk = s.clk := rfl
@[simp] theorem modPipe_gtOff (s : State) (p i : Nat) (f : PipeSt → PipeSt) : (s.modPipe p i f).gtOff = s.gtOff := rfl
@[simp] theorem modPipe_device (s : State) (p i : Nat) (f : PipeSt → PipeSt) : (s.modPipe p i f).device = s.device := rfl
@[simp] theorem modPipe_nDies (s : State) (p i : Nat) (f : PipeSt → PipeSt) : (s.modPipe p i f).nDies = s.nDies := rfl
@[simp] theorem modPipe_warps (s : State) (p i : Nat) (f : PipeSt → PipeSt) : (s.modPipe p i f).warps = s.warps := rfl
@[simp] theorem modPipe_saved (s : State) (p i : Nat) (f : PipeSt → PipeSt) : (s.modPipe p i f).saved = s.saved := rfl
@[simp] theorem modPipe_cores (s : State) (p i : Nat) (f : PipeSt → PipeSt) : (s.modPipe p i f).cores = s.cores := rfl
@[simp] theorem modPipe_dies (s : State) (p i : Nat) (f : PipeSt → PipeSt) : (s.modPipe p i f).dies = s.dies := rfl
@[simp] theorem modPipe_waitPlans (s : State) (p i : Nat) (f : PipeSt → PipeSt) : (s.modPipe p i f).waitPlans = s.waitPlans := rfl
@[simp] theorem modPipe_groups (s : State) (p i : Nat) (f : PipeSt → PipeSt) : (s.modPipe p i f).groups = s.groups := rfl
@[simp] theorem modPipe_hbm (s : State) (p i : Nat) (f : PipeSt → PipeSt) : (s.modPipe p i f).hbm = s.hbm := rfl
@[simp] theorem modPipe_l2 (s : State) (p i : Nat) (f : PipeSt → PipeSt) : (s.modPipe p i f).l2 = s.l2 := rfl
@[simp] theorem modPipe_words (s : State) (p i : Nat) (f : PipeSt → PipeSt) : (s.modPipe p i f).words = s.words := rfl
@[simp] theorem modPipe_vers (s : State) (p i : Nat) (f : PipeSt → PipeSt) : (s.modPipe p i f).vers = s.vers := rfl
@[simp] theorem modPipe_homeBad (s : State) (p i : Nat) (f : PipeSt → PipeSt) : (s.modPipe p i f).homeBad = s.homeBad := rfl
@[simp] theorem modPipe_corrected (s : State) (p i : Nat) (f : PipeSt → PipeSt) : (s.modPipe p i f).corrected = s.corrected := rfl
@[simp] theorem modPipe_msgs (s : State) (p i : Nat) (f : PipeSt → PipeSt) : (s.modPipe p i f).msgs = s.msgs := rfl
@[simp] theorem modPipe_walks (s : State) (p i : Nat) (f : PipeSt → PipeSt) : (s.modPipe p i f).walks = s.walks := rfl
@[simp] theorem modPipe_queues (s : State) (p i : Nat) (f : PipeSt → PipeSt) : (s.modPipe p i f).queues = s.queues := rfl
@[simp] theorem modPipe_slots (s : State) (p i : Nat) (f : PipeSt → PipeSt) : (s.modPipe p i f).slots = s.slots := rfl
@[simp] theorem modPipe_work (s : State) (p i : Nat) (f : PipeSt → PipeSt) : (s.modPipe p i f).work = s.work := rfl
@[simp] theorem modPipe_attached (s : State) (p i : Nat) (f : PipeSt → PipeSt) : (s.modPipe p i f).attached = s.attached := rfl
@[simp] theorem modPipe_dispatchq (s : State) (p i : Nat) (f : PipeSt → PipeSt) : (s.modPipe p i f).dispatchq = s.dispatchq := rfl
@[simp] theorem modPipe_keys (s : State) (p i : Nat) (f : PipeSt → PipeSt) : (s.modPipe p i f).keys = s.keys := rfl
@[simp] theorem modPipe_notifyErr (s : State) (p i : Nat) (f : PipeSt → PipeSt) : (s.modPipe p i f).notifyErr = s.notifyErr := rfl
@[simp] theorem modPipe_pairs (s : State) (p i : Nat) (f : PipeSt → PipeSt) : (s.modPipe p i f).pairs = s.pairs := rfl
@[simp] theorem modPipe_hartTurn (s : State) (p i : Nat) (f : PipeSt → PipeSt) : (s.modPipe p i f).hartTurn = s.hartTurn := rfl
@[simp] theorem modPipe_feat (s : State) (p i : Nat) (f : PipeSt → PipeSt) : (s.modPipe p i f).feat = s.feat := rfl
@[simp] theorem modPipe_bootm (s : State) (p i : Nat) (f : PipeSt → PipeSt) : (s.modPipe p i f).bootm = s.bootm := rfl
@[simp] theorem modPipe_runm (s : State) (p i : Nat) (f : PipeSt → PipeSt) : (s.modPipe p i f).runm = s.runm := rfl
@[simp] theorem modPipe_svn (s : State) (p i : Nat) (f : PipeSt → PipeSt) : (s.modPipe p i f).svn = s.svn := rfl
@[simp] theorem modPipe_pgood (s : State) (p i : Nat) (f : PipeSt → PipeSt) : (s.modPipe p i f).pgood = s.pgood := rfl
@[simp] theorem modPipe_flash (s : State) (p i : Nat) (f : PipeSt → PipeSt) : (s.modPipe p i f).flash = s.flash := rfl
@[simp] theorem modPipe_pool (s : State) (p i : Nat) (f : PipeSt → PipeSt) : (s.modPipe p i f).pool = s.pool := rfl
@[simp] theorem modPipe_ports (s : State) (p i : Nat) (f : PipeSt → PipeSt) : (s.modPipe p i f).ports = s.ports := rfl
@[simp] theorem modPipe_d2d (s : State) (p i : Nat) (f : PipeSt → PipeSt) : (s.modPipe p i f).d2d = s.d2d := rfl
@[simp] theorem modPipe_routes (s : State) (p i : Nat) (f : PipeSt → PipeSt) : (s.modPipe p i f).routes = s.routes := rfl
@[simp] theorem modPipe_silent (s : State) (p i : Nat) (f : PipeSt → PipeSt) : (s.modPipe p i f).silent = s.silent := rfl
@[simp] theorem modPipe_master (s : State) (p i : Nat) (f : PipeSt → PipeSt) : (s.modPipe p i f).master = s.master := rfl
@[simp] theorem modPipe_leads (s : State) (p i : Nat) (f : PipeSt → PipeSt) : (s.modPipe p i f).leads = s.leads := rfl
@[simp] theorem modPipe_masterTime (s : State) (p i : Nat) (f : PipeSt → PipeSt) : (s.modPipe p i f).masterTime = s.masterTime := rfl
@[simp] theorem modPipe_hqTurn (s : State) (p i : Nat) (f : PipeSt → PipeSt) : (s.modPipe p i f).hqTurn = s.hqTurn := rfl
@[simp] theorem modPipe_devRings (s : State) (p i : Nat) (f : PipeSt → PipeSt) : (s.modPipe p i f).devRings = s.devRings := rfl
@[simp] theorem modPipe_lastTime (s : State) (p i : Nat) (f : PipeSt → PipeSt) : (s.modPipe p i f).lastTime = s.lastTime := rfl
@[simp] theorem modPipe_slew (s : State) (p i : Nat) (f : PipeSt → PipeSt) : (s.modPipe p i f).slew = s.slew := rfl
@[simp] theorem modPipe_locked (s : State) (p i : Nat) (f : PipeSt → PipeSt) : (s.modPipe p i f).locked = s.locked := rfl
@[simp] theorem modPipe_ueWins (s : State) (p i : Nat) (f : PipeSt → PipeSt) : (s.modPipe p i f).ueWins = s.ueWins := rfl
@[simp] theorem modPipe_tenantLog (s : State) (p i : Nat) (f : PipeSt → PipeSt) : (s.modPipe p i f).tenantLog = s.tenantLog := rfl
@[simp] theorem modPipe_images (s : State) (p i : Nat) (f : PipeSt → PipeSt) : (s.modPipe p i f).images = s.images := rfl
@[simp] theorem modPipe_dumpTo (s : State) (p i : Nat) (f : PipeSt → PipeSt) : (s.modPipe p i f).dumpTo = s.dumpTo := rfl
@[simp] theorem modPipe_fallen (s : State) (p i : Nat) (f : PipeSt → PipeSt) : (s.modPipe p i f).fallen = s.fallen := rfl
@[simp] theorem modPipe_foreign (s : State) (p i : Nat) (f : PipeSt → PipeSt) : (s.modPipe p i f).foreign = s.foreign := rfl
@[simp] theorem modPipe_newSpaces (s : State) (p i : Nat) (f : PipeSt → PipeSt) : (s.modPipe p i f).newSpaces = s.newSpaces := rfl
@[simp] theorem modPipe_stopped (s : State) (p i : Nat) (f : PipeSt → PipeSt) : (s.modPipe p i f).stopped = s.stopped := rfl
@[simp] theorem modPipe_reports (s : State) (p i : Nat) (f : PipeSt → PipeSt) : (s.modPipe p i f).reports = s.reports := rfl
@[simp] theorem modPipe_totals (s : State) (p i : Nat) (f : PipeSt → PipeSt) : (s.modPipe p i f).totals = s.totals := rfl
@[simp] theorem modPipe_nextId (s : State) (p i : Nat) (f : PipeSt → PipeSt) : (s.modPipe p i f).nextId = s.nextId := rfl
@[simp] theorem modPipe_free (s : State) (p i : Nat) (f : PipeSt → PipeSt) : (s.modPipe p i f).free = s.free := rfl
@[simp] theorem modPipe_beat (s : State) (p i : Nat) (f : PipeSt → PipeSt) : (s.modPipe p i f).beat = s.beat := rfl
@[simp] theorem modPipe_lat (s : State) (p i : Nat) (f : PipeSt → PipeSt) : (s.modPipe p i f).lat = s.lat := rfl
@[simp] theorem modPipe_agenda (s : State) (p i : Nat) (f : PipeSt → PipeSt) : (s.modPipe p i f).agenda = s.agenda := rfl
@[simp] theorem modPipe_issue (s : State) (p i : Nat) (f : PipeSt → PipeSt) : (s.modPipe p i f).issue = s.issue := rfl
@[simp] theorem modPipe_pend (s : State) (p i : Nat) (f : PipeSt → PipeSt) : (s.modPipe p i f).pend = s.pend := rfl
@[simp] theorem modPipe_second (s : State) (p i : Nat) (f : PipeSt → PipeSt) : (s.modPipe p i f).second = s.second := rfl
@[simp] theorem modPipe_partDone (s : State) (p i : Nat) (f : PipeSt → PipeSt) : (s.modPipe p i f).partDone = s.partDone := rfl

/-! `State.after`. -/

@[simp] theorem after_clk (s : State) (n : Nat) (e : Event) : (s.after n e).clk = s.clk := rfl
@[simp] theorem after_gtOff (s : State) (n : Nat) (e : Event) : (s.after n e).gtOff = s.gtOff := rfl
@[simp] theorem after_device (s : State) (n : Nat) (e : Event) : (s.after n e).device = s.device := rfl
@[simp] theorem after_nDies (s : State) (n : Nat) (e : Event) : (s.after n e).nDies = s.nDies := rfl
@[simp] theorem after_warps (s : State) (n : Nat) (e : Event) : (s.after n e).warps = s.warps := rfl
@[simp] theorem after_saved (s : State) (n : Nat) (e : Event) : (s.after n e).saved = s.saved := rfl
@[simp] theorem after_cores (s : State) (n : Nat) (e : Event) : (s.after n e).cores = s.cores := rfl
@[simp] theorem after_dies (s : State) (n : Nat) (e : Event) : (s.after n e).dies = s.dies := rfl
@[simp] theorem after_plans (s : State) (n : Nat) (e : Event) : (s.after n e).plans = s.plans := rfl
@[simp] theorem after_waitPlans (s : State) (n : Nat) (e : Event) : (s.after n e).waitPlans = s.waitPlans := rfl
@[simp] theorem after_groups (s : State) (n : Nat) (e : Event) : (s.after n e).groups = s.groups := rfl
@[simp] theorem after_hbm (s : State) (n : Nat) (e : Event) : (s.after n e).hbm = s.hbm := rfl
@[simp] theorem after_l2 (s : State) (n : Nat) (e : Event) : (s.after n e).l2 = s.l2 := rfl
@[simp] theorem after_words (s : State) (n : Nat) (e : Event) : (s.after n e).words = s.words := rfl
@[simp] theorem after_vers (s : State) (n : Nat) (e : Event) : (s.after n e).vers = s.vers := rfl
@[simp] theorem after_homeBad (s : State) (n : Nat) (e : Event) : (s.after n e).homeBad = s.homeBad := rfl
@[simp] theorem after_corrected (s : State) (n : Nat) (e : Event) : (s.after n e).corrected = s.corrected := rfl
@[simp] theorem after_msgs (s : State) (n : Nat) (e : Event) : (s.after n e).msgs = s.msgs := rfl
@[simp] theorem after_walks (s : State) (n : Nat) (e : Event) : (s.after n e).walks = s.walks := rfl
@[simp] theorem after_queues (s : State) (n : Nat) (e : Event) : (s.after n e).queues = s.queues := rfl
@[simp] theorem after_slots (s : State) (n : Nat) (e : Event) : (s.after n e).slots = s.slots := rfl
@[simp] theorem after_work (s : State) (n : Nat) (e : Event) : (s.after n e).work = s.work := rfl
@[simp] theorem after_attached (s : State) (n : Nat) (e : Event) : (s.after n e).attached = s.attached := rfl
@[simp] theorem after_dispatchq (s : State) (n : Nat) (e : Event) : (s.after n e).dispatchq = s.dispatchq := rfl
@[simp] theorem after_keys (s : State) (n : Nat) (e : Event) : (s.after n e).keys = s.keys := rfl
@[simp] theorem after_notifyErr (s : State) (n : Nat) (e : Event) : (s.after n e).notifyErr = s.notifyErr := rfl
@[simp] theorem after_pairs (s : State) (n : Nat) (e : Event) : (s.after n e).pairs = s.pairs := rfl
@[simp] theorem after_hartTurn (s : State) (n : Nat) (e : Event) : (s.after n e).hartTurn = s.hartTurn := rfl
@[simp] theorem after_feat (s : State) (n : Nat) (e : Event) : (s.after n e).feat = s.feat := rfl
@[simp] theorem after_bootm (s : State) (n : Nat) (e : Event) : (s.after n e).bootm = s.bootm := rfl
@[simp] theorem after_runm (s : State) (n : Nat) (e : Event) : (s.after n e).runm = s.runm := rfl
@[simp] theorem after_svn (s : State) (n : Nat) (e : Event) : (s.after n e).svn = s.svn := rfl
@[simp] theorem after_pgood (s : State) (n : Nat) (e : Event) : (s.after n e).pgood = s.pgood := rfl
@[simp] theorem after_flash (s : State) (n : Nat) (e : Event) : (s.after n e).flash = s.flash := rfl
@[simp] theorem after_pool (s : State) (n : Nat) (e : Event) : (s.after n e).pool = s.pool := rfl
@[simp] theorem after_ports (s : State) (n : Nat) (e : Event) : (s.after n e).ports = s.ports := rfl
@[simp] theorem after_d2d (s : State) (n : Nat) (e : Event) : (s.after n e).d2d = s.d2d := rfl
@[simp] theorem after_routes (s : State) (n : Nat) (e : Event) : (s.after n e).routes = s.routes := rfl
@[simp] theorem after_silent (s : State) (n : Nat) (e : Event) : (s.after n e).silent = s.silent := rfl
@[simp] theorem after_master (s : State) (n : Nat) (e : Event) : (s.after n e).master = s.master := rfl
@[simp] theorem after_leads (s : State) (n : Nat) (e : Event) : (s.after n e).leads = s.leads := rfl
@[simp] theorem after_masterTime (s : State) (n : Nat) (e : Event) : (s.after n e).masterTime = s.masterTime := rfl
@[simp] theorem after_hqTurn (s : State) (n : Nat) (e : Event) : (s.after n e).hqTurn = s.hqTurn := rfl
@[simp] theorem after_devRings (s : State) (n : Nat) (e : Event) : (s.after n e).devRings = s.devRings := rfl
@[simp] theorem after_lastTime (s : State) (n : Nat) (e : Event) : (s.after n e).lastTime = s.lastTime := rfl
@[simp] theorem after_slew (s : State) (n : Nat) (e : Event) : (s.after n e).slew = s.slew := rfl
@[simp] theorem after_locked (s : State) (n : Nat) (e : Event) : (s.after n e).locked = s.locked := rfl
@[simp] theorem after_ueWins (s : State) (n : Nat) (e : Event) : (s.after n e).ueWins = s.ueWins := rfl
@[simp] theorem after_tenantLog (s : State) (n : Nat) (e : Event) : (s.after n e).tenantLog = s.tenantLog := rfl
@[simp] theorem after_images (s : State) (n : Nat) (e : Event) : (s.after n e).images = s.images := rfl
@[simp] theorem after_dumpTo (s : State) (n : Nat) (e : Event) : (s.after n e).dumpTo = s.dumpTo := rfl
@[simp] theorem after_fallen (s : State) (n : Nat) (e : Event) : (s.after n e).fallen = s.fallen := rfl
@[simp] theorem after_foreign (s : State) (n : Nat) (e : Event) : (s.after n e).foreign = s.foreign := rfl
@[simp] theorem after_newSpaces (s : State) (n : Nat) (e : Event) : (s.after n e).newSpaces = s.newSpaces := rfl
@[simp] theorem after_stopped (s : State) (n : Nat) (e : Event) : (s.after n e).stopped = s.stopped := rfl
@[simp] theorem after_reports (s : State) (n : Nat) (e : Event) : (s.after n e).reports = s.reports := rfl
@[simp] theorem after_totals (s : State) (n : Nat) (e : Event) : (s.after n e).totals = s.totals := rfl
@[simp] theorem after_nextId (s : State) (n : Nat) (e : Event) : (s.after n e).nextId = s.nextId := rfl
@[simp] theorem after_free (s : State) (n : Nat) (e : Event) : (s.after n e).free = s.free := rfl
@[simp] theorem after_beat (s : State) (n : Nat) (e : Event) : (s.after n e).beat = s.beat := rfl
@[simp] theorem after_lat (s : State) (n : Nat) (e : Event) : (s.after n e).lat = s.lat := rfl
@[simp] theorem after_agenda (s : State) (n : Nat) (e : Event) : (s.after n e).agenda = agendaPut s.agenda (s.clk + n) e := rfl
@[simp] theorem after_issue (s : State) (n : Nat) (e : Event) : (s.after n e).issue = s.issue := rfl
@[simp] theorem after_pend (s : State) (n : Nat) (e : Event) : (s.after n e).pend = s.pend := rfl
@[simp] theorem after_second (s : State) (n : Nat) (e : Event) : (s.after n e).second = s.second := rfl
@[simp] theorem after_partDone (s : State) (n : Nat) (e : Event) : (s.after n e).partDone = s.partDone := rfl

/-! `State.tell`. -/

@[simp] theorem tell_clk (s : State) (k : Nat) (l : List Nat) : (s.tell k l).clk = s.clk := rfl
@[simp] theorem tell_gtOff (s : State) (k : Nat) (l : List Nat) : (s.tell k l).gtOff = s.gtOff := rfl
@[simp] theorem tell_device (s : State) (k : Nat) (l : List Nat) : (s.tell k l).device = s.device := rfl
@[simp] theorem tell_nDies (s : State) (k : Nat) (l : List Nat) : (s.tell k l).nDies = s.nDies := rfl
@[simp] theorem tell_warps (s : State) (k : Nat) (l : List Nat) : (s.tell k l).warps = s.warps := rfl
@[simp] theorem tell_saved (s : State) (k : Nat) (l : List Nat) : (s.tell k l).saved = s.saved := rfl
@[simp] theorem tell_cores (s : State) (k : Nat) (l : List Nat) : (s.tell k l).cores = s.cores := rfl
@[simp] theorem tell_dies (s : State) (k : Nat) (l : List Nat) : (s.tell k l).dies = s.dies := rfl
@[simp] theorem tell_plans (s : State) (k : Nat) (l : List Nat) : (s.tell k l).plans = s.plans := rfl
@[simp] theorem tell_waitPlans (s : State) (k : Nat) (l : List Nat) : (s.tell k l).waitPlans = s.waitPlans := rfl
@[simp] theorem tell_groups (s : State) (k : Nat) (l : List Nat) : (s.tell k l).groups = s.groups := rfl
@[simp] theorem tell_hbm (s : State) (k : Nat) (l : List Nat) : (s.tell k l).hbm = s.hbm := rfl
@[simp] theorem tell_l2 (s : State) (k : Nat) (l : List Nat) : (s.tell k l).l2 = s.l2 := rfl
@[simp] theorem tell_words (s : State) (k : Nat) (l : List Nat) : (s.tell k l).words = s.words := rfl
@[simp] theorem tell_vers (s : State) (k : Nat) (l : List Nat) : (s.tell k l).vers = s.vers := rfl
@[simp] theorem tell_homeBad (s : State) (k : Nat) (l : List Nat) : (s.tell k l).homeBad = s.homeBad := rfl
@[simp] theorem tell_corrected (s : State) (k : Nat) (l : List Nat) : (s.tell k l).corrected = s.corrected := rfl
@[simp] theorem tell_msgs (s : State) (k : Nat) (l : List Nat) : (s.tell k l).msgs = s.msgs := rfl
@[simp] theorem tell_walks (s : State) (k : Nat) (l : List Nat) : (s.tell k l).walks = s.walks := rfl
@[simp] theorem tell_queues (s : State) (k : Nat) (l : List Nat) : (s.tell k l).queues = s.queues := rfl
@[simp] theorem tell_slots (s : State) (k : Nat) (l : List Nat) : (s.tell k l).slots = s.slots := rfl
@[simp] theorem tell_work (s : State) (k : Nat) (l : List Nat) : (s.tell k l).work = s.work := rfl
@[simp] theorem tell_attached (s : State) (k : Nat) (l : List Nat) : (s.tell k l).attached = s.attached := rfl
@[simp] theorem tell_dispatchq (s : State) (k : Nat) (l : List Nat) : (s.tell k l).dispatchq = s.dispatchq := rfl
@[simp] theorem tell_keys (s : State) (k : Nat) (l : List Nat) : (s.tell k l).keys = s.keys := rfl
@[simp] theorem tell_notifyErr (s : State) (k : Nat) (l : List Nat) : (s.tell k l).notifyErr = s.notifyErr := rfl
@[simp] theorem tell_pairs (s : State) (k : Nat) (l : List Nat) : (s.tell k l).pairs = s.pairs := rfl
@[simp] theorem tell_hartTurn (s : State) (k : Nat) (l : List Nat) : (s.tell k l).hartTurn = s.hartTurn := rfl
@[simp] theorem tell_feat (s : State) (k : Nat) (l : List Nat) : (s.tell k l).feat = s.feat := rfl
@[simp] theorem tell_bootm (s : State) (k : Nat) (l : List Nat) : (s.tell k l).bootm = s.bootm := rfl
@[simp] theorem tell_runm (s : State) (k : Nat) (l : List Nat) : (s.tell k l).runm = s.runm := rfl
@[simp] theorem tell_svn (s : State) (k : Nat) (l : List Nat) : (s.tell k l).svn = s.svn := rfl
@[simp] theorem tell_pgood (s : State) (k : Nat) (l : List Nat) : (s.tell k l).pgood = s.pgood := rfl
@[simp] theorem tell_flash (s : State) (k : Nat) (l : List Nat) : (s.tell k l).flash = s.flash := rfl
@[simp] theorem tell_pool (s : State) (k : Nat) (l : List Nat) : (s.tell k l).pool = s.pool := rfl
@[simp] theorem tell_ports (s : State) (k : Nat) (l : List Nat) : (s.tell k l).ports = s.ports := rfl
@[simp] theorem tell_d2d (s : State) (k : Nat) (l : List Nat) : (s.tell k l).d2d = s.d2d := rfl
@[simp] theorem tell_routes (s : State) (k : Nat) (l : List Nat) : (s.tell k l).routes = s.routes := rfl
@[simp] theorem tell_silent (s : State) (k : Nat) (l : List Nat) : (s.tell k l).silent = s.silent := rfl
@[simp] theorem tell_master (s : State) (k : Nat) (l : List Nat) : (s.tell k l).master = s.master := rfl
@[simp] theorem tell_leads (s : State) (k : Nat) (l : List Nat) : (s.tell k l).leads = s.leads := rfl
@[simp] theorem tell_masterTime (s : State) (k : Nat) (l : List Nat) : (s.tell k l).masterTime = s.masterTime := rfl
@[simp] theorem tell_hqTurn (s : State) (k : Nat) (l : List Nat) : (s.tell k l).hqTurn = s.hqTurn := rfl
@[simp] theorem tell_devRings (s : State) (k : Nat) (l : List Nat) : (s.tell k l).devRings = s.devRings := rfl
@[simp] theorem tell_lastTime (s : State) (k : Nat) (l : List Nat) : (s.tell k l).lastTime = s.lastTime := rfl
@[simp] theorem tell_slew (s : State) (k : Nat) (l : List Nat) : (s.tell k l).slew = s.slew := rfl
@[simp] theorem tell_locked (s : State) (k : Nat) (l : List Nat) : (s.tell k l).locked = s.locked := rfl
@[simp] theorem tell_ueWins (s : State) (k : Nat) (l : List Nat) : (s.tell k l).ueWins = s.ueWins := rfl
@[simp] theorem tell_tenantLog (s : State) (k : Nat) (l : List Nat) : (s.tell k l).tenantLog = s.tenantLog := rfl
@[simp] theorem tell_images (s : State) (k : Nat) (l : List Nat) : (s.tell k l).images = s.images := rfl
@[simp] theorem tell_dumpTo (s : State) (k : Nat) (l : List Nat) : (s.tell k l).dumpTo = s.dumpTo := rfl
@[simp] theorem tell_fallen (s : State) (k : Nat) (l : List Nat) : (s.tell k l).fallen = s.fallen := rfl
@[simp] theorem tell_foreign (s : State) (k : Nat) (l : List Nat) : (s.tell k l).foreign = s.foreign := rfl
@[simp] theorem tell_newSpaces (s : State) (k : Nat) (l : List Nat) : (s.tell k l).newSpaces = s.newSpaces := rfl
@[simp] theorem tell_stopped (s : State) (k : Nat) (l : List Nat) : (s.tell k l).stopped = s.stopped := rfl
@[simp] theorem tell_reports (s : State) (k : Nat) (l : List Nat) : (s.tell k l).reports = ⟨k, l⟩ :: s.reports := rfl
@[simp] theorem tell_totals (s : State) (k : Nat) (l : List Nat) : (s.tell k l).totals = s.totals := rfl
@[simp] theorem tell_nextId (s : State) (k : Nat) (l : List Nat) : (s.tell k l).nextId = s.nextId := rfl
@[simp] theorem tell_free (s : State) (k : Nat) (l : List Nat) : (s.tell k l).free = s.free := rfl
@[simp] theorem tell_beat (s : State) (k : Nat) (l : List Nat) : (s.tell k l).beat = s.beat := rfl
@[simp] theorem tell_lat (s : State) (k : Nat) (l : List Nat) : (s.tell k l).lat = s.lat := rfl
@[simp] theorem tell_agenda (s : State) (k : Nat) (l : List Nat) : (s.tell k l).agenda = s.agenda := rfl
@[simp] theorem tell_issue (s : State) (k : Nat) (l : List Nat) : (s.tell k l).issue = s.issue := rfl
@[simp] theorem tell_pend (s : State) (k : Nat) (l : List Nat) : (s.tell k l).pend = s.pend := rfl
@[simp] theorem tell_second (s : State) (k : Nat) (l : List Nat) : (s.tell k l).second = s.second := rfl
@[simp] theorem tell_partDone (s : State) (k : Nat) (l : List Nat) : (s.tell k l).partDone = s.partDone := rfl

/-! `State.usedId`. -/

@[simp] theorem usedId_clk (s : State)  : (s.usedId ).clk = s.clk := rfl
@[simp] theorem usedId_gtOff (s : State)  : (s.usedId ).gtOff = s.gtOff := rfl
@[simp] theorem usedId_device (s : State)  : (s.usedId ).device = s.device := rfl
@[simp] theorem usedId_nDies (s : State)  : (s.usedId ).nDies = s.nDies := rfl
@[simp] theorem usedId_warps (s : State)  : (s.usedId ).warps = s.warps := rfl
@[simp] theorem usedId_saved (s : State)  : (s.usedId ).saved = s.saved := rfl
@[simp] theorem usedId_cores (s : State)  : (s.usedId ).cores = s.cores := rfl
@[simp] theorem usedId_dies (s : State)  : (s.usedId ).dies = s.dies := rfl
@[simp] theorem usedId_plans (s : State)  : (s.usedId ).plans = s.plans := rfl
@[simp] theorem usedId_waitPlans (s : State)  : (s.usedId ).waitPlans = s.waitPlans := rfl
@[simp] theorem usedId_groups (s : State)  : (s.usedId ).groups = s.groups := rfl
@[simp] theorem usedId_hbm (s : State)  : (s.usedId ).hbm = s.hbm := rfl
@[simp] theorem usedId_l2 (s : State)  : (s.usedId ).l2 = s.l2 := rfl
@[simp] theorem usedId_words (s : State)  : (s.usedId ).words = s.words := rfl
@[simp] theorem usedId_vers (s : State)  : (s.usedId ).vers = s.vers := rfl
@[simp] theorem usedId_homeBad (s : State)  : (s.usedId ).homeBad = s.homeBad := rfl
@[simp] theorem usedId_corrected (s : State)  : (s.usedId ).corrected = s.corrected := rfl
@[simp] theorem usedId_msgs (s : State)  : (s.usedId ).msgs = s.msgs := rfl
@[simp] theorem usedId_walks (s : State)  : (s.usedId ).walks = s.walks := rfl
@[simp] theorem usedId_queues (s : State)  : (s.usedId ).queues = s.queues := rfl
@[simp] theorem usedId_slots (s : State)  : (s.usedId ).slots = s.slots := rfl
@[simp] theorem usedId_work (s : State)  : (s.usedId ).work = s.work := rfl
@[simp] theorem usedId_attached (s : State)  : (s.usedId ).attached = s.attached := rfl
@[simp] theorem usedId_dispatchq (s : State)  : (s.usedId ).dispatchq = s.dispatchq := rfl
@[simp] theorem usedId_keys (s : State)  : (s.usedId ).keys = s.keys := rfl
@[simp] theorem usedId_notifyErr (s : State)  : (s.usedId ).notifyErr = s.notifyErr := rfl
@[simp] theorem usedId_pairs (s : State)  : (s.usedId ).pairs = s.pairs := rfl
@[simp] theorem usedId_hartTurn (s : State)  : (s.usedId ).hartTurn = s.hartTurn := rfl
@[simp] theorem usedId_feat (s : State)  : (s.usedId ).feat = s.feat := rfl
@[simp] theorem usedId_bootm (s : State)  : (s.usedId ).bootm = s.bootm := rfl
@[simp] theorem usedId_runm (s : State)  : (s.usedId ).runm = s.runm := rfl
@[simp] theorem usedId_svn (s : State)  : (s.usedId ).svn = s.svn := rfl
@[simp] theorem usedId_pgood (s : State)  : (s.usedId ).pgood = s.pgood := rfl
@[simp] theorem usedId_flash (s : State)  : (s.usedId ).flash = s.flash := rfl
@[simp] theorem usedId_pool (s : State)  : (s.usedId ).pool = s.pool := rfl
@[simp] theorem usedId_ports (s : State)  : (s.usedId ).ports = s.ports := rfl
@[simp] theorem usedId_d2d (s : State)  : (s.usedId ).d2d = s.d2d := rfl
@[simp] theorem usedId_routes (s : State)  : (s.usedId ).routes = s.routes := rfl
@[simp] theorem usedId_silent (s : State)  : (s.usedId ).silent = s.silent := rfl
@[simp] theorem usedId_master (s : State)  : (s.usedId ).master = s.master := rfl
@[simp] theorem usedId_leads (s : State)  : (s.usedId ).leads = s.leads := rfl
@[simp] theorem usedId_masterTime (s : State)  : (s.usedId ).masterTime = s.masterTime := rfl
@[simp] theorem usedId_hqTurn (s : State)  : (s.usedId ).hqTurn = s.hqTurn := rfl
@[simp] theorem usedId_devRings (s : State)  : (s.usedId ).devRings = s.devRings := rfl
@[simp] theorem usedId_lastTime (s : State)  : (s.usedId ).lastTime = s.lastTime := rfl
@[simp] theorem usedId_slew (s : State)  : (s.usedId ).slew = s.slew := rfl
@[simp] theorem usedId_locked (s : State)  : (s.usedId ).locked = s.locked := rfl
@[simp] theorem usedId_ueWins (s : State)  : (s.usedId ).ueWins = s.ueWins := rfl
@[simp] theorem usedId_tenantLog (s : State)  : (s.usedId ).tenantLog = s.tenantLog := rfl
@[simp] theorem usedId_images (s : State)  : (s.usedId ).images = s.images := rfl
@[simp] theorem usedId_dumpTo (s : State)  : (s.usedId ).dumpTo = s.dumpTo := rfl
@[simp] theorem usedId_fallen (s : State)  : (s.usedId ).fallen = s.fallen := rfl
@[simp] theorem usedId_foreign (s : State)  : (s.usedId ).foreign = s.foreign := rfl
@[simp] theorem usedId_newSpaces (s : State)  : (s.usedId ).newSpaces = s.newSpaces := rfl
@[simp] theorem usedId_stopped (s : State)  : (s.usedId ).stopped = s.stopped := rfl
@[simp] theorem usedId_reports (s : State)  : (s.usedId ).reports = s.reports := rfl
@[simp] theorem usedId_totals (s : State)  : (s.usedId ).totals = s.totals := rfl
@[simp] theorem usedId_nextId (s : State)  : (s.usedId ).nextId = s.nextId + 1 := rfl
@[simp] theorem usedId_free (s : State)  : (s.usedId ).free = s.free := rfl
@[simp] theorem usedId_beat (s : State)  : (s.usedId ).beat = s.beat := rfl
@[simp] theorem usedId_lat (s : State)  : (s.usedId ).lat = s.lat := rfl
@[simp] theorem usedId_agenda (s : State)  : (s.usedId ).agenda = s.agenda := rfl
@[simp] theorem usedId_issue (s : State)  : (s.usedId ).issue = s.issue := rfl
@[simp] theorem usedId_pend (s : State)  : (s.usedId ).pend = s.pend := rfl
@[simp] theorem usedId_second (s : State)  : (s.usedId ).second = s.second := rfl
@[simp] theorem usedId_partDone (s : State)  : (s.usedId ).partDone = s.partDone := rfl

/-! `State.countEv`. -/

@[simp] theorem countEv_clk (s : State) (k n : Nat) : (s.countEv k n).clk = s.clk := rfl
@[simp] theorem countEv_gtOff (s : State) (k n : Nat) : (s.countEv k n).gtOff = s.gtOff := rfl
@[simp] theorem countEv_device (s : State) (k n : Nat) : (s.countEv k n).device = s.device := rfl
@[simp] theorem countEv_nDies (s : State) (k n : Nat) : (s.countEv k n).nDies = s.nDies := rfl
@[simp] theorem countEv_warps (s : State) (k n : Nat) : (s.countEv k n).warps = s.warps := rfl
@[simp] theorem countEv_saved (s : State) (k n : Nat) : (s.countEv k n).saved = s.saved := rfl
@[simp] theorem countEv_cores (s : State) (k n : Nat) : (s.countEv k n).cores = s.cores := rfl
@[simp] theorem countEv_dies (s : State) (k n : Nat) : (s.countEv k n).dies = s.dies := rfl
@[simp] theorem countEv_plans (s : State) (k n : Nat) : (s.countEv k n).plans = s.plans := rfl
@[simp] theorem countEv_waitPlans (s : State) (k n : Nat) : (s.countEv k n).waitPlans = s.waitPlans := rfl
@[simp] theorem countEv_groups (s : State) (k n : Nat) : (s.countEv k n).groups = s.groups := rfl
@[simp] theorem countEv_hbm (s : State) (k n : Nat) : (s.countEv k n).hbm = s.hbm := rfl
@[simp] theorem countEv_l2 (s : State) (k n : Nat) : (s.countEv k n).l2 = s.l2 := rfl
@[simp] theorem countEv_words (s : State) (k n : Nat) : (s.countEv k n).words = s.words := rfl
@[simp] theorem countEv_vers (s : State) (k n : Nat) : (s.countEv k n).vers = s.vers := rfl
@[simp] theorem countEv_homeBad (s : State) (k n : Nat) : (s.countEv k n).homeBad = s.homeBad := rfl
@[simp] theorem countEv_corrected (s : State) (k n : Nat) : (s.countEv k n).corrected = s.corrected := rfl
@[simp] theorem countEv_msgs (s : State) (k n : Nat) : (s.countEv k n).msgs = s.msgs := rfl
@[simp] theorem countEv_walks (s : State) (k n : Nat) : (s.countEv k n).walks = s.walks := rfl
@[simp] theorem countEv_queues (s : State) (k n : Nat) : (s.countEv k n).queues = s.queues := rfl
@[simp] theorem countEv_slots (s : State) (k n : Nat) : (s.countEv k n).slots = s.slots := rfl
@[simp] theorem countEv_work (s : State) (k n : Nat) : (s.countEv k n).work = s.work := rfl
@[simp] theorem countEv_attached (s : State) (k n : Nat) : (s.countEv k n).attached = s.attached := rfl
@[simp] theorem countEv_dispatchq (s : State) (k n : Nat) : (s.countEv k n).dispatchq = s.dispatchq := rfl
@[simp] theorem countEv_keys (s : State) (k n : Nat) : (s.countEv k n).keys = s.keys := rfl
@[simp] theorem countEv_notifyErr (s : State) (k n : Nat) : (s.countEv k n).notifyErr = s.notifyErr := rfl
@[simp] theorem countEv_pairs (s : State) (k n : Nat) : (s.countEv k n).pairs = s.pairs := rfl
@[simp] theorem countEv_hartTurn (s : State) (k n : Nat) : (s.countEv k n).hartTurn = s.hartTurn := rfl
@[simp] theorem countEv_feat (s : State) (k n : Nat) : (s.countEv k n).feat = s.feat := rfl
@[simp] theorem countEv_bootm (s : State) (k n : Nat) : (s.countEv k n).bootm = s.bootm := rfl
@[simp] theorem countEv_runm (s : State) (k n : Nat) : (s.countEv k n).runm = s.runm := rfl
@[simp] theorem countEv_svn (s : State) (k n : Nat) : (s.countEv k n).svn = s.svn := rfl
@[simp] theorem countEv_pgood (s : State) (k n : Nat) : (s.countEv k n).pgood = s.pgood := rfl
@[simp] theorem countEv_flash (s : State) (k n : Nat) : (s.countEv k n).flash = s.flash := rfl
@[simp] theorem countEv_pool (s : State) (k n : Nat) : (s.countEv k n).pool = s.pool := rfl
@[simp] theorem countEv_ports (s : State) (k n : Nat) : (s.countEv k n).ports = s.ports := rfl
@[simp] theorem countEv_d2d (s : State) (k n : Nat) : (s.countEv k n).d2d = s.d2d := rfl
@[simp] theorem countEv_routes (s : State) (k n : Nat) : (s.countEv k n).routes = s.routes := rfl
@[simp] theorem countEv_silent (s : State) (k n : Nat) : (s.countEv k n).silent = s.silent := rfl
@[simp] theorem countEv_master (s : State) (k n : Nat) : (s.countEv k n).master = s.master := rfl
@[simp] theorem countEv_leads (s : State) (k n : Nat) : (s.countEv k n).leads = s.leads := rfl
@[simp] theorem countEv_masterTime (s : State) (k n : Nat) : (s.countEv k n).masterTime = s.masterTime := rfl
@[simp] theorem countEv_hqTurn (s : State) (k n : Nat) : (s.countEv k n).hqTurn = s.hqTurn := rfl
@[simp] theorem countEv_devRings (s : State) (k n : Nat) : (s.countEv k n).devRings = s.devRings := rfl
@[simp] theorem countEv_lastTime (s : State) (k n : Nat) : (s.countEv k n).lastTime = s.lastTime := rfl
@[simp] theorem countEv_slew (s : State) (k n : Nat) : (s.countEv k n).slew = s.slew := rfl
@[simp] theorem countEv_locked (s : State) (k n : Nat) : (s.countEv k n).locked = s.locked := rfl
@[simp] theorem countEv_ueWins (s : State) (k n : Nat) : (s.countEv k n).ueWins = s.ueWins := rfl
@[simp] theorem countEv_tenantLog (s : State) (k n : Nat) : (s.countEv k n).tenantLog = s.tenantLog := rfl
@[simp] theorem countEv_images (s : State) (k n : Nat) : (s.countEv k n).images = s.images := rfl
@[simp] theorem countEv_dumpTo (s : State) (k n : Nat) : (s.countEv k n).dumpTo = s.dumpTo := rfl
@[simp] theorem countEv_fallen (s : State) (k n : Nat) : (s.countEv k n).fallen = s.fallen := rfl
@[simp] theorem countEv_foreign (s : State) (k n : Nat) : (s.countEv k n).foreign = s.foreign := rfl
@[simp] theorem countEv_newSpaces (s : State) (k n : Nat) : (s.countEv k n).newSpaces = s.newSpaces := rfl
@[simp] theorem countEv_stopped (s : State) (k n : Nat) : (s.countEv k n).stopped = s.stopped := rfl
@[simp] theorem countEv_reports (s : State) (k n : Nat) : (s.countEv k n).reports = s.reports := rfl
@[simp] theorem countEv_totals (s : State) (k n : Nat) : (s.countEv k n).totals = mput s.totals k (mget s.totals k 0 + n) 0 := rfl
@[simp] theorem countEv_nextId (s : State) (k n : Nat) : (s.countEv k n).nextId = s.nextId := rfl
@[simp] theorem countEv_free (s : State) (k n : Nat) : (s.countEv k n).free = s.free := rfl
@[simp] theorem countEv_beat (s : State) (k n : Nat) : (s.countEv k n).beat = s.beat := rfl
@[simp] theorem countEv_lat (s : State) (k n : Nat) : (s.countEv k n).lat = s.lat := rfl
@[simp] theorem countEv_agenda (s : State) (k n : Nat) : (s.countEv k n).agenda = s.agenda := rfl
@[simp] theorem countEv_issue (s : State) (k n : Nat) : (s.countEv k n).issue = s.issue := rfl
@[simp] theorem countEv_pend (s : State) (k n : Nat) : (s.countEv k n).pend = s.pend := rfl
@[simp] theorem countEv_second (s : State) (k n : Nat) : (s.countEv k n).second = s.second := rfl
@[simp] theorem countEv_partDone (s : State) (k n : Nat) : (s.countEv k n).partDone = s.partDone := rfl

/-! `Warp.setVE`. -/

@[simp] theorem setVE_asid (x : Warp) (r : Nat) (m : LaneMask) : (x.setVE r m).asid = x.asid := rfl
@[simp] theorem setVE_plan (x : Warp) (r : Nat) (m : LaneMask) : (x.setVE r m).plan = x.plan := rfl
@[simp] theorem setVE_stage (x : Warp) (r : Nat) (m : LaneMask) : (x.setVE r m).stage = x.stage := rfl
@[simp] theorem setVE_restart (x : Warp) (r : Nat) (m : LaneMask) : (x.setVE r m).restart = x.restart := rfl
@[simp] theorem setVE_localIdx (x : Warp) (r : Nat) (m : LaneMask) : (x.setVE r m).localIdx = x.localIdx := rfl
@[simp] theorem setVE_nv (x : Warp) (r : Nat) (m : LaneMask) : (x.setVE r m).nv = x.nv := rfl
@[simp] theorem setVE_ns (x : Warp) (r : Nat) (m : LaneMask) : (x.setVE r m).ns = x.ns := rfl
@[simp] theorem setVE_codeBase (x : Warp) (r : Nat) (m : LaneMask) : (x.setVE r m).codeBase = x.codeBase := rfl
@[simp] theorem setVE_groups (x : Warp) (r : Nat) (m : LaneMask) : (x.setVE r m).groups = x.groups := rfl
@[simp] theorem setVE_insts (x : Warp) (r : Nat) (m : LaneMask) : (x.setVE r m).insts = x.insts := rfl
@[simp] theorem setVE_pc (x : Warp) (r : Nat) (m : LaneMask) : (x.setVE r m).pc = x.pc := rfl
@[simp] theorem setVE_active (x : Warp) (r : Nat) (m : LaneMask) : (x.setVE r m).active = x.active := rfl
@[simp] theorem setVE_waiting (x : Warp) (r : Nat) (m : LaneMask) : (x.setVE r m).waiting = x.waiting := rfl
@[simp] theorem setVE_exited (x : Warp) (r : Nat) (m : LaneMask) : (x.setVE r m).exited = x.exited := rfl
@[simp] theorem setVE_point (x : Warp) (r : Nat) (m : LaneMask) : (x.setVE r m).point = x.point := rfl
@[simp] theorem setVE_cmask (x : Warp) (r : Nat) (m : LaneMask) : (x.setVE r m).cmask = x.cmask := rfl
@[simp] theorem setVE_age (x : Warp) (r : Nat) (m : LaneMask) : (x.setVE r m).age = x.age := rfl
@[simp] theorem setVE_vreg (x : Warp) (r : Nat) (m : LaneMask) : (x.setVE r m).vreg = x.vreg := rfl
@[simp] theorem setVE_vE (x : Warp) (r : Nat) (m : LaneMask) : (x.setVE r m).vE = mput x.vE r m 0 := rfl
@[simp] theorem setVE_sreg (x : Warp) (r : Nat) (m : LaneMask) : (x.setVE r m).sreg = x.sreg := rfl
@[simp] theorem setVE_sE (x : Warp) (r : Nat) (m : LaneMask) : (x.setVE r m).sE = x.sE := rfl
@[simp] theorem setVE_pred (x : Warp) (r : Nat) (m : LaneMask) : (x.setVE r m).pred = x.pred := rfl
@[simp] theorem setVE_upred (x : Warp) (r : Nat) (m : LaneMask) : (x.setVE r m).upred = x.upred := rfl
@[simp] theorem setVE_tile (x : Warp) (r : Nat) (m : LaneMask) : (x.setVE r m).tile = x.tile := rfl
@[simp] theorem setVE_busy (x : Warp) (r : Nat) (m : LaneMask) : (x.setVE r m).busy = x.busy := rfl
@[simp] theorem setVE_fpstat (x : Warp) (r : Nat) (m : LaneMask) : (x.setVE r m).fpstat = x.fpstat := rfl
@[simp] theorem setVE_prio (x : Warp) (r : Nat) (m : LaneMask) : (x.setVE r m).prio = x.prio := rfl
@[simp] theorem setVE_fpctl (x : Warp) (r : Nat) (m : LaneMask) : (x.setVE r m).fpctl = x.fpctl := rfl
@[simp] theorem setVE_trapbase (x : Warp) (r : Nat) (m : LaneMask) : (x.setVE r m).trapbase = x.trapbase := rfl
@[simp] theorem setVE_tmode (x : Warp) (r : Nat) (m : LaneMask) : (x.setVE r m).tmode = x.tmode := rfl
@[simp] theorem setVE_mctl (x : Warp) (r : Nat) (m : LaneMask) : (x.setVE r m).mctl = x.mctl := rfl
@[simp] theorem setVE_mstat (x : Warp) (r : Nat) (m : LaneMask) : (x.setVE r m).mstat = x.mstat := rfl
@[simp] theorem setVE_cause (x : Warp) (r : Nat) (m : LaneMask) : (x.setVE r m).cause = x.cause := rfl
@[simp] theorem setVE_faddr (x : Warp) (r : Nat) (m : LaneMask) : (x.setVE r m).faddr = x.faddr := rfl
@[simp] theorem setVE_watch (x : Warp) (r : Nat) (m : LaneMask) : (x.setVE r m).watch = x.watch := rfl
@[simp] theorem setVE_wauto (x : Warp) (r : Nat) (m : LaneMask) : (x.setVE r m).wauto = x.wauto := rfl
@[simp] theorem setVE_storeq (x : Warp) (r : Nat) (m : LaneMask) : (x.setVE r m).storeq = x.storeq := rfl
@[simp] theorem setVE_unacked (x : Warp) (r : Nat) (m : LaneMask) : (x.setVE r m).unacked = x.unacked := rfl
@[simp] theorem setVE_flights (x : Warp) (r : Nat) (m : LaneMask) : (x.setVE r m).flights = x.flights := rfl
@[simp] theorem setVE_nextSeq (x : Warp) (r : Nat) (m : LaneMask) : (x.setVE r m).nextSeq = x.nextSeq := rfl
@[simp] theorem setVE_relMark (x : Warp) (r : Nat) (m : LaneMask) : (x.setVE r m).relMark = x.relMark := rfl
@[simp] theorem setVE_tokens (x : Warp) (r : Nat) (m : LaneMask) : (x.setVE r m).tokens = x.tokens := rfl
@[simp] theorem setVE_holds (x : Warp) (r : Nat) (m : LaneMask) : (x.setVE r m).holds = x.holds := rfl
@[simp] theorem setVE_sfq (x : Warp) (r : Nat) (m : LaneMask) : (x.setVE r m).sfq = x.sfq := rfl
@[simp] theorem setVE_pend (x : Warp) (r : Nat) (m : LaneMask) : (x.setVE r m).pend = x.pend := rfl
@[simp] theorem setVE_wake (x : Warp) (r : Nat) (m : LaneMask) : (x.setVE r m).wake = x.wake := rfl
@[simp] theorem setVE_yielding (x : Warp) (r : Nat) (m : LaneMask) : (x.setVE r m).yielding = x.yielding := rfl
@[simp] theorem setVE_yieldEnd (x : Warp) (r : Nat) (m : LaneMask) : (x.setVE r m).yieldEnd = x.yieldEnd := rfl
@[simp] theorem setVE_aged (x : Warp) (r : Nat) (m : LaneMask) : (x.setVE r m).aged = x.aged := rfl
@[simp] theorem setVE_laneWake (x : Warp) (r : Nat) (m : LaneMask) : (x.setVE r m).laneWake = x.laneWake := rfl
@[simp] theorem setVE_lastIssue (x : Warp) (r : Nat) (m : LaneMask) : (x.setVE r m).lastIssue = x.lastIssue := rfl
@[simp] theorem setVE_readySince (x : Warp) (r : Nat) (m : LaneMask) : (x.setVE r m).readySince = x.readySince := rfl
@[simp] theorem setVE_boost (x : Warp) (r : Nat) (m : LaneMask) : (x.setVE r m).boost = x.boost := rfl
@[simp] theorem setVE_barArr (x : Warp) (r : Nat) (m : LaneMask) : (x.setVE r m).barArr = x.barArr := rfl
@[simp] theorem setVE_preemptReq (x : Warp) (r : Nat) (m : LaneMask) : (x.setVE r m).preemptReq = x.preemptReq := rfl
@[simp] theorem setVE_termReq (x : Warp) (r : Nat) (m : LaneMask) : (x.setVE r m).termReq = x.termReq := rfl
@[simp] theorem setVE_byToltar (x : Warp) (r : Nat) (m : LaneMask) : (x.setVE r m).byToltar = x.byToltar := rfl
@[simp] theorem setVE_captured (x : Warp) (r : Nat) (m : LaneMask) : (x.setVE r m).captured = x.captured := rfl
@[simp] theorem setVE_toltarPending (x : Warp) (r : Nat) (m : LaneMask) : (x.setVE r m).toltarPending = x.toltarPending := rfl
@[simp] theorem setVE_nopreEnd (x : Warp) (r : Nat) (m : LaneMask) : (x.setVE r m).nopreEnd = x.nopreEnd := rfl
@[simp] theorem setVE_preTrapSeq (x : Warp) (r : Nat) (m : LaneMask) : (x.setVE r m).preTrapSeq = x.preTrapSeq := rfl
@[simp] theorem setVE_entryExited (x : Warp) (r : Nat) (m : LaneMask) : (x.setVE r m).entryExited = x.entryExited := rfl
@[simp] theorem setVE_entryPc (x : Warp) (r : Nat) (m : LaneMask) : (x.setVE r m).entryPc = x.entryPc := rfl
@[simp] theorem setVE_entryWaiting (x : Warp) (r : Nat) (m : LaneMask) : (x.setVE r m).entryWaiting = x.entryWaiting := rfl
@[simp] theorem setVE_entryNrep (x : Warp) (r : Nat) (m : LaneMask) : (x.setVE r m).entryNrep = x.entryNrep := rfl
@[simp] theorem setVE_entryRep (x : Warp) (r : Nat) (m : LaneMask) : (x.setVE r m).entryRep = x.entryRep := rfl
@[simp] theorem setVE_entryNsf (x : Warp) (r : Nat) (m : LaneMask) : (x.setVE r m).entryNsf = x.entryNsf := rfl
@[simp] theorem setVE_saveArea (x : Warp) (r : Nat) (m : LaneMask) : (x.setVE r m).saveArea = x.saveArea := rfl
@[simp] theorem setVE_formed (x : Warp) (r : Nat) (m : LaneMask) : (x.setVE r m).formed = x.formed := rfl
@[simp] theorem setVE_svc (x : Warp) (r : Nat) (m : LaneMask) : (x.setVE r m).svc = x.svc := rfl
@[simp] theorem setVE_ctr (x : Warp) (r : Nat) (m : LaneMask) : (x.setVE r m).ctr = x.ctr := rfl
@[simp] theorem setVE_undo (x : Warp) (r : Nat) (m : LaneMask) : (x.setVE r m).undo = x.undo := rfl
@[simp] theorem setVE_undoN (x : Warp) (r : Nat) (m : LaneMask) : (x.setVE r m).undoN = x.undoN := rfl
@[simp] theorem setVE_stopDone (x : Warp) (r : Nat) (m : LaneMask) : (x.setVE r m).stopDone = x.stopDone := rfl
@[simp] theorem setVE_issued (x : Warp) (r : Nat) (m : LaneMask) : (x.setVE r m).issued = x.issued := rfl
@[simp] theorem setVE_preRep (x : Warp) (r : Nat) (m : LaneMask) : (x.setVE r m).preRep = x.preRep := rfl
@[simp] theorem setVE_ffmas (x : Warp) (r : Nat) (m : LaneMask) : (x.setVE r m).ffmas = x.ffmas := rfl
@[simp] theorem setVE_putOff (x : Warp) (r : Nat) (m : LaneMask) : (x.setVE r m).putOff = x.putOff := rfl
@[simp] theorem setVE_passed (x : Warp) (r : Nat) (m : LaneMask) : (x.setVE r m).passed = x.passed := rfl
@[simp] theorem setVE_moved (x : Warp) (r : Nat) (m : LaneMask) : (x.setVE r m).moved = x.moved := rfl
@[simp] theorem setVE_isolated (x : Warp) (r : Nat) (m : LaneMask) : (x.setVE r m).isolated = x.isolated := rfl

/-! `Warp.setSE`. -/

@[simp] theorem setSE_asid (x : Warp) (r : Nat) (e : Bool) : (x.setSE r e).asid = x.asid := rfl
@[simp] theorem setSE_plan (x : Warp) (r : Nat) (e : Bool) : (x.setSE r e).plan = x.plan := rfl
@[simp] theorem setSE_stage (x : Warp) (r : Nat) (e : Bool) : (x.setSE r e).stage = x.stage := rfl
@[simp] theorem setSE_restart (x : Warp) (r : Nat) (e : Bool) : (x.setSE r e).restart = x.restart := rfl
@[simp] theorem setSE_localIdx (x : Warp) (r : Nat) (e : Bool) : (x.setSE r e).localIdx = x.localIdx := rfl
@[simp] theorem setSE_nv (x : Warp) (r : Nat) (e : Bool) : (x.setSE r e).nv = x.nv := rfl
@[simp] theorem setSE_ns (x : Warp) (r : Nat) (e : Bool) : (x.setSE r e).ns = x.ns := rfl
@[simp] theorem setSE_codeBase (x : Warp) (r : Nat) (e : Bool) : (x.setSE r e).codeBase = x.codeBase := rfl
@[simp] theorem setSE_groups (x : Warp) (r : Nat) (e : Bool) : (x.setSE r e).groups = x.groups := rfl
@[simp] theorem setSE_insts (x : Warp) (r : Nat) (e : Bool) : (x.setSE r e).insts = x.insts := rfl
@[simp] theorem setSE_pc (x : Warp) (r : Nat) (e : Bool) : (x.setSE r e).pc = x.pc := rfl
@[simp] theorem setSE_active (x : Warp) (r : Nat) (e : Bool) : (x.setSE r e).active = x.active := rfl
@[simp] theorem setSE_waiting (x : Warp) (r : Nat) (e : Bool) : (x.setSE r e).waiting = x.waiting := rfl
@[simp] theorem setSE_exited (x : Warp) (r : Nat) (e : Bool) : (x.setSE r e).exited = x.exited := rfl
@[simp] theorem setSE_point (x : Warp) (r : Nat) (e : Bool) : (x.setSE r e).point = x.point := rfl
@[simp] theorem setSE_cmask (x : Warp) (r : Nat) (e : Bool) : (x.setSE r e).cmask = x.cmask := rfl
@[simp] theorem setSE_age (x : Warp) (r : Nat) (e : Bool) : (x.setSE r e).age = x.age := rfl
@[simp] theorem setSE_vreg (x : Warp) (r : Nat) (e : Bool) : (x.setSE r e).vreg = x.vreg := rfl
@[simp] theorem setSE_vE (x : Warp) (r : Nat) (e : Bool) : (x.setSE r e).vE = x.vE := rfl
@[simp] theorem setSE_sreg (x : Warp) (r : Nat) (e : Bool) : (x.setSE r e).sreg = x.sreg := rfl
@[simp] theorem setSE_sE (x : Warp) (r : Nat) (e : Bool) : (x.setSE r e).sE = mput x.sE r e false := rfl
@[simp] theorem setSE_pred (x : Warp) (r : Nat) (e : Bool) : (x.setSE r e).pred = x.pred := rfl
@[simp] theorem setSE_upred (x : Warp) (r : Nat) (e : Bool) : (x.setSE r e).upred = x.upred := rfl
@[simp] theorem setSE_tile (x : Warp) (r : Nat) (e : Bool) : (x.setSE r e).tile = x.tile := rfl
@[simp] theorem setSE_busy (x : Warp) (r : Nat) (e : Bool) : (x.setSE r e).busy = x.busy := rfl
@[simp] theorem setSE_fpstat (x : Warp) (r : Nat) (e : Bool) : (x.setSE r e).fpstat = x.fpstat := rfl
@[simp] theorem setSE_prio (x : Warp) (r : Nat) (e : Bool) : (x.setSE r e).prio = x.prio := rfl
@[simp] theorem setSE_fpctl (x : Warp) (r : Nat) (e : Bool) : (x.setSE r e).fpctl = x.fpctl := rfl
@[simp] theorem setSE_trapbase (x : Warp) (r : Nat) (e : Bool) : (x.setSE r e).trapbase = x.trapbase := rfl
@[simp] theorem setSE_tmode (x : Warp) (r : Nat) (e : Bool) : (x.setSE r e).tmode = x.tmode := rfl
@[simp] theorem setSE_mctl (x : Warp) (r : Nat) (e : Bool) : (x.setSE r e).mctl = x.mctl := rfl
@[simp] theorem setSE_mstat (x : Warp) (r : Nat) (e : Bool) : (x.setSE r e).mstat = x.mstat := rfl
@[simp] theorem setSE_cause (x : Warp) (r : Nat) (e : Bool) : (x.setSE r e).cause = x.cause := rfl
@[simp] theorem setSE_faddr (x : Warp) (r : Nat) (e : Bool) : (x.setSE r e).faddr = x.faddr := rfl
@[simp] theorem setSE_watch (x : Warp) (r : Nat) (e : Bool) : (x.setSE r e).watch = x.watch := rfl
@[simp] theorem setSE_wauto (x : Warp) (r : Nat) (e : Bool) : (x.setSE r e).wauto = x.wauto := rfl
@[simp] theorem setSE_storeq (x : Warp) (r : Nat) (e : Bool) : (x.setSE r e).storeq = x.storeq := rfl
@[simp] theorem setSE_unacked (x : Warp) (r : Nat) (e : Bool) : (x.setSE r e).unacked = x.unacked := rfl
@[simp] theorem setSE_flights (x : Warp) (r : Nat) (e : Bool) : (x.setSE r e).flights = x.flights := rfl
@[simp] theorem setSE_nextSeq (x : Warp) (r : Nat) (e : Bool) : (x.setSE r e).nextSeq = x.nextSeq := rfl
@[simp] theorem setSE_relMark (x : Warp) (r : Nat) (e : Bool) : (x.setSE r e).relMark = x.relMark := rfl
@[simp] theorem setSE_tokens (x : Warp) (r : Nat) (e : Bool) : (x.setSE r e).tokens = x.tokens := rfl
@[simp] theorem setSE_holds (x : Warp) (r : Nat) (e : Bool) : (x.setSE r e).holds = x.holds := rfl
@[simp] theorem setSE_sfq (x : Warp) (r : Nat) (e : Bool) : (x.setSE r e).sfq = x.sfq := rfl
@[simp] theorem setSE_pend (x : Warp) (r : Nat) (e : Bool) : (x.setSE r e).pend = x.pend := rfl
@[simp] theorem setSE_wake (x : Warp) (r : Nat) (e : Bool) : (x.setSE r e).wake = x.wake := rfl
@[simp] theorem setSE_yielding (x : Warp) (r : Nat) (e : Bool) : (x.setSE r e).yielding = x.yielding := rfl
@[simp] theorem setSE_yieldEnd (x : Warp) (r : Nat) (e : Bool) : (x.setSE r e).yieldEnd = x.yieldEnd := rfl
@[simp] theorem setSE_aged (x : Warp) (r : Nat) (e : Bool) : (x.setSE r e).aged = x.aged := rfl
@[simp] theorem setSE_laneWake (x : Warp) (r : Nat) (e : Bool) : (x.setSE r e).laneWake = x.laneWake := rfl
@[simp] theorem setSE_lastIssue (x : Warp) (r : Nat) (e : Bool) : (x.setSE r e).lastIssue = x.lastIssue := rfl
@[simp] theorem setSE_readySince (x : Warp) (r : Nat) (e : Bool) : (x.setSE r e).readySince = x.readySince := rfl
@[simp] theorem setSE_boost (x : Warp) (r : Nat) (e : Bool) : (x.setSE r e).boost = x.boost := rfl
@[simp] theorem setSE_barArr (x : Warp) (r : Nat) (e : Bool) : (x.setSE r e).barArr = x.barArr := rfl
@[simp] theorem setSE_preemptReq (x : Warp) (r : Nat) (e : Bool) : (x.setSE r e).preemptReq = x.preemptReq := rfl
@[simp] theorem setSE_termReq (x : Warp) (r : Nat) (e : Bool) : (x.setSE r e).termReq = x.termReq := rfl
@[simp] theorem setSE_byToltar (x : Warp) (r : Nat) (e : Bool) : (x.setSE r e).byToltar = x.byToltar := rfl
@[simp] theorem setSE_captured (x : Warp) (r : Nat) (e : Bool) : (x.setSE r e).captured = x.captured := rfl
@[simp] theorem setSE_toltarPending (x : Warp) (r : Nat) (e : Bool) : (x.setSE r e).toltarPending = x.toltarPending := rfl
@[simp] theorem setSE_nopreEnd (x : Warp) (r : Nat) (e : Bool) : (x.setSE r e).nopreEnd = x.nopreEnd := rfl
@[simp] theorem setSE_preTrapSeq (x : Warp) (r : Nat) (e : Bool) : (x.setSE r e).preTrapSeq = x.preTrapSeq := rfl
@[simp] theorem setSE_entryExited (x : Warp) (r : Nat) (e : Bool) : (x.setSE r e).entryExited = x.entryExited := rfl
@[simp] theorem setSE_entryPc (x : Warp) (r : Nat) (e : Bool) : (x.setSE r e).entryPc = x.entryPc := rfl
@[simp] theorem setSE_entryWaiting (x : Warp) (r : Nat) (e : Bool) : (x.setSE r e).entryWaiting = x.entryWaiting := rfl
@[simp] theorem setSE_entryNrep (x : Warp) (r : Nat) (e : Bool) : (x.setSE r e).entryNrep = x.entryNrep := rfl
@[simp] theorem setSE_entryRep (x : Warp) (r : Nat) (e : Bool) : (x.setSE r e).entryRep = x.entryRep := rfl
@[simp] theorem setSE_entryNsf (x : Warp) (r : Nat) (e : Bool) : (x.setSE r e).entryNsf = x.entryNsf := rfl
@[simp] theorem setSE_saveArea (x : Warp) (r : Nat) (e : Bool) : (x.setSE r e).saveArea = x.saveArea := rfl
@[simp] theorem setSE_formed (x : Warp) (r : Nat) (e : Bool) : (x.setSE r e).formed = x.formed := rfl
@[simp] theorem setSE_svc (x : Warp) (r : Nat) (e : Bool) : (x.setSE r e).svc = x.svc := rfl
@[simp] theorem setSE_ctr (x : Warp) (r : Nat) (e : Bool) : (x.setSE r e).ctr = x.ctr := rfl
@[simp] theorem setSE_undo (x : Warp) (r : Nat) (e : Bool) : (x.setSE r e).undo = x.undo := rfl
@[simp] theorem setSE_undoN (x : Warp) (r : Nat) (e : Bool) : (x.setSE r e).undoN = x.undoN := rfl
@[simp] theorem setSE_stopDone (x : Warp) (r : Nat) (e : Bool) : (x.setSE r e).stopDone = x.stopDone := rfl
@[simp] theorem setSE_issued (x : Warp) (r : Nat) (e : Bool) : (x.setSE r e).issued = x.issued := rfl
@[simp] theorem setSE_preRep (x : Warp) (r : Nat) (e : Bool) : (x.setSE r e).preRep = x.preRep := rfl
@[simp] theorem setSE_ffmas (x : Warp) (r : Nat) (e : Bool) : (x.setSE r e).ffmas = x.ffmas := rfl
@[simp] theorem setSE_putOff (x : Warp) (r : Nat) (e : Bool) : (x.setSE r e).putOff = x.putOff := rfl
@[simp] theorem setSE_passed (x : Warp) (r : Nat) (e : Bool) : (x.setSE r e).passed = x.passed := rfl
@[simp] theorem setSE_moved (x : Warp) (r : Nat) (e : Bool) : (x.setSE r e).moved = x.moved := rfl
@[simp] theorem setSE_isolated (x : Warp) (r : Nat) (e : Bool) : (x.setSE r e).isolated = x.isolated := rfl

/-! `Warp.setPc`. -/

@[simp] theorem setPc_asid (x : Warp) (m : LaneMask) (f : Nat → Nat) : (x.setPc m f).asid = x.asid := rfl
@[simp] theorem setPc_plan (x : Warp) (m : LaneMask) (f : Nat → Nat) : (x.setPc m f).plan = x.plan := rfl
@[simp] theorem setPc_stage (x : Warp) (m : LaneMask) (f : Nat → Nat) : (x.setPc m f).stage = x.stage := rfl
@[simp] theorem setPc_restart (x : Warp) (m : LaneMask) (f : Nat → Nat) : (x.setPc m f).restart = x.restart := rfl
@[simp] theorem setPc_localIdx (x : Warp) (m : LaneMask) (f : Nat → Nat) : (x.setPc m f).localIdx = x.localIdx := rfl
@[simp] theorem setPc_nv (x : Warp) (m : LaneMask) (f : Nat → Nat) : (x.setPc m f).nv = x.nv := rfl
@[simp] theorem setPc_ns (x : Warp) (m : LaneMask) (f : Nat → Nat) : (x.setPc m f).ns = x.ns := rfl
@[simp] theorem setPc_codeBase (x : Warp) (m : LaneMask) (f : Nat → Nat) : (x.setPc m f).codeBase = x.codeBase := rfl
@[simp] theorem setPc_groups (x : Warp) (m : LaneMask) (f : Nat → Nat) : (x.setPc m f).groups = x.groups := rfl
@[simp] theorem setPc_insts (x : Warp) (m : LaneMask) (f : Nat → Nat) : (x.setPc m f).insts = x.insts := rfl
@[simp] theorem setPc_pc (x : Warp) (m : LaneMask) (f : Nat → Nat) : (x.setPc m f).pc = allLanes.map (fun l => if m.getLsbD l then f l else x.pc.getD l 0) := rfl
@[simp] theorem setPc_active (x : Warp) (m : LaneMask) (f : Nat → Nat) : (x.setPc m f).active = x.active := rfl
@[simp] theorem setPc_waiting (x : Warp) (m : LaneMask) (f : Nat → Nat) : (x.setPc m f).waiting = x.waiting := rfl
@[simp] theorem setPc_exited (x : Warp) (m : LaneMask) (f : Nat → Nat) : (x.setPc m f).exited = x.exited := rfl
@[simp] theorem setPc_point (x : Warp) (m : LaneMask) (f : Nat → Nat) : (x.setPc m f).point = x.point := rfl
@[simp] theorem setPc_cmask (x : Warp) (m : LaneMask) (f : Nat → Nat) : (x.setPc m f).cmask = x.cmask := rfl
@[simp] theorem setPc_age (x : Warp) (m : LaneMask) (f : Nat → Nat) : (x.setPc m f).age = x.age := rfl
@[simp] theorem setPc_vreg (x : Warp) (m : LaneMask) (f : Nat → Nat) : (x.setPc m f).vreg = x.vreg := rfl
@[simp] theorem setPc_vE (x : Warp) (m : LaneMask) (f : Nat → Nat) : (x.setPc m f).vE = x.vE := rfl
@[simp] theorem setPc_sreg (x : Warp) (m : LaneMask) (f : Nat → Nat) : (x.setPc m f).sreg = x.sreg := rfl
@[simp] theorem setPc_sE (x : Warp) (m : LaneMask) (f : Nat → Nat) : (x.setPc m f).sE = x.sE := rfl
@[simp] theorem setPc_pred (x : Warp) (m : LaneMask) (f : Nat → Nat) : (x.setPc m f).pred = x.pred := rfl
@[simp] theorem setPc_upred (x : Warp) (m : LaneMask) (f : Nat → Nat) : (x.setPc m f).upred = x.upred := rfl
@[simp] theorem setPc_tile (x : Warp) (m : LaneMask) (f : Nat → Nat) : (x.setPc m f).tile = x.tile := rfl
@[simp] theorem setPc_busy (x : Warp) (m : LaneMask) (f : Nat → Nat) : (x.setPc m f).busy = x.busy := rfl
@[simp] theorem setPc_fpstat (x : Warp) (m : LaneMask) (f : Nat → Nat) : (x.setPc m f).fpstat = x.fpstat := rfl
@[simp] theorem setPc_prio (x : Warp) (m : LaneMask) (f : Nat → Nat) : (x.setPc m f).prio = x.prio := rfl
@[simp] theorem setPc_fpctl (x : Warp) (m : LaneMask) (f : Nat → Nat) : (x.setPc m f).fpctl = x.fpctl := rfl
@[simp] theorem setPc_trapbase (x : Warp) (m : LaneMask) (f : Nat → Nat) : (x.setPc m f).trapbase = x.trapbase := rfl
@[simp] theorem setPc_tmode (x : Warp) (m : LaneMask) (f : Nat → Nat) : (x.setPc m f).tmode = x.tmode := rfl
@[simp] theorem setPc_mctl (x : Warp) (m : LaneMask) (f : Nat → Nat) : (x.setPc m f).mctl = x.mctl := rfl
@[simp] theorem setPc_mstat (x : Warp) (m : LaneMask) (f : Nat → Nat) : (x.setPc m f).mstat = x.mstat := rfl
@[simp] theorem setPc_cause (x : Warp) (m : LaneMask) (f : Nat → Nat) : (x.setPc m f).cause = x.cause := rfl
@[simp] theorem setPc_faddr (x : Warp) (m : LaneMask) (f : Nat → Nat) : (x.setPc m f).faddr = x.faddr := rfl
@[simp] theorem setPc_watch (x : Warp) (m : LaneMask) (f : Nat → Nat) : (x.setPc m f).watch = x.watch := rfl
@[simp] theorem setPc_wauto (x : Warp) (m : LaneMask) (f : Nat → Nat) : (x.setPc m f).wauto = x.wauto := rfl
@[simp] theorem setPc_storeq (x : Warp) (m : LaneMask) (f : Nat → Nat) : (x.setPc m f).storeq = x.storeq := rfl
@[simp] theorem setPc_unacked (x : Warp) (m : LaneMask) (f : Nat → Nat) : (x.setPc m f).unacked = x.unacked := rfl
@[simp] theorem setPc_flights (x : Warp) (m : LaneMask) (f : Nat → Nat) : (x.setPc m f).flights = x.flights := rfl
@[simp] theorem setPc_nextSeq (x : Warp) (m : LaneMask) (f : Nat → Nat) : (x.setPc m f).nextSeq = x.nextSeq := rfl
@[simp] theorem setPc_relMark (x : Warp) (m : LaneMask) (f : Nat → Nat) : (x.setPc m f).relMark = x.relMark := rfl
@[simp] theorem setPc_tokens (x : Warp) (m : LaneMask) (f : Nat → Nat) : (x.setPc m f).tokens = x.tokens := rfl
@[simp] theorem setPc_holds (x : Warp) (m : LaneMask) (f : Nat → Nat) : (x.setPc m f).holds = x.holds := rfl
@[simp] theorem setPc_sfq (x : Warp) (m : LaneMask) (f : Nat → Nat) : (x.setPc m f).sfq = x.sfq := rfl
@[simp] theorem setPc_pend (x : Warp) (m : LaneMask) (f : Nat → Nat) : (x.setPc m f).pend = x.pend := rfl
@[simp] theorem setPc_wake (x : Warp) (m : LaneMask) (f : Nat → Nat) : (x.setPc m f).wake = x.wake := rfl
@[simp] theorem setPc_yielding (x : Warp) (m : LaneMask) (f : Nat → Nat) : (x.setPc m f).yielding = x.yielding := rfl
@[simp] theorem setPc_yieldEnd (x : Warp) (m : LaneMask) (f : Nat → Nat) : (x.setPc m f).yieldEnd = x.yieldEnd := rfl
@[simp] theorem setPc_aged (x : Warp) (m : LaneMask) (f : Nat → Nat) : (x.setPc m f).aged = x.aged := rfl
@[simp] theorem setPc_laneWake (x : Warp) (m : LaneMask) (f : Nat → Nat) : (x.setPc m f).laneWake = x.laneWake := rfl
@[simp] theorem setPc_lastIssue (x : Warp) (m : LaneMask) (f : Nat → Nat) : (x.setPc m f).lastIssue = x.lastIssue := rfl
@[simp] theorem setPc_readySince (x : Warp) (m : LaneMask) (f : Nat → Nat) : (x.setPc m f).readySince = x.readySince := rfl
@[simp] theorem setPc_boost (x : Warp) (m : LaneMask) (f : Nat → Nat) : (x.setPc m f).boost = x.boost := rfl
@[simp] theorem setPc_barArr (x : Warp) (m : LaneMask) (f : Nat → Nat) : (x.setPc m f).barArr = x.barArr := rfl
@[simp] theorem setPc_preemptReq (x : Warp) (m : LaneMask) (f : Nat → Nat) : (x.setPc m f).preemptReq = x.preemptReq := rfl
@[simp] theorem setPc_termReq (x : Warp) (m : LaneMask) (f : Nat → Nat) : (x.setPc m f).termReq = x.termReq := rfl
@[simp] theorem setPc_byToltar (x : Warp) (m : LaneMask) (f : Nat → Nat) : (x.setPc m f).byToltar = x.byToltar := rfl
@[simp] theorem setPc_captured (x : Warp) (m : LaneMask) (f : Nat → Nat) : (x.setPc m f).captured = x.captured := rfl
@[simp] theorem setPc_toltarPending (x : Warp) (m : LaneMask) (f : Nat → Nat) : (x.setPc m f).toltarPending = x.toltarPending := rfl
@[simp] theorem setPc_nopreEnd (x : Warp) (m : LaneMask) (f : Nat → Nat) : (x.setPc m f).nopreEnd = x.nopreEnd := rfl
@[simp] theorem setPc_preTrapSeq (x : Warp) (m : LaneMask) (f : Nat → Nat) : (x.setPc m f).preTrapSeq = x.preTrapSeq := rfl
@[simp] theorem setPc_entryExited (x : Warp) (m : LaneMask) (f : Nat → Nat) : (x.setPc m f).entryExited = x.entryExited := rfl
@[simp] theorem setPc_entryPc (x : Warp) (m : LaneMask) (f : Nat → Nat) : (x.setPc m f).entryPc = x.entryPc := rfl
@[simp] theorem setPc_entryWaiting (x : Warp) (m : LaneMask) (f : Nat → Nat) : (x.setPc m f).entryWaiting = x.entryWaiting := rfl
@[simp] theorem setPc_entryNrep (x : Warp) (m : LaneMask) (f : Nat → Nat) : (x.setPc m f).entryNrep = x.entryNrep := rfl
@[simp] theorem setPc_entryRep (x : Warp) (m : LaneMask) (f : Nat → Nat) : (x.setPc m f).entryRep = x.entryRep := rfl
@[simp] theorem setPc_entryNsf (x : Warp) (m : LaneMask) (f : Nat → Nat) : (x.setPc m f).entryNsf = x.entryNsf := rfl
@[simp] theorem setPc_saveArea (x : Warp) (m : LaneMask) (f : Nat → Nat) : (x.setPc m f).saveArea = x.saveArea := rfl
@[simp] theorem setPc_formed (x : Warp) (m : LaneMask) (f : Nat → Nat) : (x.setPc m f).formed = x.formed := rfl
@[simp] theorem setPc_svc (x : Warp) (m : LaneMask) (f : Nat → Nat) : (x.setPc m f).svc = x.svc := rfl
@[simp] theorem setPc_ctr (x : Warp) (m : LaneMask) (f : Nat → Nat) : (x.setPc m f).ctr = x.ctr := rfl
@[simp] theorem setPc_undo (x : Warp) (m : LaneMask) (f : Nat → Nat) : (x.setPc m f).undo = x.undo := rfl
@[simp] theorem setPc_undoN (x : Warp) (m : LaneMask) (f : Nat → Nat) : (x.setPc m f).undoN = x.undoN := rfl
@[simp] theorem setPc_stopDone (x : Warp) (m : LaneMask) (f : Nat → Nat) : (x.setPc m f).stopDone = x.stopDone := rfl
@[simp] theorem setPc_issued (x : Warp) (m : LaneMask) (f : Nat → Nat) : (x.setPc m f).issued = x.issued := rfl
@[simp] theorem setPc_preRep (x : Warp) (m : LaneMask) (f : Nat → Nat) : (x.setPc m f).preRep = x.preRep := rfl
@[simp] theorem setPc_ffmas (x : Warp) (m : LaneMask) (f : Nat → Nat) : (x.setPc m f).ffmas = x.ffmas := rfl
@[simp] theorem setPc_putOff (x : Warp) (m : LaneMask) (f : Nat → Nat) : (x.setPc m f).putOff = x.putOff := rfl
@[simp] theorem setPc_passed (x : Warp) (m : LaneMask) (f : Nat → Nat) : (x.setPc m f).passed = x.passed := rfl
@[simp] theorem setPc_moved (x : Warp) (m : LaneMask) (f : Nat → Nat) : (x.setPc m f).moved = x.moved := rfl
@[simp] theorem setPc_isolated (x : Warp) (m : LaneMask) (f : Nat → Nat) : (x.setPc m f).isolated = x.isolated := rfl

/-! `Warp.addFlags`. -/

@[simp] theorem addFlags_asid (x : Warp) (m : LaneMask) (l : List Nat) : (x.addFlags m l).asid = x.asid := rfl
@[simp] theorem addFlags_plan (x : Warp) (m : LaneMask) (l : List Nat) : (x.addFlags m l).plan = x.plan := rfl
@[simp] theorem addFlags_stage (x : Warp) (m : LaneMask) (l : List Nat) : (x.addFlags m l).stage = x.stage := rfl
@[simp] theorem addFlags_restart (x : Warp) (m : LaneMask) (l : List Nat) : (x.addFlags m l).restart = x.restart := rfl
@[simp] theorem addFlags_localIdx (x : Warp) (m : LaneMask) (l : List Nat) : (x.addFlags m l).localIdx = x.localIdx := rfl
@[simp] theorem addFlags_nv (x : Warp) (m : LaneMask) (l : List Nat) : (x.addFlags m l).nv = x.nv := rfl
@[simp] theorem addFlags_ns (x : Warp) (m : LaneMask) (l : List Nat) : (x.addFlags m l).ns = x.ns := rfl
@[simp] theorem addFlags_codeBase (x : Warp) (m : LaneMask) (l : List Nat) : (x.addFlags m l).codeBase = x.codeBase := rfl
@[simp] theorem addFlags_groups (x : Warp) (m : LaneMask) (l : List Nat) : (x.addFlags m l).groups = x.groups := rfl
@[simp] theorem addFlags_insts (x : Warp) (m : LaneMask) (l : List Nat) : (x.addFlags m l).insts = x.insts := rfl
@[simp] theorem addFlags_pc (x : Warp) (m : LaneMask) (l : List Nat) : (x.addFlags m l).pc = x.pc := rfl
@[simp] theorem addFlags_active (x : Warp) (m : LaneMask) (l : List Nat) : (x.addFlags m l).active = x.active := rfl
@[simp] theorem addFlags_waiting (x : Warp) (m : LaneMask) (l : List Nat) : (x.addFlags m l).waiting = x.waiting := rfl
@[simp] theorem addFlags_exited (x : Warp) (m : LaneMask) (l : List Nat) : (x.addFlags m l).exited = x.exited := rfl
@[simp] theorem addFlags_point (x : Warp) (m : LaneMask) (l : List Nat) : (x.addFlags m l).point = x.point := rfl
@[simp] theorem addFlags_cmask (x : Warp) (m : LaneMask) (l : List Nat) : (x.addFlags m l).cmask = x.cmask := rfl
@[simp] theorem addFlags_age (x : Warp) (m : LaneMask) (l : List Nat) : (x.addFlags m l).age = x.age := rfl
@[simp] theorem addFlags_vreg (x : Warp) (m : LaneMask) (l : List Nat) : (x.addFlags m l).vreg = x.vreg := rfl
@[simp] theorem addFlags_vE (x : Warp) (m : LaneMask) (l : List Nat) : (x.addFlags m l).vE = x.vE := rfl
@[simp] theorem addFlags_sreg (x : Warp) (m : LaneMask) (l : List Nat) : (x.addFlags m l).sreg = x.sreg := rfl
@[simp] theorem addFlags_sE (x : Warp) (m : LaneMask) (l : List Nat) : (x.addFlags m l).sE = x.sE := rfl
@[simp] theorem addFlags_pred (x : Warp) (m : LaneMask) (l : List Nat) : (x.addFlags m l).pred = x.pred := rfl
@[simp] theorem addFlags_upred (x : Warp) (m : LaneMask) (l : List Nat) : (x.addFlags m l).upred = x.upred := rfl
@[simp] theorem addFlags_tile (x : Warp) (m : LaneMask) (l : List Nat) : (x.addFlags m l).tile = x.tile := rfl
@[simp] theorem addFlags_busy (x : Warp) (m : LaneMask) (l : List Nat) : (x.addFlags m l).busy = x.busy := rfl
@[simp] theorem addFlags_fpstat (x : Warp) (m : LaneMask) (l : List Nat) : (x.addFlags m l).fpstat = merge m (allLanes.map (fun i => x.fpstat.getD i 0 ||| l.getD i 0)) x.fpstat 0 := rfl
@[simp] theorem addFlags_prio (x : Warp) (m : LaneMask) (l : List Nat) : (x.addFlags m l).prio = x.prio := rfl
@[simp] theorem addFlags_fpctl (x : Warp) (m : LaneMask) (l : List Nat) : (x.addFlags m l).fpctl = x.fpctl := rfl
@[simp] theorem addFlags_trapbase (x : Warp) (m : LaneMask) (l : List Nat) : (x.addFlags m l).trapbase = x.trapbase := rfl
@[simp] theorem addFlags_tmode (x : Warp) (m : LaneMask) (l : List Nat) : (x.addFlags m l).tmode = x.tmode := rfl
@[simp] theorem addFlags_mctl (x : Warp) (m : LaneMask) (l : List Nat) : (x.addFlags m l).mctl = x.mctl := rfl
@[simp] theorem addFlags_mstat (x : Warp) (m : LaneMask) (l : List Nat) : (x.addFlags m l).mstat = x.mstat := rfl
@[simp] theorem addFlags_cause (x : Warp) (m : LaneMask) (l : List Nat) : (x.addFlags m l).cause = x.cause := rfl
@[simp] theorem addFlags_faddr (x : Warp) (m : LaneMask) (l : List Nat) : (x.addFlags m l).faddr = x.faddr := rfl
@[simp] theorem addFlags_watch (x : Warp) (m : LaneMask) (l : List Nat) : (x.addFlags m l).watch = x.watch := rfl
@[simp] theorem addFlags_wauto (x : Warp) (m : LaneMask) (l : List Nat) : (x.addFlags m l).wauto = x.wauto := rfl
@[simp] theorem addFlags_storeq (x : Warp) (m : LaneMask) (l : List Nat) : (x.addFlags m l).storeq = x.storeq := rfl
@[simp] theorem addFlags_unacked (x : Warp) (m : LaneMask) (l : List Nat) : (x.addFlags m l).unacked = x.unacked := rfl
@[simp] theorem addFlags_flights (x : Warp) (m : LaneMask) (l : List Nat) : (x.addFlags m l).flights = x.flights := rfl
@[simp] theorem addFlags_nextSeq (x : Warp) (m : LaneMask) (l : List Nat) : (x.addFlags m l).nextSeq = x.nextSeq := rfl
@[simp] theorem addFlags_relMark (x : Warp) (m : LaneMask) (l : List Nat) : (x.addFlags m l).relMark = x.relMark := rfl
@[simp] theorem addFlags_tokens (x : Warp) (m : LaneMask) (l : List Nat) : (x.addFlags m l).tokens = x.tokens := rfl
@[simp] theorem addFlags_holds (x : Warp) (m : LaneMask) (l : List Nat) : (x.addFlags m l).holds = x.holds := rfl
@[simp] theorem addFlags_sfq (x : Warp) (m : LaneMask) (l : List Nat) : (x.addFlags m l).sfq = x.sfq := rfl
@[simp] theorem addFlags_pend (x : Warp) (m : LaneMask) (l : List Nat) : (x.addFlags m l).pend = x.pend := rfl
@[simp] theorem addFlags_wake (x : Warp) (m : LaneMask) (l : List Nat) : (x.addFlags m l).wake = x.wake := rfl
@[simp] theorem addFlags_yielding (x : Warp) (m : LaneMask) (l : List Nat) : (x.addFlags m l).yielding = x.yielding := rfl
@[simp] theorem addFlags_yieldEnd (x : Warp) (m : LaneMask) (l : List Nat) : (x.addFlags m l).yieldEnd = x.yieldEnd := rfl
@[simp] theorem addFlags_aged (x : Warp) (m : LaneMask) (l : List Nat) : (x.addFlags m l).aged = x.aged := rfl
@[simp] theorem addFlags_laneWake (x : Warp) (m : LaneMask) (l : List Nat) : (x.addFlags m l).laneWake = x.laneWake := rfl
@[simp] theorem addFlags_lastIssue (x : Warp) (m : LaneMask) (l : List Nat) : (x.addFlags m l).lastIssue = x.lastIssue := rfl
@[simp] theorem addFlags_readySince (x : Warp) (m : LaneMask) (l : List Nat) : (x.addFlags m l).readySince = x.readySince := rfl
@[simp] theorem addFlags_boost (x : Warp) (m : LaneMask) (l : List Nat) : (x.addFlags m l).boost = x.boost := rfl
@[simp] theorem addFlags_barArr (x : Warp) (m : LaneMask) (l : List Nat) : (x.addFlags m l).barArr = x.barArr := rfl
@[simp] theorem addFlags_preemptReq (x : Warp) (m : LaneMask) (l : List Nat) : (x.addFlags m l).preemptReq = x.preemptReq := rfl
@[simp] theorem addFlags_termReq (x : Warp) (m : LaneMask) (l : List Nat) : (x.addFlags m l).termReq = x.termReq := rfl
@[simp] theorem addFlags_byToltar (x : Warp) (m : LaneMask) (l : List Nat) : (x.addFlags m l).byToltar = x.byToltar := rfl
@[simp] theorem addFlags_captured (x : Warp) (m : LaneMask) (l : List Nat) : (x.addFlags m l).captured = x.captured := rfl
@[simp] theorem addFlags_toltarPending (x : Warp) (m : LaneMask) (l : List Nat) : (x.addFlags m l).toltarPending = x.toltarPending := rfl
@[simp] theorem addFlags_nopreEnd (x : Warp) (m : LaneMask) (l : List Nat) : (x.addFlags m l).nopreEnd = x.nopreEnd := rfl
@[simp] theorem addFlags_preTrapSeq (x : Warp) (m : LaneMask) (l : List Nat) : (x.addFlags m l).preTrapSeq = x.preTrapSeq := rfl
@[simp] theorem addFlags_entryExited (x : Warp) (m : LaneMask) (l : List Nat) : (x.addFlags m l).entryExited = x.entryExited := rfl
@[simp] theorem addFlags_entryPc (x : Warp) (m : LaneMask) (l : List Nat) : (x.addFlags m l).entryPc = x.entryPc := rfl
@[simp] theorem addFlags_entryWaiting (x : Warp) (m : LaneMask) (l : List Nat) : (x.addFlags m l).entryWaiting = x.entryWaiting := rfl
@[simp] theorem addFlags_entryNrep (x : Warp) (m : LaneMask) (l : List Nat) : (x.addFlags m l).entryNrep = x.entryNrep := rfl
@[simp] theorem addFlags_entryRep (x : Warp) (m : LaneMask) (l : List Nat) : (x.addFlags m l).entryRep = x.entryRep := rfl
@[simp] theorem addFlags_entryNsf (x : Warp) (m : LaneMask) (l : List Nat) : (x.addFlags m l).entryNsf = x.entryNsf := rfl
@[simp] theorem addFlags_saveArea (x : Warp) (m : LaneMask) (l : List Nat) : (x.addFlags m l).saveArea = x.saveArea := rfl
@[simp] theorem addFlags_formed (x : Warp) (m : LaneMask) (l : List Nat) : (x.addFlags m l).formed = x.formed := rfl
@[simp] theorem addFlags_svc (x : Warp) (m : LaneMask) (l : List Nat) : (x.addFlags m l).svc = x.svc := rfl
@[simp] theorem addFlags_ctr (x : Warp) (m : LaneMask) (l : List Nat) : (x.addFlags m l).ctr = x.ctr := rfl
@[simp] theorem addFlags_undo (x : Warp) (m : LaneMask) (l : List Nat) : (x.addFlags m l).undo = x.undo := rfl
@[simp] theorem addFlags_undoN (x : Warp) (m : LaneMask) (l : List Nat) : (x.addFlags m l).undoN = x.undoN := rfl
@[simp] theorem addFlags_stopDone (x : Warp) (m : LaneMask) (l : List Nat) : (x.addFlags m l).stopDone = x.stopDone := rfl
@[simp] theorem addFlags_issued (x : Warp) (m : LaneMask) (l : List Nat) : (x.addFlags m l).issued = x.issued := rfl
@[simp] theorem addFlags_preRep (x : Warp) (m : LaneMask) (l : List Nat) : (x.addFlags m l).preRep = x.preRep := rfl
@[simp] theorem addFlags_ffmas (x : Warp) (m : LaneMask) (l : List Nat) : (x.addFlags m l).ffmas = x.ffmas := rfl
@[simp] theorem addFlags_putOff (x : Warp) (m : LaneMask) (l : List Nat) : (x.addFlags m l).putOff = x.putOff := rfl
@[simp] theorem addFlags_passed (x : Warp) (m : LaneMask) (l : List Nat) : (x.addFlags m l).passed = x.passed := rfl
@[simp] theorem addFlags_moved (x : Warp) (m : LaneMask) (l : List Nat) : (x.addFlags m l).moved = x.moved := rfl
@[simp] theorem addFlags_isolated (x : Warp) (m : LaneMask) (l : List Nat) : (x.addFlags m l).isolated = x.isolated := rfl

/-- What each step of a fold keeps, the fold keeps. -/
theorem foldl_keeps {α β γ : Type} {f : α → β → α} (p : α → γ) (h : ∀ x d, p (f x d) = p x) (l : List β) (x : α) :
    p (l.foldl f x) = p x := by
  induction l generalizing x with
  | nil => rfl
  | cons d r ih => exact (ih _).trans (h x d)

/-! `Warp.emptyDest`, and over a list of destinations. -/

@[simp] theorem emptyDest_asid (x : Warp) (d : RegWrite) : (x.emptyDest d).asid = x.asid := by cases d <;> rfl
@[simp] theorem emptyAll_asid (x : Warp) (l : List RegWrite) : (x.emptyAll l).asid = x.asid := 
  foldl_keeps Warp.asid emptyDest_asid l x
@[simp] theorem emptyDest_plan (x : Warp) (d : RegWrite) : (x.emptyDest d).plan = x.plan := by cases d <;> rfl
@[simp] theorem emptyAll_plan (x : Warp) (l : List RegWrite) : (x.emptyAll l).plan = x.plan := 
  foldl_keeps Warp.plan emptyDest_plan l x
@[simp] theorem emptyDest_stage (x : Warp) (d : RegWrite) : (x.emptyDest d).stage = x.stage := by cases d <;> rfl
@[simp] theorem emptyAll_stage (x : Warp) (l : List RegWrite) : (x.emptyAll l).stage = x.stage := 
  foldl_keeps Warp.stage emptyDest_stage l x
@[simp] theorem emptyDest_restart (x : Warp) (d : RegWrite) : (x.emptyDest d).restart = x.restart := by cases d <;> rfl
@[simp] theorem emptyAll_restart (x : Warp) (l : List RegWrite) : (x.emptyAll l).restart = x.restart := 
  foldl_keeps Warp.restart emptyDest_restart l x
@[simp] theorem emptyDest_localIdx (x : Warp) (d : RegWrite) : (x.emptyDest d).localIdx = x.localIdx := by cases d <;> rfl
@[simp] theorem emptyAll_localIdx (x : Warp) (l : List RegWrite) : (x.emptyAll l).localIdx = x.localIdx := 
  foldl_keeps Warp.localIdx emptyDest_localIdx l x
@[simp] theorem emptyDest_nv (x : Warp) (d : RegWrite) : (x.emptyDest d).nv = x.nv := by cases d <;> rfl
@[simp] theorem emptyAll_nv (x : Warp) (l : List RegWrite) : (x.emptyAll l).nv = x.nv := 
  foldl_keeps Warp.nv emptyDest_nv l x
@[simp] theorem emptyDest_ns (x : Warp) (d : RegWrite) : (x.emptyDest d).ns = x.ns := by cases d <;> rfl
@[simp] theorem emptyAll_ns (x : Warp) (l : List RegWrite) : (x.emptyAll l).ns = x.ns := 
  foldl_keeps Warp.ns emptyDest_ns l x
@[simp] theorem emptyDest_codeBase (x : Warp) (d : RegWrite) : (x.emptyDest d).codeBase = x.codeBase := by cases d <;> rfl
@[simp] theorem emptyAll_codeBase (x : Warp) (l : List RegWrite) : (x.emptyAll l).codeBase = x.codeBase := 
  foldl_keeps Warp.codeBase emptyDest_codeBase l x
@[simp] theorem emptyDest_groups (x : Warp) (d : RegWrite) : (x.emptyDest d).groups = x.groups := by cases d <;> rfl
@[simp] theorem emptyAll_groups (x : Warp) (l : List RegWrite) : (x.emptyAll l).groups = x.groups := 
  foldl_keeps Warp.groups emptyDest_groups l x
@[simp] theorem emptyDest_insts (x : Warp) (d : RegWrite) : (x.emptyDest d).insts = x.insts := by cases d <;> rfl
@[simp] theorem emptyAll_insts (x : Warp) (l : List RegWrite) : (x.emptyAll l).insts = x.insts := 
  foldl_keeps Warp.insts emptyDest_insts l x
@[simp] theorem emptyDest_pc (x : Warp) (d : RegWrite) : (x.emptyDest d).pc = x.pc := by cases d <;> rfl
@[simp] theorem emptyAll_pc (x : Warp) (l : List RegWrite) : (x.emptyAll l).pc = x.pc := 
  foldl_keeps Warp.pc emptyDest_pc l x
@[simp] theorem emptyDest_active (x : Warp) (d : RegWrite) : (x.emptyDest d).active = x.active := by cases d <;> rfl
@[simp] theorem emptyAll_active (x : Warp) (l : List RegWrite) : (x.emptyAll l).active = x.active := 
  foldl_keeps Warp.active emptyDest_active l x
@[simp] theorem emptyDest_waiting (x : Warp) (d : RegWrite) : (x.emptyDest d).waiting = x.waiting := by cases d <;> rfl
@[simp] theorem emptyAll_waiting (x : Warp) (l : List RegWrite) : (x.emptyAll l).waiting = x.waiting := 
  foldl_keeps Warp.waiting emptyDest_waiting l x
@[simp] theorem emptyDest_exited (x : Warp) (d : RegWrite) : (x.emptyDest d).exited = x.exited := by cases d <;> rfl
@[simp] theorem emptyAll_exited (x : Warp) (l : List RegWrite) : (x.emptyAll l).exited = x.exited := 
  foldl_keeps Warp.exited emptyDest_exited l x
@[simp] theorem emptyDest_point (x : Warp) (d : RegWrite) : (x.emptyDest d).point = x.point := by cases d <;> rfl
@[simp] theorem emptyAll_point (x : Warp) (l : List RegWrite) : (x.emptyAll l).point = x.point := 
  foldl_keeps Warp.point emptyDest_point l x
@[simp] theorem emptyDest_cmask (x : Warp) (d : RegWrite) : (x.emptyDest d).cmask = x.cmask := by cases d <;> rfl
@[simp] theorem emptyAll_cmask (x : Warp) (l : List RegWrite) : (x.emptyAll l).cmask = x.cmask := 
  foldl_keeps Warp.cmask emptyDest_cmask l x
@[simp] theorem emptyDest_age (x : Warp) (d : RegWrite) : (x.emptyDest d).age = x.age := by cases d <;> rfl
@[simp] theorem emptyAll_age (x : Warp) (l : List RegWrite) : (x.emptyAll l).age = x.age := 
  foldl_keeps Warp.age emptyDest_age l x
@[simp] theorem emptyDest_vreg (x : Warp) (d : RegWrite) : (x.emptyDest d).vreg = x.vreg := by cases d <;> rfl
@[simp] theorem emptyAll_vreg (x : Warp) (l : List RegWrite) : (x.emptyAll l).vreg = x.vreg := 
  foldl_keeps Warp.vreg emptyDest_vreg l x
@[simp] theorem emptyDest_sreg (x : Warp) (d : RegWrite) : (x.emptyDest d).sreg = x.sreg := by cases d <;> rfl
@[simp] theorem emptyAll_sreg (x : Warp) (l : List RegWrite) : (x.emptyAll l).sreg = x.sreg := 
  foldl_keeps Warp.sreg emptyDest_sreg l x
@[simp] theorem emptyDest_pred (x : Warp) (d : RegWrite) : (x.emptyDest d).pred = x.pred := by cases d <;> rfl
@[simp] theorem emptyAll_pred (x : Warp) (l : List RegWrite) : (x.emptyAll l).pred = x.pred := 
  foldl_keeps Warp.pred emptyDest_pred l x
@[simp] theorem emptyDest_upred (x : Warp) (d : RegWrite) : (x.emptyDest d).upred = x.upred := by cases d <;> rfl
@[simp] theorem emptyAll_upred (x : Warp) (l : List RegWrite) : (x.emptyAll l).upred = x.upred := 
  foldl_keeps Warp.upred emptyDest_upred l x
@[simp] theorem emptyDest_tile (x : Warp) (d : RegWrite) : (x.emptyDest d).tile = x.tile := by cases d <;> rfl
@[simp] theorem emptyAll_tile (x : Warp) (l : List RegWrite) : (x.emptyAll l).tile = x.tile := 
  foldl_keeps Warp.tile emptyDest_tile l x
@[simp] theorem emptyDest_busy (x : Warp) (d : RegWrite) : (x.emptyDest d).busy = x.busy := by cases d <;> rfl
@[simp] theorem emptyAll_busy (x : Warp) (l : List RegWrite) : (x.emptyAll l).busy = x.busy := 
  foldl_keeps Warp.busy emptyDest_busy l x
@[simp] theorem emptyDest_fpstat (x : Warp) (d : RegWrite) : (x.emptyDest d).fpstat = x.fpstat := by cases d <;> rfl
@[simp] theorem emptyAll_fpstat (x : Warp) (l : List RegWrite) : (x.emptyAll l).fpstat = x.fpstat := 
  foldl_keeps Warp.fpstat emptyDest_fpstat l x
@[simp] theorem emptyDest_prio (x : Warp) (d : RegWrite) : (x.emptyDest d).prio = x.prio := by cases d <;> rfl
@[simp] theorem emptyAll_prio (x : Warp) (l : List RegWrite) : (x.emptyAll l).prio = x.prio := 
  foldl_keeps Warp.prio emptyDest_prio l x
@[simp] theorem emptyDest_fpctl (x : Warp) (d : RegWrite) : (x.emptyDest d).fpctl = x.fpctl := by cases d <;> rfl
@[simp] theorem emptyAll_fpctl (x : Warp) (l : List RegWrite) : (x.emptyAll l).fpctl = x.fpctl := 
  foldl_keeps Warp.fpctl emptyDest_fpctl l x
@[simp] theorem emptyDest_trapbase (x : Warp) (d : RegWrite) : (x.emptyDest d).trapbase = x.trapbase := by cases d <;> rfl
@[simp] theorem emptyAll_trapbase (x : Warp) (l : List RegWrite) : (x.emptyAll l).trapbase = x.trapbase := 
  foldl_keeps Warp.trapbase emptyDest_trapbase l x
@[simp] theorem emptyDest_tmode (x : Warp) (d : RegWrite) : (x.emptyDest d).tmode = x.tmode := by cases d <;> rfl
@[simp] theorem emptyAll_tmode (x : Warp) (l : List RegWrite) : (x.emptyAll l).tmode = x.tmode := 
  foldl_keeps Warp.tmode emptyDest_tmode l x
@[simp] theorem emptyDest_mctl (x : Warp) (d : RegWrite) : (x.emptyDest d).mctl = x.mctl := by cases d <;> rfl
@[simp] theorem emptyAll_mctl (x : Warp) (l : List RegWrite) : (x.emptyAll l).mctl = x.mctl := 
  foldl_keeps Warp.mctl emptyDest_mctl l x
@[simp] theorem emptyDest_mstat (x : Warp) (d : RegWrite) : (x.emptyDest d).mstat = x.mstat := by cases d <;> rfl
@[simp] theorem emptyAll_mstat (x : Warp) (l : List RegWrite) : (x.emptyAll l).mstat = x.mstat := 
  foldl_keeps Warp.mstat emptyDest_mstat l x
@[simp] theorem emptyDest_cause (x : Warp) (d : RegWrite) : (x.emptyDest d).cause = x.cause := by cases d <;> rfl
@[simp] theorem emptyAll_cause (x : Warp) (l : List RegWrite) : (x.emptyAll l).cause = x.cause := 
  foldl_keeps Warp.cause emptyDest_cause l x
@[simp] theorem emptyDest_faddr (x : Warp) (d : RegWrite) : (x.emptyDest d).faddr = x.faddr := by cases d <;> rfl
@[simp] theorem emptyAll_faddr (x : Warp) (l : List RegWrite) : (x.emptyAll l).faddr = x.faddr := 
  foldl_keeps Warp.faddr emptyDest_faddr l x
@[simp] theorem emptyDest_watch (x : Warp) (d : RegWrite) : (x.emptyDest d).watch = x.watch := by cases d <;> rfl
@[simp] theorem emptyAll_watch (x : Warp) (l : List RegWrite) : (x.emptyAll l).watch = x.watch := 
  foldl_keeps Warp.watch emptyDest_watch l x
@[simp] theorem emptyDest_wauto (x : Warp) (d : RegWrite) : (x.emptyDest d).wauto = x.wauto := by cases d <;> rfl
@[simp] theorem emptyAll_wauto (x : Warp) (l : List RegWrite) : (x.emptyAll l).wauto = x.wauto := 
  foldl_keeps Warp.wauto emptyDest_wauto l x
@[simp] theorem emptyDest_storeq (x : Warp) (d : RegWrite) : (x.emptyDest d).storeq = x.storeq := by cases d <;> rfl
@[simp] theorem emptyAll_storeq (x : Warp) (l : List RegWrite) : (x.emptyAll l).storeq = x.storeq := 
  foldl_keeps Warp.storeq emptyDest_storeq l x
@[simp] theorem emptyDest_unacked (x : Warp) (d : RegWrite) : (x.emptyDest d).unacked = x.unacked := by cases d <;> rfl
@[simp] theorem emptyAll_unacked (x : Warp) (l : List RegWrite) : (x.emptyAll l).unacked = x.unacked := 
  foldl_keeps Warp.unacked emptyDest_unacked l x
@[simp] theorem emptyDest_flights (x : Warp) (d : RegWrite) : (x.emptyDest d).flights = x.flights := by cases d <;> rfl
@[simp] theorem emptyAll_flights (x : Warp) (l : List RegWrite) : (x.emptyAll l).flights = x.flights := 
  foldl_keeps Warp.flights emptyDest_flights l x
@[simp] theorem emptyDest_nextSeq (x : Warp) (d : RegWrite) : (x.emptyDest d).nextSeq = x.nextSeq := by cases d <;> rfl
@[simp] theorem emptyAll_nextSeq (x : Warp) (l : List RegWrite) : (x.emptyAll l).nextSeq = x.nextSeq := 
  foldl_keeps Warp.nextSeq emptyDest_nextSeq l x
@[simp] theorem emptyDest_relMark (x : Warp) (d : RegWrite) : (x.emptyDest d).relMark = x.relMark := by cases d <;> rfl
@[simp] theorem emptyAll_relMark (x : Warp) (l : List RegWrite) : (x.emptyAll l).relMark = x.relMark := 
  foldl_keeps Warp.relMark emptyDest_relMark l x
@[simp] theorem emptyDest_tokens (x : Warp) (d : RegWrite) : (x.emptyDest d).tokens = x.tokens := by cases d <;> rfl
@[simp] theorem emptyAll_tokens (x : Warp) (l : List RegWrite) : (x.emptyAll l).tokens = x.tokens := 
  foldl_keeps Warp.tokens emptyDest_tokens l x
@[simp] theorem emptyDest_holds (x : Warp) (d : RegWrite) : (x.emptyDest d).holds = x.holds := by cases d <;> rfl
@[simp] theorem emptyAll_holds (x : Warp) (l : List RegWrite) : (x.emptyAll l).holds = x.holds := 
  foldl_keeps Warp.holds emptyDest_holds l x
@[simp] theorem emptyDest_sfq (x : Warp) (d : RegWrite) : (x.emptyDest d).sfq = x.sfq := by cases d <;> rfl
@[simp] theorem emptyAll_sfq (x : Warp) (l : List RegWrite) : (x.emptyAll l).sfq = x.sfq := 
  foldl_keeps Warp.sfq emptyDest_sfq l x
@[simp] theorem emptyDest_pend (x : Warp) (d : RegWrite) : (x.emptyDest d).pend = x.pend := by cases d <;> rfl
@[simp] theorem emptyAll_pend (x : Warp) (l : List RegWrite) : (x.emptyAll l).pend = x.pend := 
  foldl_keeps Warp.pend emptyDest_pend l x
@[simp] theorem emptyDest_wake (x : Warp) (d : RegWrite) : (x.emptyDest d).wake = x.wake := by cases d <;> rfl
@[simp] theorem emptyAll_wake (x : Warp) (l : List RegWrite) : (x.emptyAll l).wake = x.wake := 
  foldl_keeps Warp.wake emptyDest_wake l x
@[simp] theorem emptyDest_yielding (x : Warp) (d : RegWrite) : (x.emptyDest d).yielding = x.yielding := by cases d <;> rfl
@[simp] theorem emptyAll_yielding (x : Warp) (l : List RegWrite) : (x.emptyAll l).yielding = x.yielding := 
  foldl_keeps Warp.yielding emptyDest_yielding l x
@[simp] theorem emptyDest_yieldEnd (x : Warp) (d : RegWrite) : (x.emptyDest d).yieldEnd = x.yieldEnd := by cases d <;> rfl
@[simp] theorem emptyAll_yieldEnd (x : Warp) (l : List RegWrite) : (x.emptyAll l).yieldEnd = x.yieldEnd := 
  foldl_keeps Warp.yieldEnd emptyDest_yieldEnd l x
@[simp] theorem emptyDest_aged (x : Warp) (d : RegWrite) : (x.emptyDest d).aged = x.aged := by cases d <;> rfl
@[simp] theorem emptyAll_aged (x : Warp) (l : List RegWrite) : (x.emptyAll l).aged = x.aged := 
  foldl_keeps Warp.aged emptyDest_aged l x
@[simp] theorem emptyDest_laneWake (x : Warp) (d : RegWrite) : (x.emptyDest d).laneWake = x.laneWake := by cases d <;> rfl
@[simp] theorem emptyAll_laneWake (x : Warp) (l : List RegWrite) : (x.emptyAll l).laneWake = x.laneWake := 
  foldl_keeps Warp.laneWake emptyDest_laneWake l x
@[simp] theorem emptyDest_lastIssue (x : Warp) (d : RegWrite) : (x.emptyDest d).lastIssue = x.lastIssue := by cases d <;> rfl
@[simp] theorem emptyAll_lastIssue (x : Warp) (l : List RegWrite) : (x.emptyAll l).lastIssue = x.lastIssue := 
  foldl_keeps Warp.lastIssue emptyDest_lastIssue l x
@[simp] theorem emptyDest_readySince (x : Warp) (d : RegWrite) : (x.emptyDest d).readySince = x.readySince := by cases d <;> rfl
@[simp] theorem emptyAll_readySince (x : Warp) (l : List RegWrite) : (x.emptyAll l).readySince = x.readySince := 
  foldl_keeps Warp.readySince emptyDest_readySince l x
@[simp] theorem emptyDest_boost (x : Warp) (d : RegWrite) : (x.emptyDest d).boost = x.boost := by cases d <;> rfl
@[simp] theorem emptyAll_boost (x : Warp) (l : List RegWrite) : (x.emptyAll l).boost = x.boost := 
  foldl_keeps Warp.boost emptyDest_boost l x
@[simp] theorem emptyDest_barArr (x : Warp) (d : RegWrite) : (x.emptyDest d).barArr = x.barArr := by cases d <;> rfl
@[simp] theorem emptyAll_barArr (x : Warp) (l : List RegWrite) : (x.emptyAll l).barArr = x.barArr := 
  foldl_keeps Warp.barArr emptyDest_barArr l x
@[simp] theorem emptyDest_preemptReq (x : Warp) (d : RegWrite) : (x.emptyDest d).preemptReq = x.preemptReq := by cases d <;> rfl
@[simp] theorem emptyAll_preemptReq (x : Warp) (l : List RegWrite) : (x.emptyAll l).preemptReq = x.preemptReq := 
  foldl_keeps Warp.preemptReq emptyDest_preemptReq l x
@[simp] theorem emptyDest_termReq (x : Warp) (d : RegWrite) : (x.emptyDest d).termReq = x.termReq := by cases d <;> rfl
@[simp] theorem emptyAll_termReq (x : Warp) (l : List RegWrite) : (x.emptyAll l).termReq = x.termReq := 
  foldl_keeps Warp.termReq emptyDest_termReq l x
@[simp] theorem emptyDest_byToltar (x : Warp) (d : RegWrite) : (x.emptyDest d).byToltar = x.byToltar := by cases d <;> rfl
@[simp] theorem emptyAll_byToltar (x : Warp) (l : List RegWrite) : (x.emptyAll l).byToltar = x.byToltar := 
  foldl_keeps Warp.byToltar emptyDest_byToltar l x
@[simp] theorem emptyDest_captured (x : Warp) (d : RegWrite) : (x.emptyDest d).captured = x.captured := by cases d <;> rfl
@[simp] theorem emptyAll_captured (x : Warp) (l : List RegWrite) : (x.emptyAll l).captured = x.captured := 
  foldl_keeps Warp.captured emptyDest_captured l x
@[simp] theorem emptyDest_toltarPending (x : Warp) (d : RegWrite) : (x.emptyDest d).toltarPending = x.toltarPending := by cases d <;> rfl
@[simp] theorem emptyAll_toltarPending (x : Warp) (l : List RegWrite) : (x.emptyAll l).toltarPending = x.toltarPending := 
  foldl_keeps Warp.toltarPending emptyDest_toltarPending l x
@[simp] theorem emptyDest_nopreEnd (x : Warp) (d : RegWrite) : (x.emptyDest d).nopreEnd = x.nopreEnd := by cases d <;> rfl
@[simp] theorem emptyAll_nopreEnd (x : Warp) (l : List RegWrite) : (x.emptyAll l).nopreEnd = x.nopreEnd := 
  foldl_keeps Warp.nopreEnd emptyDest_nopreEnd l x
@[simp] theorem emptyDest_preTrapSeq (x : Warp) (d : RegWrite) : (x.emptyDest d).preTrapSeq = x.preTrapSeq := by cases d <;> rfl
@[simp] theorem emptyAll_preTrapSeq (x : Warp) (l : List RegWrite) : (x.emptyAll l).preTrapSeq = x.preTrapSeq := 
  foldl_keeps Warp.preTrapSeq emptyDest_preTrapSeq l x
@[simp] theorem emptyDest_entryExited (x : Warp) (d : RegWrite) : (x.emptyDest d).entryExited = x.entryExited := by cases d <;> rfl
@[simp] theorem emptyAll_entryExited (x : Warp) (l : List RegWrite) : (x.emptyAll l).entryExited = x.entryExited := 
  foldl_keeps Warp.entryExited emptyDest_entryExited l x
@[simp] theorem emptyDest_entryPc (x : Warp) (d : RegWrite) : (x.emptyDest d).entryPc = x.entryPc := by cases d <;> rfl
@[simp] theorem emptyAll_entryPc (x : Warp) (l : List RegWrite) : (x.emptyAll l).entryPc = x.entryPc := 
  foldl_keeps Warp.entryPc emptyDest_entryPc l x
@[simp] theorem emptyDest_entryWaiting (x : Warp) (d : RegWrite) : (x.emptyDest d).entryWaiting = x.entryWaiting := by cases d <;> rfl
@[simp] theorem emptyAll_entryWaiting (x : Warp) (l : List RegWrite) : (x.emptyAll l).entryWaiting = x.entryWaiting := 
  foldl_keeps Warp.entryWaiting emptyDest_entryWaiting l x
@[simp] theorem emptyDest_entryNrep (x : Warp) (d : RegWrite) : (x.emptyDest d).entryNrep = x.entryNrep := by cases d <;> rfl
@[simp] theorem emptyAll_entryNrep (x : Warp) (l : List RegWrite) : (x.emptyAll l).entryNrep = x.entryNrep := 
  foldl_keeps Warp.entryNrep emptyDest_entryNrep l x
@[simp] theorem emptyDest_entryRep (x : Warp) (d : RegWrite) : (x.emptyDest d).entryRep = x.entryRep := by cases d <;> rfl
@[simp] theorem emptyAll_entryRep (x : Warp) (l : List RegWrite) : (x.emptyAll l).entryRep = x.entryRep := 
  foldl_keeps Warp.entryRep emptyDest_entryRep l x
@[simp] theorem emptyDest_entryNsf (x : Warp) (d : RegWrite) : (x.emptyDest d).entryNsf = x.entryNsf := by cases d <;> rfl
@[simp] theorem emptyAll_entryNsf (x : Warp) (l : List RegWrite) : (x.emptyAll l).entryNsf = x.entryNsf := 
  foldl_keeps Warp.entryNsf emptyDest_entryNsf l x
@[simp] theorem emptyDest_saveArea (x : Warp) (d : RegWrite) : (x.emptyDest d).saveArea = x.saveArea := by cases d <;> rfl
@[simp] theorem emptyAll_saveArea (x : Warp) (l : List RegWrite) : (x.emptyAll l).saveArea = x.saveArea := 
  foldl_keeps Warp.saveArea emptyDest_saveArea l x
@[simp] theorem emptyDest_formed (x : Warp) (d : RegWrite) : (x.emptyDest d).formed = x.formed := by cases d <;> rfl
@[simp] theorem emptyAll_formed (x : Warp) (l : List RegWrite) : (x.emptyAll l).formed = x.formed := 
  foldl_keeps Warp.formed emptyDest_formed l x
@[simp] theorem emptyDest_svc (x : Warp) (d : RegWrite) : (x.emptyDest d).svc = x.svc := by cases d <;> rfl
@[simp] theorem emptyAll_svc (x : Warp) (l : List RegWrite) : (x.emptyAll l).svc = x.svc := 
  foldl_keeps Warp.svc emptyDest_svc l x
@[simp] theorem emptyDest_ctr (x : Warp) (d : RegWrite) : (x.emptyDest d).ctr = x.ctr := by cases d <;> rfl
@[simp] theorem emptyAll_ctr (x : Warp) (l : List RegWrite) : (x.emptyAll l).ctr = x.ctr := 
  foldl_keeps Warp.ctr emptyDest_ctr l x
@[simp] theorem emptyDest_undo (x : Warp) (d : RegWrite) : (x.emptyDest d).undo = x.undo := by cases d <;> rfl
@[simp] theorem emptyAll_undo (x : Warp) (l : List RegWrite) : (x.emptyAll l).undo = x.undo := 
  foldl_keeps Warp.undo emptyDest_undo l x
@[simp] theorem emptyDest_undoN (x : Warp) (d : RegWrite) : (x.emptyDest d).undoN = x.undoN := by cases d <;> rfl
@[simp] theorem emptyAll_undoN (x : Warp) (l : List RegWrite) : (x.emptyAll l).undoN = x.undoN := 
  foldl_keeps Warp.undoN emptyDest_undoN l x
@[simp] theorem emptyDest_stopDone (x : Warp) (d : RegWrite) : (x.emptyDest d).stopDone = x.stopDone := by cases d <;> rfl
@[simp] theorem emptyAll_stopDone (x : Warp) (l : List RegWrite) : (x.emptyAll l).stopDone = x.stopDone := 
  foldl_keeps Warp.stopDone emptyDest_stopDone l x
@[simp] theorem emptyDest_issued (x : Warp) (d : RegWrite) : (x.emptyDest d).issued = x.issued := by cases d <;> rfl
@[simp] theorem emptyAll_issued (x : Warp) (l : List RegWrite) : (x.emptyAll l).issued = x.issued := 
  foldl_keeps Warp.issued emptyDest_issued l x
@[simp] theorem emptyDest_preRep (x : Warp) (d : RegWrite) : (x.emptyDest d).preRep = x.preRep := by cases d <;> rfl
@[simp] theorem emptyAll_preRep (x : Warp) (l : List RegWrite) : (x.emptyAll l).preRep = x.preRep := 
  foldl_keeps Warp.preRep emptyDest_preRep l x
@[simp] theorem emptyDest_ffmas (x : Warp) (d : RegWrite) : (x.emptyDest d).ffmas = x.ffmas := by cases d <;> rfl
@[simp] theorem emptyAll_ffmas (x : Warp) (l : List RegWrite) : (x.emptyAll l).ffmas = x.ffmas := 
  foldl_keeps Warp.ffmas emptyDest_ffmas l x
@[simp] theorem emptyDest_putOff (x : Warp) (d : RegWrite) : (x.emptyDest d).putOff = x.putOff := by cases d <;> rfl
@[simp] theorem emptyAll_putOff (x : Warp) (l : List RegWrite) : (x.emptyAll l).putOff = x.putOff := 
  foldl_keeps Warp.putOff emptyDest_putOff l x
@[simp] theorem emptyDest_passed (x : Warp) (d : RegWrite) : (x.emptyDest d).passed = x.passed := by cases d <;> rfl
@[simp] theorem emptyAll_passed (x : Warp) (l : List RegWrite) : (x.emptyAll l).passed = x.passed := 
  foldl_keeps Warp.passed emptyDest_passed l x
@[simp] theorem emptyDest_moved (x : Warp) (d : RegWrite) : (x.emptyDest d).moved = x.moved := by cases d <;> rfl
@[simp] theorem emptyAll_moved (x : Warp) (l : List RegWrite) : (x.emptyAll l).moved = x.moved := 
  foldl_keeps Warp.moved emptyDest_moved l x
@[simp] theorem emptyDest_isolated (x : Warp) (d : RegWrite) : (x.emptyDest d).isolated = x.isolated := by cases d <;> rfl
@[simp] theorem emptyAll_isolated (x : Warp) (l : List RegWrite) : (x.emptyAll l).isolated = x.isolated := 
  foldl_keeps Warp.isolated emptyDest_isolated l x

/-! `Warp.fillDest`, and over a list of destinations. -/

@[simp] theorem fillDest_asid (x : Warp) (d : RegWrite) : (x.fillDest d).asid = x.asid := by cases d <;> rfl
@[simp] theorem fillDest_plan (x : Warp) (d : RegWrite) : (x.fillDest d).plan = x.plan := by cases d <;> rfl
@[simp] theorem fillDest_stage (x : Warp) (d : RegWrite) : (x.fillDest d).stage = x.stage := by cases d <;> rfl
@[simp] theorem fillDest_restart (x : Warp) (d : RegWrite) : (x.fillDest d).restart = x.restart := by cases d <;> rfl
@[simp] theorem fillDest_localIdx (x : Warp) (d : RegWrite) : (x.fillDest d).localIdx = x.localIdx := by cases d <;> rfl
@[simp] theorem fillDest_nv (x : Warp) (d : RegWrite) : (x.fillDest d).nv = x.nv := by cases d <;> rfl
@[simp] theorem fillDest_ns (x : Warp) (d : RegWrite) : (x.fillDest d).ns = x.ns := by cases d <;> rfl
@[simp] theorem fillDest_codeBase (x : Warp) (d : RegWrite) : (x.fillDest d).codeBase = x.codeBase := by cases d <;> rfl
@[simp] theorem fillDest_groups (x : Warp) (d : RegWrite) : (x.fillDest d).groups = x.groups := by cases d <;> rfl
@[simp] theorem fillDest_insts (x : Warp) (d : RegWrite) : (x.fillDest d).insts = x.insts := by cases d <;> rfl
@[simp] theorem fillDest_pc (x : Warp) (d : RegWrite) : (x.fillDest d).pc = x.pc := by cases d <;> rfl
@[simp] theorem fillDest_active (x : Warp) (d : RegWrite) : (x.fillDest d).active = x.active := by cases d <;> rfl
@[simp] theorem fillDest_waiting (x : Warp) (d : RegWrite) : (x.fillDest d).waiting = x.waiting := by cases d <;> rfl
@[simp] theorem fillDest_exited (x : Warp) (d : RegWrite) : (x.fillDest d).exited = x.exited := by cases d <;> rfl
@[simp] theorem fillDest_point (x : Warp) (d : RegWrite) : (x.fillDest d).point = x.point := by cases d <;> rfl
@[simp] theorem fillDest_cmask (x : Warp) (d : RegWrite) : (x.fillDest d).cmask = x.cmask := by cases d <;> rfl
@[simp] theorem fillDest_age (x : Warp) (d : RegWrite) : (x.fillDest d).age = x.age := by cases d <;> rfl
@[simp] theorem fillDest_vreg (x : Warp) (d : RegWrite) : (x.fillDest d).vreg = x.vreg := by cases d <;> rfl
@[simp] theorem fillDest_sreg (x : Warp) (d : RegWrite) : (x.fillDest d).sreg = x.sreg := by cases d <;> rfl
@[simp] theorem fillDest_pred (x : Warp) (d : RegWrite) : (x.fillDest d).pred = x.pred := by cases d <;> rfl
@[simp] theorem fillDest_upred (x : Warp) (d : RegWrite) : (x.fillDest d).upred = x.upred := by cases d <;> rfl
@[simp] theorem fillDest_tile (x : Warp) (d : RegWrite) : (x.fillDest d).tile = x.tile := by cases d <;> rfl
@[simp] theorem fillDest_busy (x : Warp) (d : RegWrite) : (x.fillDest d).busy = x.busy := by cases d <;> rfl
@[simp] theorem fillDest_fpstat (x : Warp) (d : RegWrite) : (x.fillDest d).fpstat = x.fpstat := by cases d <;> rfl
@[simp] theorem fillDest_prio (x : Warp) (d : RegWrite) : (x.fillDest d).prio = x.prio := by cases d <;> rfl
@[simp] theorem fillDest_fpctl (x : Warp) (d : RegWrite) : (x.fillDest d).fpctl = x.fpctl := by cases d <;> rfl
@[simp] theorem fillDest_trapbase (x : Warp) (d : RegWrite) : (x.fillDest d).trapbase = x.trapbase := by cases d <;> rfl
@[simp] theorem fillDest_tmode (x : Warp) (d : RegWrite) : (x.fillDest d).tmode = x.tmode := by cases d <;> rfl
@[simp] theorem fillDest_mctl (x : Warp) (d : RegWrite) : (x.fillDest d).mctl = x.mctl := by cases d <;> rfl
@[simp] theorem fillDest_mstat (x : Warp) (d : RegWrite) : (x.fillDest d).mstat = x.mstat := by cases d <;> rfl
@[simp] theorem fillDest_cause (x : Warp) (d : RegWrite) : (x.fillDest d).cause = x.cause := by cases d <;> rfl
@[simp] theorem fillDest_faddr (x : Warp) (d : RegWrite) : (x.fillDest d).faddr = x.faddr := by cases d <;> rfl
@[simp] theorem fillDest_watch (x : Warp) (d : RegWrite) : (x.fillDest d).watch = x.watch := by cases d <;> rfl
@[simp] theorem fillDest_wauto (x : Warp) (d : RegWrite) : (x.fillDest d).wauto = x.wauto := by cases d <;> rfl
@[simp] theorem fillDest_storeq (x : Warp) (d : RegWrite) : (x.fillDest d).storeq = x.storeq := by cases d <;> rfl
@[simp] theorem fillDest_unacked (x : Warp) (d : RegWrite) : (x.fillDest d).unacked = x.unacked := by cases d <;> rfl
@[simp] theorem fillDest_flights (x : Warp) (d : RegWrite) : (x.fillDest d).flights = x.flights := by cases d <;> rfl
@[simp] theorem fillDest_nextSeq (x : Warp) (d : RegWrite) : (x.fillDest d).nextSeq = x.nextSeq := by cases d <;> rfl
@[simp] theorem fillDest_relMark (x : Warp) (d : RegWrite) : (x.fillDest d).relMark = x.relMark := by cases d <;> rfl
@[simp] theorem fillDest_tokens (x : Warp) (d : RegWrite) : (x.fillDest d).tokens = x.tokens := by cases d <;> rfl
@[simp] theorem fillDest_holds (x : Warp) (d : RegWrite) : (x.fillDest d).holds = x.holds := by cases d <;> rfl
@[simp] theorem fillDest_sfq (x : Warp) (d : RegWrite) : (x.fillDest d).sfq = x.sfq := by cases d <;> rfl
@[simp] theorem fillDest_pend (x : Warp) (d : RegWrite) : (x.fillDest d).pend = x.pend := by cases d <;> rfl
@[simp] theorem fillDest_wake (x : Warp) (d : RegWrite) : (x.fillDest d).wake = x.wake := by cases d <;> rfl
@[simp] theorem fillDest_yielding (x : Warp) (d : RegWrite) : (x.fillDest d).yielding = x.yielding := by cases d <;> rfl
@[simp] theorem fillDest_yieldEnd (x : Warp) (d : RegWrite) : (x.fillDest d).yieldEnd = x.yieldEnd := by cases d <;> rfl
@[simp] theorem fillDest_aged (x : Warp) (d : RegWrite) : (x.fillDest d).aged = x.aged := by cases d <;> rfl
@[simp] theorem fillDest_laneWake (x : Warp) (d : RegWrite) : (x.fillDest d).laneWake = x.laneWake := by cases d <;> rfl
@[simp] theorem fillDest_lastIssue (x : Warp) (d : RegWrite) : (x.fillDest d).lastIssue = x.lastIssue := by cases d <;> rfl
@[simp] theorem fillDest_readySince (x : Warp) (d : RegWrite) : (x.fillDest d).readySince = x.readySince := by cases d <;> rfl
@[simp] theorem fillDest_boost (x : Warp) (d : RegWrite) : (x.fillDest d).boost = x.boost := by cases d <;> rfl
@[simp] theorem fillDest_barArr (x : Warp) (d : RegWrite) : (x.fillDest d).barArr = x.barArr := by cases d <;> rfl
@[simp] theorem fillDest_preemptReq (x : Warp) (d : RegWrite) : (x.fillDest d).preemptReq = x.preemptReq := by cases d <;> rfl
@[simp] theorem fillDest_termReq (x : Warp) (d : RegWrite) : (x.fillDest d).termReq = x.termReq := by cases d <;> rfl
@[simp] theorem fillDest_byToltar (x : Warp) (d : RegWrite) : (x.fillDest d).byToltar = x.byToltar := by cases d <;> rfl
@[simp] theorem fillDest_captured (x : Warp) (d : RegWrite) : (x.fillDest d).captured = x.captured := by cases d <;> rfl
@[simp] theorem fillDest_toltarPending (x : Warp) (d : RegWrite) : (x.fillDest d).toltarPending = x.toltarPending := by cases d <;> rfl
@[simp] theorem fillDest_nopreEnd (x : Warp) (d : RegWrite) : (x.fillDest d).nopreEnd = x.nopreEnd := by cases d <;> rfl
@[simp] theorem fillDest_preTrapSeq (x : Warp) (d : RegWrite) : (x.fillDest d).preTrapSeq = x.preTrapSeq := by cases d <;> rfl
@[simp] theorem fillDest_entryExited (x : Warp) (d : RegWrite) : (x.fillDest d).entryExited = x.entryExited := by cases d <;> rfl
@[simp] theorem fillDest_entryPc (x : Warp) (d : RegWrite) : (x.fillDest d).entryPc = x.entryPc := by cases d <;> rfl
@[simp] theorem fillDest_entryWaiting (x : Warp) (d : RegWrite) : (x.fillDest d).entryWaiting = x.entryWaiting := by cases d <;> rfl
@[simp] theorem fillDest_entryNrep (x : Warp) (d : RegWrite) : (x.fillDest d).entryNrep = x.entryNrep := by cases d <;> rfl
@[simp] theorem fillDest_entryRep (x : Warp) (d : RegWrite) : (x.fillDest d).entryRep = x.entryRep := by cases d <;> rfl
@[simp] theorem fillDest_entryNsf (x : Warp) (d : RegWrite) : (x.fillDest d).entryNsf = x.entryNsf := by cases d <;> rfl
@[simp] theorem fillDest_saveArea (x : Warp) (d : RegWrite) : (x.fillDest d).saveArea = x.saveArea := by cases d <;> rfl
@[simp] theorem fillDest_formed (x : Warp) (d : RegWrite) : (x.fillDest d).formed = x.formed := by cases d <;> rfl
@[simp] theorem fillDest_svc (x : Warp) (d : RegWrite) : (x.fillDest d).svc = x.svc := by cases d <;> rfl
@[simp] theorem fillDest_ctr (x : Warp) (d : RegWrite) : (x.fillDest d).ctr = x.ctr := by cases d <;> rfl
@[simp] theorem fillDest_undo (x : Warp) (d : RegWrite) : (x.fillDest d).undo = x.undo := by cases d <;> rfl
@[simp] theorem fillDest_undoN (x : Warp) (d : RegWrite) : (x.fillDest d).undoN = x.undoN := by cases d <;> rfl
@[simp] theorem fillDest_stopDone (x : Warp) (d : RegWrite) : (x.fillDest d).stopDone = x.stopDone := by cases d <;> rfl
@[simp] theorem fillDest_issued (x : Warp) (d : RegWrite) : (x.fillDest d).issued = x.issued := by cases d <;> rfl
@[simp] theorem fillDest_preRep (x : Warp) (d : RegWrite) : (x.fillDest d).preRep = x.preRep := by cases d <;> rfl
@[simp] theorem fillDest_ffmas (x : Warp) (d : RegWrite) : (x.fillDest d).ffmas = x.ffmas := by cases d <;> rfl
@[simp] theorem fillDest_putOff (x : Warp) (d : RegWrite) : (x.fillDest d).putOff = x.putOff := by cases d <;> rfl
@[simp] theorem fillDest_passed (x : Warp) (d : RegWrite) : (x.fillDest d).passed = x.passed := by cases d <;> rfl
@[simp] theorem fillDest_moved (x : Warp) (d : RegWrite) : (x.fillDest d).moved = x.moved := by cases d <;> rfl
@[simp] theorem fillDest_isolated (x : Warp) (d : RegWrite) : (x.fillDest d).isolated = x.isolated := by cases d <;> rfl

/-! `Warp.writeDest`, and over a list of destinations. -/

@[simp] theorem writeDest_asid (x : Warp) (d : RegWrite) : (x.writeDest d).asid = x.asid := by
  cases d <;> first | rfl | (simp only [Warp.writeDest]; split <;> rfl)
@[simp] theorem writeAll_asid (x : Warp) (l : List RegWrite) : (x.writeAll l).asid = x.asid := 
  foldl_keeps Warp.asid writeDest_asid l x
@[simp] theorem writeDest_plan (x : Warp) (d : RegWrite) : (x.writeDest d).plan = x.plan := by
  cases d <;> first | rfl | (simp only [Warp.writeDest]; split <;> rfl)
@[simp] theorem writeAll_plan (x : Warp) (l : List RegWrite) : (x.writeAll l).plan = x.plan := 
  foldl_keeps Warp.plan writeDest_plan l x
@[simp] theorem writeDest_stage (x : Warp) (d : RegWrite) : (x.writeDest d).stage = x.stage := by
  cases d <;> first | rfl | (simp only [Warp.writeDest]; split <;> rfl)
@[simp] theorem writeAll_stage (x : Warp) (l : List RegWrite) : (x.writeAll l).stage = x.stage := 
  foldl_keeps Warp.stage writeDest_stage l x
@[simp] theorem writeDest_restart (x : Warp) (d : RegWrite) : (x.writeDest d).restart = x.restart := by
  cases d <;> first | rfl | (simp only [Warp.writeDest]; split <;> rfl)
@[simp] theorem writeAll_restart (x : Warp) (l : List RegWrite) : (x.writeAll l).restart = x.restart := 
  foldl_keeps Warp.restart writeDest_restart l x
@[simp] theorem writeDest_localIdx (x : Warp) (d : RegWrite) : (x.writeDest d).localIdx = x.localIdx := by
  cases d <;> first | rfl | (simp only [Warp.writeDest]; split <;> rfl)
@[simp] theorem writeAll_localIdx (x : Warp) (l : List RegWrite) : (x.writeAll l).localIdx = x.localIdx := 
  foldl_keeps Warp.localIdx writeDest_localIdx l x
@[simp] theorem writeDest_nv (x : Warp) (d : RegWrite) : (x.writeDest d).nv = x.nv := by
  cases d <;> first | rfl | (simp only [Warp.writeDest]; split <;> rfl)
@[simp] theorem writeAll_nv (x : Warp) (l : List RegWrite) : (x.writeAll l).nv = x.nv := 
  foldl_keeps Warp.nv writeDest_nv l x
@[simp] theorem writeDest_ns (x : Warp) (d : RegWrite) : (x.writeDest d).ns = x.ns := by
  cases d <;> first | rfl | (simp only [Warp.writeDest]; split <;> rfl)
@[simp] theorem writeAll_ns (x : Warp) (l : List RegWrite) : (x.writeAll l).ns = x.ns := 
  foldl_keeps Warp.ns writeDest_ns l x
@[simp] theorem writeDest_codeBase (x : Warp) (d : RegWrite) : (x.writeDest d).codeBase = x.codeBase := by
  cases d <;> first | rfl | (simp only [Warp.writeDest]; split <;> rfl)
@[simp] theorem writeAll_codeBase (x : Warp) (l : List RegWrite) : (x.writeAll l).codeBase = x.codeBase := 
  foldl_keeps Warp.codeBase writeDest_codeBase l x
@[simp] theorem writeDest_groups (x : Warp) (d : RegWrite) : (x.writeDest d).groups = x.groups := by
  cases d <;> first | rfl | (simp only [Warp.writeDest]; split <;> rfl)
@[simp] theorem writeAll_groups (x : Warp) (l : List RegWrite) : (x.writeAll l).groups = x.groups := 
  foldl_keeps Warp.groups writeDest_groups l x
@[simp] theorem writeDest_insts (x : Warp) (d : RegWrite) : (x.writeDest d).insts = x.insts := by
  cases d <;> first | rfl | (simp only [Warp.writeDest]; split <;> rfl)
@[simp] theorem writeAll_insts (x : Warp) (l : List RegWrite) : (x.writeAll l).insts = x.insts := 
  foldl_keeps Warp.insts writeDest_insts l x
@[simp] theorem writeDest_pc (x : Warp) (d : RegWrite) : (x.writeDest d).pc = x.pc := by
  cases d <;> first | rfl | (simp only [Warp.writeDest]; split <;> rfl)
@[simp] theorem writeAll_pc (x : Warp) (l : List RegWrite) : (x.writeAll l).pc = x.pc := 
  foldl_keeps Warp.pc writeDest_pc l x
@[simp] theorem writeDest_active (x : Warp) (d : RegWrite) : (x.writeDest d).active = x.active := by
  cases d <;> first | rfl | (simp only [Warp.writeDest]; split <;> rfl)
@[simp] theorem writeAll_active (x : Warp) (l : List RegWrite) : (x.writeAll l).active = x.active := 
  foldl_keeps Warp.active writeDest_active l x
@[simp] theorem writeDest_waiting (x : Warp) (d : RegWrite) : (x.writeDest d).waiting = x.waiting := by
  cases d <;> first | rfl | (simp only [Warp.writeDest]; split <;> rfl)
@[simp] theorem writeAll_waiting (x : Warp) (l : List RegWrite) : (x.writeAll l).waiting = x.waiting := 
  foldl_keeps Warp.waiting writeDest_waiting l x
@[simp] theorem writeDest_exited (x : Warp) (d : RegWrite) : (x.writeDest d).exited = x.exited := by
  cases d <;> first | rfl | (simp only [Warp.writeDest]; split <;> rfl)
@[simp] theorem writeAll_exited (x : Warp) (l : List RegWrite) : (x.writeAll l).exited = x.exited := 
  foldl_keeps Warp.exited writeDest_exited l x
@[simp] theorem writeDest_point (x : Warp) (d : RegWrite) : (x.writeDest d).point = x.point := by
  cases d <;> first | rfl | (simp only [Warp.writeDest]; split <;> rfl)
@[simp] theorem writeAll_point (x : Warp) (l : List RegWrite) : (x.writeAll l).point = x.point := 
  foldl_keeps Warp.point writeDest_point l x
@[simp] theorem writeDest_cmask (x : Warp) (d : RegWrite) : (x.writeDest d).cmask = x.cmask := by
  cases d <;> first | rfl | (simp only [Warp.writeDest]; split <;> rfl)
@[simp] theorem writeAll_cmask (x : Warp) (l : List RegWrite) : (x.writeAll l).cmask = x.cmask := 
  foldl_keeps Warp.cmask writeDest_cmask l x
@[simp] theorem writeDest_age (x : Warp) (d : RegWrite) : (x.writeDest d).age = x.age := by
  cases d <;> first | rfl | (simp only [Warp.writeDest]; split <;> rfl)
@[simp] theorem writeAll_age (x : Warp) (l : List RegWrite) : (x.writeAll l).age = x.age := 
  foldl_keeps Warp.age writeDest_age l x
@[simp] theorem writeDest_tile (x : Warp) (d : RegWrite) : (x.writeDest d).tile = x.tile := by
  cases d <;> first | rfl | (simp only [Warp.writeDest]; split <;> rfl)
@[simp] theorem writeAll_tile (x : Warp) (l : List RegWrite) : (x.writeAll l).tile = x.tile := 
  foldl_keeps Warp.tile writeDest_tile l x
@[simp] theorem writeDest_busy (x : Warp) (d : RegWrite) : (x.writeDest d).busy = x.busy := by
  cases d <;> first | rfl | (simp only [Warp.writeDest]; split <;> rfl)
@[simp] theorem writeAll_busy (x : Warp) (l : List RegWrite) : (x.writeAll l).busy = x.busy := 
  foldl_keeps Warp.busy writeDest_busy l x
@[simp] theorem writeDest_fpstat (x : Warp) (d : RegWrite) : (x.writeDest d).fpstat = x.fpstat := by
  cases d <;> first | rfl | (simp only [Warp.writeDest]; split <;> rfl)
@[simp] theorem writeAll_fpstat (x : Warp) (l : List RegWrite) : (x.writeAll l).fpstat = x.fpstat := 
  foldl_keeps Warp.fpstat writeDest_fpstat l x
@[simp] theorem writeDest_prio (x : Warp) (d : RegWrite) : (x.writeDest d).prio = x.prio := by
  cases d <;> first | rfl | (simp only [Warp.writeDest]; split <;> rfl)
@[simp] theorem writeAll_prio (x : Warp) (l : List RegWrite) : (x.writeAll l).prio = x.prio := 
  foldl_keeps Warp.prio writeDest_prio l x
@[simp] theorem writeDest_fpctl (x : Warp) (d : RegWrite) : (x.writeDest d).fpctl = x.fpctl := by
  cases d <;> first | rfl | (simp only [Warp.writeDest]; split <;> rfl)
@[simp] theorem writeAll_fpctl (x : Warp) (l : List RegWrite) : (x.writeAll l).fpctl = x.fpctl := 
  foldl_keeps Warp.fpctl writeDest_fpctl l x
@[simp] theorem writeDest_trapbase (x : Warp) (d : RegWrite) : (x.writeDest d).trapbase = x.trapbase := by
  cases d <;> first | rfl | (simp only [Warp.writeDest]; split <;> rfl)
@[simp] theorem writeAll_trapbase (x : Warp) (l : List RegWrite) : (x.writeAll l).trapbase = x.trapbase := 
  foldl_keeps Warp.trapbase writeDest_trapbase l x
@[simp] theorem writeDest_tmode (x : Warp) (d : RegWrite) : (x.writeDest d).tmode = x.tmode := by
  cases d <;> first | rfl | (simp only [Warp.writeDest]; split <;> rfl)
@[simp] theorem writeAll_tmode (x : Warp) (l : List RegWrite) : (x.writeAll l).tmode = x.tmode := 
  foldl_keeps Warp.tmode writeDest_tmode l x
@[simp] theorem writeDest_mctl (x : Warp) (d : RegWrite) : (x.writeDest d).mctl = x.mctl := by
  cases d <;> first | rfl | (simp only [Warp.writeDest]; split <;> rfl)
@[simp] theorem writeAll_mctl (x : Warp) (l : List RegWrite) : (x.writeAll l).mctl = x.mctl := 
  foldl_keeps Warp.mctl writeDest_mctl l x
@[simp] theorem writeDest_mstat (x : Warp) (d : RegWrite) : (x.writeDest d).mstat = x.mstat := by
  cases d <;> first | rfl | (simp only [Warp.writeDest]; split <;> rfl)
@[simp] theorem writeAll_mstat (x : Warp) (l : List RegWrite) : (x.writeAll l).mstat = x.mstat := 
  foldl_keeps Warp.mstat writeDest_mstat l x
@[simp] theorem writeDest_cause (x : Warp) (d : RegWrite) : (x.writeDest d).cause = x.cause := by
  cases d <;> first | rfl | (simp only [Warp.writeDest]; split <;> rfl)
@[simp] theorem writeAll_cause (x : Warp) (l : List RegWrite) : (x.writeAll l).cause = x.cause := 
  foldl_keeps Warp.cause writeDest_cause l x
@[simp] theorem writeDest_faddr (x : Warp) (d : RegWrite) : (x.writeDest d).faddr = x.faddr := by
  cases d <;> first | rfl | (simp only [Warp.writeDest]; split <;> rfl)
@[simp] theorem writeAll_faddr (x : Warp) (l : List RegWrite) : (x.writeAll l).faddr = x.faddr := 
  foldl_keeps Warp.faddr writeDest_faddr l x
@[simp] theorem writeDest_watch (x : Warp) (d : RegWrite) : (x.writeDest d).watch = x.watch := by
  cases d <;> first | rfl | (simp only [Warp.writeDest]; split <;> rfl)
@[simp] theorem writeAll_watch (x : Warp) (l : List RegWrite) : (x.writeAll l).watch = x.watch := 
  foldl_keeps Warp.watch writeDest_watch l x
@[simp] theorem writeDest_wauto (x : Warp) (d : RegWrite) : (x.writeDest d).wauto = x.wauto := by
  cases d <;> first | rfl | (simp only [Warp.writeDest]; split <;> rfl)
@[simp] theorem writeAll_wauto (x : Warp) (l : List RegWrite) : (x.writeAll l).wauto = x.wauto := 
  foldl_keeps Warp.wauto writeDest_wauto l x
@[simp] theorem writeDest_storeq (x : Warp) (d : RegWrite) : (x.writeDest d).storeq = x.storeq := by
  cases d <;> first | rfl | (simp only [Warp.writeDest]; split <;> rfl)
@[simp] theorem writeAll_storeq (x : Warp) (l : List RegWrite) : (x.writeAll l).storeq = x.storeq := 
  foldl_keeps Warp.storeq writeDest_storeq l x
@[simp] theorem writeDest_unacked (x : Warp) (d : RegWrite) : (x.writeDest d).unacked = x.unacked := by
  cases d <;> first | rfl | (simp only [Warp.writeDest]; split <;> rfl)
@[simp] theorem writeAll_unacked (x : Warp) (l : List RegWrite) : (x.writeAll l).unacked = x.unacked := 
  foldl_keeps Warp.unacked writeDest_unacked l x
@[simp] theorem writeDest_flights (x : Warp) (d : RegWrite) : (x.writeDest d).flights = x.flights := by
  cases d <;> first | rfl | (simp only [Warp.writeDest]; split <;> rfl)
@[simp] theorem writeAll_flights (x : Warp) (l : List RegWrite) : (x.writeAll l).flights = x.flights := 
  foldl_keeps Warp.flights writeDest_flights l x
@[simp] theorem writeDest_nextSeq (x : Warp) (d : RegWrite) : (x.writeDest d).nextSeq = x.nextSeq := by
  cases d <;> first | rfl | (simp only [Warp.writeDest]; split <;> rfl)
@[simp] theorem writeAll_nextSeq (x : Warp) (l : List RegWrite) : (x.writeAll l).nextSeq = x.nextSeq := 
  foldl_keeps Warp.nextSeq writeDest_nextSeq l x
@[simp] theorem writeDest_relMark (x : Warp) (d : RegWrite) : (x.writeDest d).relMark = x.relMark := by
  cases d <;> first | rfl | (simp only [Warp.writeDest]; split <;> rfl)
@[simp] theorem writeAll_relMark (x : Warp) (l : List RegWrite) : (x.writeAll l).relMark = x.relMark := 
  foldl_keeps Warp.relMark writeDest_relMark l x
@[simp] theorem writeDest_tokens (x : Warp) (d : RegWrite) : (x.writeDest d).tokens = x.tokens := by
  cases d <;> first | rfl | (simp only [Warp.writeDest]; split <;> rfl)
@[simp] theorem writeAll_tokens (x : Warp) (l : List RegWrite) : (x.writeAll l).tokens = x.tokens := 
  foldl_keeps Warp.tokens writeDest_tokens l x
@[simp] theorem writeDest_holds (x : Warp) (d : RegWrite) : (x.writeDest d).holds = x.holds := by
  cases d <;> first | rfl | (simp only [Warp.writeDest]; split <;> rfl)
@[simp] theorem writeAll_holds (x : Warp) (l : List RegWrite) : (x.writeAll l).holds = x.holds := 
  foldl_keeps Warp.holds writeDest_holds l x
@[simp] theorem writeDest_sfq (x : Warp) (d : RegWrite) : (x.writeDest d).sfq = x.sfq := by
  cases d <;> first | rfl | (simp only [Warp.writeDest]; split <;> rfl)
@[simp] theorem writeAll_sfq (x : Warp) (l : List RegWrite) : (x.writeAll l).sfq = x.sfq := 
  foldl_keeps Warp.sfq writeDest_sfq l x
@[simp] theorem writeDest_pend (x : Warp) (d : RegWrite) : (x.writeDest d).pend = x.pend := by
  cases d <;> first | rfl | (simp only [Warp.writeDest]; split <;> rfl)
@[simp] theorem writeAll_pend (x : Warp) (l : List RegWrite) : (x.writeAll l).pend = x.pend := 
  foldl_keeps Warp.pend writeDest_pend l x
@[simp] theorem writeDest_wake (x : Warp) (d : RegWrite) : (x.writeDest d).wake = x.wake := by
  cases d <;> first | rfl | (simp only [Warp.writeDest]; split <;> rfl)
@[simp] theorem writeAll_wake (x : Warp) (l : List RegWrite) : (x.writeAll l).wake = x.wake := 
  foldl_keeps Warp.wake writeDest_wake l x
@[simp] theorem writeDest_yielding (x : Warp) (d : RegWrite) : (x.writeDest d).yielding = x.yielding := by
  cases d <;> first | rfl | (simp only [Warp.writeDest]; split <;> rfl)
@[simp] theorem writeAll_yielding (x : Warp) (l : List RegWrite) : (x.writeAll l).yielding = x.yielding := 
  foldl_keeps Warp.yielding writeDest_yielding l x
@[simp] theorem writeDest_yieldEnd (x : Warp) (d : RegWrite) : (x.writeDest d).yieldEnd = x.yieldEnd := by
  cases d <;> first | rfl | (simp only [Warp.writeDest]; split <;> rfl)
@[simp] theorem writeAll_yieldEnd (x : Warp) (l : List RegWrite) : (x.writeAll l).yieldEnd = x.yieldEnd := 
  foldl_keeps Warp.yieldEnd writeDest_yieldEnd l x
@[simp] theorem writeDest_aged (x : Warp) (d : RegWrite) : (x.writeDest d).aged = x.aged := by
  cases d <;> first | rfl | (simp only [Warp.writeDest]; split <;> rfl)
@[simp] theorem writeAll_aged (x : Warp) (l : List RegWrite) : (x.writeAll l).aged = x.aged := 
  foldl_keeps Warp.aged writeDest_aged l x
@[simp] theorem writeDest_laneWake (x : Warp) (d : RegWrite) : (x.writeDest d).laneWake = x.laneWake := by
  cases d <;> first | rfl | (simp only [Warp.writeDest]; split <;> rfl)
@[simp] theorem writeAll_laneWake (x : Warp) (l : List RegWrite) : (x.writeAll l).laneWake = x.laneWake := 
  foldl_keeps Warp.laneWake writeDest_laneWake l x
@[simp] theorem writeDest_lastIssue (x : Warp) (d : RegWrite) : (x.writeDest d).lastIssue = x.lastIssue := by
  cases d <;> first | rfl | (simp only [Warp.writeDest]; split <;> rfl)
@[simp] theorem writeAll_lastIssue (x : Warp) (l : List RegWrite) : (x.writeAll l).lastIssue = x.lastIssue := 
  foldl_keeps Warp.lastIssue writeDest_lastIssue l x
@[simp] theorem writeDest_readySince (x : Warp) (d : RegWrite) : (x.writeDest d).readySince = x.readySince := by
  cases d <;> first | rfl | (simp only [Warp.writeDest]; split <;> rfl)
@[simp] theorem writeAll_readySince (x : Warp) (l : List RegWrite) : (x.writeAll l).readySince = x.readySince := 
  foldl_keeps Warp.readySince writeDest_readySince l x
@[simp] theorem writeDest_boost (x : Warp) (d : RegWrite) : (x.writeDest d).boost = x.boost := by
  cases d <;> first | rfl | (simp only [Warp.writeDest]; split <;> rfl)
@[simp] theorem writeAll_boost (x : Warp) (l : List RegWrite) : (x.writeAll l).boost = x.boost := 
  foldl_keeps Warp.boost writeDest_boost l x
@[simp] theorem writeDest_barArr (x : Warp) (d : RegWrite) : (x.writeDest d).barArr = x.barArr := by
  cases d <;> first | rfl | (simp only [Warp.writeDest]; split <;> rfl)
@[simp] theorem writeAll_barArr (x : Warp) (l : List RegWrite) : (x.writeAll l).barArr = x.barArr := 
  foldl_keeps Warp.barArr writeDest_barArr l x
@[simp] theorem writeDest_preemptReq (x : Warp) (d : RegWrite) : (x.writeDest d).preemptReq = x.preemptReq := by
  cases d <;> first | rfl | (simp only [Warp.writeDest]; split <;> rfl)
@[simp] theorem writeAll_preemptReq (x : Warp) (l : List RegWrite) : (x.writeAll l).preemptReq = x.preemptReq := 
  foldl_keeps Warp.preemptReq writeDest_preemptReq l x
@[simp] theorem writeDest_termReq (x : Warp) (d : RegWrite) : (x.writeDest d).termReq = x.termReq := by
  cases d <;> first | rfl | (simp only [Warp.writeDest]; split <;> rfl)
@[simp] theorem writeAll_termReq (x : Warp) (l : List RegWrite) : (x.writeAll l).termReq = x.termReq := 
  foldl_keeps Warp.termReq writeDest_termReq l x
@[simp] theorem writeDest_byToltar (x : Warp) (d : RegWrite) : (x.writeDest d).byToltar = x.byToltar := by
  cases d <;> first | rfl | (simp only [Warp.writeDest]; split <;> rfl)
@[simp] theorem writeAll_byToltar (x : Warp) (l : List RegWrite) : (x.writeAll l).byToltar = x.byToltar := 
  foldl_keeps Warp.byToltar writeDest_byToltar l x
@[simp] theorem writeDest_captured (x : Warp) (d : RegWrite) : (x.writeDest d).captured = x.captured := by
  cases d <;> first | rfl | (simp only [Warp.writeDest]; split <;> rfl)
@[simp] theorem writeAll_captured (x : Warp) (l : List RegWrite) : (x.writeAll l).captured = x.captured := 
  foldl_keeps Warp.captured writeDest_captured l x
@[simp] theorem writeDest_toltarPending (x : Warp) (d : RegWrite) : (x.writeDest d).toltarPending = x.toltarPending := by
  cases d <;> first | rfl | (simp only [Warp.writeDest]; split <;> rfl)
@[simp] theorem writeAll_toltarPending (x : Warp) (l : List RegWrite) : (x.writeAll l).toltarPending = x.toltarPending := 
  foldl_keeps Warp.toltarPending writeDest_toltarPending l x
@[simp] theorem writeDest_nopreEnd (x : Warp) (d : RegWrite) : (x.writeDest d).nopreEnd = x.nopreEnd := by
  cases d <;> first | rfl | (simp only [Warp.writeDest]; split <;> rfl)
@[simp] theorem writeAll_nopreEnd (x : Warp) (l : List RegWrite) : (x.writeAll l).nopreEnd = x.nopreEnd := 
  foldl_keeps Warp.nopreEnd writeDest_nopreEnd l x
@[simp] theorem writeDest_preTrapSeq (x : Warp) (d : RegWrite) : (x.writeDest d).preTrapSeq = x.preTrapSeq := by
  cases d <;> first | rfl | (simp only [Warp.writeDest]; split <;> rfl)
@[simp] theorem writeAll_preTrapSeq (x : Warp) (l : List RegWrite) : (x.writeAll l).preTrapSeq = x.preTrapSeq := 
  foldl_keeps Warp.preTrapSeq writeDest_preTrapSeq l x
@[simp] theorem writeDest_entryExited (x : Warp) (d : RegWrite) : (x.writeDest d).entryExited = x.entryExited := by
  cases d <;> first | rfl | (simp only [Warp.writeDest]; split <;> rfl)
@[simp] theorem writeAll_entryExited (x : Warp) (l : List RegWrite) : (x.writeAll l).entryExited = x.entryExited := 
  foldl_keeps Warp.entryExited writeDest_entryExited l x
@[simp] theorem writeDest_entryPc (x : Warp) (d : RegWrite) : (x.writeDest d).entryPc = x.entryPc := by
  cases d <;> first | rfl | (simp only [Warp.writeDest]; split <;> rfl)
@[simp] theorem writeAll_entryPc (x : Warp) (l : List RegWrite) : (x.writeAll l).entryPc = x.entryPc := 
  foldl_keeps Warp.entryPc writeDest_entryPc l x
@[simp] theorem writeDest_entryWaiting (x : Warp) (d : RegWrite) : (x.writeDest d).entryWaiting = x.entryWaiting := by
  cases d <;> first | rfl | (simp only [Warp.writeDest]; split <;> rfl)
@[simp] theorem writeAll_entryWaiting (x : Warp) (l : List RegWrite) : (x.writeAll l).entryWaiting = x.entryWaiting := 
  foldl_keeps Warp.entryWaiting writeDest_entryWaiting l x
@[simp] theorem writeDest_entryNrep (x : Warp) (d : RegWrite) : (x.writeDest d).entryNrep = x.entryNrep := by
  cases d <;> first | rfl | (simp only [Warp.writeDest]; split <;> rfl)
@[simp] theorem writeAll_entryNrep (x : Warp) (l : List RegWrite) : (x.writeAll l).entryNrep = x.entryNrep := 
  foldl_keeps Warp.entryNrep writeDest_entryNrep l x
@[simp] theorem writeDest_entryRep (x : Warp) (d : RegWrite) : (x.writeDest d).entryRep = x.entryRep := by
  cases d <;> first | rfl | (simp only [Warp.writeDest]; split <;> rfl)
@[simp] theorem writeAll_entryRep (x : Warp) (l : List RegWrite) : (x.writeAll l).entryRep = x.entryRep := 
  foldl_keeps Warp.entryRep writeDest_entryRep l x
@[simp] theorem writeDest_entryNsf (x : Warp) (d : RegWrite) : (x.writeDest d).entryNsf = x.entryNsf := by
  cases d <;> first | rfl | (simp only [Warp.writeDest]; split <;> rfl)
@[simp] theorem writeAll_entryNsf (x : Warp) (l : List RegWrite) : (x.writeAll l).entryNsf = x.entryNsf := 
  foldl_keeps Warp.entryNsf writeDest_entryNsf l x
@[simp] theorem writeDest_saveArea (x : Warp) (d : RegWrite) : (x.writeDest d).saveArea = x.saveArea := by
  cases d <;> first | rfl | (simp only [Warp.writeDest]; split <;> rfl)
@[simp] theorem writeAll_saveArea (x : Warp) (l : List RegWrite) : (x.writeAll l).saveArea = x.saveArea := 
  foldl_keeps Warp.saveArea writeDest_saveArea l x
@[simp] theorem writeDest_formed (x : Warp) (d : RegWrite) : (x.writeDest d).formed = x.formed := by
  cases d <;> first | rfl | (simp only [Warp.writeDest]; split <;> rfl)
@[simp] theorem writeAll_formed (x : Warp) (l : List RegWrite) : (x.writeAll l).formed = x.formed := 
  foldl_keeps Warp.formed writeDest_formed l x
@[simp] theorem writeDest_svc (x : Warp) (d : RegWrite) : (x.writeDest d).svc = x.svc := by
  cases d <;> first | rfl | (simp only [Warp.writeDest]; split <;> rfl)
@[simp] theorem writeAll_svc (x : Warp) (l : List RegWrite) : (x.writeAll l).svc = x.svc := 
  foldl_keeps Warp.svc writeDest_svc l x
@[simp] theorem writeDest_ctr (x : Warp) (d : RegWrite) : (x.writeDest d).ctr = x.ctr := by
  cases d <;> first | rfl | (simp only [Warp.writeDest]; split <;> rfl)
@[simp] theorem writeAll_ctr (x : Warp) (l : List RegWrite) : (x.writeAll l).ctr = x.ctr := 
  foldl_keeps Warp.ctr writeDest_ctr l x
@[simp] theorem writeDest_undo (x : Warp) (d : RegWrite) : (x.writeDest d).undo = x.undo := by
  cases d <;> first | rfl | (simp only [Warp.writeDest]; split <;> rfl)
@[simp] theorem writeAll_undo (x : Warp) (l : List RegWrite) : (x.writeAll l).undo = x.undo := 
  foldl_keeps Warp.undo writeDest_undo l x
@[simp] theorem writeDest_undoN (x : Warp) (d : RegWrite) : (x.writeDest d).undoN = x.undoN := by
  cases d <;> first | rfl | (simp only [Warp.writeDest]; split <;> rfl)
@[simp] theorem writeAll_undoN (x : Warp) (l : List RegWrite) : (x.writeAll l).undoN = x.undoN := 
  foldl_keeps Warp.undoN writeDest_undoN l x
@[simp] theorem writeDest_stopDone (x : Warp) (d : RegWrite) : (x.writeDest d).stopDone = x.stopDone := by
  cases d <;> first | rfl | (simp only [Warp.writeDest]; split <;> rfl)
@[simp] theorem writeAll_stopDone (x : Warp) (l : List RegWrite) : (x.writeAll l).stopDone = x.stopDone := 
  foldl_keeps Warp.stopDone writeDest_stopDone l x
@[simp] theorem writeDest_issued (x : Warp) (d : RegWrite) : (x.writeDest d).issued = x.issued := by
  cases d <;> first | rfl | (simp only [Warp.writeDest]; split <;> rfl)
@[simp] theorem writeAll_issued (x : Warp) (l : List RegWrite) : (x.writeAll l).issued = x.issued := 
  foldl_keeps Warp.issued writeDest_issued l x
@[simp] theorem writeDest_preRep (x : Warp) (d : RegWrite) : (x.writeDest d).preRep = x.preRep := by
  cases d <;> first | rfl | (simp only [Warp.writeDest]; split <;> rfl)
@[simp] theorem writeAll_preRep (x : Warp) (l : List RegWrite) : (x.writeAll l).preRep = x.preRep := 
  foldl_keeps Warp.preRep writeDest_preRep l x
@[simp] theorem writeDest_ffmas (x : Warp) (d : RegWrite) : (x.writeDest d).ffmas = x.ffmas := by
  cases d <;> first | rfl | (simp only [Warp.writeDest]; split <;> rfl)
@[simp] theorem writeAll_ffmas (x : Warp) (l : List RegWrite) : (x.writeAll l).ffmas = x.ffmas := 
  foldl_keeps Warp.ffmas writeDest_ffmas l x
@[simp] theorem writeDest_putOff (x : Warp) (d : RegWrite) : (x.writeDest d).putOff = x.putOff := by
  cases d <;> first | rfl | (simp only [Warp.writeDest]; split <;> rfl)
@[simp] theorem writeAll_putOff (x : Warp) (l : List RegWrite) : (x.writeAll l).putOff = x.putOff := 
  foldl_keeps Warp.putOff writeDest_putOff l x
@[simp] theorem writeDest_passed (x : Warp) (d : RegWrite) : (x.writeDest d).passed = x.passed := by
  cases d <;> first | rfl | (simp only [Warp.writeDest]; split <;> rfl)
@[simp] theorem writeAll_passed (x : Warp) (l : List RegWrite) : (x.writeAll l).passed = x.passed := 
  foldl_keeps Warp.passed writeDest_passed l x
@[simp] theorem writeDest_moved (x : Warp) (d : RegWrite) : (x.writeDest d).moved = x.moved := by
  cases d <;> first | rfl | (simp only [Warp.writeDest]; split <;> rfl)
@[simp] theorem writeAll_moved (x : Warp) (l : List RegWrite) : (x.writeAll l).moved = x.moved := 
  foldl_keeps Warp.moved writeDest_moved l x
@[simp] theorem writeDest_isolated (x : Warp) (d : RegWrite) : (x.writeDest d).isolated = x.isolated := by
  cases d <;> first | rfl | (simp only [Warp.writeDest]; split <;> rfl)
@[simp] theorem writeAll_isolated (x : Warp) (l : List RegWrite) : (x.writeAll l).isolated = x.isolated := 
  foldl_keeps Warp.isolated writeDest_isolated l x

/-! Looking up after an update. -/

@[simp] theorem find_setWarp (s : State) (w : Nat) (x : Warp) : mfind (s.setWarp w x).warps w = some x := by simp

theorem find_setWarp_other (s : State) {w v : Nat} (x : Warp) (h : v ≠ w) :
    mfind (s.setWarp w x).warps v = mfind s.warps v := mfind_mset_other _ _ h

@[simp] theorem find_modWarp (s : State) (w : Nat) (f : Warp → Warp) :
    mfind (s.modWarp w f).warps w = (mfind s.warps w).map f := by simp

theorem find_modWarp_other (s : State) {w v : Nat} (f : Warp → Warp) (h : v ≠ w) :
    mfind (s.modWarp w f).warps v = mfind s.warps v := mfind_mmod_other _ _ h

@[simp] theorem core_setCore (s : State) (c : Nat) (x : Core) : (s.setCore c x).core c = x := by simp [State.core]

theorem core_setCore_other (s : State) {c d : Nat} (x : Core) (h : d ≠ c) : (s.setCore c x).core d = s.core d := by
  simp [State.core, mget_mset_other _ _ _ h]

@[simp] theorem core_modCore (s : State) (c : Nat) (f : Core → Core) : (s.modCore c f).core c = f (s.core c) := by
  simp [State.modCore]

theorem core_modCore_other (s : State) {c d : Nat} (f : Core → Core) (h : d ≠ c) :
    (s.modCore c f).core d = s.core d := core_setCore_other s _ h

@[simp] theorem die_modDie (s : State) (d : Nat) (f : Die → Die) : (s.modDie d f).die d = f (s.die d) := by
  simp [State.die]

theorem die_modDie_other (s : State) {d e : Nat} (f : Die → Die) (h : e ≠ d) : (s.modDie d f).die e = s.die e := by
  simp [State.die, mget_mset_other _ _ _ h]

theorem core_of_cores {s t : State} (h : t.cores = s.cores) (c : Nat) : t.core c = s.core c := by
  simp [State.core, h]

theorem die_of_dies {s t : State} (h : t.dies = s.dies) (d : Nat) : t.die d = s.die d := by simp [State.die, h]


end Sys2Proof.Laws
end

