-- ==== Sys2Proof/Laws/Memory.lean ====
section
/-!
SUPPORT. The canonical form of memory through the operations of the machine: homes, L2, word states, supervisor SRAM,
operand stores.
-/

namespace Sys2Proof.Laws

open Sys2Proof Sys2Proof.Machine

/-! The memories of the package keep their canonical form. -/

/-- Every copy in L2 is in canonical form. -/
def L2Wf (s : State) : Prop := ∀ e ∈ s.l2, Memory.wf e.2.data = true

theorem mem_mset {α : Type} {m : NMap α} {k : Nat} {v : α} {e : Nat × α} (h : e ∈ mset m k v) : e = (k, v) ∨ e ∈ m := by
  induction m with
  | nil => simpa [mset] using h
  | cons a r ih =>
    obtain ⟨j, w⟩ := a
    simp only [mset] at h
    split at h
    · simpa using h
    · split at h
      · rcases List.mem_cons.1 h with h | h
        · exact .inl h
        · exact .inr (List.mem_cons_of_mem _ h)
      · rcases List.mem_cons.1 h with h | h
        · exact .inr (h ▸ List.mem_cons_self ..)
        · rcases ih h with h | h
          · exact .inl h
          · exact .inr (List.mem_cons_of_mem _ h)

theorem mem_mmod {α : Type} {m : NMap α} {k : Nat} {f : α → α} {e : Nat × α} (h : e ∈ mmod m k f) :
    e ∈ m ∨ ∃ v, (k, v) ∈ m ∧ e = (k, f v) := by
  induction m with
  | nil => simp [mmod] at h
  | cons a r ih =>
    obtain ⟨j, w⟩ := a
    simp only [mmod] at h
    split at h
    · rename_i hj
      rcases List.mem_cons.1 h with h | h
      · exact .inr ⟨w, by simp [hj], by rw [h, hj]⟩
      · exact .inl (List.mem_cons_of_mem _ h)
    · rcases List.mem_cons.1 h with h | h
      · exact .inl (h ▸ List.mem_cons_self ..)
      · rcases ih h with h | ⟨v, hv, he⟩
        · exact .inl (List.mem_cons_of_mem _ h)
        · exact .inr ⟨v, List.mem_cons_of_mem _ hv, he⟩

theorem memWf_iff (s : State) : s.memWf = true ↔
    Memory.wf s.hbm = true ∧ Memory.wf s.flash = true ∧ ∀ e ∈ s.dies, Memory.wf e.2.sram = true := by
  rw [State.memWf, Bool.and_eq_true, Bool.and_eq_true, List.all_eq_true, and_assoc]

/-- An update of other fields. -/
theorem memWf_of_eq {s t : State} (hb : t.hbm = s.hbm) (hf : t.flash = s.flash) (hd : t.dies = s.dies)
    (h : s.memWf = true) : t.memWf = true := by
  rw [memWf_iff] at h ⊢
  rw [hb, hf, hd]
  exact h

theorem memWf_modDie {s : State} (d : Nat) {f : Die → Die} (hf : Memory.wf (f (s.die d)).sram = true)
    (h : s.memWf = true) : (s.modDie d f).memWf = true := by
  rw [memWf_iff] at h ⊢
  refine ⟨h.1, h.2.1, fun e he => ?_⟩
  rcases mem_mset he with rfl | he
  · exact hf
  · exact h.2.2 e he

theorem wf_sram {s : State} (h : s.memWf = true) (d : Nat) : Memory.wf (s.die d).sram = true := by
  have go : ∀ (m : NMap Die), (∀ e ∈ m, Memory.wf e.2.sram = true) → Memory.wf (mget m d Die.fresh).sram = true := by
    intro m hm
    induction m with
    | nil => rfl
    | cons e r ih =>
      by_cases he : e.1 = d
      · simpa [mget, mfind, he] using hm e (List.mem_cons_self ..)
      · simpa [mget, mfind, he] using ih fun x hx => hm x (List.mem_cons_of_mem _ hx)
  exact go _ ((memWf_iff s).1 h).2.2

/-- The memories of a state are canonical: HBM4E, flash, SRAM and the copies in L2. -/
def HomeWf (s : State) : Prop := s.memWf = true ∧ L2Wf s

theorem writeLine_wf {s : State} (line : Nat) (ln : L2Line) (h : HomeWf s) : HomeWf (writeLine s line ln) := by
  obtain ⟨hb, hf, hd⟩ := (memWf_iff s).1 h.1
  refine ⟨(memWf_iff _).2 ⟨wf_foldl (fun m i hm => ?_) _ hb, hf, hd⟩, h.2⟩
  split
  · exact wf_memPut _ _ hm
  · exact hm

theorem HomeWf.of_eq {s t : State} (h : HomeWf s) (hb : t.hbm = s.hbm) (hf : t.flash = s.flash) (hd : t.dies = s.dies)
    (hl : t.l2 = s.l2) : HomeWf t := ⟨memWf_of_eq hb hf hd h.1, fun e he => h.2 e (hl ▸ he)⟩

theorem HomeWf.foldl {α : Type} {f : State → α → State} (hf : ∀ s a, HomeWf s → HomeWf (f s a)) (l : List α) {s : State}
    (h : HomeWf s) : HomeWf (l.foldl f s) := by
  induction l generalizing s with
  | nil => exact h
  | cons a r ih => exact ih (hf s a h)

theorem bumpVers_wf {s : State} (key n : Nat) (h : HomeWf s) : HomeWf (bumpVers s key n) :=
  HomeWf.foldl (f := fun s i => bumpVer s ((key / 32 + i) * 32)) (fun _ _ h => h.of_eq rfl rfl rfl rfl) _ h

theorem unregisterCopy_home (s : State) (c word : Nat) (drop : Bool) :
    (unregisterCopy s c word drop).hbm = s.hbm ∧ (unregisterCopy s c word drop).flash = s.flash ∧
    (unregisterCopy s c word drop).dies = s.dies ∧ (unregisterCopy s c word drop).l2 = s.l2 := by
  exact ⟨rfl, rfl, rfl, rfl⟩

theorem unregisterCopy_wf {s : State} (c word : Nat) (drop : Bool) (h : HomeWf s) :
    HomeWf (unregisterCopy s c word drop) :=
  have e := unregisterCopy_home s c word drop
  h.of_eq e.1 e.2.1 e.2.2.1 e.2.2.2

theorem dropReg_wf {s : State} (word c : Nat) (drop : Bool) (h : HomeWf s) : HomeWf (dropReg s word c drop) :=
  unregisterCopy_wf c word drop (h.of_eq rfl rfl rfl rfl)

/-- A line leaves its slice: every memory stays canonical. -/
theorem evictLine_wf {s : State} (line : Nat) (ln : L2Line) (h : HomeWf s) : HomeWf (evictLine s line ln) := by
  simp only [evictLine]
  refine bumpVers_wf _ _ (HomeWf.foldl (fun s e h => dropReg_wf _ _ _ h) _ ?_)
  generalize (L2Line.mk _ _) = full
  have hw := writeLine_wf line full h
  generalize writeLine s line full = t at hw ⊢
  exact ⟨memWf_of_eq rfl rfl rfl hw.1, fun e he => hw.2 e (mem_mdel he)⟩

theorem l2Trim_wf {s : State} (line more : Nat) (h : HomeWf s) : HomeWf (l2Trim s line more) :=
  HomeWf.foldl (fun _ _ h => evictLine_wf _ _ h) _ h

theorem l2Touch_wf {s : State} (line : Nat) (h : HomeWf s) : HomeWf (l2Touch s line) := by
  simp only [l2Touch]
  split
  · have hr := l2Trim_wf line 1 h
    refine ⟨hr.1, fun e he => ?_⟩
    rcases mem_mset he with rfl | he
    · exact wf_memSlice _ _ ((memWf_iff _).1 hr.1).1
    · exact hr.2 e he
  · exact h

theorem homePut_wf {s : State} (key : Nat) (b : Byte) (h : HomeWf s) : HomeWf (homePut s key b) := by
  unfold homePut
  split
  · have ht := l2Touch_wf (key / 128) h
    refine ⟨ht.1, fun e he => ?_⟩
    rcases mem_mmod he with he | ⟨v, hv, rfl⟩
    · exact ht.2 e he
    · exact wf_memPut _ _ (ht.2 _ hv)
  · obtain ⟨hb, hf, hd⟩ := (memWf_iff s).1 h.1
    exact ⟨(memWf_iff _).2 ⟨wf_memPut _ _ hb, hf, hd⟩, h.2⟩

theorem homePuts_wf {s : State} (key : Nat) (bs : List Byte) (h : HomeWf s) : HomeWf (homePuts s key bs) := by
  induction bs generalizing s key with
  | nil => exact h
  | cons b r ih => exact ih _ (homePut_wf key b h)

theorem writeBackWord_wf {s : State} (word : Nat) (drop : Bool) (h : HomeWf s) : HomeWf (writeBackWord s word drop) := by
  simp only [writeBackWord]
  split
  · exact h
  · rename_i c _
    refine dropReg_wf _ _ _ ?_
    have hp := homePuts_wf (word * 4) ((List.range 4).map fun i => regByte s c (word * 4 + i)) h
    split
    · exact hp.of_eq rfl rfl rfl rfl
    · exact hp

theorem recallWords_wf {s : State} (key n : Nat) (h : HomeWf s) : HomeWf (recallWords s key n) :=
  HomeWf.foldl (fun _ _ h => writeBackWord_wf _ _ h) _ h

theorem registerWord_wf {s : State} (word c : Nat) (h : HomeWf s) : HomeWf (registerWord s word c) := by
  have go : ∀ {t : State}, HomeWf t → HomeWf (bumpVer { l2Touch t (word / 32) with words := mset t.words word (.reg c) }
      (word * 4)) := fun ht => (l2Touch_wf (word / 32) ht).of_eq rfl rfl rfl rfl
  simp only [registerWord]
  split
  · exact go (h.of_eq rfl rfl rfl rfl)
  · exact go ((writeBackWord_wf _ _ h).of_eq rfl rfl rfl rfl)

theorem ackMsg_wf {s : State} (m : Msg) (h : HomeWf s) : HomeWf (ackMsg s m) := by
  simp only [ackMsg]
  refine HomeWf.foldl (fun s e h => ?_) _ ?_
  · exact h.of_eq rfl rfl rfl rfl
  split
  · exact h.of_eq rfl rfl rfl rfl
  · refine HomeWf.foldl (fun s e h => ?_) _ (h.of_eq rfl rfl rfl rfl)
    exact h.of_eq rfl rfl rfl rfl

theorem joinSector_wf {s : State} (c : Option Nat) (sector : Nat) (h : HomeWf s) : HomeWf (joinSector s c sector) := by
  refine HomeWf.foldl (fun s m h => ?_) _ h
  repeat' split
  all_goals first | exact h | exact ackMsg_wf _ (registerWord_wf _ _ h)

theorem joinSectors_wf {s : State} (c : Option Nat) (key n : Nat) (h : HomeWf s) : HomeWf (joinSectors s c key n) :=
  HomeWf.foldl (fun _ _ h => joinSector_wf _ _ h) _ h

theorem registerAt_wf {s : State} (word c : Nat) (h : HomeWf s) : HomeWf (registerAt s word c) := by
  refine registerWord_wf _ _ ?_
  repeat' split
  all_goals first | exact h | exact joinSector_wf _ _ h

/-- A write performed at the home keeps every memory canonical. -/
theorem homeWrite_wf {s : State} (key : Nat) (bs : List Byte) (h : HomeWf s) : HomeWf (homeWrite s key bs) := by
  unfold homeWrite
  split
  · exact h
  · exact bumpVers_wf _ _ (homePuts_wf _ _ (recallWords_wf _ _ (joinSectors_wf _ _ _ h)))

theorem forwardRead_wf {s : State} (c : Option Nat) (key n : Nat) (h : HomeWf s) : HomeWf (forwardRead s c key n) := by
  refine HomeWf.foldl (fun s i h => ?_) _ (joinSectors_wf _ _ _ h)
  repeat' split
  all_goals exact h

theorem homeRead_wf {s : State} (c : Option Nat) (key n : Nat) (h : HomeWf s) : HomeWf (homeRead s c key n).2 :=
  l2Touch_wf _ (forwardRead_wf c key n h)

/-- Ending reservations changes no memory. -/
theorem dropResv_wf {s : State} (pa n : Nat) (h : HomeWf s) : HomeWf (dropResv s pa n) := by
  unfold dropResv
  dsimp only
  split
  · exact h.of_eq rfl rfl rfl rfl
  · exact h

/-- A supervisor's store, into SRAM or package memory. -/
theorem paWrite_wf {s : State} (pa : Nat) (bs : List Byte) (h : HomeWf s) : HomeWf (paWrite s pa bs) := by
  unfold paWrite
  split
  · exact dropResv_wf _ _ ⟨memWf_modDie _ (wf_memWrite _ _ (wf_sram h.1 _)) h.1, h.2⟩
  · exact homeWrite_wf pa bs h

/-- A byte of an operand store, or of a stash line it holds (R159, R184). -/
theorem opPut_wf {k : Core} (a : Nat) (b : Byte) (h : Memory.wf k.opst = true)
    (hl : ∀ e ∈ k.slines, Memory.wf e.2.data = true) :
    Memory.wf (opPut k a b).opst = true ∧ ∀ e ∈ (opPut k a b).slines, Memory.wf e.2.data = true := by
  simp only [opPut]
  split
  · refine ⟨h, fun e he => ?_⟩
    rcases mem_mmod he with he | ⟨v, hv, rfl⟩
    · exact hl e he
    · exact wf_memPut _ _ (hl _ hv)
  · exact ⟨wf_memPut _ _ h, hl⟩

theorem spadWrite_wf {s : State} (c a : Nat) (bs : List Byte) (h : Memory.wf (s.core c).opst = true) :
    Memory.wf ((spadWrite s c a bs).core c).opst = true := by
  simp only [spadWrite, core_modCore]
  exact wf_memWrite _ _ h

theorem reset_homeWf : HomeWf State.reset := ⟨reset_memWf, by intro e he; simp [State.reset] at he⟩

end Sys2Proof.Laws
end

