-- ==== Sys2Proof/Laws/Issue.lean ====
section
/-!
SUPPORT. What the shared operations of issue do, said once: a result of fixed latency, the lane-wise, predicate and
uniform forms, an instruction put in flight, and a register written back.
-/

namespace Sys2Proof.Laws

open Sys2Proof Sys2Proof.Machine Sys2Proof.Claims

variable {s : State} {c : IssueCtx} {x : Warp}

theorem warpD_of_find {w : Nat} (h : mfind s.warps w = some x) : s.warpD w = x := mget_of_mfind h _

/-- An issuing operation always answers a next state. -/
theorem issuing_next (s : State) (k : IssueCtx → Warp → State) : ∃ t, issuing s k = .next t := by
  unfold issuing
  split <;> exact ⟨_, rfl⟩

/-- Without a group being issued nothing happens. -/
theorem issuing_idle (k : IssueCtx → Warp → State) (h : s.issue = none) : issuing s k = .next s := by
  simp only [issuing, h]

theorem issuing_eq (h : Issuing s c x) (k : IssueCtx → Warp → State) : issuing s k = .next (k c x) := by
  simp only [issuing, h.ctx, warpD_of_find h.warp]

theorem enabledRaised_eq_false {en : Nat} {l : List Nat} (h : ∀ v ∈ l, v &&& en = 0) : enabledRaised en l = false := by
  simp only [enabledRaised, List.any_eq_false]
  intro v hv
  simp [h v hv]

theorem mmod_congr {α : Type} (m : NMap α) (k : Nat) (f g : α → α) (h : ∀ v, mfind m k = some v → f v = g v) :
    mmod m k f = mmod m k g := by
  induction m with
  | nil => rfl
  | cons e r ih =>
    obtain ⟨j, w⟩ := e
    simp only [mmod]
    split
    · rename_i hj
      rw [h w (by simp [mfind, hj])]
    · rename_i hj
      rw [ih fun v hv => h v (by simpa [mfind, hj] using hv)]

/-- A result of fixed latency without an enabled trap is in flight, and nothing else differs (R28, R105). -/
theorem flyResult_eq (h : Issuing s c x) {act : LaneMask} (ha : act ≠ 0) (ws : List RegWrite) (lat : Nat)
    {flags : List Nat} (hu : Untrapped c x flags) (adr : Nat) :
    flyResult s c act ws lat flags adr = inFlight s c x act ws lat flags := by
  have hw := warpD_of_find h.warp
  have hn : (enabledRaised (fpEnables c.fpctl) flags && !x.handler) = false := by
    rcases hu with hu | hu
    · simp [Warp.handler, hu]
    · rw [enabledRaised_eq_false (en := fpEnables c.fpctl) hu, Bool.false_and]
  simp only [flyResult, if_neg ha, hw, hn, Bool.false_eq_true, if_false]
  simp only [inFlight, resultFlight, State.modWarp, State.after, Warp.handler]
  congr 1
  refine mmod_congr _ _ _ _ fun v hv => ?_
  rw [h.warp] at hv
  cases hv
  rfl

/-- An instruction with ACT empty writes nothing (R83). -/
@[simp] theorem flyResult_zero (s : State) (c : IssueCtx) (ws : List RegWrite) (lat : Nat) (flags : List Nat) (adr : Nat) :
    flyResult s c 0 ws lat flags adr = s := by simp [flyResult]

/-- A lane-wise instruction with no empty source that traps. -/
theorem laneOp_eq (h : Issuing s c x) (i : Instr) (d n lat : Nat) (val : IssueCtx → Warp → Nat → FRes)
    (hf : feCause c x i = none) (ha : c.act x i ≠ 0)
    (hu : Untrapped c x ((allLanes.map fun l => if (c.act x i).getLsbD l then val c x l else ⟨0, 0⟩).map (·.flags))) :
    laneOp s i d n lat val = .next (inFlight s c x (c.act x i)
      (vWrites n d (c.act x i) fun l =>
        ((allLanes.map fun l => if (c.act x i).getLsbD l then val c x l else ⟨0, 0⟩).getD l ⟨0, 0⟩).bits) lat
      ((allLanes.map fun l => if (c.act x i).getLsbD l then val c x l else ⟨0, 0⟩).map (·.flags))) := by
  rw [laneOp, issuing_eq h]
  simp only [hf]
  rw [flyResult_eq h ha _ _ hu]

/-- The same where a source is empty and traps (R29). -/
theorem laneOp_trap (h : Issuing s c x) (i : Instr) (d n lat : Nat) (val : IssueCtx → Warp → Nat → FRes) {fa : DWord}
    (hf : feCause c x i = some fa) : laneOp s i d n lat val = .next (trapAtIssue s c 0x09 fa) := by
  rw [laneOp, issuing_eq h]
  simp only [hf]

/-- The same where ACT is empty (R83). -/
theorem laneOp_zero (h : Issuing s c x) (i : Instr) (d n lat : Nat) (val : IssueCtx → Warp → Nat → FRes)
    (hf : feCause c x i = none) (ha : c.act x i = 0) : laneOp s i d n lat val = .next s := by
  rw [laneOp, issuing_eq h]
  simp only [hf, ha, flyResult_zero]

theorem untrapped_zeros (c : IssueCtx) (x : Warp) (l : List Nat) (h : ∀ v ∈ l, v = 0) : Untrapped c x l :=
  .inr fun v hv => by simp [h v hv]

theorem lane_map_zero (m : LaneMask) (f : Nat → Nat) :
    (allLanes.map fun l => if m.getLsbD l then (⟨f l, 0⟩ : FRes) else ⟨0, 0⟩).map (·.flags) = List.replicate 32 0 := by
  rw [List.map_map]
  refine List.eq_replicate_iff.2 ⟨by simp [allLanes], fun v hv => ?_⟩
  obtain ⟨l, -, rfl⟩ := List.mem_map.1 hv
  simp only [Function.comp]
  split <;> rfl

theorem getD_allLanes {α : Type} (f : Nat → α) {l : Nat} (h : l < 32) (d : α) : (allLanes.map f).getD l d = f l := by
  simp [allLanes, h]

theorem laneVec_congr {f g : Nat → Word} (h : ∀ l, l < 32 → f l = g l) : laneVec f = laneVec g :=
  List.map_congr_left fun l hl => h l (by simpa [allLanes] using hl)

theorem vWrites_congr (n r : Nat) (m : LaneMask) {f g : Nat → Nat} (h : ∀ l, l < 32 → f l = g l) :
    vWrites n r m f = vWrites n r m g := by
  simp only [vWrites]
  rw [laneVec_congr (f := fun l => BitVec.ofNat 32 (f l)) (g := fun l => BitVec.ofNat 32 (g l)) fun l hl => by rw [h l hl],
    laneVec_congr (f := fun l => BitVec.ofNat 32 (f l / 2 ^ 32)) (g := fun l => BitVec.ofNat 32 (g l / 2 ^ 32))
      fun l hl => by rw [h l hl]]

/-- A lane-wise integer instruction: the value in each lane of ACT, no flags. -/
theorem intLanes_eq (h : Issuing s c x) (i : Instr) (d n lat : Nat) (val : Warp → Nat → Nat) (hf : feCause c x i = none)
    (ha : c.act x i ≠ 0) :
    intLanes s i d n lat val = .next (inFlight s c x (c.act x i)
      (vWrites n d (c.act x i) fun l => if (c.act x i).getLsbD l then val x l else 0) lat (List.replicate 32 0)) := by
  have hz := lane_map_zero (c.act x i) (val x)
  rw [intLanes, laneOp_eq h i d n lat _ hf ha (by rw [hz]; exact untrapped_zeros c x _ (by simp)), hz]
  rw [vWrites_congr n d (c.act x i) fun l hl => ?_]
  rw [getD_allLanes _ hl]
  split <;> rfl

/-- A lane predicate. -/
theorem predLanes_eq (h : Issuing s c x) (i : Instr) (p lat : Nat) (val : IssueCtx → Warp → Nat → Bool × Nat)
    (hf : feCause c x i = none) (ha : c.act x i ≠ 0)
    (hu : Untrapped c x ((allLanes.map fun l => if (c.act x i).getLsbD l then val c x l else (false, 0)).map (·.2))) :
    predLanes s i p lat val = .next (inFlight s c x (c.act x i)
      [.p p (c.act x i) (maskOf fun l =>
        ((allLanes.map fun l => if (c.act x i).getLsbD l then val c x l else (false, 0)).getD l (false, 0)).1)] lat
      ((allLanes.map fun l => if (c.act x i).getLsbD l then val c x l else (false, 0)).map (·.2))) := by
  rw [predLanes, issuing_eq h]
  simp only [hf]
  rw [flyResult_eq h ha _ _ hu]

/-- A uniform result (R130). -/
theorem uniOp_eq (h : Issuing s c x) (i : Instr) (lat : Nat) (val : Warp → List RegWrite) (hf : feCause c x i = none)
    (ha : c.act x i ≠ 0) : uniOp s i lat val = .next (inFlight s c x (c.act x i) (val x) lat []) := by
  rw [uniOp, issuing_eq h]
  simp only [hf]
  rw [flyResult_eq h ha _ _ (untrapped_zeros c x _ (by simp))]

/-! A state with one more result in flight. -/

theorem inFlight_warp (h : Issuing s c x) (act : LaneMask) (ws : List RegWrite) (lat : Nat) (fl : List Nat) :
    mfind (inFlight s c x act ws lat fl).warps c.warp =
      some { x.emptyAll ws with flights := x.flights ++ [resultFlight s c x act ws lat fl], nextSeq := x.nextSeq + 1 } := by
  simp [inFlight, h.warp]

theorem inFlight_others (act : LaneMask) (ws : List RegWrite) (lat : Nat) (fl : List Nat) :
    OthersSame s (inFlight s c x act ws lat fl) c.warp := fun _ hv => mfind_mmod_other _ _ hv

theorem inFlight_mem (act : LaneMask) (ws : List RegWrite) (lat : Nat) (fl : List Nat) :
    MemSame s (inFlight s c x act ws lat fl) :=
  ⟨rfl, rfl, rfl, rfl, fun _ => ⟨rfl, rfl⟩, fun _ => rfl⟩

/-- Emptying destinations changes no register and no special register (R28). -/
theorem emptyAll_regs (x : Warp) (l : List RegWrite) : RegsSame x (x.emptyAll l) := by constructor <;> simp

theorem writeAll_nil (x : Warp) : x.writeAll [] = x := rfl
theorem writeAll_cons (x : Warp) (d : RegWrite) (l : List RegWrite) : x.writeAll (d :: l) = (x.writeDest d).writeAll l := rfl
theorem emptyAll_nil (x : Warp) : x.emptyAll [] = x := rfl
theorem emptyAll_cons (x : Warp) (d : RegWrite) (l : List RegWrite) : x.emptyAll (d :: l) = (x.emptyDest d).emptyAll l := rfl

/-! One instruction put in flight. -/

theorem fly_warp {w : Nat} (h : mfind s.warps w = some x) (f : Flight) (e : Event) :
    mfind (fly s w f e).warps w =
      some { x.emptyAll f.writes with flights := x.flights ++ [f], nextSeq := max x.nextSeq (f.seq + 1) } := by
  simp [fly, h]

theorem fly_others (w : Nat) (f : Flight) (e : Event) : OthersSame s (fly s w f e) w := fun _ hv => mfind_mmod_other _ _ hv

theorem fly_mem (w : Nat) (f : Flight) (e : Event) : MemSame s (fly s w f e) :=
  ⟨rfl, rfl, rfl, rfl, fun _ => ⟨rfl, rfl⟩, fun _ => rfl⟩

theorem mem_agendaPut (l : List (Nat × Event)) (t : Nat) (e : Event) : (t, e) ∈ agendaPut l t e := by
  induction l with
  | nil => simp [agendaPut]
  | cons a r ih =>
    obtain ⟨u, j⟩ := a
    simp only [agendaPut]
    split <;> simp [ih]

theorem mem_agendaPut_iff (l : List (Nat × Event)) (t : Nat) (e : Event) (b : Nat × Event) :
    b ∈ agendaPut l t e ↔ b = (t, e) ∨ b ∈ l := by
  induction l with
  | nil => simp [agendaPut]
  | cons a r ih =>
    obtain ⟨u, j⟩ := a
    simp only [agendaPut]
    split
    · simp [ih, or_left_comm]
    · simp

theorem mem_after (s : State) (n : Nat) (e : Event) : (s.clk + n, e) ∈ (s.after n e).agenda := by
  simp [mem_agendaPut]

/-! A register written back. -/

@[simp] theorem s_writeDest_s (x : Warp) (r : Nat) (v : Word) : (x.writeDest (.s r v)).s r = v := by
  simp [Warp.writeDest, Warp.s]

theorem s_writeDest_s_other (x : Warp) {r q : Nat} (v : Word) (h : q ≠ r) : (x.writeDest (.s r v)).s q = x.s q := by
  simp [Warp.writeDest, Warp.s, mget_mput_other _ _ _ _ h]

/-- p7 and q7 read as true whatever is written to them (R24). -/
theorem p_writeDest_seven (x : Warp) (m v : LaneMask) : (x.writeDest (.p 7 m v)) = x ∧ x.p 7 = 0xFFFFFFFF := ⟨rfl, rfl⟩
theorem q_writeDest_seven (x : Warp) (b : Bool) : (x.writeDest (.q 7 b)) = x ∧ x.q 7 = true := ⟨rfl, rfl⟩

theorem merge_getD {α : Type} (m : LaneMask) (a b : List α) (d : α) {l : Nat} (h : l < 32) :
    (merge m a b d).getD l d = if m.getLsbD l then a.getD l d else b.getD l d := by
  simp [merge, allLanes, h]

/-- A vector register after a write: the new value in the lanes of the mask, the old one elsewhere (R28). -/
theorem v_writeDest_v (x : Warp) (r : Nat) (m : LaneMask) (vals : LaneVec) {l : Nat} (h : l < 32) :
    (x.writeDest (.v r m vals)).v r l = if m.getLsbD l then vals.getD l 0 else x.v r l := by
  simp only [Warp.writeDest, Warp.v, laneGet, mget_mput_self]
  exact merge_getD m vals _ 0 h

theorem v_writeDest_v_other (x : Warp) {r q : Nat} (m : LaneMask) (vals : LaneVec) (h : q ≠ r) (l : Nat) :
    (x.writeDest (.v r m vals)).v q l = x.v q l := by
  simp only [Warp.writeDest, Warp.v, mget_mput_other _ _ _ _ h]

/-- It is full in those lanes. -/
theorem vE_writeDest_v (x : Warp) (r : Nat) (m : LaneMask) (vals : LaneVec) :
    vEmptyIn (x.writeDest (.v r m vals)).vE r = vEmptyIn x.vE r &&& ~~~m := by
  simp [Warp.writeDest, vEmptyIn]

theorem vE_emptyDest_v (x : Warp) (r : Nat) (m : LaneMask) (vals : LaneVec) :
    vEmptyIn (x.emptyDest (.v r m vals)).vE r = vEmptyIn x.vE r ||| m := by
  simp [Warp.emptyDest, Warp.setVE, vEmptyIn]

end Sys2Proof.Laws
end

