-- ==== Sys2Proof/Laws/PerInstr.lean ====
section
/-!
SUPPORT. Statements made for every instruction: RoundTrip, decoding what was encoded.
-/

namespace Sys2Proof.Laws

namespace RoundTrip

open Sys2Proof.Machine

/-- A well-formed instruction that has words is read back from them (R76 to R104, R404). -/
def Statement (i : Instr) : Prop := ReadsBack i
theorem nop  : Statement (.nop) := fun _ _ => rfl
theorem iaddShort (f : ShortV) : Statement (.iaddShort f) := shortV_rt rfl rfl (by decide) rfl
theorem isubShort (f : ShortV) : Statement (.isubShort f) := shortV_rt rfl rfl (by decide) rfl
theorem imulShort (f : ShortV) : Statement (.imulShort f) := shortV_rt rfl rfl (by decide) rfl
theorem imulhiS32Short (f : ShortV) : Statement (.imulhiS32Short f) := shortV_rt rfl rfl (by decide) rfl
theorem imulhiZ32Short (f : ShortV) : Statement (.imulhiZ32Short f) := shortV_rt rfl rfl (by decide) rfl
theorem imadShort (f : ShortV) : Statement (.imadShort f) := shortV_rt rfl rfl (by decide) rfl
theorem iminS32Short (f : ShortV) : Statement (.iminS32Short f) := shortV_rt rfl rfl (by decide) rfl
theorem iminZ32Short (f : ShortV) : Statement (.iminZ32Short f) := shortV_rt rfl rfl (by decide) rfl
theorem imaxS32Short (f : ShortV) : Statement (.imaxS32Short f) := shortV_rt rfl rfl (by decide) rfl
theorem imaxZ32Short (f : ShortV) : Statement (.imaxZ32Short f) := shortV_rt rfl rfl (by decide) rfl
theorem iabsShort (f : ShortV) : Statement (.iabsShort f) := shortV_rt rfl rfl (by decide) rfl
theorem andShort (f : ShortV) : Statement (.andShort f) := shortV_rt rfl rfl (by decide) rfl
theorem orShort (f : ShortV) : Statement (.orShort f) := shortV_rt rfl rfl (by decide) rfl
theorem xorShort (f : ShortV) : Statement (.xorShort f) := shortV_rt rfl rfl (by decide) rfl
theorem shlShort (f : ShortV) : Statement (.shlShort f) := shortV_rt rfl rfl (by decide) rfl
theorem shrShort (f : ShortV) : Statement (.shrShort f) := shortV_rt rfl rfl (by decide) rfl
theorem sarShort (f : ShortV) : Statement (.sarShort f) := shortV_rt rfl rfl (by decide) rfl
theorem popcShort (f : ShortV) : Statement (.popcShort f) := shortV_rt rfl rfl (by decide) rfl
theorem clzShort (f : ShortV) : Statement (.clzShort f) := shortV_rt rfl rfl (by decide) rfl
theorem brevShort (f : ShortV) : Statement (.brevShort f) := shortV_rt rfl rfl (by decide) rfl
theorem iadd (f : LongF) : Statement (.iadd f) := long_rt rfl rfl (by decide) rfl
theorem isub (f : LongF) : Statement (.isub f) := long_rt rfl rfl (by decide) rfl
theorem imul (f : LongF) : Statement (.imul f) := long_rt rfl rfl (by decide) rfl
theorem imulhi (f : LongF) : Statement (.imulhi f) := long_rt rfl rfl (by decide) rfl
theorem imad (f : LongF) : Statement (.imad f) := long_rt rfl rfl (by decide) rfl
theorem imin (f : LongF) : Statement (.imin f) := long_rt rfl rfl (by decide) rfl
theorem imax (f : LongF) : Statement (.imax f) := long_rt rfl rfl (by decide) rfl
theorem iabs (f : LongF) : Statement (.iabs f) := long_rt rfl rfl (by decide) rfl
theorem and (f : LongF) : Statement (.and f) := long_rt rfl rfl (by decide) rfl
theorem or (f : LongF) : Statement (.or f) := long_rt rfl rfl (by decide) rfl
theorem xor (f : LongF) : Statement (.xor f) := long_rt rfl rfl (by decide) rfl
theorem shl (f : LongF) : Statement (.shl f) := long_rt rfl rfl (by decide) rfl
theorem shr (f : LongF) : Statement (.shr f) := long_rt rfl rfl (by decide) rfl
theorem sar (f : LongF) : Statement (.sar f) := long_rt rfl rfl (by decide) rfl
theorem bfe (f : LongF) : Statement (.bfe f) := long_rt rfl rfl (by decide) rfl
theorem bfi (f : LongF) : Statement (.bfi f) := long_rt rfl rfl (by decide) rfl
theorem popc (f : LongF) : Statement (.popc f) := long_rt rfl rfl (by decide) rfl
theorem clz (f : LongF) : Statement (.clz f) := long_rt rfl rfl (by decide) rfl
theorem brev (f : LongF) : Statement (.brev f) := long_rt rfl rfl (by decide) rfl
theorem lea (f : LongF) : Statement (.lea f) := long_rt rfl rfl (by decide) rfl
theorem isetp (f : LongF) : Statement (.isetp f) := long_rt rfl rfl (by decide) rfl
theorem sel (f : LongF) : Statement (.sel f) := long_rt rfl rfl (by decide) rfl
theorem iaddImm (f : ImmV) : Statement (.iaddImm f) := immV_rt rfl rfl
theorem imulImm (f : ImmV) : Statement (.imulImm f) := immV_rt rfl rfl
theorem andImm (f : ImmV) : Statement (.andImm f) := immV_rt rfl rfl
theorem orImm (f : ImmV) : Statement (.orImm f) := immV_rt rfl rfl
theorem xorImm (f : ImmV) : Statement (.xorImm f) := immV_rt rfl rfl
theorem shlImm (f : ImmV) : Statement (.shlImm f) := immV_rt rfl rfl
theorem shrImm (f : ImmV) : Statement (.shrImm f) := immV_rt rfl rfl
theorem sarImm (f : ImmV) : Statement (.sarImm f) := immV_rt rfl rfl
theorem faddShort (f : ShortV) : Statement (.faddShort f) := shortV_rt rfl rfl (by decide) rfl
theorem fsubShort (f : ShortV) : Statement (.fsubShort f) := shortV_rt rfl rfl (by decide) rfl
theorem fmulShort (f : ShortV) : Statement (.fmulShort f) := shortV_rt rfl rfl (by decide) rfl
theorem ffmaShort (f : ShortV) : Statement (.ffmaShort f) := shortV_rt rfl rfl (by decide) rfl
theorem fminShort (f : ShortV) : Statement (.fminShort f) := shortV_rt rfl rfl (by decide) rfl
theorem fmaxShort (f : ShortV) : Statement (.fmaxShort f) := shortV_rt rfl rfl (by decide) rfl
theorem hadd2Bf16Short (f : ShortV) : Statement (.hadd2Bf16Short f) := shortV_rt rfl rfl (by decide) rfl
theorem hadd2F16Short (f : ShortV) : Statement (.hadd2F16Short f) := shortV_rt rfl rfl (by decide) rfl
theorem hmul2Bf16Short (f : ShortV) : Statement (.hmul2Bf16Short f) := shortV_rt rfl rfl (by decide) rfl
theorem hmul2F16Short (f : ShortV) : Statement (.hmul2F16Short f) := shortV_rt rfl rfl (by decide) rfl
theorem hfma2Bf16Short (f : ShortV) : Statement (.hfma2Bf16Short f) := shortV_rt rfl rfl (by decide) rfl
theorem hfma2F16Short (f : ShortV) : Statement (.hfma2F16Short f) := shortV_rt rfl rfl (by decide) rfl
theorem fadd (f : LongF) : Statement (.fadd f) := long_rt rfl rfl (by decide) rfl
theorem fsub (f : LongF) : Statement (.fsub f) := long_rt rfl rfl (by decide) rfl
theorem fmul (f : LongF) : Statement (.fmul f) := long_rt rfl rfl (by decide) rfl
theorem ffma (f : LongF) : Statement (.ffma f) := long_rt rfl rfl (by decide) rfl
theorem fmin (f : LongF) : Statement (.fmin f) := long_rt rfl rfl (by decide) rfl
theorem fmax (f : LongF) : Statement (.fmax f) := long_rt rfl rfl (by decide) rfl
theorem fsetp (f : LongF) : Statement (.fsetp f) := long_rt rfl rfl (by decide) rfl
theorem frnd (f : LongF) : Statement (.frnd f) := long_rt rfl rfl (by decide) rfl
theorem hadd2 (f : LongF) : Statement (.hadd2 f) := long_rt rfl rfl (by decide) rfl
theorem hmul2 (f : LongF) : Statement (.hmul2 f) := long_rt rfl rfl (by decide) rfl
theorem hfma2 (f : LongF) : Statement (.hfma2 f) := long_rt rfl rfl (by decide) rfl
theorem faddImm (f : ImmV) : Statement (.faddImm f) := immV_rt rfl rfl
theorem fmulImm (f : ImmV) : Statement (.fmulImm f) := immV_rt rfl rfl
theorem ffmaImm (f : ImmV) : Statement (.ffmaImm f) := immV_rt rfl rfl
theorem rcpShort (f : ShortV) : Statement (.rcpShort f) := shortV_rt rfl rfl (by decide) rfl
theorem rsqShort (f : ShortV) : Statement (.rsqShort f) := shortV_rt rfl rfl (by decide) rfl
theorem sqrtShort (f : ShortV) : Statement (.sqrtShort f) := shortV_rt rfl rfl (by decide) rfl
theorem ex2Short (f : ShortV) : Statement (.ex2Short f) := shortV_rt rfl rfl (by decide) rfl
theorem lg2Short (f : ShortV) : Statement (.lg2Short f) := shortV_rt rfl rfl (by decide) rfl
theorem sinShort (f : ShortV) : Statement (.sinShort f) := shortV_rt rfl rfl (by decide) rfl
theorem cosShort (f : ShortV) : Statement (.cosShort f) := shortV_rt rfl rfl (by decide) rfl
theorem tanhShort (f : ShortV) : Statement (.tanhShort f) := shortV_rt rfl rfl (by decide) rfl
theorem rcp (f : LongF) : Statement (.rcp f) := long_rt rfl rfl (by decide) rfl
theorem rsq (f : LongF) : Statement (.rsq f) := long_rt rfl rfl (by decide) rfl
theorem sqrt (f : LongF) : Statement (.sqrt f) := long_rt rfl rfl (by decide) rfl
theorem ex2 (f : LongF) : Statement (.ex2 f) := long_rt rfl rfl (by decide) rfl
theorem lg2 (f : LongF) : Statement (.lg2 f) := long_rt rfl rfl (by decide) rfl
theorem sin (f : LongF) : Statement (.sin f) := long_rt rfl rfl (by decide) rfl
theorem cos (f : LongF) : Statement (.cos f) := long_rt rfl rfl (by decide) rfl
theorem tanh (f : LongF) : Statement (.tanh f) := long_rt rfl rfl (by decide) rfl
theorem cvt (f : LongF) : Statement (.cvt f) := long_rt rfl rfl (by decide) rfl
theorem shfl (f : LongF) : Statement (.shfl f) := long_rt rfl rfl (by decide) rfl
theorem vote (f : LongF) : Statement (.vote f) := long_rt rfl rfl (by decide) rfl
theorem redux (f : LongF) : Statement (.redux f) := long_rt rfl rfl (by decide) rfl
theorem prmt (f : LongF) : Statement (.prmt f) := long_rt rfl rfl (by decide) rfl
theorem matchLanes (f : LongF) : Statement (.matchLanes f) := long_rt rfl rfl (by decide) rfl
theorem saddShort (f : ShortA) : Statement (.saddShort f) := shortA_rt rfl rfl
theorem ssubShort (f : ShortA) : Statement (.ssubShort f) := shortA_rt rfl rfl
theorem smulShort (f : ShortA) : Statement (.smulShort f) := shortA_rt rfl rfl
theorem sandShort (f : ShortA) : Statement (.sandShort f) := shortA_rt rfl rfl
theorem sorShort (f : ShortA) : Statement (.sorShort f) := shortA_rt rfl rfl
theorem sxorShort (f : ShortA) : Statement (.sxorShort f) := shortA_rt rfl rfl
theorem sshlShort (f : ShortA) : Statement (.sshlShort f) := shortA_rt rfl rfl
theorem sshrShort (f : ShortA) : Statement (.sshrShort f) := shortA_rt rfl rfl
theorem smovShort (f : ShortA) : Statement (.smovShort f) := shortA_rt rfl rfl
theorem ssetpS32Short (f : ShortU) : Statement (.ssetpS32Short f) := shortU_rt rfl rfl (by decide) (fun _ => rfl) rfl
theorem ssetpZ32Short (f : ShortU) : Statement (.ssetpZ32Short f) := shortU_rt rfl rfl (by decide) (fun _ => rfl) rfl
theorem s2vShort (f : ShortU) : Statement (.s2vShort f) := shortU_rt rfl rfl (by decide) (fun _ => rfl) rfl
theorem v2sShort (f : ShortU) : Statement (.v2sShort f) := shortU_rt rfl rfl (by decide) (fun _ => rfl) rfl
theorem sldShort (f : ShortU) : Statement (.sldShort f) := shortU_rt rfl rfl (by decide) (fun _ => rfl) rfl
theorem sadd (f : UniF) : Statement (.sadd f) := uni_rt rfl rfl
theorem ssub (f : UniF) : Statement (.ssub f) := uni_rt rfl rfl
theorem smul (f : UniF) : Statement (.smul f) := uni_rt rfl rfl
theorem sand (f : UniF) : Statement (.sand f) := uni_rt rfl rfl
theorem sor (f : UniF) : Statement (.sor f) := uni_rt rfl rfl
theorem sxor (f : UniF) : Statement (.sxor f) := uni_rt rfl rfl
theorem sshl (f : UniF) : Statement (.sshl f) := uni_rt rfl rfl
theorem sshr (f : UniF) : Statement (.sshr f) := uni_rt rfl rfl
theorem smov (f : UniF) : Statement (.smov f) := uni_rt rfl rfl
theorem ssetp (f : UniF) : Statement (.ssetp f) := uni_rt rfl rfl
theorem sbfe (f : UniF) : Statement (.sbfe f) := uni_rt rfl rfl
theorem s2v (f : UniF) : Statement (.s2v f) := uni_rt rfl rfl
theorem v2s (f : UniF) : Statement (.v2s f) := uni_rt rfl rfl
theorem sld (f : UniF) : Statement (.sld f) := uni_rt rfl rfl
theorem saddImm (f : ImmU) : Statement (.saddImm f) := immU_rt rfl rfl
theorem smulImm (f : ImmU) : Statement (.smulImm f) := immU_rt rfl rfl
theorem sandImm (f : ImmU) : Statement (.sandImm f) := immU_rt rfl rfl
theorem sorImm (f : ImmU) : Statement (.sorImm f) := immU_rt rfl rfl
theorem sxorImm (f : ImmU) : Statement (.sxorImm f) := immU_rt rfl rfl
theorem sshlImm (f : ImmU) : Statement (.sshlImm f) := immU_rt rfl rfl
theorem sshrImm (f : ImmU) : Statement (.sshrImm f) := immU_rt rfl rfl
theorem smovImm (f : ImmU) : Statement (.smovImm f) := immU_rt rfl rfl
theorem ssetpImm (f : ImmU) : Statement (.ssetpImm f) := immU_rt rfl rfl
theorem ldShort (f : ShortV) : Statement (.ldShort f) := shortV_rt rfl rfl (by decide) rfl
theorem stShort (f : ShortV) : Statement (.stShort f) := shortV_rt rfl rfl (by decide) rfl
theorem ldsShort (f : ShortV) : Statement (.ldsShort f) := shortV_rt rfl rfl (by decide) rfl
theorem stsShort (f : ShortV) : Statement (.stsShort f) := shortV_rt rfl rfl (by decide) rfl
theorem ld (f : LongF) : Statement (.ld f) := long_rt rfl rfl (by decide) rfl
theorem st (f : LongF) : Statement (.st f) := long_rt rfl rfl (by decide) rfl
theorem lds (f : LongF) : Statement (.lds f) := long_rt rfl rfl (by decide) rfl
theorem sts (f : LongF) : Statement (.sts f) := long_rt rfl rfl (by decide) rfl
theorem ldr (f : LongF) : Statement (.ldr f) := long_rt rfl rfl (by decide) rfl
theorem str (f : LongF) : Statement (.str f) := long_rt rfl rfl (by decide) rfl
theorem ldw (f : LongF) : Statement (.ldw f) := long_rt rfl rfl (by decide) rfl
theorem chkw (f : LongF) : Statement (.chkw f) := long_rt rfl rfl (by decide) rfl
theorem fence (f : LongF) : Statement (.fence f) := by
  intro hw
  have hd : FieldUse.ok (.below 3) f.d.toNat false false false = true := by
    have h : (info (.fence f)).ok = true := hw
    have h2 : (info (.fence f)).ok = (f.only 0x03 && !(f.g == 7 && f.n) && FieldUse.ok (.below 3) f.d.toNat false false false && FieldUse.zero.ok f.a.toNat (f.w.getLsbD 2) false false && FieldUse.zero.ok f.b.toNat (f.w.getLsbD 1) f.k (f.m.getLsbD 6) && FieldUse.zero.ok f.t.toNat (f.w.getLsbD 0) false false) := rfl
    rw [h2] at h
    simp only [Bool.and_eq_true] at h
    exact h.1.1.1.2
  have h : (f.d == 3) = false := by
    rw [beq_eq_false_iff_ne]
    rintro h
    rw [h] at hd
    exact absurd hd (by decide)
  have hl : ofLong (0x74#7).toNat (0x08#8).toNat f = some (if f.d == 3 then .fenceSc f else .fence f) := rfl
  rw [h] at hl
  exact long_rt rfl rfl (by decide) hl hw
theorem fenceSc (f : LongF) : Statement (.fenceSc f) := by
  intro hw
  have h : (f.d == 3) = true := by
    have h : (info (.fenceSc f)).ok = true := hw
    have h2 : (info (.fenceSc f)).ok = ((f.d == 3 && f.only 0x03) && !(f.g == 7 && f.n) && FieldUse.raw.ok f.d.toNat false false false && FieldUse.zero.ok f.a.toNat (f.w.getLsbD 2) false false && FieldUse.zero.ok f.b.toNat (f.w.getLsbD 1) f.k (f.m.getLsbD 6) && FieldUse.zero.ok f.t.toNat (f.w.getLsbD 0) false false) := rfl
    rw [h2] at h
    simp only [Bool.and_eq_true] at h
    exact h.1.1.1.1.1.1
  have hl : ofLong (0x74#7).toNat (0x08#8).toNat f = some (if f.d == 3 then .fenceSc f else .fence f) := rfl
  rw [h] at hl
  exact long_rt rfl rfl (by decide) hl hw
theorem drainst (f : LongF) : Statement (.drainst f) := long_rt rfl rfl (by decide) rfl
theorem ifence (f : LongF) : Statement (.ifence f) := long_rt rfl rfl (by decide) rfl
theorem prefetch (f : LongF) : Statement (.prefetch f) := long_rt rfl rfl (by decide) rfl
theorem smap (f : LongF) : Statement (.smap f) := long_rt rfl rfl (by decide) rfl
theorem sunmap (f : LongF) : Statement (.sunmap f) := long_rt rfl rfl (by decide) rfl
theorem sflush (f : LongF) : Statement (.sflush f) := long_rt rfl rfl (by decide) rfl
theorem wmld (f : LongF) : Statement (.wmld f) := long_rt rfl rfl (by decide) rfl
theorem wmst (f : LongF) : Statement (.wmst f) := long_rt rfl rfl (by decide) rfl
theorem atomAdd (f : LongF) : Statement (.atomAdd f) := long_rt rfl rfl (by decide) rfl
theorem atomMin (f : LongF) : Statement (.atomMin f) := long_rt rfl rfl (by decide) rfl
theorem atomMax (f : LongF) : Statement (.atomMax f) := long_rt rfl rfl (by decide) rfl
theorem atomAnd (f : LongF) : Statement (.atomAnd f) := long_rt rfl rfl (by decide) rfl
theorem atomOr (f : LongF) : Statement (.atomOr f) := long_rt rfl rfl (by decide) rfl
theorem atomXor (f : LongF) : Statement (.atomXor f) := long_rt rfl rfl (by decide) rfl
theorem atomExch (f : LongF) : Statement (.atomExch f) := long_rt rfl rfl (by decide) rfl
theorem atomCas (f : LongF) : Statement (.atomCas f) := long_rt rfl rfl (by decide) rfl
theorem atomSpadAdd (f : LongF) : Statement (.atomSpadAdd f) := long_rt rfl rfl (by decide) rfl
theorem atomSpadMin (f : LongF) : Statement (.atomSpadMin f) := long_rt rfl rfl (by decide) rfl
theorem atomSpadMax (f : LongF) : Statement (.atomSpadMax f) := long_rt rfl rfl (by decide) rfl
theorem atomSpadAnd (f : LongF) : Statement (.atomSpadAnd f) := long_rt rfl rfl (by decide) rfl
theorem atomSpadOr (f : LongF) : Statement (.atomSpadOr f) := long_rt rfl rfl (by decide) rfl
theorem atomSpadXor (f : LongF) : Statement (.atomSpadXor f) := long_rt rfl rfl (by decide) rfl
theorem atomSpadExch (f : LongF) : Statement (.atomSpadExch f) := long_rt rfl rfl (by decide) rfl
theorem atomSpadCas (f : LongF) : Statement (.atomSpadCas f) := long_rt rfl rfl (by decide) rfl
theorem atomPeerAdd (f : LongF) : Statement (.atomPeerAdd f) := long_rt rfl rfl (by decide) rfl
theorem atomPeerMin (f : LongF) : Statement (.atomPeerMin f) := long_rt rfl rfl (by decide) rfl
theorem atomPeerMax (f : LongF) : Statement (.atomPeerMax f) := long_rt rfl rfl (by decide) rfl
theorem atomPeerAnd (f : LongF) : Statement (.atomPeerAnd f) := long_rt rfl rfl (by decide) rfl
theorem atomPeerOr (f : LongF) : Statement (.atomPeerOr f) := long_rt rfl rfl (by decide) rfl
theorem atomPeerXor (f : LongF) : Statement (.atomPeerXor f) := long_rt rfl rfl (by decide) rfl
theorem atomPeerExch (f : LongF) : Statement (.atomPeerExch f) := long_rt rfl rfl (by decide) rfl
theorem atomPeerCas (f : LongF) : Statement (.atomPeerCas f) := long_rt rfl rfl (by decide) rfl
theorem redAdd (f : LongF) : Statement (.redAdd f) := long_rt rfl rfl (by decide) rfl
theorem redMin (f : LongF) : Statement (.redMin f) := long_rt rfl rfl (by decide) rfl
theorem redMax (f : LongF) : Statement (.redMax f) := long_rt rfl rfl (by decide) rfl
theorem redAnd (f : LongF) : Statement (.redAnd f) := long_rt rfl rfl (by decide) rfl
theorem redOr (f : LongF) : Statement (.redOr f) := long_rt rfl rfl (by decide) rfl
theorem redXor (f : LongF) : Statement (.redXor f) := long_rt rfl rfl (by decide) rfl
theorem redTrig (f : LongF) : Statement (.redTrig f) := long_rt rfl rfl (by decide) rfl
theorem braShort (f : ShortB) : Statement (.braShort f) := shortB_rt rfl rfl (by decide) (fun _ => rfl) (fun _ => rfl) rfl
theorem exitShort (f : ShortB) : Statement (.exitShort f) := shortB_rt rfl rfl (by decide) (fun _ => rfl) (fun _ => rfl) rfl
theorem yieldShort (f : ShortB) : Statement (.yieldShort f) := shortB_rt rfl rfl (by decide) (fun _ => rfl) (fun _ => rfl) rfl
theorem bra (f : LongF) : Statement (.bra f) := long_rt rfl rfl (by decide) rfl
theorem brx (f : LongF) : Statement (.brx f) := long_rt rfl rfl (by decide) rfl
theorem call (f : LongF) : Statement (.call f) := long_rt rfl rfl (by decide) rfl
theorem ret (f : LongF) : Statement (.ret f) := long_rt rfl rfl (by decide) rfl
theorem exit (f : LongF) : Statement (.exit f) := long_rt rfl rfl (by decide) rfl
theorem conv (f : LongF) : Statement (.conv f) := long_rt rfl rfl (by decide) rfl
theorem yield (f : LongF) : Statement (.yield f) := long_rt rfl rfl (by decide) rfl
theorem setpri (f : LongF) : Statement (.setpri f) := long_rt rfl rfl (by decide) rfl
theorem bar (f : LongF) : Statement (.bar f) := long_rt rfl rfl (by decide) rfl
theorem bara (f : LongF) : Statement (.bara f) := long_rt rfl rfl (by decide) rfl
theorem barw (f : LongF) : Statement (.barw f) := long_rt rfl rfl (by decide) rfl
theorem spawn (f : LongF) : Statement (.spawn f) := long_rt rfl rfl (by decide) rfl
theorem launch (f : LongF) : Statement (.launch f) := long_rt rfl rfl (by decide) rfl
theorem enq (f : LongF) : Statement (.enq f) := long_rt rfl rfl (by decide) rfl
theorem gterm (f : LongF) : Statement (.gterm f) := long_rt rfl rfl (by decide) rfl
theorem trapi (f : LongF) : Statement (.trapi f) := long_rt rfl rfl (by decide) rfl
theorem rett (f : LongF) : Statement (.rett f) := long_rt rfl rfl (by decide) rfl
theorem mfsr (f : LongF) : Statement (.mfsr f) := by
  have he : (info (.mfsr f)).enc = .long 0x7C#7 0x02#8 f := by
    show Info.enc (if srPerLane f.a.toNat
      then long 0x7C 0x02 f .S .lane (wv 1) .raw .zero .zero (f.only 0)
      else long 0x7C 0x02 f .S .lane .zero (.below 0x13) .zero (wu (srRegs f.a.toNat)) (f.only 0)) = _
    split <;> rfl
  have hl : ofLong (0x7C#7).toNat (0x02#8).toNat f = some (.mfsr f) := rfl
  exact long_rt he rfl (by decide) hl
theorem mtsr (f : LongF) : Statement (.mtsr f) := by
  have he : (info (.mtsr f)).enc = .long 0x7C#7 0x03#8 f := by
    show Info.enc (if srPerLane f.a.toNat
      then long 0x7C 0x03 f .S .lane .zero .raw (rv 1) .zero (f.only 0)
      else long 0x7C 0x03 f .S .lane .zero (.below 0x13) (.uniK (srRegs f.a.toNat)) .zero (f.only 0)) = _
    split <;> rfl
  have hl : ofLong (0x7C#7).toNat (0x03#8).toNat f = some (.mtsr f) := rfl
  exact long_rt he rfl (by decide) hl
theorem bkpt (f : LongF) : Statement (.bkpt f) := long_rt rfl rfl (by decide) rfl
theorem svc (f : LongF) : Statement (.svc f) := long_rt rfl rfl (by decide) rfl
theorem stamp (f : LongF) : Statement (.stamp f) := long_rt rfl rfl (by decide) rfl
theorem cntstart (f : LongF) : Statement (.cntstart f) := long_rt rfl rfl (by decide) rfl
theorem cntstop (f : LongF) : Statement (.cntstop f) := long_rt rfl rfl (by decide) rfl
theorem prsv (f : LongF) : Statement (.prsv f) := long_rt rfl rfl (by decide) rfl
theorem pcmt (f : LongF) : Statement (.pcmt f) := long_rt rfl rfl (by decide) rfl
theorem pacq (f : LongF) : Statement (.pacq f) := long_rt rfl rfl (by decide) rfl
theorem prel (f : LongF) : Statement (.prel f) := long_rt rfl rfl (by decide) rfl
theorem ppoll (f : LongF) : Statement (.ppoll f) := long_rt rfl rfl (by decide) rfl
theorem pclose (f : LongF) : Statement (.pclose f) := long_rt rfl rfl (by decide) rfl
theorem tcopy (f : LongF) : Statement (.tcopy f) := long_rt rfl rfl (by decide) rfl
theorem mcfg (f : LongF) : Statement (.mcfg f) := long_rt rfl rfl (by decide) rfl
theorem mrel (f : LongF) : Statement (.mrel f) := long_rt rfl rfl (by decide) rfl
theorem mload (f : LongF) : Statement (.mload f) := long_rt rfl rfl (by decide) rfl
theorem mloop (f : LongF) : Statement (.mloop f) := long_rt rfl rfl (by decide) rfl
theorem mdrain (f : LongF) : Statement (.mdrain f) := long_rt rfl rfl (by decide) rfl
theorem mzero (f : LongF) : Statement (.mzero f) := long_rt rfl rfl (by decide) rfl
theorem mfence (f : LongF) : Statement (.mfence f) := long_rt rfl rfl (by decide) rfl
theorem skadd (f : LongF) : Statement (.skadd f) := long_rt rfl rfl (by decide) rfl
theorem skmerge (f : LongF) : Statement (.skmerge f) := long_rt rfl rfl (by decide) rfl
theorem skq (f : LongF) : Statement (.skq f) := long_rt rfl rfl (by decide) rfl
theorem hhadd (f : LongF) : Statement (.hhadd f) := long_rt rfl rfl (by decide) rfl
theorem hhmerge (f : LongF) : Statement (.hhmerge f) := long_rt rfl rfl (by decide) rfl
theorem hhtop (f : LongF) : Statement (.hhtop f) := long_rt rfl rfl (by decide) rfl
theorem dcadd (f : LongF) : Statement (.dcadd f) := long_rt rfl rfl (by decide) rfl
theorem dcmerge (f : LongF) : Statement (.dcmerge f) := long_rt rfl rfl (by decide) rfl
theorem dcest (f : LongF) : Statement (.dcest f) := long_rt rfl rfl (by decide) rfl
theorem rfetch (f : RvR) : Statement (.rfetch f) := rfetch_rt f
theorem bfx (f : RvR) : Statement (.bfx f) := bfx_rt f
theorem swait (f : RvC) : Statement (.swait f) := swait_rt f
theorem dispatch (f : RvR) : Statement (.dispatch f) := dispatch_rt f
theorem tmodeNopreWrite (w : Nat) : Statement (.tmodeNopreWrite w) := event_rt rfl
theorem mstatClear (w : Nat) (bits : Word) : Statement (.mstatClear w bits) := event_rt rfl
theorem registerWrite (r : RegTarget) : Statement (.registerWrite r) := event_rt rfl
theorem cmdNop (q : Nat) : Statement (.cmdNop q) := event_rt rfl
theorem attach (q : Nat) (feat : List Word) (addr : Nat) : Statement (.attach q feat addr) := event_rt rfl
theorem planStart (q addr : Nat) (args : List Word) : Statement (.planStart q addr args) := event_rt rfl
theorem planRestart (q addr : Nat) (args : List Word) : Statement (.planRestart q addr args) := event_rt rfl
theorem planStop (q slot : Nat) : Statement (.planStop q slot) := event_rt rfl
theorem planAbort (q slot : Nat) : Statement (.planAbort q slot) := event_rt rfl
theorem stageLaunch (q addr : Nat) (args : List Word) : Statement (.stageLaunch q addr args) := event_rt rfl
theorem signal (q addr val : Nat) (wide : Bool) : Statement (.signal q addr val wide) := event_rt rfl
theorem waitWord (q addr val mask cmp : Nat) (wide : Bool) : Statement (.waitWord q addr val mask cmp wide) := event_rt rfl
theorem cmdFence (q : Nat) : Statement (.cmdFence q) := event_rt rfl
theorem waitReevaluate (q : Nat) : Statement (.waitReevaluate q) := event_rt rfl
theorem notify (m : List Byte) : Statement (.notify m) := event_rt rfl
theorem queueLoad (q : Nat) : Statement (.queueLoad q) := event_rt rfl
theorem queueUnload (q : Nat) : Statement (.queueUnload q) := event_rt rfl
theorem sliceExpiry (q : Nat) : Statement (.sliceExpiry q) := event_rt rfl
theorem launchAccept (die : Nat) : Statement (.launchAccept die) := event_rt rfl
theorem enqStep (w seq : Nat) : Statement (.enqStep w seq) := event_rt rfl
theorem planSlotGrant  : Statement (.planSlotGrant) := event_rt rfl
theorem planPlacement  : Statement (.planPlacement) := event_rt rfl
theorem planStopped (p : Nat) : Statement (.planStopped p) := event_rt rfl
theorem stageEnd (p st : Nat) : Statement (.stageEnd p st) := event_rt rfl
theorem deckleEpoch (p : Nat) : Statement (.deckleEpoch p) := event_rt rfl
theorem deckleHandover (p : Nat) : Statement (.deckleHandover p) := event_rt rfl
theorem ringToChest (p st : Nat) : Statement (.ringToChest p st) := event_rt rfl
theorem recordEligible (id : Nat) : Statement (.recordEligible id) := event_rt rfl
theorem armedRegistration (id : Nat) : Statement (.armedRegistration id) := event_rt rfl
theorem binTimeout (core bin : Nat) : Statement (.binTimeout core bin) := event_rt rfl
theorem warpFormation (core : Nat) : Statement (.warpFormation core) := event_rt rfl
theorem warpRetire (w : Nat) : Statement (.warpRetire w) := event_rt rfl
theorem warpTerminate (w : Nat) : Statement (.warpTerminate w) := event_rt rfl
theorem priorityBoost (w : Nat) : Statement (.priorityBoost w) := event_rt rfl
theorem pathAgeLimit (w lane : Nat) : Statement (.pathAgeLimit w lane) := event_rt rfl
theorem yieldExpiry (w : Nat) : Statement (.yieldExpiry w) := event_rt rfl
theorem convRelease (w : Nat) : Statement (.convRelease w) := event_rt rfl
theorem barrierPhaseComplete (gi bar : Nat) : Statement (.barrierPhaseComplete gi bar) := event_rt rfl
theorem resultWriteback (w seq : Nat) : Statement (.resultWriteback w seq) := event_rt rfl
theorem loadReturn (w seq : Nat) : Statement (.loadReturn w seq) := event_rt rfl
theorem trapEntry (w : Nat) : Statement (.trapEntry w) := event_rt rfl
theorem toltarReturn (w : Nat) (act : ToltarAction) (edits : List (Nat × Byte)) : Statement (.toltarReturn w act edits) := event_rt rfl
theorem preemptRequest (t : PreemptTarget) : Statement (.preemptRequest t) := event_rt rfl
theorem preempt (w : Nat) : Statement (.preempt w) := event_rt rfl
theorem nopreExpiry (w : Nat) : Statement (.nopreExpiry w) := event_rt rfl
theorem resume (id w : Nat) : Statement (.resume id w) := event_rt rfl
theorem storeQueueExit (w : Nat) : Statement (.storeQueueExit w) := event_rt rfl
theorem storeFaultRecord (w id : Nat) : Statement (.storeFaultRecord w id) := event_rt rfl
theorem registration (id : Nat) : Statement (.registration id) := event_rt rfl
theorem forwardedRead (word : Nat) : Statement (.forwardedRead word) := event_rt rfl
theorem readThroughNotice (id : Nat) : Statement (.readThroughNotice id) := event_rt rfl
theorem l1Dryer (core word : Nat) : Statement (.l1Dryer core word) := event_rt rfl
theorem l2Dryer (line : Nat) : Statement (.l2Dryer line) := event_rt rfl
theorem l2Eviction (line : Nat) : Statement (.l2Eviction line) := event_rt rfl
theorem l1Eviction (core region : Nat) : Statement (.l1Eviction core region) := event_rt rfl
theorem homeAtomic (w seq : Nat) : Statement (.homeAtomic w seq) := event_rt rfl
theorem redPerform (x : Inbound) : Statement (.redPerform x) := event_rt rfl
theorem redTrigStep (x : Inbound) : Statement (.redTrigStep x) := event_rt rfl
theorem remoteWriteThrough (x : Inbound) : Statement (.remoteWriteThrough x) := event_rt rfl
theorem watchConfirm (w grain : Nat) : Statement (.watchConfirm w grain) := event_rt rfl
theorem tableWalk (id : Nat) : Statement (.tableWalk id) := event_rt rfl
theorem fqrespReplay (die idx pteAddr : Nat) (pte : DWord) : Statement (.fqrespReplay die idx pteAddr pte) := event_rt rfl
theorem fqrespDecline (die idx : Nat) : Statement (.fqrespDecline die idx) := event_rt rfl
theorem tlbInvalidate (asid va : Nat) : Statement (.tlbInvalidate asid va) := event_rt rfl
theorem eccError (x : EccPlace) : Statement (.eccError x) := event_rt rfl
theorem tcopyComplete (core : Nat) : Statement (.tcopyComplete core) := event_rt rfl
theorem panelLoad (core : Nat) : Statement (.panelLoad core) := event_rt rfl
theorem mloadComplete (core ctx : Nat) : Statement (.mloadComplete core ctx) := event_rt rfl
theorem arrayUnit (core : Nat) : Statement (.arrayUnit core) := event_rt rfl
theorem mloopComplete (core ctx : Nat) : Statement (.mloopComplete core ctx) := event_rt rfl
theorem mdrainComplete (core : Nat) : Statement (.mdrainComplete core) := event_rt rfl
theorem shadowSample (core : Nat) : Statement (.shadowSample core) := event_rt rfl
theorem mcpSave (core : Nat) : Statement (.mcpSave core) := event_rt rfl
theorem mcpRestore (core : Nat) : Statement (.mcpRestore core) := event_rt rfl
theorem summaryPerform (x : SumFrom) : Statement (.summaryPerform x) := event_rt rfl
theorem prsvFill (p pipe : Nat) : Statement (.prsvFill p pipe) := event_rt rfl
theorem pcmtCommit (p pipe : Nat) : Statement (.pcmtCommit p pipe) := event_rt rfl
theorem pacqFill (p pipe : Nat) : Statement (.pacqFill p pipe) := event_rt rfl
theorem prelRecord (p pipe : Nat) : Statement (.prelRecord p pipe) := event_rt rfl
theorem ppollSnapshot (p : Nat) (x : PollAt) : Statement (.ppollSnapshot p x) := event_rt rfl
theorem pcloseRecord (p pipe : Nat) : Statement (.pcloseRecord p pipe) := event_rt rfl
theorem pipeMatch (p pipe : Nat) (peer : PeerPipe) : Statement (.pipeMatch p pipe peer) := event_rt rfl
theorem pipeVacateMirror (p pipe slot : Nat) (mark : VacateMark) : Statement (.pipeVacateMirror p pipe slot mark) := event_rt rfl
theorem commitArrival (p pipe seq : Nat) (mark : CommitMark) (payload : List Byte) : Statement (.commitArrival p pipe seq mark payload) := event_rt rfl
theorem pipeLinkLoss (p pipe : Nat) : Statement (.pipeLinkLoss p pipe) := event_rt rfl
theorem deadlockReport (set : BlockedSet) : Statement (.deadlockReport set) := event_rt rfl
theorem deadlockProbe (set : BlockedSet) : Statement (.deadlockProbe set) := event_rt rfl
theorem deadlockDrain (x : DrainTurn) : Statement (.deadlockDrain x) := event_rt rfl
theorem partitionReset (part : LostPart) : Statement (.partitionReset part) := event_rt rfl
theorem heartbeatTick (dom : Bool) : Statement (.heartbeatTick dom) := event_rt rfl
theorem d2dLinkFailure (a b : Nat) : Statement (.d2dLinkFailure a b) := event_rt rfl
theorem d2dRetrainTimeout (a b : Nat) : Statement (.d2dRetrainTimeout a b) := event_rt rfl
theorem ualinkReplay (port seq : Nat) (lost : List Nat) : Statement (.ualinkReplay port seq lost) := event_rt rfl
theorem deviceUnreachable (dev : Nat) : Statement (.deviceUnreachable dev) := event_rt rfl
theorem timeMessage (dev time : Nat) : Statement (.timeMessage dev time) := event_rt rfl
theorem syncLoss  : Statement (.syncLoss) := event_rt rfl
theorem timeMasterLoss (next : Nat) : Statement (.timeMasterLoss next) := event_rt rfl
theorem ueRemoteWrite (win : UeTarget) (va : Nat) (bytes : List Byte) : Statement (.ueRemoteWrite win va bytes) := event_rt rfl
theorem ueRemoteRead (win : UeTarget) (va len : Nat) : Statement (.ueRemoteRead win va len) := event_rt rfl
theorem decoderRingNotice (die ring : Nat) : Statement (.decoderRingNotice die ring) := event_rt rfl
theorem decoderJobStart (die dec : Nat) : Statement (.decoderJobStart die dec) := event_rt rfl
theorem decoderFrameComplete (die dec : Nat) (pic : Picture) (note : FrameNote) :
    Statement (.decoderFrameComplete die dec pic note) := event_rt rfl
theorem decoderJobEnd (die dec undelim : Nat) (unreadable : Bool) : Statement (.decoderJobEnd die dec undelim unreadable) := event_rt rfl
theorem sample (core : Nat) : Statement (.sample core) := event_rt rfl
theorem triggerStart (core : Nat) : Statement (.triggerStart core) := event_rt rfl
theorem triggerStop (core : Nat) : Statement (.triggerStop core) := event_rt rfl
theorem stopPoint (w : Nat) : Statement (.stopPoint w) := event_rt rfl
theorem coreImageDump (asid : Nat) : Statement (.coreImageDump asid) := event_rt rfl
theorem svcAttest (w : Nat) : Statement (.svcAttest w) := event_rt rfl
theorem svcDump (w : Nat) : Statement (.svcDump w) := event_rt rfl
theorem svcMap (w : Nat) : Statement (.svcMap w) := event_rt rfl
theorem svcUnmap (w : Nat) : Statement (.svcUnmap w) := event_rt rfl
theorem svcLog (w : Nat) : Statement (.svcLog w) := event_rt rfl
theorem attestationRequest (asid : Nat) (nonce : List Byte) : Statement (.attestationRequest asid nonce) := event_rt rfl
theorem keyInstall (slot : Nat) (key : List Byte) : Statement (.keyInstall slot key) := event_rt rfl
theorem addressSpaceRegister (d : AsDescriptor) : Statement (.addressSpaceRegister d) := event_rt rfl
theorem delegationWrite (die p st : Nat) (word : Word) : Statement (.delegationWrite die p st word) := event_rt rfl
theorem pairFailure (pair : Nat) : Statement (.pairFailure pair) := event_rt rfl
theorem watchdogExpiry (pair : Nat) : Statement (.watchdogExpiry pair) := event_rt rfl
theorem watchdogKick (pair : Nat) : Statement (.watchdogKick pair) := event_rt rfl
theorem spareTakeover (pair : Nat) : Statement (.spareTakeover pair) := event_rt rfl
theorem pairSelfTest (pair : Nat) (pass : Bool) : Statement (.pairSelfTest pair pass) := event_rt rfl
theorem journalMirror (pair : Nat) : Statement (.journalMirror pair) := event_rt rfl
theorem journalCheckpoint (pair : Nat) : Statement (.journalCheckpoint pair) := event_rt rfl
theorem powerGood  : Statement (.powerGood) := event_rt rfl
theorem bringupStep (die : Nat) (res : StepResult) : Statement (.bringupStep die res) := event_rt rfl
theorem mdevWrite (die : Nat) (val : Word) : Statement (.mdevWrite die val) := event_rt rfl
theorem mbudgetWrite (die : Nat) (val : Word) : Statement (.mbudgetWrite die val) := event_rt rfl
theorem meventRead (die : Nat) : Statement (.meventRead die) := event_rt rfl
theorem powerWindow (die watts : Nat) : Statement (.powerWindow die watts) := event_rt rfl
theorem thermalThrottle (die temp : Nat) : Statement (.thermalThrottle die temp) := event_rt rfl
theorem thermalShutdown  : Statement (.thermalShutdown) := event_rt rfl
theorem d2dLinkRetrained (a b : Nat) : Statement (.d2dLinkRetrained a b) := event_rt rfl
theorem partitionRejoin (die : Nat) (ok : Bool) : Statement (.partitionRejoin die ok) := event_rt rfl
theorem swaitTimeout (pair : Nat) : Statement (.swaitTimeout pair) := event_rt rfl
theorem ualinkRemoteRead (dev pa len : Nat) : Statement (.ualinkRemoteRead dev pa len) := event_rt rfl
theorem supervisorFence (pair : Nat) (predW succR io : Bool) : Statement (.supervisorFence pair predW succR io) := event_rt rfl
theorem decoderRingRegistration (die asid ctl : Nat) : Statement (.decoderRingRegistration die asid ctl) := event_rt rfl

end RoundTrip

end Sys2Proof.Laws
end

