-- ==== Sys2Proof/Tests/Slice0.lean ====
section
/-!
SUPPORT. The model's own tests: words written out by hand, terms that are not well-formed, a concrete case for the
hypotheses of each statement, single steps.
-/

namespace Sys2Proof.Tests

open Sys2Proof.Machine Sys2Proof.Claims

set_option Elab.async false

/-! Words written out from the encoding tables (R84 to R103, R404). -/

theorem test_decode_nop : decodeTableWord 32 0x00000000 = some (.nop) := by decide
theorem test_decode_iaddShort : decodeTableWord 32 0x81030102 = some (.iaddShort ⟨true, 3, 1, 2⟩) := by decide
theorem test_decode_imulhiZ32Short : decodeTableWord 32 0x05090807 = some (.imulhiZ32Short ⟨false, 9, 8, 7⟩) := by decide
theorem test_decode_iadd_sat : decodeTableWord 64 0x0000170470030102 = some (.iadd ⟨false, 3, 1, 2, 0, false, 2, true, 6, 4⟩) := by decide
theorem test_decode_imad_s64 : decodeTableWord 64 0x04053810F0040608 = some (.imad ⟨true, 4, 6, 8, 10, false, 7, false, 0, 16⟩) := by decide
theorem test_decode_shl_uniform : decodeTableWord 64 0x0B00784070030102 = some (.shl ⟨false, 3, 1, 2, 0, true, 7, false, 0, 64⟩) := by decide
theorem test_decode_xorImm : decodeTableWord 64 0x04ADBEEF710506DE = some (.xorImm ⟨false, 5, 6, 0xDEADBEEF⟩) := by decide
theorem test_decode_ffmaShort : decodeTableWord 32 0x23070605 = some (.ffmaShort ⟨false, 7, 6, 5⟩) := by decide
theorem test_decode_ffma_rd : decodeTableWord 64 0x2302380370010203 = some (.ffma ⟨false, 1, 2, 3, 4, false, 7, false, 0, 3⟩) := by decide
theorem test_decode_hfma2_f16 : decodeTableWord 64 0x2A02380970010203 = some (.hfma2 ⟨false, 1, 2, 3, 4, false, 7, false, 0, 9⟩) := by decide
theorem test_decode_tanhShort : decodeTableWord 32 0x3F020100 = some (.tanhShort ⟨false, 2, 1, 0⟩) := by decide
theorem test_decode_cvt : decodeTableWord 64 0x0000380C76020198 = some (.cvt ⟨false, 2, 1, 152, 0, false, 7, false, 0, 12⟩) := by decide
theorem test_decode_shfl_xor : decodeTableWord 64 0x0000380375020103 = some (.shfl ⟨false, 2, 1, 3, 0, false, 7, false, 0, 3⟩) := by decide
theorem test_decode_redux_max : decodeTableWord 64 0x0200380A75020100 = some (.redux ⟨false, 2, 1, 0, 0, false, 7, false, 0, 10⟩) := by decide
theorem test_decode_sshlShort : decodeTableWord 32 0x40960146 = some (.sshlShort ⟨false, 300, 5⟩) := by decide
theorem test_decode_ssetpZ32Short : decodeTableWord 32 0xC20502E3 = some (.ssetpZ32Short ⟨true, 10, 11, 35⟩) := by decide
theorem test_decode_sadd_z32 : decodeTableWord 64 0x000A9D0C72BF8500 = some (.sadd ⟨false, 383, 20, 21, 3, true, 2, 12⟩) := by decide
theorem test_decode_ssetpImm : decodeTableWord 64 0x082B3C357332091A = some (.ssetpImm ⟨false, 100, 0x12345678, 53⟩) := by decide
theorem test_decode_ldShort : decodeTableWord 32 0x500403BF = some (.ldShort ⟨false, 4, 3, 191⟩) := by decide
theorem test_decode_lds_swizzle : decodeTableWord 64 0x02043821740302FF = some (.lds ⟨false, 3, 2, 255, 8, false, 7, false, 0, 33⟩) := by decide
theorem test_decode_atomCas : decodeTableWord 64 0x2706381E74040306 = some (.atomCas ⟨false, 4, 3, 6, 12, false, 7, false, 0, 30⟩) := by decide
theorem test_decode_redTrig : decodeTableWord 64 0x3E06380874000309 = some (.redTrig ⟨false, 0, 3, 9, 12, false, 7, false, 0, 8⟩) := by decide
theorem test_decode_fence_acqrel : decodeTableWord 64 0x0800380274020000 = some (.fence ⟨false, 2, 0, 0, 0, false, 7, false, 0, 2⟩) := by decide
theorem test_decode_fenceSc : decodeTableWord 64 0x0800380374030000 = some (.fenceSc ⟨false, 3, 0, 0, 0, false, 7, false, 0, 3⟩) := by decide
theorem test_decode_chkw : decodeTableWord 64 0x070038007457FFFE = some (.chkw ⟨false, 87, 255, 254, 0, false, 7, false, 0, 0⟩) := by decide
theorem test_decode_braShort : decodeTableWord 32 0x605FFFFE = some (.braShort ⟨false, 2, true, 1048574⟩) := by decide
theorem test_decode_spawn_armed : decodeTableWord 64 0x0B04780177051004 = some (.spawn ⟨false, 5, 16, 4, 8, true, 7, false, 0, 1⟩) := by decide
theorem test_decode_bar : decodeTableWord 64 0x08000803770F0000 = some (.bar ⟨false, 15, 0, 0, 0, false, 1, false, 0, 3⟩) := by decide
theorem test_decode_mtsr : decodeTableWord 64 0x030078007C000A05 = some (.mtsr ⟨false, 0, 10, 5, 0, true, 7, false, 0, 0⟩) := by decide
theorem test_decode_trapi : decodeTableWord 64 0x000038007C001234 = some (.trapi ⟨false, 0, 18, 52, 0, false, 7, false, 0, 0⟩) := by decide
theorem test_decode_cntstop : decodeTableWord 64 0x020338097D000000 = some (.cntstop ⟨false, 0, 0, 0, 6, false, 7, false, 0, 9⟩) := by decide
theorem test_decode_pcmt : decodeTableWord 64 0x0104F87F78000007 = some (.pcmt ⟨false, 0, 0, 7, 9, true, 7, false, 0, 127⟩) := by decide
theorem test_decode_tcopy : decodeTableWord 64 0x0005F8007900000A = some (.tcopy ⟨false, 0, 0, 10, 11, true, 7, false, 0, 0⟩) := by decide
theorem test_decode_mloop : decodeTableWord 64 0x0303F8057A020104 = some (.mloop ⟨false, 2, 1, 4, 7, true, 7, false, 0, 5⟩) := by decide
theorem test_decode_skadd : decodeTableWord 64 0x0002F8067B000308 = some (.skadd ⟨false, 0, 3, 8, 5, true, 7, false, 0, 6⟩) := by decide
theorem test_decode_rfetch : decodeTableWord 32 0x0073028B = some (.rfetch ⟨5, 6, 7⟩) := by decide
theorem test_decode_bfx : decodeTableWord 32 0x0031108B = some (.bfx ⟨1, 2, 3⟩) := by decide
theorem test_decode_swait : (decodeSupervisor 0x06C5A50B).toOption = some (.swait ⟨3, 10, 11, 12⟩) := by decide
theorem test_decode_dispatch : (decodeSupervisor 0x01DF3F8B).toOption = some (.dispatch ⟨31, 30, 29⟩) := by decide

/-! Terms that the tables do not assign, one for each check of well-formedness (R85 to R93). -/

/-- An unguarded long form with every other field zero. -/
def lf : LongF := ⟨false, 0, 0, 0, 0, false, 7, false, 0, 0⟩
/-- The same of the uniform class. -/
def uf : UniF := ⟨false, 0, 0, 0, 7, false, 0, 0⟩

theorem test_ill_reservedBit : (Instr.iadd { lf with m := 0x40 }).wellFormed = false := by decide
theorem test_ill_neverGuard : (Instr.iadd { lf with n := true }).wellFormed = false := by decide
theorem test_ill_zeroField : (Instr.iabs { lf with b := 1 }).wellFormed = false := by decide
theorem test_ill_popcType : (Instr.popc { lf with m := 0x20 }).wellFormed = false := by decide
theorem test_ill_selPredicate : (Instr.sel { lf with t := 8 }).wellFormed = false := by decide
theorem test_ill_selWaitBit : (Instr.sel { lf with w := 1 }).wellFormed = false := by decide
theorem test_ill_voteSource : (Instr.vote { lf with a := 8 }).wellFormed = false := by decide
theorem test_ill_uniformOperand : (Instr.tcopy { lf with b := 2 }).wellFormed = false := by decide
theorem test_ill_tile : (Instr.mload { lf with d := 8 }).wellFormed = false := by decide
theorem test_ill_barrier : (Instr.bar { lf with d := 16 }).wellFormed = false := by decide
theorem test_ill_uniformPredicate : (Instr.enq { lf with d := 8, k := true }).wellFormed = false := by decide
theorem test_ill_shortPair : (Instr.ldShort ⟨false, 1, 2, 192⟩).wellFormed = false := by decide
theorem test_ill_cvtEqual : (Instr.cvt lf).wellFormed = false := by decide
theorem test_ill_order : (Instr.ld { lf with m := 1 }).wellFormed = false := by decide
theorem test_ill_atomicType : (Instr.atomAnd { lf with m := 32 }).wellFormed = false := by decide
theorem test_ill_uniformWaitBit : (Instr.sadd { uf with w := 1 }).wellFormed = false := by decide
theorem test_ill_compareShort : (Instr.ssetpS32Short ⟨false, 1, 2, 48⟩).wellFormed = false := by decide
theorem test_ill_compareImm : (Instr.ssetpImm ⟨false, 1, 2, 13⟩).wellFormed = false := by decide
theorem test_ill_absentIndex : (Instr.lds { lf with k := true, a := 1 }).wellFormed = false := by decide
theorem test_ill_rettK : (Instr.rett { lf with k := true }).wellFormed = false := by decide
theorem test_ill_vectorRange : (Instr.imad { lf with t := 256 }).wellFormed = false := by decide
theorem test_ill_yieldShort : (Instr.yieldShort ⟨false, 1, false, 0⟩).wellFormed = false := by decide

/-! Concrete cases for the hypotheses of the statements. -/

/-- A launched warp with every register declared, at its code base; its first packet is mapped with every right. -/
def x0 : Warp := { fetchWarp with trapbase := 0x10000, saveArea := 0x10400 }
/-- Its context while its first word issues on every lane. -/
def c0 : IssueCtx :=
  { warp := 0, path := 0xFFFFFFFF, pc := 0x10000, next := 0x1000C, first := 0x10000, w0 := 0, w1 := 0, vE := [], sE := [],
    fpctl := 0, mctl := 0 }
/-- The machine with one warp, and core 0 with one translation. -/
def withWarp (x : Warp) : State :=
  { State.reset with warps := [(0, x)], cores := [(0, { Core.fresh with tlb := [fetchPage State.reset] })], issue := some c0 }
def s0 : State := withWarp x0

/-- Instructions of the warp `x` issue with their hypotheses met: no empty source, some lane in ACT. -/
def Runs (x : Warp) (is : List Instr) : Prop :=
  Issuing (withWarp x) c0 x ∧ ∀ i ∈ is, feCause c0 x i = none ∧ c0.act x i ≠ 0
theorem runs_of (x : Warp) (is : List Instr)
    (h : is.all (fun i => feCause c0 x i == none && c0.act x i != 0) = true) : Runs x is :=
  ⟨⟨rfl, rfl⟩, fun i hi => by simpa using List.all_eq_true.mp h i hi⟩
/-- With no condition enabled nothing traps. -/
theorem untrapped0 (x : Warp) (l : List Nat) : Untrapped c0 x l :=
  .inr (fun v _ => by show v &&& 0 = 0; simp)

def sv : ShortV := ⟨false, 2, 1, 3⟩
def iv : ImmV := ⟨false, 2, 1, 0xFFFFFFFF⟩
def su : ShortA := ⟨false, 8, 9⟩
def ui : ImmU := ⟨false, 8, 0xFFFFFFFF, 1⟩
def ss : ShortU := ⟨false, 8, 9, 31⟩
/-- A long form in lane 31 alone: guard p1. -/
def lg : LongF := { lf with d := 2, a := 1, b := 3, t := 5, g := 1 }
def xg : Warp := { x0 with pred := [(1, 0x80000000)] }

theorem witness_ShortInteger : Runs x0 [.iaddShort sv, .isubShort sv, .imulShort sv, .imulhiS32Short sv, .imulhiZ32Short sv,
    .imadShort sv, .iminS32Short sv, .iminZ32Short sv, .imaxS32Short sv, .imaxZ32Short sv, .iabsShort sv, .andShort sv,
    .orShort sv, .xorShort sv, .shlShort sv, .shrShort sv, .sarShort sv, .popcShort sv, .clzShort sv, .brevShort sv] :=
  runs_of _ _ (by decide +kernel)
theorem witness_LongInteger : Runs xg [.iadd lg, .isub lg, .imul lg, .imulhi lg, .imad lg, .imin lg, .imax lg, .iabs lg,
    .and lg, .or lg, .xor lg, .shl lg, .shr lg, .sar lg] := runs_of _ _ (by decide +kernel)
theorem witness_LongBits : Runs xg [.popc lg, .clz lg, .brev lg, .bfe lg, .bfi lg, .lea lg, .sel lg, .isetp lg] :=
  runs_of _ _ (by decide +kernel)
theorem witness_ImmediateInteger : Runs x0 [.iaddImm iv, .imulImm iv, .andImm iv, .orImm iv, .xorImm iv, .shlImm iv,
    .shrImm iv, .sarImm iv] := runs_of _ _ (by decide +kernel)
theorem witness_FloatArithmetic : Runs xg [.faddShort sv, .fsubShort sv, .fmulShort sv, .fminShort sv, .fmaxShort sv, .fadd lg,
    .fsub lg, .fmul lg, .fmin lg, .fmax lg, .frnd lg, .fsetp lg, .faddImm iv, .fmulImm iv] ∧ ∀ l, Untrapped c0 xg l :=
  ⟨runs_of _ _ (by decide +kernel), untrapped0 _⟩
theorem witness_FusedMultiplyAdd : Runs xg [.ffmaShort sv, .ffma lg, .ffmaImm iv] ∧ ∀ l, Untrapped c0 xg l :=
  ⟨runs_of _ _ (by decide +kernel), untrapped0 _⟩
theorem witness_PackedHalf : Runs xg [.hadd2Bf16Short sv, .hadd2F16Short sv, .hmul2Bf16Short sv, .hmul2F16Short sv,
    .hfma2Bf16Short sv, .hfma2F16Short sv, .hadd2 lg, .hmul2 lg, .hfma2 lg] ∧ ∀ l, Untrapped c0 xg l :=
  ⟨runs_of _ _ (by decide +kernel), untrapped0 _⟩
theorem witness_ConvertAndSpecial : Runs xg [.rcpShort sv, .rsqShort sv, .sqrtShort sv, .lg2Short sv, .sinShort sv,
    .cosShort sv, .tanhShort sv, .ex2Short sv, .rcp lg, .rsq lg, .sqrt lg, .lg2 lg, .sin lg, .cos lg, .tanh lg, .ex2 lg, .cvt lg] ∧
    xg.ffmas = [] ∧ ∀ l, Untrapped c0 xg l :=
  ⟨runs_of _ _ (by decide +kernel), rfl, untrapped0 _⟩
/-- The FFMA of the clk before wrote v1 in lane 31; EX2 reads v1, and writes another register or the same. -/
theorem witness_FusedEx2 : ∀ i ∈ [Instr.ex2Short sv, .ex2 { lg with w := 4 }, .ex2 { lg with w := 4, d := 1 }],
    let n : FfmaNote := ⟨7, 5, 0xFFF8, 0x10000, 0xFFFFFFFF, guardCode (info i).guard, 0x80000000, 1⟩
    let h := { resultFlight s0 c0 x0 1 [.v 1 0x80000000 (List.replicate 32 0x3F800000)] 0 [0] with seq := 5 }
    let x := { xg with ffmas := [n], flights := [h] }
    let s := { withWarp x with clk := 8 }
    Issuing s c0 x ∧ (n.clk + 1 = s.clk ∧ n.next = c0.pc ∧ n.path = c0.path ∧ n.vd = 1 ∧ n.guard = guardCode (info i).guard ∧
    x.tmode.getLsbD 5 = false ∧ x.pend = [] ∧ x.flights.find? (fun f => f.seq == n.seq) = some h ∧
    h.writes = [.v n.vd 0x80000000 (List.replicate 32 0x3F800000)] ∧ c0.act x i ≠ 0) ∧ ∀ l, Untrapped c0 x l :=
  fun i hi => ⟨⟨rfl, rfl⟩, by revert i; decide +kernel, untrapped0 _⟩
theorem witness_CrossLane : Runs xg [.prmt lg, .redux lg, .shfl lg, .matchLanes lg, .vote { lg with m := 3 }, .vote lg] ∧
    ∀ l, Untrapped c0 xg l := ⟨runs_of _ _ (by decide +kernel), untrapped0 _⟩
theorem witness_UniformArithmetic : Runs x0 [.saddShort su, .ssubShort su, .smulShort su, .sandShort su, .sorShort su,
    .sxorShort su, .sshlShort su, .sshrShort su, .smovShort su, .saddImm ui, .smulImm ui, .sandImm ui, .sorImm ui, .sxorImm ui,
    .sshlImm ui, .sshrImm ui, .smovImm ui, .sadd uf, .ssub uf, .smul uf, .sand uf, .sor uf, .sxor uf, .sshl uf, .sshr uf,
    .smov uf, .sbfe uf] ∧ tyBits uf.ty = 32 := ⟨runs_of _ _ (by decide +kernel), rfl⟩
theorem witness_UniformCompareAndMove : Runs x0 [.ssetpS32Short ss, .ssetpZ32Short ss, .s2vShort ss, .v2sShort ss, .ssetp uf,
    .s2v uf, .v2s uf, .ssetpImm ui] := runs_of _ _ (by decide +kernel)

/-- A result of the warp that lands now. -/
def landing (ws : List RegWrite) : Flight := { resultFlight s0 c0 x0 1 ws 0 [0] with seq := 5 }
theorem witness_ResultLands : ∀ ws ∈ [[RegWrite.v 255 0x80000000 (List.replicate 32 7)], [.s 383 7], [.p 7 1 1], [.q 7 true]],
    let f := landing ws
    let x := { x0 with flights := [f] }
    mfind (withWarp x).warps 0 = some x ∧ f ∈ x.flights ∧ (∀ g ∈ x.flights, g.seq = f.seq → g = f) ∧ f.kind = .result ∧
    f.due ≤ (withWarp x).clk ∧ x.holds = [] ∧ x.tmode.getLsbD 4 = false := by decide +kernel

/-- One gibibyte mapped where it is, with every right, for address space 0. -/
def mapped (s : State) : State :=
  { s with
    hbm := memWrite (memWrite (memWrite s.hbm 0x1000000 (leBytes 4 0x1001001)) 0x1001000 (leBytes 4 0x1002001)) 0x1002000 (leBytes 1 0x9F)
    dies := mmod s.dies 0 (fun d => { d with up := true, spaces := [(0, ⟨0, 0x1000000, 0, 0, 0, false, 0, 0x20000000, 0x1000000⟩)] }) }
/-- A group of core 0 alone, instance 3, in slot 0. -/
def g3 : GroupInst :=
  { plan := 0, stage := 0, index := 0, spread := false, cores := [0], members := [0], phases := [], arrived := [], engines := [] }
def grouped (x : Warp) : Warp := { x with groups := 0x100000000, insts := [3, 0, 0, 0] }
def withGroup (x : Warp) : State := { withWarp x with groups := [(3, g3)] }
def xp : Warp := grouped xg
def sp : State := withGroup xp

/-- Every lane of ACT passes the checks of an access. -/
def reads (i : Instr) (h : Shape) (atom : Bool) : Bool :=
  feCause c0 xp i == none && c0.act xp i != 0 && (lanesOf (c0.act xp i)).all (fun l =>
    laneCause sp 0 xp h (spaceHit h sp c0 xp).1 (spaceHit h sp c0 xp).2 true ((spaceHit h sp c0 xp).1 == .spad && !atom)
      (laneAddr h xp l) == none)
def stores (i : Instr) (h : Shape) : Bool :=
  feCause c0 xp i == none && c0.act xp i != 0 && (lanesOf (c0.act xp i)).all (fun l =>
    laneCause sp 0 xp h (spaceHit h sp c0 xp).1 (spaceHit h sp c0 xp).2 false true (laneAddr h xp l) == none &&
      stashCause sp 0 xp (spaceHit h sp c0 xp).1 (laneAddr h xp l) == none)

theorem witness_LoadsIssue : Issuing sp c0 xp ∧
    [(Instr.ldShort sv, shortShape 0 sv), (.ldsShort sv, shortShape 1 sv), (.ld lg, mtShape 0 0 0 false lg),
      (.lds lg, mtShape 1 0 0 true lg), (.ldr lg, mtShape 2 0 0 true lg), (.ldw lg, mtShape 0 0 0 true lg),
      (.wmld lg, wmShape lg)].all (fun p => reads p.1 p.2 false) = true := ⟨⟨rfl, rfl⟩, by decide +kernel⟩
theorem witness_AtomicsIssue : Issuing sp c0 xp ∧
    [Instr.atomAdd lg, .atomMin lg, .atomMax lg, .atomAnd lg, .atomOr lg, .atomXor lg, .atomExch lg, .atomCas lg].all
      (fun i => reads i (atomShape 0 0 0 lg) true) = true ∧
    [Instr.atomSpadAdd lg, .atomSpadMin lg, .atomSpadMax lg, .atomSpadAnd lg, .atomSpadOr lg, .atomSpadXor lg,
      .atomSpadExch lg, .atomSpadCas lg].all (fun i => reads i (atomShape 1 0 0 lg) true) = true ∧
    [Instr.atomPeerAdd lg, .atomPeerMin lg, .atomPeerMax lg, .atomPeerAnd lg, .atomPeerOr lg, .atomPeerXor lg,
      .atomPeerExch lg, .atomPeerCas lg].all (fun i => reads i (atomShape 2 0 0 lg) true) = true :=
  ⟨⟨rfl, rfl⟩, by decide +kernel, by decide +kernel, by decide +kernel⟩
theorem witness_StoresIssue : Issuing sp c0 xp ∧
    [(Instr.stShort sv, shortShape 0 sv), (.stsShort sv, shortShape 1 sv), (.st lg, mtShape 0 0 0 false lg),
      (.sts lg, mtShape 1 0 0 true lg), (.str lg, mtShape 2 0 0 true lg), (.wmst lg, wmShape lg),
      (.redAdd lg, atomShape 0 0 0 lg), (.redMin lg, atomShape 0 0 0 lg), (.redMax lg, atomShape 0 0 0 lg),
      (.redAnd lg, atomShape 0 0 0 lg), (.redOr lg, atomShape 0 0 0 lg), (.redXor lg, atomShape 0 0 0 lg),
      (.redTrig lg, atomShape 0 0 0 lg)].all (fun p => stores p.1 p.2) = true := ⟨⟨rfl, rfl⟩, by decide +kernel⟩
/-- The last address of the space for each width. -/
theorem witness_UniformLoadIssues :
    (let x := { x0 with sreg := [(18, 0xFFFFFFFC), (19, 0x01FFFFFF)] }
     Runs x [.sldShort ⟨false, 4, 18, 0⟩] ∧ (x.s64 18 + 4 * 0) % 2 ^ 64 % 4 = 0 ∧ (x.s64 18 + 4 * 0) % 2 ^ 64 < 2 ^ 57) ∧
    (let x := { x0 with sreg := [(18, 0xFFFFFFFC), (19, 0x01FFFFFF), (20, 0xFFFFFFFC)] }
     let ea := (((x.s64 18 : Int) + (x.s 20).toInt) % 2 ^ 64).toNat
     Runs x [.sld { uf with a := 18, t := 20, m := 1 }] ∧ ea % 8 = 0 ∧ ea < 2 ^ 57) :=
  ⟨⟨runs_of _ _ (by decide +kernel), by decide +kernel, by decide +kernel⟩,
   ⟨runs_of _ _ (by decide +kernel), by decide +kernel, by decide +kernel⟩⟩
theorem witness_FencesAndCaches :
    Runs x0 [.fence lf, .drainst lf, .mfence lf, .fenceSc lf, .sunmap lf, .sflush lf, .ifence lf, .prefetch lf] ∧
    x0.holds = [] ∧ (∀ g ∈ x0.flights, g.seq ≠ x0.nextSeq) := ⟨runs_of _ _ (by decide +kernel), by decide, by decide⟩
theorem witness_Prefetch :
    let f : LongF := { lf with g := 1, t := 4 }
    let x := { xg with sreg := [(4, 0x1FFFF)] }
    let a := laneAddr (mtShape 0 0 0 false f) x 31
    Issuing (withWarp x) c0 x ∧ feCause c0 x (.prefetch f) = none ∧ c0.act x (.prefetch f) = laneBit 31 ∧ f.m.toNat % 4 ≠ 1 ∧
    f.m.toNat % 4 < 3 ∧ a % mtSize f.ty = 0 ∧ a < 2 ^ 57 ∧ coreXlate (withWarp x) 0 x.asid a = some (fetchPage State.reset) ∧
    (fetchPage State.reset).r = true ∧ l1Hit (withWarp x) 0 ((fetchPage State.reset).key (withWarp x) a) = false :=
  ⟨⟨rfl, rfl⟩, by decide +kernel⟩
theorem witness_Smap :
    let f : LongF := { lf with d := 15, b := 6, k := true, t := 4 }
    let x := { xp with sreg := [(4, 0xFF80), (6, 0x7F0001)] }
    let s := { withGroup x with cores := [(0, { Core.fresh with stash := 0x4000 })] }
    let sz := (x.s (bReg f)).toNat
    let wn : Window := { gi := 3, num := 15, base := x.s64 f.t.toNat, off := sz % 65536, len := sz / 65536, asid := x.asid }
    Issuing s c0 x ∧ feCause c0 x (.smap f) = none ∧ c0.act x (.smap f) ≠ 0 ∧ x.group? 0 = some 3 ∧ wn.base % 128 = 0 ∧
    0 < wn.len ∧ (wn.off + wn.len) * 128 ≤ (s.core 0).stash ∧ (s.core 0).wins = [] :=
  ⟨⟨rfl, rfl⟩, by decide +kernel⟩
/-- Window 15, mapped before, and another that the new place does not reach. -/
theorem witness_SmapAgain :
    let f : LongF := { lf with d := 15, b := 6, k := true, t := 4 }
    let x := { xp with sreg := [(4, 0xFF80), (6, 0x7F0001)] }
    let v : Window := { gi := 3, num := 15, base := 0x10000, off := 0, len := 128, asid := 0 }
    let u : Window := { gi := 3, num := 2, base := 0x10000, off := 0, len := 1, asid := 0 }
    let s := { withGroup x with cores := [(0, { Core.fresh with stash := 0x4000, wins := [v, u] })] }
    let sz := (x.s (bReg f)).toNat
    Issuing s c0 x ∧ feCause c0 x (.smap f) = none ∧ c0.act x (.smap f) ≠ 0 ∧ x.group? 0 = some 3 ∧ x.tmode.getLsbD 0 = false ∧
    x.holds = [] ∧ x.s64 f.t.toNat % 128 = 0 ∧ 0 < sz / 65536 ∧ (sz % 65536 + sz / 65536) * 128 ≤ (s.core 0).stash ∧
    v ∈ (s.core 0).wins ∧ v.num = f.d.toNat ∧
    (∀ u ∈ (s.core 0).wins, u.gi = 3 → u.num ≠ f.d.toNat → u.off + u.len ≤ sz % 65536 ∨ sz % 65536 + sz / 65536 ≤ u.off) :=
  ⟨⟨rfl, rfl⟩, by decide +kernel⟩

theorem witness_ControlFlow :
    Runs xg [.brx lg, .ret lg, .call lg, .chkw lg, .exit lg, .conv lg, .bra lg] ∧
    capturing ((withWarp xg).core 0).dbg = false ∧
    (let x := { xg with vreg := [(1, List.replicate 32 0x10018)] }
     (∀ l ∈ lanesOf (c0.act x (.brx lg)), ((x.vn 2 1 l : Int) - x.codeBase) % 12 = 0) ∧
     ∀ l ∈ lanesOf (c0.act x (.ret lg)), ((x.vn 2 1 l : Int) - x.codeBase) % 12 = 0) ∧
    (c0.path &&& (if true then ~~~(xg.p 2) else xg.p 2)) ≠ 0 ∧
    (c0.path ||| xg.exited) = 0xFFFFFFFF ∧ xg.captured = false :=
  ⟨runs_of _ _ (by decide +kernel), by decide +kernel, by decide +kernel, by decide +kernel, by decide +kernel, rfl⟩
theorem witness_Scheduling :
    Runs x0 [.yield lf, .setpri lf] ∧
    (let x := { x0 with lastIssue := 7 }
     let s := { withWarp x with clk := 1031 }
     mfind s.warps 0 = some x ∧ x.lastIssue + 1024 ≤ s.clk) ∧
    (let x := { x0 with age := List.replicate 32 64 }
     (pathsOf x).find? (fun p => p.1.getLsbD 31) = some (0xFFFFFFFF, 0x10000) ∧ 64 ≤ pathAge x 0xFFFFFFFF) ∧
    (let x := { x0 with active := 0, waiting := 3, exited := 0xFFFFFFFC, cmask := 3 :: 7 :: List.replicate 30 0 }
     x.waiting.getLsbD 1 = true ∧ ∀ j < 2, x.waiting.getLsbD j = true ∧ x.point.getD j 0 = x.point.getD 1 0) :=
  ⟨runs_of _ _ (by decide +kernel), by decide +kernel, by decide +kernel, by decide +kernel⟩
theorem witness_Barriers :
    (Issuing sp c0 xp ∧ xp.isolated = [] ∧ xp.group? 0 = some 3 ∧ mfind sp.groups 3 = some g3 ∧
      c0.act xp (.bar { lf with d := 15 }) ≠ 0 ∧ c0.act xp (.bara { lf with d := 15 }) ≠ 0 ∧ 0 ∉ mget g3.arrived 15 []) ∧
    (relDone sp 0 xp xp.nextSeq (wideScope sp xp 0) none = true ∧ xp.holds = []) ∧
    (let x := { xp with nextSeq := 6, storeq := [⟨5, .store, .global, 4, [], 0x10000, false, false, none⟩] }
     relDone (withGroup x) 0 x x.nextSeq (wideScope (withGroup x) x 0) none = false ∧ x.holds = []) ∧
    (let x := { xp with holds := [.arrive 3 0 15 5 none] }
     Issuing (withGroup x) c0 x ∧ Hold.arrive 3 0 15 5 none ∈ x.holds ∧ x.isolated = [] ∧
       c0.act x (.bar { lf with d := 15 }) ≠ 0 ∧ c0.act x (.bara { lf with d := 15 }) ≠ 0) ∧
    (let g := { g3 with arrived := [(15, [0])] }
     0 ∈ mget g.arrived 15 []) ∧
    (let x := { xp with barArr := [(15, 0)] }
     c0.act x (.barw { lf with d := 15 }) ≠ 0 ∧ mfind x.barArr (16 * 0 + 15) = some 0 ∧ mget g3.phases 15 0 ≤ 0) ∧
    (let g := { g3 with arrived := [(15, [0])] }
     let x := { xp with holds := [.bar 0x80000000 3 15 0 0x1000C] }
     let s := { withWarp x with groups := [(3, g)] }
     mfind s.groups 3 = some g ∧ g.members ≠ [] ∧ (∀ m ∈ g.members, m ∈ mget g.arrived 15 []) ∧
     mget g.engines (16 * mget g.phases 15 0 + 15) 0 = 0 ∧ mfind s.warps 0 = some x ∧ (∀ e ∈ s.warps, e.1 = 0 → e.2 = x)) :=
  ⟨⟨⟨rfl, rfl⟩, by decide +kernel⟩, by decide +kernel, by decide +kernel, ⟨⟨rfl, rfl⟩, by decide +kernel⟩, by decide +kernel,
   by decide +kernel, by decide +kernel⟩
/-- Two lanes, one place short of a full chest for each form of the record. -/
theorem witness_SpawnIssues :
    let f : LongF := { lf with d := 1, a := 16, b := 4, t := 6, k := true, m := 1 }
    let x := { x0 with sreg := [(4, 0x10018), (6, 0x20000)], active := 3, exited := 0xFFFFFFFC }
    let c := { c0 with path := 3 }
    let r : Record := ⟨0, 0, [], none, 0, 0, false, false, false, 0, 0, 0, ⟨0, 0, true, []⟩, none⟩
    let s := { mapped (withWarp x) with cores := [(0, { Core.fresh with chest := List.replicate 510 r })], issue := some c }
    Issuing s c x ∧ feCause c x (.spawn f) = none ∧ c.act x (.spawn f) ≠ 0 ∧ x.tmode.getLsbD 4 = false ∧
    ((x.s64 (bReg f) : Int) - x.codeBase) % 12 = 0 ∧ counterCause s 0 x.asid (x.s64 f.t.toNat) = none ∧
    (s.core 0).chest.length + laneCount (c.act x (.spawn f)) ≤ 512 := ⟨⟨rfl, rfl⟩, by decide +kernel⟩
theorem witness_QueueAndGroupIssue :
    let f : LongF := { lf with d := 1, b := 4, t := 4, k := true }
    let x := { xp with sreg := [(4, 0x20000)] }
    let s := mapped (withGroup x)
    Issuing s c0 x ∧ x.tmode.getLsbD 4 = false ∧ feCause c0 x (.launch f) = none ∧ c0.act x (.launch f) ≠ 0 ∧
    readableCause s 0 x.asid (x.s64 4) 64 = none ∧ feCause c0 x (.enq f) = none ∧ c0.act x (.enq f) ≠ 0 ∧ bReg f = 4 ∧
    c0.act x (.gterm f) ≠ 0 ∧ f.m.getLsbD 2 = false ∧ x.group? 0 = some 3 ∧ mfind s.groups 3 = some g3 ∧
    (∀ m ∈ g3.members, m < 10 ^ 6) := ⟨⟨rfl, rfl⟩, by decide +kernel⟩
theorem witness_TrapsAndServicesIssue : Runs x0 [.trapi lf, .bkpt lf, .svc lf] ∧ x0.tmode.getLsbD 4 = false :=
  ⟨runs_of _ _ (by decide +kernel), rfl⟩
/-- TRAPI, delegated by bit 16 of the stage's word, and not. -/
theorem witness_TrapEntry :
    let p : PendCause := ⟨0x10, 0x10000, 0xFFFFFFFF, 0, none⟩
    let x := { x0 with pend := [p] }
    let s := { withWarp x with issue := none }
    (∀ t ∈ [s, s.modDie 0 (fun d => { d with deleg := [(0, 0x10000)] }), s.modDie 0 (fun d => { d with duties := [(2, 1)] })],
      t.msgs = [] ∧ mfind t.warps 0 = some x ∧ x.captured = false ∧
      x.termReq = false ∧ x.preRep = none ∧ x.tmode.getLsbD 0 = false ∧ x.sfq = [] ∧ x.ffmas = [] ∧ x.pend = [p] ∧ p.due ≤ t.clk ∧ p.code < 256 ∧
      p.code ≠ 1 ∧ x.flights = [] ∧ x.active ||| x.waiting ≠ 0 ∧ capturing (t.core 0).dbg = false) ∧
    delegated s 0 x p.code = false ∧ dutyOwned s (dieOf 0) 2 = false ∧ (mfind s.dies (dieOf 0)).isSome = true ∧
    dutyOwned (s.modDie 0 (fun d => { d with duties := [(2, 1)] })) (dieOf 0) 2 = true ∧
    delegated (s.modDie 0 (fun d => { d with deleg := [(0, 0x10000)] })) 0 x p.code = true ∧
    ((x.trapbase.toNat : Int) - x.codeBase) % 12 = 0 := by decide +kernel
/-- A record with lane 31 exited and the others LIVE. -/
theorem witness_TrapReturn :
    let x := { x0 with tmode := 1, entryExited := 0x80000000, saveArea := 0x20000 }
    let s := { mapped (withWarp x) with
      pend := [(.rett lf, 0x10000, 0, 0)]
      hbm := memWrite (memWrite (mapped State.reset).hbm 0x20180 (leBytes 4 0x7FFFFFFF)) 0x20188 (leBytes 4 0x80000000) }
    let r := (vRead s x.asid x.saveArea 1024).getD []
    Issuing s c0 x ∧ c0.act x (.rett lf) ≠ 0 ∧ s.pend = [(.rett lf, 0x10000, 0, 0)] ∧ x.holds = [] ∧ x.flights = [] ∧
    x.storeq = [] ∧ x.unacked = [] ∧ x.preemptReq = false ∧ x.tmode.getLsbD 5 = false ∧
    capturing (s.core 0).dbg = false ∧ (vRead s x.asid x.saveArea 1024).isSome = true ∧ field r 0x184 4 = 0 ∧
    field r 0x180 4 &&& field r 0x188 4 = 0 ∧ field r 0x180 4 ||| field r 0x188 4 = 0xFFFFFFFF ∧
    x.entryExited &&& ~~~(BitVec.ofNat 32 (field r 0x188 4)) = 0 ∧ field r 0x1C2 1 = 0 ∧ field r 0x1C3 1 = 0 ∧
    field r 0x18C 4 / 65536 % 256 = 0 := ⟨⟨rfl, rfl⟩, by decide +kernel⟩
theorem witness_SpecialRegisters :
    (∀ n ∈ [(0 : BitVec 8), 0x0B, 0x12], c0.act x0 (.mfsr { lf with a := n }) ≠ 0) ∧
    (∀ n ∈ [(7 : BitVec 8), 0x0A, 0x0B, 0x0C, 0x0F, 0x10], Runs x0 [.mtsr { lf with a := n, b := 4, k := n != 0x0B }]) ∧
    c0.act x0 (.cntstart { lf with m := 15 }) ≠ 0 ∧ c0.act x0 (.cntstop { lf with m := 15 }) ≠ 0 :=
  ⟨by decide +kernel, fun n hn => by
    refine runs_of _ _ ?_
    revert n; decide +kernel, by decide +kernel, by decide +kernel⟩

/-- A pipe of the plan in slot 0 from stage 0 to stage 0, and an entry of it. -/
def pq : PipeSt :=
  { src := 0, dst := 0, depth := 2, bytes := 64, rows := 1, cols := 64, fmt := 2, remote := none, die := 0, slice0 := 0,
    spill := 0, spillN := 0, spillUse := [], nextP := 1, nextC := 1, cHoles := [], released := [], lowDone := 0, entries := [],
    ops := [], pClosed := false, cClosed := false, matched := true }
def pe (state : Nat) : PipeEntry :=
  { seq := 0, slot := 0, status := 0, state := state, spilled := none, wasSpilled := false, producer := 0, consumer := 0,
    holder := 0, stamp := 0, reserve := 0, offs := [], restarted := false, bad := false, payload := [] }
def po (kind : Nat) (n : Option Nat) : PipeOp :=
  { kind := kind, warp := 0, src := 0, stage := 0, reg := 9, wid := 4, handle := 0, core := 0, seqNo := n, wait := ⟨0, 0, true, []⟩, tces := [], order := 0,
    time := 0, status := 0 }
/-- A running plan. -/
def pl0 : Plan :=
  { state := .running, asid := 0, addr := 0, args := [], queue := 0, remote := false, hi := 75, lo := 25, epoch := 50,
    window := 200, cword := 0, sring := 0, sringsz := 0, stages := [], pipes := [], stamps := 0, move := none, restart := false,
    aborted := false, terminated := false, dropped := 0, order := 0, epochAt := 0, probe := none, drain := none, reported := none,
    unresolved := [], single := false, quiet := 0, far := [] }
def withPipe (x : Warp) (q : PipeSt) : State := { withWarp x with plans := [(0, { pl0 with pipes := [(63, q)] })] }
/-- A warp that waits for token 4 in s9. -/
def xt : Warp := { x0 with tokens := [⟨9, 4, false⟩], sE := [(9, true)] }
theorem waits_of (s : State) (h : s.warps = [(0, xt)]) : Waits s 0 xt 4 := by
  refine ⟨?_, by decide, ?_, rfl, rfl, rfl⟩ <;> rw [h] <;> rfl

theorem witness_PipeInstructions :
    let f : LongF := { lf with b := 4, t := 9, k := true, m := 63 }
    let h := 63 * 2 ^ 22
    let x := { x0 with sreg := [(4, BitVec.ofNat 32 h)] }
    (∀ e ∈ [pe 0, pe 2], let q := { pq with entries := [e] }
      (withPipe x q).pipe? 0 63 = some q ∧ q.cHoles = [] ∧ q.prodHere = true ∧ q.consHere = true ∧ q.src = x.stage ∧ q.dst = x.stage ∧
      pipeCount (withPipe x q) 0 x.plan < 8) ∧
    Runs x [.prsv f, .pcmt f, .pacq f, .prel f, .ppoll f, .pclose f] ∧ x.tmode.getLsbD 4 = false ∧ (x.s (bReg f)).toNat = h ∧
    h / 2 ^ 29 ≤ 2 ∧
    heldEntry (withPipe x { pq with entries := [pe 0] }) 0 x h true false = some (63, pe 0) ∧
    heldEntry (withPipe x { pq with entries := [pe 2] }) 0 x h false true = some (63, pe 2) :=
  ⟨by decide +kernel, runs_of _ _ (by decide +kernel), by decide +kernel⟩
theorem witness_PipeUnit :
    (∀ o ∈ [po 0 none, po 1 (some 0), po 2 (some 0), po 3 (some 0), po 4 none, po 5 none], ∀ st ∈ [0, 1, 2],
      let q := { pq with ops := [o], entries := [pe st] }
      let s := withPipe xt q
      Waits s 0 xt o.wid ∧ s.pipe? 0 63 = some q ∧ q.ops = [o] ∧ o.warp = 0 ∧ (s.core o.core).revoked = false ∧
        slotFree q q.nextP = true ∧ q.pClosed = false ∧ q.cClosed = false ∧ (o.wait.look s).isDone s = true ∧ o.tces = [] ∧
        q.remote = none ∧ q.consHere = true ∧
        (o.kind = 1 ∨ o.kind = 3 → q.entries.find? (fun a => some a.seq == o.seqNo) = some (pe st)) ∧
        (o.kind = 2 → st = 1 → q.entries.find? (fun a => some a.seq == o.seqNo && a.state == 1) = some (pe st)) ∧
        (pe st).spilled = none ∧ ∀ a ∈ q.entries, a.state ≠ 3 ∧ a.stamp = 0) ∧
    (let q := { pq with pClosed := true, ops := [po 0 none] }
     q.pClosed = true ∨ q.cClosed = true) ∧
    (∀ rc ∈ [(1, true), (1, false)], let q := { pq with remote := some rc, ops := [po 4 none] }
     let s := withPipe xt q
     Waits s 0 xt (po 4 none).wid ∧ s.pipe? 0 63 = some q ∧ q.ops = [po 4 none] ∧ q.pClosed = false ∧ q.cClosed = false ∧
       q.remote = some rc ∧ q.consHere = rc.2) := by
  refine ⟨?_, .inl rfl, fun rc h => ⟨waits_of _ rfl, by revert rc; decide +kernel⟩⟩
  intro o ho st hst
  refine ⟨?_, ?_⟩
  · have : o.wid = 4 := by revert o; decide
    rw [this]; exact waits_of _ rfl
  · revert o st; decide +kernel
/-- A stage of one core. -/
def st0 : Stage :=
  { cbase := 0x10000, entry := 0, trapbase := 0x10000, gtab := 0, oring := 0, oringsz := 0, cmin := 1, cinit := 1, cmax := 2,
    warps := 1, prio := 0, vregs := 32, sregs := 32, l1 := 65536, spad := 65536, stash := 393216, windows := 0, dies := 1, table := [],
    unit := 1, cores := [0], ring := [], ringN := 0, placedN := 0, ended := false, lastFill := 0 }
def withPlan (x : Warp) (p : Plan) : State := { withWarp x with plans := [(0, p)], clk := 7 }
theorem witness_RemotePipes :
    (let q := { pq with remote := some (1, true) }
     (withPipe x0 q).pipe? 0 63 = some q ∧ q.cClosed = false ∧ ∀ e ∈ q.entries, e.seq ≠ 0) ∧
    (let q := { pq with remote := some (1, false), entries := [pe 1] }
     (withPipe x0 q).pipe? 0 63 = some q ∧ 1 < q.depth) ∧
    (let peer : PeerPipe := ⟨1, State.reset.device, true, 2, 64, 1, 64, 2, [], true, 0⟩
     let s := withPlan x0 { pl0 with stages := [st0] }
     peer.dev = 1 ∧ peer.names = s.device ∧ peer.prod = true ∧ peer.depth = pq.depth ∧ peer.bytes = pq.bytes ∧ peer.rows = pq.rows ∧
       peer.cols = pq.cols ∧ peer.fmt = pq.fmt ∧ (s.stage? 0 peer.stage).isSome = true ∧ (s.stage? 0 1).isSome = false) := by
  decide +kernel

/-- Stage 0 waits for itself: its one warp has a PRSV on its full pipe. -/
def stuck : Plan := { pl0 with window := 0, stages := [st0], pipes := [(63, { pq with ops := [po 0 none], entries := [pe 1] })] }
/-- Its edge. -/
def stuckEdge : ProbeEdge := { dev := 0, plan := 0, stage := 0, pipe := 63, kind := 0, seq := 1 }
/-- The same with a probe under way. -/
def probed (d : Option Drain) : Plan := { stuck with probe := some [stuckEdge], drain := d }
/-- Stage 0 sends to stage 1 of plan 0 of device 1, whose producer stage waits for it. -/
def across : Plan :=
  { pl0 with
    window := 0, stages := [st0]
    pipes := [(63, { pq with remote := some (1, true), dst := 1, ops := [po 0 none], entries := [pe 1] })]
    far := [⟨1, 0, 1, some 0, 0, [⟨5, 0, 2, 0, 0, 0⟩]⟩] }
theorem witness_DeadlockSearch :
    (mfind (withPlan x0 stuck).plans 0 = some stuck ∧ stuck.drain = none ∧ probing (withPlan x0 stuck) stuck = false ∧
      stuck.quiet ≤ (withPlan x0 stuck).gtime ∧ stuck.probe = none ∧ reportable (withPlan x0 stuck) 0 stuck stuck.far = some [(0, 0, 0)] ∧
      probeCycle (withPlan x0 stuck) stuck.far [(0, 0, 0)] = [stuckEdge] ∧ crosses (withPlan x0 stuck) [stuckEdge] = false ∧
      reportable (withPlan x0 { stuck with unresolved := [[stuckEdge]] }) 0 { stuck with unresolved := [[stuckEdge]] } [] = none) ∧
    (let s := withPlan x0 across
     ∃ l, reportable s 0 across across.far = some l ∧ probeCycle s across.far l ≠ [] ∧
       crosses s (probeCycle s across.far l) = true) ∧
    (let s := withPlan x0 (probed none)
     probing s { probed none with window := 1 } = true ∧ (probed none).probe = some [stuckEdge] ∧ (probed none).drain = none ∧
     (∀ e ∈ [stuckEdge], ∃ a ∈ nodeWaits s [] e.node, a.1 = e.pipe ∧ a.2.1 = e.kind ∧ a.2.2.1 = e.seq) ∧
     ¬∃ a ∈ nodeWaits s [] ({ stuckEdge with seq := 2 } : ProbeEdge).node, a.1 = 63 ∧ a.2.1 = 0 ∧ a.2.2.1 = 2) ∧
    (∀ d ∈ [(⟨0, false, none, false⟩ : Drain), ⟨0, true, some 0, false⟩, ⟨0, false, none, true⟩],
      mfind (withPlan x0 (probed (some d))).plans 0 = some (probed (some d))) ∧
    filledSince (withPlan x0 stuck) 0 0 0 = true ∧ stuckEdge.dev = (withPlan x0 stuck).device ∧
    (fullPipes (withPlan x0 stuck) [stuckEdge])[0]? = some (63, some 0, 63) ∧
    (let far := { stuck with pipes := [(63, { pq with remote := some (1, false), ops := [po 0 none], entries := [pe 1] })] }
     (fullPipes (withPlan x0 far) [stuckEdge])[0]? = some (319, none, 63)) ∧
    (fullPipes (withPlan x0 stuck) [stuckEdge]).length ≤ 1 := by
  refine ⟨by decide +kernel, ⟨_, rfl, by decide +kernel⟩, by decide +kernel⟩

/-- A copy of two bytes from scratchpad offset 0 to 64, and a descriptor that breaks the rules. -/
def desc : List Byte :=
  leBytes 8 0 ++ leBytes 8 64 ++ [1, 1, 0, 1] ++ List.replicate 44 0 ++ leBytes 4 2 ++ leBytes 6 1 ++ leBytes 6 1 ++ List.replicate 176 0
def tceState (d : List Byte) : State :=
  let s := mapped (withWarp xt)
  { s with
    hbm := memWrite s.hbm 0x20000 d
    cores := [(0, { Core.fresh with
      tlb := [{ fetchPage State.reset with base := 0x20000, pa := 0x20000 }]
      tce := [{ warp := 0, reg := 9, wid := 4, desc := 0x20000, asid := 0, seq := 0, plan := 0, stage := 0, groups := 0, insts := [] }] })] }
/-- The descriptor stands at a held translation, without error, and what it holds. -/
def descPage : TlbEntry := { fetchPage State.reset with base := 0x20000, pa := 0x20000 }
abbrev described (s : State) : Prop := s.msgs = [] ∧ descPage.r = true ∧ 0x20000 + 256 ≤ 2 ^ 57 ∧
  ∀ i, i < 256 → coreXlate s 0 0 (0x20000 + i) = some descPage ∧ homeDown s 0 (descPage.key s (0x20000 + i)) = false ∧
    homeErr s (descPage.key s (0x20000 + i)) 1 = false
def descBytes (s : State) : List Byte := (List.range 256).map (fun i => cohByte s (descPage.key s (0x20000 + i)))
theorem witness_TensorCopy :
    (let f : LongF := { lf with b := 4, t := 9, k := true }
     let x := { x0 with sreg := [(4, 0x20000)] }
     Runs x [.tcopy f] ∧ x.tmode.getLsbD 4 = false ∧ readableCause (mapped (withWarp x)) 0 x.asid (x.s64 (bReg f)) 256 = none) ∧
    (Waits (tceState desc) 0 xt 4 ∧ described (tceState desc) ∧ (copyDesc (descBytes (tceState desc))).any (fun d => decide (d.sspace = 1 ∧ d.dspace = 1 ∧ d.conv = 0 ∧
        d.wmode = 0 ∧ d.ssw = 0 ∧ d.dsw = 0 ∧ d.dims = [(2, (d.esize : Int), (d.esize : Int))] ∧ d.src < 2 ^ 19 ∧ d.dst < 2 ^ 19 ∧
        d.src + 2 * d.esize ≤ ((tceState desc).core 0).spad ∧ d.dst + 2 * d.esize ≤ ((tceState desc).core 0).spad ∧
        d.src + 2 * d.esize ≤ d.dst)) = true) ∧
    (Waits (tceState [1]) 0 xt 4 ∧ described (tceState [1]) ∧ copyDesc (descBytes (tceState [1])) = none) :=
  ⟨⟨runs_of _ _ (by decide +kernel), rfl, by decide +kernel⟩, ⟨waits_of _ rfl, by decide +kernel⟩,
   ⟨waits_of _ rfl, by decide +kernel⟩⟩
/-- The last row ends at the last byte of the scratchpad; a busy register. -/
theorem witness_TileRegisters :
    (let f : LongF := { lf with b := 4, k := true, d := 7 }
     let x := { x0 with sreg := [(4, 0), (5, 0x3F0FFF), (6, 0x100040), (7, 0)] }
     let t := tileOf x (bReg f)
     Runs x [.mcfg f, .mrel { lf with d := 7 }] ∧ t.base % 64 = 0 ∧ t.stride % 64 = 0 ∧ t.stride ≠ 0 ∧ t.wmoff % 64 = 0 ∧
     t.base + t.rows * t.stride = 262144 ∧ ((withWarp x).core 0).spad = 262144 ∧ t.wmv = false ∧ mget x.busy 7 0 = 0) ∧
    (let x := { x0 with busy := [(7, 1)] }
     c0.act x (.mrel { lf with d := 7 }) ≠ 0 ∧ mget x.busy 7 0 ≠ 0) :=
  ⟨⟨runs_of _ _ (by decide +kernel), by decide +kernel⟩, by decide +kernel⟩
theorem witness_MatrixCommandsIssue :
    let f : LongF := { lf with d := 7, a := 1, b := 4, k := true, t := 9 }
    let g : LongF := { f with m := 4 }
    Issuing sp c0 xp ∧ xp.tmode.getLsbD 4 = false ∧ (sp.ctx 0 0).tag = none ∧ (sp.ctx 0 0).bindReg = none ∧
    (∀ i ∈ [Instr.mload f, .mloop f, .mloop g, .mdrain f, .mzero f], feCause c0 xp i = none ∧ c0.act xp i ≠ 0) ∧
    f.m.getLsbD 2 = false ∧ g.m.getLsbD 2 = true ∧
    xp.group? ((xp.s (bReg g + 3)).toNat / 16 % 4) = some 3 ∧ mfind sp.groups 3 = some g3 := ⟨⟨rfl, rfl⟩, by decide +kernel⟩

/-- A command of a context in one of its phases, and core 0 with that context. -/
def re (cmd : RmeCmd) (phase : Nat) : RmeEntry :=
  { cmd := cmd, warp := 0, wid := 4, reg := 9, seq := 1, lanes := 1, traps := false, bind := none, flags := 0, ecc := false, panel := 0,
    phase := phase, due := 0, snap := [], snapE := 0, dnum := 0 }
def rmeState (e : RmeEntry) (bind : Option (BitVec 128)) : State :=
  { withWarp xt with cores := [(0, { Core.fresh with
      rme := [(1, { RmeCtx.fresh with tag := some 0, queue := [e], bind := bind })], portBusy := some 1, arrBusy := some 1 })] }
/-- An INT8 tile of 128 rows of 128 bytes at 0. -/
def tile8 : BitVec 128 := BitVec.ofNat 128 (127 * 2 ^ 32 + 127 * 2 ^ 48 + 128 * 2 ^ 64 + 2 * 2 ^ 83)
theorem witness_MatrixLoadAndLoop :
    (let e := re (.mload tile8 7) 1
     let s := rmeState e (some tile8)
     let t : Tile := tile8
     mainHead (s.ctx 0 1) = some e ∧ e.due ≤ s.clk ∧ (∀ a ∈ (s.ctx 0 1).queue, a.seq = e.seq → a = e) ∧
     (∀ v ∈ s.warps, v.2.holds = []) ∧ (s.core 0).portBusy = some 1 ∧ (s.ctx 0 1).bind = some tile8 ∧ t.sw = 0 ∧ t.wmv = false ∧
     t.fmt = 2 ∧ t.base % 64 = 0 ∧ t.stride % 64 = 0 ∧ t.cols ≤ t.stride ∧ (s.core 0).eccBad = []) ∧
    (let e := re (.mloop tile8 7 0 [0, 0, 0, 0] false none) 2
     let s := rmeState e none
     mainHead (s.ctx 0 1) = some e ∧ (s.core 0).arrBusy = some 1 ∧ (s.ctx 0 1).armed = false ∧
     (mloopPar [0, 0, 0, 0]).panels ≤ e.panel + 1) := by decide +kernel
theorem witness_MatrixCompletion :
    (∀ cmd ∈ [RmeCmd.mload tile8 7, .mloop tile8 7 0 [] false none, .mzero 7], let s := rmeState (re cmd 3) none
      Waits s 0 xt 4 ∧ (∀ v ∈ s.warps, v.2.holds = []) ∧ mainHead (s.ctx 0 1) = some (re cmd 3)) ∧
    (∀ ph ∈ [1, 3], ∀ mode ∈ [0, 1, 2, 3], let e := re (.mdrain tile8 7 7 mode 0 0) ph
      let s := rmeState e none
      let t : Tile := tile8 + BitVec.ofNat 128 (896 * 2 ^ 64)
      (s.ctx 0 1).queue = [e] ∧ (s.ctx 0 (1 - 1)).queue = [] ∧ mode < 4 ∧ t.sw = 0 ∧ t.wmv = false ∧
        128 * drainSize mode ≤ t.stride ∧ t.base + 8 * t.stride ≤ (s.core 0).spad ∧ risingFrom 0 e.snap = true ∧
        (drainElem mode 0 accZero).2 &&& mChk = 0) := by
  refine ⟨fun cmd h => ⟨waits_of _ rfl, ?_⟩, by decide +kernel⟩
  revert cmd; decide +kernel
/-- The greatest and the least number that fit, and those of I32. -/
theorem witness_ResidueArithmetic :
    (∀ v ∈ [(2 : Int) ^ 47 - 2 ^ 15 - 1, -(2 ^ 47 - 2 ^ 15)], -(2 ^ 47 - 2 ^ 15) ≤ v ∧ v < 2 ^ 47 - 2 ^ 15) ∧
    (∀ v ∈ [(2 : Int) ^ 31 - 1, -2 ^ 31], let a : Acc := ⟨(v % 65535).toNat, (v % 65536).toNat, (v % 65537).toNat, (v % 31).toNat, false, false⟩
      (a.c1 : Int) = v % 65535 ∧ (a.c2 : Int) = v % 65536 ∧ (a.c3 : Int) = v % 65537 ∧ (a.c4 : Int) = v % 31 ∧
        drainElem 2 0 a = ((BitVec.ofInt 32 v).toNat, 0)) := by decide +kernel
/-- A core whose control port is to save or restore context 0. -/
def portState (cmd : Word) (tag : Option Nat) : State :=
  { s0 with cores := [(0, { Core.fresh with mcpStat := 1, mcpCmd := cmd, rme := [(0, { RmeCtx.fresh with tag := tag })] })] }
theorem witness_ShadowAndControlPort :
    (let j : ShadowJob := ⟨[], 0, 0, 0, 1, 0, [], 0⟩
     let s := { s0 with cores := [(0, { Core.fresh with shadow := some j })] }
     (s.core 0).shadow = some j ∧ j.due ≤ s.clk) ∧
    (∀ cmd tag, ((portState cmd tag).core 0).mcpStat.getLsbD 0 = true ∧ ((portState cmd tag).ctx 0 0).queue = [] ∧
      ((portState cmd tag).core 0).mcpCmd = cmd ∧ ((portState cmd tag).ctx 0 0).tag = tag) ∧
    (0 : Word).toNat % 2 = 0 ∧ (2 : Word).toNat % 2 = 0 ∧ (0 : Word).getLsbD 1 = false ∧ (2 : Word).getLsbD 1 = true :=
  ⟨⟨rfl, Nat.le_refl _⟩, fun _ _ => ⟨(by decide : (1 : Word).getLsbD 0 = true), rfl, rfl, rfl⟩, by decide⟩

/-- A flight of the warp with one access of four bytes in lane 31, and its state with core 0 given. -/
def fl (k : Pending) (a : Nat) : Flight :=
  { resultFlight s0 c0 x0 0x80000000 [] 0 [] with
    seq := 5, kind := k, writes := [.v 1 0x80000000 zeroVec], acc := [⟨31, a, []⟩], due := 0 }
def xf (k : Pending) (a : Nat) : Warp := { x0 with flights := [fl k a] }
theorem perform_of (k : Pending) (a : Nat) : MayPerform (withWarp (xf k a)) 0 (xf k a) (fl k a) :=
  ⟨rfl, by decide, rfl, Nat.le_refl 0, rfl, rfl, rfl, rfl, rfl, rfl, (by decide : (0 : Word).getLsbD 4 = false)⟩
/-- The last word of the scratchpad, the last word of a page. -/
theorem witness_ReadsPerform :
    (let a := 262140
     MayPerform (withWarp (xf (.load .spad 4 false) a)) 0 (xf (.load .spad 4 false) a) (fl (.load .spad 4 false) a) ∧
     a + 4 ≤ ((withWarp x0).core 0).spad ∧ a < ((withWarp x0).core 0).spad ∧ ((withWarp x0).core 0).eccBad = []) ∧
    (let a := 0x1FFFC
     let x := xf (.load .global 4 false) a
     let s := { withWarp x with cores := [(0, { Core.fresh with
       tlb := [fetchPage State.reset]
       l1 := [(0x1FFFC / 512, ⟨2, 0xFFFF, 0xFFFF, [], 0, [], 0, [], [], 0⟩)] })] }
     coreXlate s 0 x.asid a = some (fetchPage State.reset) ∧ (fetchPage State.reset).r = true ∧ a < 2 ^ 57 ∧ a % 65536 + 4 ≤ 65536 ∧
     ∀ i < 4, l1Hit s 0 ((fetchPage State.reset).key s (a + i)) = true ∧
       mget (s.core 0).l1Bad ((fetchPage State.reset).key s (a + i) / 4) false = false) ∧
    (let k := Pending.atom .add 1 .spad [0xFFFFFFFF]
     let a := 262140
     MayPerform (withWarp (xf k a)) 0 (xf k a) (fl k a) ∧ laneBit 31 = 0x80000000 ∧ a % 4 = 0 ∧
     a + 4 ≤ ((withWarp x0).core 0).spad ∧ (0xFFFFFFFF : DWord) < 2 ^ 32) :=
  ⟨⟨perform_of _ _, by decide +kernel⟩, by decide +kernel, ⟨perform_of _ _, by decide +kernel⟩⟩

/-- A store of two bytes at the head of the queue. -/
def se (sp : Space) (a : Nat) (fail : Option SfRec) : StoreEntry :=
  { seq := 5, kind := .store, space := sp, size := 2, acc := [⟨31, a, [1, 2]⟩], pc := 0x10000, hmode := false, stuck := false,
    fail := fail }
theorem witness_StoresLeave :
    (∀ e ∈ [se .spad 262142 none, se .global 0x1001E none, se .global 0x1001E (some ⟨0x1001E, 0x80000000, 0, false⟩)],
      let x := { x0 with storeq := [e] }
      mfind (withWarp x).warps 0 = some x ∧ x.storeq = [e] ∧ x.holds = [] ∧ x.tmode.getLsbD 4 = false ∧ x.flights = [] ∧
        x.termReq = false ∧ x.tmode.getLsbD 0 = false ∧ x.sfq.length < 16) ∧
    262142 + 2 ≤ ((withWarp x0).core 0).spad ∧
    (let a := 0x1001E
     let p := fetchPage State.reset
     let s := { withWarp x0 with cores := [(0, { Core.fresh with
       tlb := [p], l1 := [(a / 512, ⟨2, 0xFFFF, 0xFFFF, [], 0, [], 0, [], [], 0⟩)] })] }
     a % 32 + 2 ≤ 32 ∧ coreXlate s 0 0 a = some p ∧ p.w = true ∧ p.base % 32 = 0 ∧ p.pa % 32 = 0 ∧ p.dev = s.device ∧
     p.pa + p.size ≤ 2 ^ 39 ∧ p.base ≤ a ∧ a < p.base + p.size ∧ l1Has s 0 (p.key s a) = true) := by decide +kernel

/-- A message at its home. -/
def atHome (b : HomeMsg) : State :=
  { s0 with dies := mmod s0.dies 0 (fun d => { d with up := true }), msgs := [⟨4, 0, b, none, none⟩] }
theorem witness_HomesAndCaches :
    (∀ b ∈ [HomeMsg.register 0x4000 0, .notice 0x4000 0, .through (2 ^ 54) [1], .red .add 1 0x10000 4 [(31, 0xFFFFFFFF)],
        .trig 0x10000 [(31, 0xFF)]],
      msg? (atHome b) 4 = some ⟨4, 0, b, none, none⟩ ∧ (atHome b).memWf = true ∧ (∀ v ∈ (atHome b).warps, v.2.holds = [])) ∧
    registrant s0 0x10000 = none ∧ overfull s0 (0x10000 / 128) 1 = [] ∧ allRecords s0 = [] ∧
    (∀ b ∈ [HomeMsg.through (2 ^ 54) [1], .red .add 1 0x10000 4 [(31, 0xFFFFFFFF)], .trig 0x10000 [(31, 0xFF)]], ∀ m ∈ (atHome b).msgs,
      (match m.body with
      | .register .. => true
      | _ => false) = false) ∧
    (rangeStalls s0 (2 ^ 39 - 256) 256 = false ∧ 256 ≤ 256 ∧ rangeStalls s0 (2 ^ 40 - 64) 64 = false ∧ (2 ^ 40 - 64) % 64 = 0 ∧
      rangeStalls s0 (2 ^ 40 - 2 ^ 16) 1 = false) ∧
    (∀ pa ∈ [0x10000, 2 ^ 39 - 4], rangeStalls s0 pa 1 = false ∧ pa % 4 = 0 ∧ pa + 4 ≤ 2 ^ 39 ∧
      registrant s0 pa = none ∧ overfull s0 (pa / 128) 1 = []) ∧ s0.msgs = [] ∧
    (let s := { s0 with words := [(0x4000, .regrd 0)] }
     mfind s.words 0x4000 = some (.regrd 0)) ∧
    (let s := { s0 with hbm := [(0x10000, 1)] }
     leNat (cohBytes s 0x10000 4) = 1) ∧
    (let s := { s0 with clk := 4096, words := [(0x4000, .reg 0)], cores := [(0, { Core.fresh with
       l1 := [(128, ⟨2, 0xFFFF, 0xFFFF, [], 1, [], 0, [(0, 0)], [], 0⟩)] })] }
     wroteAt s 0 0x4000 = some 0 ∧ 0 + 4096 ≤ s.clk ∧ registrant s (0x4000 * 4) = some 0 ∧ risingFrom 0 (s.core 0).slines = true ∧
     s.memWf = true) ∧
    (let s := { s0 with l2 := [(512, ⟨0, []⟩)], cores := [(0, { Core.fresh with l1 := [(128, ⟨2, 0, 0, [], 0, [], 0, [], [], 0⟩)] })] }
     mfind s.l2 512 = some ⟨0, []⟩ ∧ (∀ i < 32, mfind s.words (512 * 32 + i) = none) ∧
     (∀ i < 128, memByte ([] : Memory) i = memByte s.hbm (512 * 128 + i)) ∧ s.memWf = true ∧
     mfind (s.core 0).l1 128 = some ⟨2, 0, 0, [], 0, [], 0, [], [], 0⟩ ∧ s.msgs = []) := by decide +kernel

/-- A walk of a load of warp 0, an entry of the fault queue for it, and Toltar's answer in both copies of the journal. -/
def wk (va : Nat) : Walk := { id := 6, die := 0, va := va, asid := 0, src := 0, kind := 0, need := 1, seq := 5, declined := false, held := false, walker := some 63 }
def fq0 : FqEntry := { va := 0x40000000, asid := 0, src := 0, kind := 0, need := 1, walker := 0, walk := 6 }
def answered (args : List Nat) : State :=
  let s := { mapped s0 with walks := [wk 0x40000000], pairs := [(0, { Pair.fresh .active with journal := [⟨4, args, true, false⟩] })] }
  s.modDie 0 (fun d => { d with fq := [(31, fq0)], duties := [(0, 1)] })
/-- The last address of the mapped gibibyte, and the first beyond it with the last place of the fault queue free. -/
theorem witness_TranslationAndErrors :
    (let s := { mapped s0 with walks := [wk 0x3FFFFFFF] }
     walk? s 6 = some (wk 0x3FFFFFFF) ∧ s.msgs = [] ∧ (wk 0x3FFFFFFF).walker = some 63 ∧ (∀ q ∈ (s.die 0).fq, q.2.walk ≠ 6) ∧
     (match (walkOn s 0 0 0x3FFFFFFF).1 with
     | .leaf _ => true
     | _ => false) = true) ∧
    (let t := { mapped s0 with walks := [wk 0x40000000] }
     let s := t.modDie 0 (fun d => { d with fq := (List.range 31).map (fun i => (i, { fq0 with walk := 7 })) })
     walk? s 6 = some (wk 0x40000000) ∧ s.msgs = [] ∧ (∀ q ∈ (s.die 0).fq, q.2.walk ≠ 6) ∧
     (match (walkOn s 0 0 0x40000000).1 with
     | .invalid => true
     | _ => false) = true ∧ (List.range 32).find? (fun i => (mfind (s.die 0).fq i).isNone) = some 31) ∧
    (∀ args ∈ [[0, 31, 6, 0x1002000, 1], [0, 31, 6]], let s := answered args
     mfind (s.die 0).fq 31 = some fq0 ∧ s.msgs = [] ∧ mget (s.die 0).duties 0 0 = 0 + 1 ∧ walk? s 6 = some (wk 0x40000000) ∧
     (mget s.pairs 0 (Pair.fresh .spare)).journal.find? (fun q => q.kind == 4 && q.args == args && !q.applied) = some ⟨4, args, true, false⟩) ∧
    (let s := { s0 with cores := [(0, { Core.fresh with l1 := [(128, ⟨2, 0, 0, [], 1 <<< 127, [], 0, [], [], 0⟩)] })] }
     mfind (s.core 0).l1 ((128 * 128 + 127) / 128) = some ⟨2, 0, 0, [], 1 <<< 127, [], 0, [], [], 0⟩ ∧
     ((1 : BitVec 128) <<< 127).getLsbD ((128 * 128 + 127) % 128) = true ∧ (0 : BitVec 128).getLsbD 127 = false) ∧
    (let d : AsDescriptor := ⟨7, 0x1000000, 0, 0, 0, false, 0, 0x20000000, 0x1000000⟩
     let s := { mapped s0 with newSpaces := [(7, d)] }
     mfind s0.newSpaces 7 = none ∧ mfind s.newSpaces 7 = some d ∧ d.asid = 7 ∧ s.dies.any (fun e => e.1 == 0) = true ∧
     s.msgs = []) := by decide +kernel

/-- A summary command on zeroes at the end of the scratchpad. -/
def sc (op : Nat) : SumCmd :=
  { op := op, warp := 0, reg := 9, wid := 4, coin := 0, spad := true, dst := 0, src := 4096, acc := [(31, 0x3F800000)],
    wait := ⟨0, 0, true, []⟩, seq := 5, asid := 0, lanes := 0x80000000, pc := 0x10000 }
def sumState (op : Nat) (m : Memory) : State := { withWarp xt with cores := [(0, { Core.fresh with sumq := [sc op], opst := m })] }
theorem witness_Summaries :
    (let f : LongF := { lf with d := 2, a := 1, b := 4, t := 9, k := true, m := 4 }
     Runs x0 [.skadd f, .skmerge f, .skq f, .hhadd f, .hhmerge f, .hhtop f, .dcadd f, .dcmerge f, .dcest f] ∧
     x0.tmode.getLsbD 4 = false ∧ ∀ op < 9, sumCause (withWarp x0) 0 0 op 0 true true = none) ∧
    (∀ op < 9, let s := sumState op []
     Waits s 0 xt 4 ∧ (s.core 0).sumq = [sc op] ∧ ((sc op).wait.look s).isDone s = true ∧
     (sc op).dst + sumSize op ≤ (s.core 0).spad ∧ (sc op).src + sumSize op ≤ (s.core 0).spad ∧ (s.core 0).eccBad = []) ∧
    (∀ op ∈ [2, 5, 8], let x := xf .query 0
     let s := { withWarp x with cores := [(0, { Core.fresh with sumq := [sc op] })] }
     mfind s.warps 0 = some x ∧ x.flights.find? (fun g => g.seq == (sc op).seq) = some (fl .query 0) ∧ x.holds = [] ∧
     x.tmode.getLsbD 4 = false ∧ (s.core 0).sumq = [sc op] ∧ ((sc op).wait.look s).isDone s = true ∧
     (sc op).acc = (lanesOf (sc op).lanes).map (fun l => (l, (0x3F800000 : Word)))) ∧
    (∀ i < 1024, (memByte ((sumState 6 []).core 0).opst i).toNat ≤ 55) ∧
    (∀ op ∈ [6, 7, 8], homeStalls s0 (2 ^ 39 - sumSize op) = false ∧ homeErr s0 (2 ^ 39 - sumSize op) (sumSize op) = false ∧
      (2 ^ 39 - sumSize op) % sumSize op = 0) ∧ (cohBytes s0 (2 ^ 39 - 1024) 1024).all (fun b => decide (b.toNat ≤ 55)) = true ∧
    homeStalls (s0.modDie 0 (fun d => { d with resetting := true })) 0 = true ∧
    55 < (memByte ((sumState 6 [(1023, 56)]).core 0).opst 1023).toNat ∧
    (dcRead (memRead [] 0 (sumSize 8))).isSome = true ∧ (hhRead (memRead [] 0 (sumSize 5))).isSome = true ∧
    (sketchRead (memRead [] 0 (sumSize 2)) 0).isSome = true := by
  refine ⟨⟨runs_of _ _ (by decide +kernel), rfl, by decide +kernel⟩, ?_, by decide +kernel, by decide +kernel, by decide +kernel,
    by decide +kernel, by decide +kernel, by decide +kernel, by decide +kernel, by decide +kernel, by decide +kernel⟩
  intro op h
  refine ⟨waits_of _ rfl, rfl, rfl, ?_⟩
  revert op; decide +kernel

/-- Pair 0 at work, with rs1 in x10 and rs2 in x11. -/
def pr (x y : DWord) : Pair := { Pair.fresh .active with x := [(10, x), (11, y)] }
def slotOf0 : HqSlot :=
  { queue := 5, base := 0x30000, lgsize := 4, prio := 0, state := 1, err := 0, asid := 0, cmds := 255, key := 0, slice := 1,
    devfed := true, remote := false, rd := 0, wr := 0, ctr := 0, user := 0x40000, loaded := 0, order := 0, expired := false,
    feat := [0xFF, 0, 0, 0] }
def onHart (p : Pair) : State :=
  { mapped s0 with pairs := [(0, p)], hartTurn := some 0, slots := [(63, slotOf0)],
                   hbm := memWrite (mapped s0).hbm 0x20000 (leBytes 8 0x10000 ++ leBytes 8 7 ++ [20, 12]) }
def physical (p : Pair) (a : SvAcc) (va n : Nat) : Bool :=
  match svXlate { onHart p with hartTurn := none } p a va n with
  | .ok pa => pa == va && !paBad (paTouch { onHart p with hartTurn := none } pa n) pa n
  | .error _ => false
theorem witness_Supervisor :
    mfind (onHart (pr 0 0)).pairs 0 = some (pr 0 0) ∧ (onHart (pr 0 0)).hartTurn = some 0 ∧
    (∀ y ∈ [(1 * 256 + 63 : Nat), 64 * 256, 65536 + 256], let pos := y % 64; let len := y / 256 % 128
      1 ≤ len ∧ len ≤ 64 ∧ pos + len ≤ 64 ∧ y / 64 % 4 = 0 ∧ y.testBit 15 = false ∧ y < 2 ^ 17) ∧
    ¬(1 ≤ (2 * 256 + 63) / 256 % 128 ∧ (63 + 2 : Nat) ≤ 64) ∧
    (let p := pr 0x20000 8
     physical p .r 0x20000 32 = true ∧ physical p .w 0x20000 32 = true ∧ physical p .r 0x20000 64 = true ∧ physical p .r 0x20000 8 = true ∧
     (onHart p).msgs = [] ∧
     (let r := paRead (paTouch { onHart p with hartTurn := none } 0x20000 32) 0x20000 32
      field r 8 8 = 7 ∧ field r 16 1 = 20 ∧ field r 17 1 = 12 ∧ field r 0 8 % 2 ^ 12 = 0 ∧ field r 18 14 = 0 ∧ p.mode ≠ .u) ∧
     (∃ b : List Byte, b = List.replicate 64 0 ∧ queueNow (onHart p) 5 = some slotOf0 ∧ slotOf0.state = 1 ∧
       (match checkCmd (onHart p) slotOf0 b with
       | .inr _ => true
       | .inl _ => false) = true) ∧
     queueNow (onHart p) 6 = none) ∧
    (let p := { pr 0 0 with wait := some ⟨0x20000, 0, 12, 0, 0⟩, csr := [(csrSwaitto, 1)] }
     let s := { onHart p with clk := 1750 }
     p.c csrSwaitto ≠ 0 ∧ 1000 * p.c csrSwaitto ≤ s.gtime - 0) ∧
    (let p := { pr 0 0 with mode := .s, csr := [(csrMedeleg, 1 <<< 63)] }
     p.mode ≠ .m ∧ (p.c csrMedeleg).testBit 63 = true) := by
  refine ⟨rfl, rfl, by decide +kernel, by decide, ⟨by decide +kernel, by decide +kernel, by decide +kernel, by decide +kernel,
    by decide +kernel, by decide +kernel, ⟨_, rfl, by decide +kernel⟩, by decide +kernel⟩, by decide +kernel, by decide +kernel⟩

/-- A hart with an Sv48 root at 0x10000 that maps nothing, x10 an aligned and x11 a misaligned address, x12 zero. -/
def hart0 : Pair :=
  { Pair.fresh .active with
    mode := .s, x := [(10, 0x20000), (11, 0xFFFFFFFFFFFFFFFF)], csr := [(0x180, 0x9000000000000010), (0x300, 0x6000), (0x3A0, 0x1F),
    (0x3B0, 0x3FFFFFFFFFFFFF)] }
def baseState (p : Pair) : State := { mapped s0 with pairs := [(0, p)] }
theorem witness_BaseInstructions :
    (let p := hart0
     let s := baseState p
     mfind s.pairs 0 = some p ∧ (p.get 12).toNat = 0 ∧ (p.get 10).toNat ≠ 0 ∧ fsOf p ≠ 0 ∧ p.mode ≠ .m ∧
     (p.get 11 + BitVec.ofInt 64 (intOf 12 true 4095)).toNat % 8 ≠ 0 ∧
     (p.get 11 + BitVec.ofInt 64 (intOf 12 true 1)).toNat % 8 = 0 ∧
     (match svXlate s p .r 0 8 with
     | .error .none_ => true
     | _ => false) = true) ∧
    (let p := pr 0x20000 0
     let s := baseState p
     mfind s.pairs 0 = some p ∧ fsOf p = 0 ∧ p.mode = .m ∧ p.resv ≠ some (0x20000, resvVer s 0x20000) ∧
     paBad { s with homeBad := [(0x20000, true)] } 0x20000 8 = true ∧ paBad s 0x20000 8 = false ∧
     (match svXlate s p .r 0x20000 8, svXlate s p .w 0x20000 8 with
     | .ok a, .ok b => a == 0x20000 && b == 0x20000
     | _, _ => false) = true) ∧
    (let p := { pr 0x20000 0 with resv := some (0x20000, 0), mode := .u }
     let s := baseState p
     p.resv = some (0x20000, resvVer s 0x20000)) ∧ (RvCtx.mk 0 4 0x13).len = 4 := by decide +kernel
/-- Words of the RISC-V manual: ADDI x1, x2, -1, JAL x1, -4 and the compressed NOP and EBREAK. -/
theorem test_base_words :
    (match rvRun (baseState { pr 0 0 with x := [(2, 5)] }) 0 0xFFF10093 with
    | .next t => (t.pair 0).get 1 == 4 && (t.pair 0).pc == 4
    | _ => false) = true ∧
    (match rvRun (baseState { pr 0 0 with pc := 0x100 }) 0 0xFFDFF0EF with
    | .next t => (t.pair 0).get 1 == 0x104 && (t.pair 0).pc == 0xFC
    | _ => false) = true ∧
    rvExpand 0x0001 = some 0x00000013 ∧ rvExpand 0x9002 = some 0x00100073 := by decide +kernel

def working (e : Event) : State := { mapped s0 with work := [⟨5, 0, e⟩], slots := [(63, slotOf0)] }
/-- A notify of queue 5 with write index 16, its code under a key of zeroes. -/
def noteMsg : List Byte :=
  leBytes 2 5 ++ [0, 0] ++ leBytes 4 1 ++ leBytes 8 16 ++ List.replicate 32 (0 : Byte) ++
    [0x28, 0xDD, 0xFF, 0xB8, 0x77, 0x39, 0xDB, 0x78, 0xD1, 0x2D, 0xBC, 0xA3, 0x18, 0x60, 0x80, 0xED]
def notified : State := { mapped s0 with slots := [(63, { slotOf0 with devfed := false })], keys := [(0, List.replicate 32 0)] }
/-- HMAC-SM3 of that message; the value is OpenSSL's. -/
theorem test_hmac_sm3 : (hmacSm3 (List.replicate 32 0) (noteMsg.take 48)).take 16 = noteMsg.drop 48 := by decide +kernel
theorem witness_QueueCommands :
    (let e := Event.signal 5 0x50000 1 true
     earlierWork (working e) 5 e = false ∧
     earlierWork { working e with work := [⟨5, 0, .cmdNop 5⟩, ⟨5, 1, e⟩] } 5 e = true ∧
     (vWrite (working e) (queueAsid (working e) 5) 0x50000 (leBytes 8 1)).isSome = true) ∧
    (let e := Event.waitWord 5 0x50000 0 0 0 false
     slotOfQueue (working e) 5 = some (63, slotOf0) ∧ (vRead (unitTouch (working e) 0 0x50000 4) 0 0x50000 4).isSome = true ∧
     (waitOf (working e) 5).isSome = true) ∧
    earlierWork (working (.cmdFence 5)) 5 (.cmdFence 5) = false ∧
    ((notified.msgs = [] ∧ shadowHalf notified 5 = none ∧ queueNow notified 5 = some { slotOf0 with devfed := false }) ∧
      (let s := { notified with queues := [(5, 0x60000)] }
       (shadowHalf s 5).isSome = true ∧ (s.space slotOf0.asid).isSome = true ∧ ({ s with keys := [] } : State).keys = [] ∧
       slotOfQueue s 5 = some (63, { slotOf0 with devfed := false }))) ∧
    (noteMsg.length = 64 ∧ field noteMsg 0 2 = 5 ∧ zeros noteMsg 2 2 = true ∧ zeros noteMsg 16 32 = true ∧
      slotOfQueue notified 5 = some (63, { slotOf0 with devfed := false }) ∧ slotOf0.key ≠ 255 ∧
      mfind notified.keys slotOf0.key = some (List.replicate 32 0) ∧
      slotOf0.ctr < field noteMsg 4 4 ∧
      slotOf0.rd ≤ field noteMsg 8 8 ∧ field noteMsg 8 8 - slotOf0.rd = 2 ^ slotOf0.lgsize) := by decide +kernel

/-- The privileged half of queue 5: 16 entries at 0x30000, space 0, no key. -/
def half : List Byte := leBytes 8 0x30000 ++ [4, 0, 0, 0] ++ leBytes 2 0 ++ [0xFF, 0xFF] ++ leBytes 4 1 ++ List.replicate 20 0 ++ leBytes 8 0x40000 ++ List.replicate 16 0
def shadowed : State :=
  { mapped s0 with queues := [(5, 0x60000)], hbm := memWrite (mapped s0).hbm 0x60000 half,
                   slots := (List.range 63).map (fun i => (i, { slotOf0 with queue := 100 + i })) }
def hqs (k : Pending) : State × Warp × Flight :=
  let f := { fl k 0 with writes := [.q 6 false], acc := [] }
  let x := { x0 with flights := [f] }
  ({ mapped (withWarp x) with slots := [(63, slotOf0)], queues := [(5, 0x60000)] }, x, f)
theorem witness_QueueSlots :
    (slotOfQueue shadowed 5 = none ∧ (List.range 64).find? (fun i => (mfind shadowed.slots i).isNone) = some 63 ∧
      (shadowHalf shadowed 5).any (fun h => (let u := forwardRead shadowed none h.1 64
        let k := queueFromHalves u 5 h.2
        let v := unitTouch u k.asid k.user 64
        shadowOk v h.2 && (vRead v k.asid k.user 64).isSome && decide (k.rd ≤ k.wr) && decide (k.wr - k.rd ≤ 2 ^ k.lgsize))) = true) ∧
    (let k := { slotOf0 with expired := true }
     let s := { shadowed with slots := [(63, k)], clk := 1750 }
     slotOfQueue s 5 = some (63, k) ∧ k.expired = true ∧ k.loaded + 1000 * k.slice ≤ s.gtime) ∧
    (let h := hqs (.launch false 0x70000)
     h.1.msgs = [] ∧ h.1.warps = [(0, h.2.1)] ∧ h.2.1.flights = [h.2.2] ∧ h.2.2.kind = .launch false 0x70000 ∧ h.2.2.writes = [.q 6 false] ∧
     h.2.2.due ≤ h.1.clk ∧ h.2.1.storeq = [] ∧ h.2.1.unacked = [] ∧ h.2.1.holds = [] ∧ h.2.1.tmode.getLsbD 4 = false ∧
     ¬(64 ≤ (h.1.die 0).launchq.length ∨ (false = true ∧ freePlanSlot h.1 = none)) ∧
     (let b : List Byte := [4, 0, 0, 0, 0, 0, 0, 0] ++ leBytes 8 0x80000 ++ List.replicate 48 0
      field b 0 1 = 4 ∧ (cmdEvent (launchQueue 0 0) b).any (cmdAddrs h.1 0) = true)) ∧
    (let h := hqs (.enq 0x40000 0x70000)
     h.1.msgs = [] ∧ mfind h.1.warps 0 = some h.2.1 ∧ h.2.1.flights.find? (fun g => g.seq == h.2.2.seq) = some h.2.2 ∧
     queueByUser h.1 h.2.1.asid 0x40000 = some slotOf0 ∧ (vRead h.1 h.2.1.asid 0x70000 64) = some (List.replicate 64 0) ∧
     ¬(slotOf0.state ≠ 1 ∨ slotOf0.devfed = false ∨ slotOf0.cmds.testBit 0 = false ∨ 2 ^ slotOf0.lgsize ≤ slotOf0.wr - slotOf0.rd) ∧
     (vWrite h.1 0 (slotOf0.base + 64 * (slotOf0.wr % 2 ^ slotOf0.lgsize)) (List.replicate 64 0)).isSome = true) := by
  decide +kernel

/-- A stage entry: code at 0x10000, one core of die 0, one warp of 32 and 32 registers, operand store 64, 64 and 384 KiB,
a completion word where `cword` says. -/
def stageBytes (cword : Nat) : List Byte :=
  leBytes 8 0x10000 ++ leBytes 8 0 ++ leBytes 8 0x10000 ++ leBytes 8 0 ++ leBytes 8 0 ++ leBytes 4 0 ++ leBytes 2 1 ++ leBytes 2 1 ++
    leBytes 2 1 ++ [1, 0] ++ leBytes 2 32 ++ leBytes 2 32 ++ [16, 16, 96, 0, 1, 0] ++ leBytes 2 0 ++ leBytes 8 cword ++ List.replicate 56 0
/-- A plan record of that stage at 0x80000, its stage entry as a single one at 0x90000. -/
def planned : State :=
  { mapped s0 with
    slots := [(63, slotOf0)]
    hbm := memWrite (memWrite (mapped s0).hbm 0x80000 ([1, 0] ++ List.replicate 14 0 ++ leBytes 8 0xA0000 ++ List.replicate 104 0 ++ stageBytes 0))
      0x90000 (stageBytes 0xA0008) }
def isOk (r : PlanRead) : Bool :=
  match r with
  | .ok _ gs ps => gs.length == 1 && ps.isEmpty
  | _ => false
/-- The stage before it has cores, and the plan in a state. -/
def gs0 : Stage := stageOf (stageBytes 0) []
def plIn (st : PlanState) (g : Stage) : Plan := { pl0 with state := st, stages := [g], addr := 0x80000 }
def inSlot (p : Plan) : State := { planned with warps := [], plans := [(255, p)] }
/-- Two stages with a full pipe between them: the second asks, the first can give one of its two cores. -/
def moving : Plan :=
  { pl0 with stages := [{ gs0 with cores := [0, 1] }, { gs0 with cores := [2], cmax := 2 }],
             pipes := [(0, { pq with dst := 1, nextC := 0, entries := [pe 1, { pe 1 with seq := 1, slot := 1 }] }), (1, { pq with src := 1, dst := 0 })] }
theorem witness_PlanLife :
    (isOk (readPlan (recordTouch planned 0 0x80000) 5 (queueAsid planned 5) 0x80000 true) = true ∧ queueAsid planned 5 = 0 ∧
      freePlanSlot planned = some 0 ∧
      (let u := unitTouch planned 0 0x90000 128
       featBit u 5 0 = true ∧
       (match readStage u (queueAsid planned 5) 0x90000 true with
       | some (g, ok, cword) => ok && cword == 0xA0008 && decide (g.cmin ≤ dieCores u g)
       | none => false) = true)) ∧
    (let pl := plIn .stopped gs0
     let s := inSlot pl
     let u := recordTouch s (queueAsid s 5) 0x80000
     isOk (readPlan u 5 (queueAsid s 5) 0x80000 false) = true ∧ featBit u 5 1 = true ∧
     restartRefused u 5 (queueAsid s 5) 0x80000 = none ∧
     (stoppedPlan s (queueAsid s 5) 0x80000).map (·.1) = some 255 ∧
     pl.stages.length = 1 ∧ pl.pipes.length = 0) ∧
    (let s := inSlot (plIn .waitCores gs0)
     nextWaiting s = some (255, plIn .waitCores gs0) ∧ saveRoom s 0 (gs0.cinit * (launchedIdx gs0).length) = true ∧ pickAll s [gs0] [] = some [[[0]]] ∧ 0 < gs0.warps ∧ 0 < partHold gs0.vregs) ∧
    (mfind (inSlot (plIn .running { gs0 with cores := [0] })).plans 255 = some (plIn .running { gs0 with cores := [0] }) ∧
      (inSlot (plIn .running { gs0 with cores := [0] })).saved = []) ∧
    (∀ st ∈ [PlanState.stopping, .ending, .running], let s := inSlot (plIn st { gs0 with cores := [0] })
     planWarps s 255 = [] ∧ coreIdle s 0 = true ∧ stageWarps s 255 0 = [] ∧ chestsOf s [0] = []) ∧
    (decklePick moving = some (1, 0) ∧ moving.move = none ∧ moving.state = .running ∧
      moving.epochAt ≤ (inSlot moving).gtime) ∧
    (let pl := { moving with move := some (0, 1, [1]) }
     let s := inSlot pl
     mfind s.plans 255 = some pl ∧ saveRoom s pl.asid ([1].length * (launchedIdx { gs0 with cores := [2], cmax := 2 }).length) = true ∧
     (∀ e ∈ s.warps, coreOf e.1 ∉ [1]) ∧ (∀ v ∈ s.saved, coreOf v.src ∉ [1]) ∧ chestsOf s [1] = [] ∧
     coreIdle s 1 = true) := by decide +kernel

def rec0 : Record := ⟨3, 0x10000, [], none, 0, 0, false, false, false, 0, 0, 0, ⟨0, 0, true, []⟩, none⟩
def chested (r : Record) : State := { mapped s0 with clk := 512, cores := [(0, { Core.fresh with chest := [r] })] }
theorem witness_RecordsAndFormation :
    (∀ r ∈ [rec0, { rec0 with eligible := true, armed := some 0x20000 }], findRecord (chested r) 3 = some r ∧
      (∀ a ∈ allRecords (chested r), a.id = 3 → a = r) ∧ r.ready = false ∧ r.regd = false ∧ (r.wait.look (chested r)).isDone (chested r) = true) ∧
    (chested rec0).msgs = [] ∧ counterKey (chested rec0) { rec0 with armed := some 0x20000 } = some 0x20000 ∧
    (let g := { gs0 with ring := [rec0], cores := [0] }
     let s := inSlot (plIn .running g)
     s.stage? 255 0 = some g ∧ (sortBy id g.cores).find? (fun c => !(s.core c).revoked && decide ((s.core c).chest.length < 512)) = some 0) ∧
    (let r := { rec0 with ready := true, readyClk := 0 }
     let g := { gs0 with cores := [0] }
     let s := { inSlot (plIn .running g) with clk := 512, cores := [(0, { Core.fresh with chest := [r], owner := some (255, 0) })] }
     fillBins (s.core 0) = [(0, ⟨0x10000, [r]⟩)] ∧ binEligible s ⟨0x10000, [r]⟩ = true ∧ (s.core 0).owner = some (255, 0) ∧
     (s.core 0).revoked = false ∧ (plIn .running g).state = .running ∧ saveRoom s (plIn .running g).asid 1 = true ∧
     (List.range 8).findSome? (fun q => if partRoom s 0 q g.vregs then (freeSlot s 0 q).map (fun k => 0 * 128 + q * 16 + k) else none) = some 0) ∧
    (let r := { rec0 with ready := true }
     let s := { chested r with cores := [(0, { Core.fresh with bins := [(15, ⟨0x10000, [r]⟩)] })] }
     mfind (s.core 0).bins 15 = some ⟨0x10000, [r]⟩ ∧ binEligible s ⟨0x10000, [r]⟩ = true) := by decide +kernel

/-- A warp in the last slot of the package. -/
def lastWarp (x : Warp) : State := { mapped s0 with warps := [(49151, x)], issue := none }
def sv0 : Saved := { id := 8, src := 0, warp := { x0 with nv := 1, ns := 1, saveArea := 0x20000 }, record := [], stopped := false }
theorem witness_WarpTransitions :
    (let x := { x0 with exited := 0xFFFFFFFF, active := 0, holds := [.retire] }
     mfind (lastWarp x).warps 49151 = some x ∧ x.storeq = [] ∧ x.unacked = [] ∧ x.tokens = [] ∧ x.flights = [] ∧ x.sfq = []) ∧
    (let x := { x0 with preemptReq := true }
     x.preRep = none ∧ x.termReq = false ∧ x.captured = false ∧ x.tmode = 0 ∧ x.storeq = [] ∧ x.holds = [] ∧ x.pend = [] ∧
     x.sfq = [] ∧ x.flights = [] ∧ x.unacked = [] ∧ x.holds.any Hold.isArrive = false ∧ (lastWarp x).msgs = [] ∧ wouldFuse (lastWarp x) 49151 = false) ∧
    (let x := { x0 with captured := true }
     let s := (lastWarp x).modDie 3 (fun d => { d with duties := [(2, 1)] })
     mfind s.warps 49151 = some x ∧ dutyOwned s (dieOf 49151) 2 = true ∧ undelivered s 2 49151 = false ∧
     x.holds.any Hold.isReturn = false ∧ x.trapbase ≠ 0 ∧
     ((x.trapbase.toNat : Int) - x.codeBase) % 12 = 0 ∧ capturing (s.core (coreOf 49151)).dbg = false ∧ x.groupList = []) ∧
    (let x := { x0 with tmode := 2, nopreEnd := 0 }
     x.tmode.getLsbD 1 = true ∧ x.nopreEnd ≤ (lastWarp x).clk) ∧
    (let x := { x0 with tmode := 1 }
     x.tmode.getLsbD 0 = true ∧ x.tmode.getLsbD 3 = false) ∧
    (let s := { lastWarp x0 with saved := [sv0], cores := [(0, { Core.fresh with owner := some (0, 0) })] }
     s.saved.find? (fun v => v.id == 8) = some sv0 ∧ s.msgs = [] ∧ mayResume s sv0 1 = true ∧
     (vRead s 0 0x20000 (saveBytes 1 1)).any (fun b => field b 0x1C2 1 == 0 && field b 0x18C 4 / 65536 % 256 == 0) = true) ∧
    (let x := { x0 with holds := [.fenceSc 3 7 true none] }
     (lastWarp x).warps = [(49151, x)] ∧ x.holds = [.fenceSc 3 7 true none]) := by decide +kernel

theorem witness_Fabric :
    (let s := (mapped s0).modDie 0 (fun d => { d with resetting := true })
     ((mapped s0).die 0).up = true ∧ ((mapped s0).die 0).resetting = false ∧ (∀ e ∈ (mapped s0).cores, e.2.sumq = []) ∧
     (∀ e ∈ (mapped s0).cores, dieOfCore e.1 ≠ 0 → e.2.tce = []) ∧
     (s.die 0).resetting = true ∧ (∀ e ∈ s.cores, dieOfCore e.1 = 0 → e.2.owner = none) ∧
     (∀ p ∈ s.plans, p.2.state ≠ .running) ∧ mfind { s with warps := [] }.warps 0 = none) ∧
    (mget s0.d2d (linkKey 3 0) 0 = 0 ∧ (s0.die 0).events.length < 255) ∧
    (let s := { s0 with d2d := [(linkKey 3 0, 2)], clk := 17500000 }
     mget s.d2d (linkKey 3 0) 0 = 0 + 2 ∧ 0 + 10000000 ≤ s.gtime ∧ { s with clk := 0 }.gtime < 0 + 10000000) ∧
    (let p : UaPort := ⟨9, [(7, false)], 0, false⟩
     let s := { s0 with ports := [(15, p)] }
     15 < 4 * s.nDies ∧ mfind s.ports 15 = some p ∧ p.off = false ∧ (7, false) ∈ p.replay ∧ 7 ≤ 7 ∧ 7 ∈ [7]) ∧
    (s0.msgs = [] ∧ rangeStalls s0 (2 ^ 39 - 256) 256 = false ∧ overfull s0 ((2 ^ 39 - 256) / 128) 1 = [] ∧ (2 ^ 39 - 256) + 256 ≤ 2 ^ 39 ∧ 0 < 256) ∧
    (let p := { fetchPage s0 with dev := 1 }
     let f := fl (.load .global 4 false) 0x10000
     let g := { fl (.launch false 0) 0 with seq := 6 }
     let x := { x0 with flights := [f, g] }
     let s := { withWarp x with cores := [(0, { Core.fresh with tlb := [p] })] }
     1 ≠ s.device ∧ s.warps = [(0, x)] ∧ g.kind.reads = false ∧ captureWaits s 0 x = true ∧ (∀ m ∈ s.msgs, m.body.key / 2 ^ 54 ≠ 1 + 1) ∧
     x.pend.any (fun q => q.entry == some f.seq) = false ∧ accOn s 0 x 1 f.acc = some ⟨31, 0x10000, []⟩ ∧
     (∀ e ∈ s.cores, e.2.tce = [] ∧ e.2.sumq = []) ∧ s.plans = []) ∧
    (let r : SfRec := ⟨0x10000, 1, 0, false⟩
     let m : Msg := ⟨4, 0, .through (2 ^ 55) [1], some (5, r), none⟩
     let s := { withWarp { x0 with unacked := [4] } with msgs := [m] }
     s.msgs = [m] ∧ m.warp = 0 ∧ m.body.key / 2 ^ 54 = 1 + 1 ∧ m.fault = some (5, r)) ∧
    (let q := { pq with remote := some (1, true) }
     let s := { withPipe x0 q with warps := [], plans := [(0, { pl0 with pipes := [(63, q)] })] }
     s.warps = [] ∧ s.msgs = [] ∧ s.plans = [(0, { pl0 with pipes := [(63, q)] })]) ∧
    (let s := { (mapped s0).modDie 3 (fun d => { d with up := true, mstate := 8 }) with
       ueWins := [(0, 0x20000, 64, true, true)], clk := 17500000, master := 1, lastTime := 0 }
     uePort s 3 = true ∧ uePort s 4 = false ∧ vaStalls s 0 0x20020 32 needW = false ∧ vaStalls s 0 0x20020 32 needR = false ∧ s.msgs = [] ∧
     { s with clk := 0 }.gtime < 0 + 10000000 ∧ inWindow s 0 0x20020 32 true = true ∧ inWindow s 0 0x20021 32 true = false ∧ inWindow s 0 0x20020 32 false = true ∧
     (xlateNow (unitWalk s 0 0x20020 32) 0 0x20020 needW).isSome = true ∧ 0x20020 % 65536 + 32 ≤ 65536 ∧ (vRead s 0 0x20020 32).isSome = true ∧
     s.leads = false ∧ s.lastTime + 10000000 ≤ s.gtime ∧
     s.masterTime + 1000000 ≤ s.gtime ∧ ({ s with locked := true } : State).locked = true ∧ s.locked = false ∧ 0 ≠ s.master) ∧
    (mfind s0.silent 1 = none ∧ (let s := { s0 with silent := [(1, 0)] }
      1 ≠ s.device ∧ s.gtime < unreachableAt s 1) ∧
     (let s := (mapped s0).modDie 0 (fun d => { d with resetting := true, slices := 63 })
      (s.die 0).slices < 64 ∧ (s.die 0).up = true) ∧ (Die.fresh).slices = 64) :=
  ⟨by decide +kernel, by decide +kernel, by decide +kernel, by decide +kernel, by decide +kernel, by decide +kernel, by decide +kernel,
    by decide +kernel, by decide +kernel, by decide +kernel⟩

/-- A pipe job of a 1 by 64 tile at 0x20000, a window job beside it, and die 0 with a ring of them. -/
def jobBytes (mode : Byte) : List Byte :=
  leBytes 8 0 ++ leBytes 8 0 ++ [0, mode, 2, 1] ++ leBytes 2 1 ++ leBytes 2 64 ++ leBytes 4 0 ++ [0, 63, 0, 0, 0, 0, 15, 0] ++ List.replicate 4 0 ++
    leBytes 4 0 ++ leBytes 4 192 ++ leBytes 4 4096 ++ List.replicate 76 0
def jobs (mode : Byte) (q : PipeSt) : State :=
  let s := { mapped (withGroup xp) with plans := [(0, { pl0 with pipes := [(63, q)] })] }
  { s with
    cores := [(0, { Core.fresh with owner := some (0, 0) })]
    hbm := memWrite (memWrite s.hbm 0x20000 (jobBytes mode)) 0x30000 (leBytes 8 0x20000 ++ [2])
    dies := mmod s.dies 0 (fun d => { d with rings := [(15, ⟨0, 0x30000, 1⟩)], decs := [] }) }
theorem witness_VideoDecoders :
    (let s := (mapped s0).modDie 0 (fun d => { d with duties := [(3, 1)] })
     dutyOwned s 0 3 = true ∧ (s.space 0).isSome = true ∧ (List.range 16).find? (fun i => (mfind (s.die 0).rings i).isNone) = some 0) ∧
    (∀ mode ∈ [(0 : Byte), 1, 2], let s := jobs mode pq
     mfind (s.die 0).decs 3 = none ∧ (s.die 0).up = true ∧ (s.die 0).resetting = false ∧ (s.die 0).rings = [(15, ⟨0, 0x30000, 1⟩)] ∧
     ringJob s ⟨0, 0x30000, 1⟩ = some (0, 0x20000) ∧ (vRead s 0 0x30010 8).isSome = true ∧
     (let u := (vWriteD (unitTouch (unitTouch s 0 0x30000 32) 0 0x20000 128) 0 0x30018 (leBytes 8 1)).modDie 0
        (fun d => { d with decNext := 0 })
      (vRead u 0 0x20000 128).any (fun b => jobOk u 0 0 b == (mode != 2) && field b 17 1 == mode.toNat) = true ∧
      (mode ≠ 1 ∨ (jobGroup u 0 0 (jobBytes 1) = some 3 ∧ mfind u.groups 3 = some g3)))) := by decide +kernel
theorem witness_VideoFrames :
    (let d : Decoder := ⟨0x20000, 0, 15, 0, 0, none, 1, 0, 0, false, 0, [], 0⟩
     let b := jobBytes 0
     let pic : Picture := ⟨64, 2, 8, [List.replicate 128 200]⟩
     let note : FrameNote := ⟨0, true, false, [], 0, true, 0, 61, 420⟩
     let src := decSource 0 3
     let at_ := fun (d : Decoder) (q : PipeSt) => (jobs 0 q).modDie 0 (fun x => { x with decs := [(3, d)] })
     let held := fun (k : Nat) => { pe 0 with seq := k, slot := k, holder := src }
     let q := { pq with nextP := 0 }
     (pictureTiles b pic).length = 2 ∧ (pictureTiles b ⟨64, 3, 8, [[]]⟩).length = 3 ∧ pictureTiles b ⟨64, 0, 8, [[]]⟩ = [] ∧
     2 ≤ field (b.set 19 3) 19 1 ∧ field b 19 1 < 2 ∧ field b 20 2 = 1 ∧ field b 22 2 = 64 ∧
     (∀ p ∈ [(d, q), (d, { q with ops := [{ po 0 none with warp := src }] }), (d, { q with entries := [held 0, held 1] }),
        ({ d with shown := 7, next := 9, tiles := 2, poison := [3], told := 8 }, q)], let s := at_ p.1 p.2
       mfind (s.die 0).decs 3 = some p.1 ∧ (vRead s p.1.asid p.1.job 128) = some b ∧ field b 24 4 = 0 ∧
       p.1.arrive = none ∧ jobPipe s b = some p.2 ∧ 2 ≤ p.2.depth ∧ p.2.pClosed = false ∧
       p.2.cClosed = false ∧ (p.2.entries.map (·.seq)).Nodup ∧ p.1.shown + 1 ≠ field b 24 4) ∧
     (let f := Event.decoderFrameComplete 0 3 pic note
      frameHeld (at_ d q) 0 3 = false ∧ frameHeld { at_ d q with agenda := [(9, f)] } 0 3 = true) ∧
     (note.num = d.next ∧ note.num < ({ d with next := 1 } : Decoder).next ∧ d.next < ({ note with num := 1 } : FrameNote).num ∧
       note.shown = true ∧ ({ note with shown := false } : FrameNote).shown = false) ∧
     framePoisoned d pic note = false ∧ framePoisoned { d with next := 9, poison := [3] } pic { note with refs := [3] } = true ∧
     badHeader d { pic with depth := 12 } note = true ∧ badHeader { d with badHdr := true } pic { note with key := false } = true ∧
     frameWaits q src = false ∧ frameWaits { q with ops := [{ po 0 none with warp := src }] } src = true ∧
     (frameSlots q src).length < 2 ∧ 2 ≤ (frameSlots { q with entries := [held 0, held 1] } src).length ∧ q.depth < 3) := by decide +kernel
theorem witness_VideoWindow :
    (let d : Decoder := ⟨0x20000, 0, 15, 1, 0, some (3, 15, 0), 2, 1, 1, false, 0, [], 0⟩
     let s := (jobs 1 { pq with cClosed := true }).modDie 0 (fun x => { x with decs := [(3, d)] })
     d.arrive = some (3, 15, 0) ∧ mfind s.groups 3 = some g3 ∧ (vRead s 0 0x20000 128) = some (jobBytes 1) ∧ field (jobBytes 1) 17 1 ≠ 0 ∧
     d.shown < d.told ∧ ({ d with told := 1 } : Decoder).told ≤ d.shown ∧ d.shown + 1 ≠ field (jobBytes 1) 24 4 ∧
     2 * 1 * jobTile (jobBytes 1) ≤ field (jobBytes 1) 44 4) := by decide +kernel
theorem witness_VideoArrival :
    (let d : Decoder := ⟨0x20000, 0, 15, 0, 0, some (3, 15, 0), 1, 0, 1, false, 0, [], 0⟩
     let g := { g3 with arrived := [(15, [0])] }
     let x := { Die.fresh with decs := [(3, d)] }
     let s := { withWarp xp with groups := [(3, g)], dies := [(0, x)] }
     s.dies = [(0, x)] ∧ x.decs = [(3, d)] ∧ mfind s.groups 3 = some g ∧ g.members ≠ [] ∧ (∀ m ∈ g.members, m ∈ mget g.arrived 15 []) ∧
     mget g.engines (16 * mget g.phases 15 0 + 15) 0 = 0 ∧ 0 + d.told = mget g.phases 15 0 + 1) := by decide +kernel

def dbg (d : DebugBlock) (x : Warp) : State := { withWarp x with cores := [(0, { Core.fresh with dbg := d })], clk := 8 }
theorem witness_DebugBlocks :
    (let s := dbg { DebugBlock.fresh with slot := 127, size := 1 } { x0 with lastIssue := 7, issued := 1 }
     ((List.range 128).map (fun i => ((s.core 0).dbg.slot + i) % 128)).find? (fun i => (mfind s.warps (128 * 0 + i)).isSome) = some 0 ∧
     ((List.range 32).map (fun j => (mget (s.core 0).dbg.lanes 0 0 + j) % 32)).find? (fun l => !x0.exited.getLsbD l) = some 0 ∧
     (s.core 0).dbg.size ≠ 0) ∧
    (let s := dbg { DebugBlock.fresh with trig := .armed, start := .gtimeAt 4 } x0
     (s.core 0).dbg.trig = .armed ∧ condHolds s (s.core 0).dbg false (.gtimeAt 4) = true) ∧
    (let s := dbg { DebugBlock.fresh with trig := .capturing, stop := .request, reqStop := true } x0
     (s.core 0).dbg.trig = .capturing ∧ condHolds s (s.core 0).dbg (s.core 0).dbg.reqStop .request = true) ∧
    (let s := dbg { DebugBlock.fresh with stops := [(3, ⟨0, 31, 0x10000⟩)] } x0
     stoppedLanes s 0 x0 ≠ 0 ∧ stoppedLanes s0 0 x0 = 0) ∧
    (s0.fallen = [] ∧ s0.msgs = [] ∧ (∀ f ∈ { s0 with fallen := [(0, 0, 1, 0, [])] }.fallen, dutyOwned s0 (dieOf f.2.1) 2 = false) ∧ spaceStill s0 0 = false ∧ spaceStill { s0 with stopped := [0], warps := [] } 0 = true) := by decide +kernel

/-- Warp 0 asks for service `k` with arguments, the duty has an owner, its completion stands in both copies. -/
def asks (k : Nat) (args : List Word) : State :=
  let s := { mapped (withWarp { x0 with svc := [⟨k, 7, args, ⟨0, 0, true, []⟩⟩] }) with
             pairs := [(0, { Pair.fresh .active with journal := [⟨5, [7], true, false⟩] })], pool := [0x500, 0x501, 0x502] }
  s.modDie 0 (fun d => { d with duties := [(2, 1)] })
theorem recorded_asks (k : Nat) (args : List Word) : Recorded (asks k args) 0 2 5 [7] :=
  ⟨0, ⟨5, [7], true, false⟩, rfl, rfl, rfl⟩
theorem witness_Services :
    (∀ k ∈ [1, 2, 16, 17, 32, 33], let s := asks k [0, 0, 0x40000000, 0, 1, 0]
      svcReady s 0 ⟨k, 7, [0, 0, 0x40000000, 0, 1, 0], ⟨0, 0, true, []⟩⟩ = true ∧ svcDie s 0 = 0 ∧ svcReq s 0 (· == k) = some ⟨k, 7, [0, 0, 0x40000000, 0, 1, 0], ⟨0, 0, true, []⟩⟩) ∧
    (∀ k args, Recorded (asks k args) 0 2 5 [7]) ∧
    (let s := asks 1 [0, 0, 0x20000, 0, 0, 0]
     let u := unitTouch (marked s 0 2 5 [7]) 0 0x20000 32
     keyAsid s 0 = 0 ∧ (vRead u 0 0x20000 32).any (fun n => (vWrite u 0 0x20000 (attestReport u 0 n)).isSome) = true) ∧
    (let s := asks 1 [0, 0, 0x40000000, 0, 0, 0]
     (vRead (unitTouch (marked s 0 2 5 [7]) 0 0x40000000 32) 0 0x40000000 32).isNone = true) ∧
    (let s := asks 17 [0, 0, 0x40000000, 0, 1, 0]
     (∀ e ∈ leavesOf s (keyAsid s 0) 0x40000000 1, stuckIn s e = false) ∧
     (leavesOf s (keyAsid s 0) 0x10000 1).any (fun e => decide (e.base < 0x10000)) = true) ∧
    (let s := asks 17 [0, 0, 0x40000000, 0, 1, 0]
     (mapPages s 0x1000000 0x40000000 (leafBits 0) 1).any (fun v => (leavesOf v 0 0x40000000 1).map (fun e => (e.base, e.size)) == [(0x40000000, 65536)]) = true) ∧
    (let s := { asks 17 [0, 0, 0, 0, 1, 0] with msgs := [⟨9, 0, .through 0x1000 [1], none, none⟩] }
     let r := s.modDie (homeDie s 0x1000) (fun d => { d with resetting := true })
     ((leavesOf r (keyAsid r 0) 0 1).any (stuckIn r)) = true) ∧
    (let d := (asks 16 []).space 0
     d.any (fun d => decide (0x1FFF0000 < d.saveBase + d.saveLen) && decide (d.saveBase < 0x1FFF0000 + 65536 * 2)) = true) ∧
    (let s := asks 16 [0, 0, 0x40000000, 0, 1, 0]
     argAddr [0, 0, 0x40000000, 0, 1, 0] 2 = 0x40000000 ∧ 0x40000000 % 65536 = 0 ∧ (s.space (keyAsid s 0)).isSome = true ∧
     (match walkAll s 0 0x40000000 with
     | .invalid => true
     | _ => false) = true ∧ (mapPages s 0x1000000 0x40000000 (leafBits 0) 1).isSome = true) ∧
    (let s := { asks 2 [] with stopped := [0], warps := mmod (asks 2 []).warps 0 (fun x => { x with captured := true }) }
     spaceStill s (keyAsid s 0) = true ∧ svcReady s 0 ⟨2, 7, [], ⟨0, 0, true, []⟩⟩ = true) ∧
    (svcReady (withWarp { x0 with svc := [⟨1, 7, [], ⟨0, 0, true, []⟩⟩] }) 0 ⟨1, 7, [], ⟨0, 0, true, []⟩⟩ = false ∧
      svcReq (withWarp { x0 with svc := [⟨1, 7, [], ⟨0, 0, true, []⟩⟩] }) 0 (· == 1) = some ⟨1, 7, [], ⟨0, 0, true, []⟩⟩) := by
  refine ⟨by decide +kernel, recorded_asks, ?_⟩
  decide +kernel

theorem witness_ManagementRequests :
    (let s := s0.modDie 0 (fun d => { d with duties := [(2, 1), (3, 1)], mstate := 8 })
     dutyOwned s 0 3 = true ∧ dutyOwned s 0 2 = true ∧ stepOf (s.die 0) = 8 ∧ dutyOwned s0 0 3 = false ∧ dutyOwned s0 3 2 = false ∧ 7 ≤ stepOf (s.die 0) ∧ stepOf (s0.die 0) < 7 ∧ s.msgs = [] ∧ mget (s0.die 0).duties 3 0 = 0 ∧
     mget (s.die 0).duties 3 0 = 0 + 1 ∧ (mfind s.pairs 0).isSome = true ∧ (s.pair 0).journal.find? (isRecord 1 [254]) = none ∧ (s.space 4095).isNone = true) ∧
    (∀ kind args, Recorded ({ s0 with pairs := [(0, { Pair.fresh .active with journal := [⟨kind, args, true, false⟩] })] }.modDie 0
      (fun d => { d with duties := [(3, 1)] })) 0 3 kind args) ∧
    (∀ kind args, Recorded ({ s0 with pairs := [(0, { Pair.fresh .active with journal := [⟨kind, args, true, false⟩] })] }.modDie 3
      (fun d => { d with duties := [(2, 1)] })) 3 2 kind args) ∧ 254 ≤ 254 ∧ 4095 < 4096 := by
  refine ⟨by decide +kernel, ?_, ?_, by decide, by decide⟩ <;> intro kind args <;>
    exact ⟨0, ⟨kind, args, true, false⟩, rfl, by simp [State.pair, State.modDie, mget, mfind, isRecord], rfl⟩

theorem witness_PairsAndRegisters :
    (mfind s0.pairs 0 = some (Pair.fresh .active) ∧ (Pair.fresh .active).state = .active ∧ (Pair.fresh .spare).state ≠ .active ∧
      (Pair.fresh .active).lastKick + 10000000 ≤ { s0 with clk := 17500000 }.gtime ∧ s0.gtime < (Pair.fresh .active).lastKick + 10000000) ∧
    (mfind s0.pairs 3 = some (Pair.fresh .spare) ∧ (Pair.fresh .spare).state = .spare ∧ (Pair.fresh .retired).state = .retired) ∧
    (let s := { s0 with cores := [(0, { Core.fresh with dbg := { DebugBlock.fresh with head := 3, read := 1, size := 2 } })] }
     s.msgs = [] ∧ (s.core 0).owner = none ∧ (s.core 0).dbg.read < min 2 (s.core 0).dbg.head ∧ min 1 (s.core 0).dbg.head ≤ (s.core 0).dbg.read) ∧
    (let x := { x0 with undo := some 0x20000, undoN := 1 }
     let s := mapped (withWarp x)
     mfind s.warps 0 = some x ∧ x0.undo = none ∧ s.msgs = [] ∧
     (vRead (unitTouch s 0 0x20000 160) 0 0x20000 160).isSome = true ∧
     (vRead (unitTouch s 0 0x40000000 160) 0 0x40000000 160).isNone = true) ∧
    (let r : JournalRec := ⟨6, [0, 2, 0], true, false⟩
     let p := { Pair.fresh .active with journal := [r] }
     p.state = .active ∧ p.journal.find? (isRecord 6 [0, 2, 0]) = some r ∧
     (Pair.fresh .active).journal.find? (isRecord 6 [0, 2, 0]) = none ∧ (s0.pair 3).state ≠ .active) ∧
    (let p := { Pair.fresh .failed with lost := [(0, 3), (0, 2)], orphan := true }
     let s := { s0 with pairs := mset s0.pairs 0 p }
     p.orphan = true ∧ successor s 0 = some 3 ∧ mfind s.pairs 3 = some (Pair.fresh .spare) ∧ 3 / 4 = 0 / 4 ∧ (s.pair 3).state = .spare ∧
     ∀ u ∈ p.lost, u.2 = 2 → (s.die u.1).toltarq = []) ∧
    (let p := { Pair.fresh .failed with selfTest := true }
     p.state = .failed ∧ p.selfTest = true) ∧
    (let p := { Pair.fresh .active with mode := .s }
     csrKnown 0x305 = true ∧ csrKnown 0x105 = true ∧ csrKnown 0x7FF = false ∧ svLevel p.mode < 0x305 / 256 % 4 ∧ 0xC01 / 1024 = 3 ∧ 0x105 / 256 % 4 ≤ svLevel p.mode ∧ 0x105 / 1024 ≠ 3) ∧
    (((s0.core 0).mcpStat.getLsbD 0 = false) ∧ ((portState 0 none).core 0).mcpStat.getLsbD 0 = true) ∧
    mfind s0.warps 0 = some x0 ∧ (∀ q b, Recorded ({ s0 with pairs := [(0, { Pair.fresh .active with journal := [⟨2, q :: b, true, false⟩] })] }.modDie 0
      (fun d => { d with duties := [(1, 1)] })) 0 1 2 (q :: b)) := by
  refine ⟨by decide +kernel, by decide +kernel, by decide +kernel, by decide +kernel, by decide +kernel, by decide +kernel, by decide,
    by decide +kernel, by decide +kernel, rfl, ?_⟩
  intro q b
  exact ⟨0, ⟨2, q :: b, true, false⟩, rfl, by simp [State.pair, State.modDie, mget, mfind, isRecord], rfl⟩

/-- The board's side: a die before each of its steps. What a boot slot needs rests on fused keys, which are free. -/
theorem witness_BoardAndBringup :
    (stepOf (s0.die 3) = 0 ∧ stepOf ((s0.modDie 3 (fun d => { d with mstate := 8 })).die 3) ≠ 0) ∧
    (∀ n < 8, let d := { Die.fresh with mdevSet := true, up := decide (4 ≤ n), mstate := BitVec.ofNat 32 n }
     let s := { State.reset with pgood := true, dies := [(0, d), (1, d), (2, d), (3, d)] }
     s.pgood = true ∧ (s.die 0).mdevSet = true ∧ (s.die 3).mstate.getLsbD 4 = false ∧ stepOf (s.die 3) + 1 = n + 1 ∧
       (5 ≤ n + 1 → (s.die 3).up = true) ∧ (mfind s.dies 3).isSome = true ∧ (bootChoice s).isNone = true) ∧
    (s0.die 3).thermal = false ∧ 3 < s0.nDies ∧ (s0.die 3).events.length < 255 ∧
    (let s := s0.modDie 3 (fun d => { d with events := List.replicate 255 1 })
     255 ≤ (s.die 3).events.length ∧ (s.die 3).events.length < 256) := by decide +kernel

/-- The words of IADD in its long and its short form where the next step fetches. -/
def placed : State := State.reset.withFetchWord 64 0x0000180070030102
/-- What the packet at the code base of a reset machine gives, by a test on its first word's instruction. -/
def packetWith (s : State) (p : Instr → Word → Bool) : Bool :=
  match fetchWords s 0 (packetStart fetchWarp 0x10000) 3 with
  | .ok (u :: rest) => u != 0 && !u.getLsbD 31 && (match decode u rest.head? with
      | .ok i => p i u
      | .error _ => false)
  | _ => false
theorem witness_StepRunsDecoded :
    ((0xFFF8 : Int) = fetchWarp.codeBase + 12 * (-1) + 4 * 1 ∧ 4 * 1 ≤ 0xFFF8 ∧ slotAt fetchWarp 0x10000 = 0) ∧
    packetWith placed (fun i _ => i == .iadd ⟨false, 3, 1, 2, 0, false, 3, false, 0, 0⟩ && !illegalHere placed 0 fetchWarp i &&
      !illegalValue fetchWarp i && !privBad fetchWarp i) = true ∧
    (let s := State.reset.withFetchWord 64 0x0303F8057A020104
     packetWith s (fun i _ => illegalHere s 0 fetchWarp i) = true) ∧
    (let s := State.reset.withFetchWord 64 (leNat (encodeBytes (.rett ⟨false, 0, 0, 0, 0, false, 7, false, 0, 0⟩)))
     packetWith s (fun i _ => !illegalHere s 0 fetchWarp i && !illegalValue fetchWarp i && privBad fetchWarp i) = true) ∧
    placed.pend = [] ∧ placed.agenda = [] ∧ placed.hartTurn = none ∧ placed.second = none ∧ placed.msgs = [] ∧
    (selectWarp placed).any (fun e => e.1 == 0 && mfind placed.warps 0 == some e.2.1 && (match primaryPath e.2.1 e.2.2 with
      | some (path, at0, .go [m] next) => path == 0xFFFFFFFF && at0 == 0x10000 && m.2.1 == at0 && next == 0x1000C
      | _ => false)) = true ∧
    (heldPacket { placed with cores := [(0, { Core.fresh with tlb := [fetchPage State.reset], icache := [((fetchPage State.reset).key State.reset 0x10000, [])] })] }
      0 fetchWarp 0x10000).isSome = true ∧
    (match fetchWords (State.reset.withFetchWord 32 0) 0 (packetStart fetchWarp 0x10008) 3 with
    | .ok ws => ws == [0, 0, 0]
    | _ => false) = true ∧
    (match fetchWords (State.reset.withFetchWord 32 0x80000000) 0 0x10000 3 with
    | .ok (u :: rest) => u == 0x80000000 && (decode u rest.head?).toOption == none
    | _ => false) = true ∧
    (s0.issue = some c0 ∧ s0.pend = [] ∧ (s0.warpD c0.warp).tmode.getLsbD 5 = false ∧ (s0.warpD c0.warp).preemptReq = false ∧
      (s0.warpD c0.warp).holds.any Hold.isReturn = false) ∧
    (let s := State.reset.withFetchWord 32 0x0031108B
     s.hartTurn = some 0 ∧ (s.pair 0).state = .active ∧ (s.pair 0).wait = none ∧ irqOf (s.pair 0) = none ∧
     (match hartFetch s (s.pair 0) with
     | .ok w => (decodeSupervisor w).toOption == some (.bfx ⟨1, 2, 3⟩)
     | .error _ => false) = true) ∧
    (let s := { State.reset with hartTurn := some 0, dies := [(0, { Die.fresh with sram := memWrite [] 0 (leBytes 4 0xFFF10093) })],
                                 pairs := [(0, { pr 0 0 with pc := 0x800000000000 })] }
     s.pend = [] ∧ s.agenda = [] ∧ (match hartFetch s (s.pair 0) with
     | .ok w => (decodeSupervisor w).toOption.isNone && w.extractLsb' 0 7 != 0x0B
     | .error _ => false) = true) ∧
    irqOf { pr 0 0 with csr := [(csrMie, 0x80), (csrMip, 0x80), (csrMstatus, 8)] } = some 7 ∧
    (match hartFetch { State.reset with hartTurn := some 0 } { pr 0 0 with mode := .s } with
    | .ok _ => false
    | .error e => e == (1, 0)) = true ∧
    (selectWarp State.reset).isNone = true ∧ (selectSkip State.reset).isNone = true := by decide +kernel
theorem witness_EncodeThenDecode :
    ((Instr.mloop ⟨false, 2, 1, 4, 7, true, 7, false, 0, 5⟩).wellFormed = true ∧ (Instr.bfx ⟨1, 2, 3⟩).wellFormed = true) ∧
    (∃ a b f, (info (.bfx ⟨1, 2, 3⟩)).enc = .rv a b f) ∧ ∀ f a b g, (info (.mloop f)).enc ≠ .rv a b g ∧ (info (.mloop f)).enc ≠ .event :=
  ⟨by decide, ⟨_, _, _, rfl⟩, fun _ _ _ _ => ⟨fun h => Enc.noConfusion h, fun h => Enc.noConfusion h⟩⟩
theorem witness_MeasuredKept : State.reset.Measured ∧ ∃ t, step State.reset = .next t := ⟨.inl rfl, _, rfl⟩

/-! Single steps. Expected values are worked out by hand from the rules named. -/

/-- What an instruction gives: a predicate on the next state. -/
def after (s : State) (i : Instr) (p : State → Bool) : Bool :=
  match exec i s with
  | .next t => p t
  | _ => false
/-- The values a result in flight carries for lane `l` of register `d`. -/
def flies (d l : Nat) (v : Word) (t : State) : Bool :=
  ((t.warpD 0).flights.getLast?).any (fun f => f.writes.any (fun w => match w with
    | .v r m vs => r == d && m.getLsbD l && vs.getD l 0 == v
    | .s r u => r == d && u == v
    | _ => false))
def fill (n : Nat) (v : Word) : Nat × LaneVec := (n, List.replicate 32 v)
def holding (l : NMap LaneVec) (m : NMap Word) : State := withWarp { x0 with vreg := l, sreg := m }

/-- R118's example: iadd.s8.sat of 0x70 and 0x12345620 is 127. -/
theorem test_iadd_s8_sat : after (holding [fill 3 0x70, fill 4 0x12345620] []) (.iadd { lf with d := 2, a := 3, b := 4, m := 0x34 })
    (flies 2 5 0x7F) = true := by decide +kernel
theorem test_iadd_s8_wraps : after (holding [fill 3 0x70, fill 4 0x12345620] []) (.iadd { lf with d := 2, a := 3, b := 4, m := 0x30 })
    (flies 2 5 0xFFFFFF90) = true := by decide +kernel
/-- R126's example of LEA. -/
theorem test_lea_z64 : after (holding [fill 22 0x1000, fill 23 2, fill 7 0x80000001] []) (.lea { lf with d := 20, a := 22, b := 7, m := 0x1B })
    (fun t => flies 20 0 0x1008 t && flies 21 0 6 t) = true := by decide +kernel
/-- R155's examples. -/
theorem test_prmt_move : after (holding [fill 1 0x11223344, fill 3 0x1032] []) (.prmt { lf with d := 2, a := 1, b := 4, t := 3 })
    (flies 2 31 0x33441122) = true := by decide +kernel
theorem test_prmt_sign : after (holding [fill 1 0x80017F80, fill 3 0xBA98] []) (.prmt { lf with d := 2, a := 1, b := 4, t := 3 })
    (flies 2 31 0xFF0000FF) = true := by decide +kernel
/-- R146's example: 500.0 converted to E4M3 with .sat into byte 2. -/
theorem test_cvt_e4m3_sat : after (holding [fill 3 0x11223344, fill 7 0x43FA0000] [])
    (.cvt { lf with d := 3, a := 7, b := 0xB8, m := 0x14 }) (flies 3 0 0x117E3344) = true := by decide +kernel
/-- R152's example: lanes 0 to 15 on one path, eight down: lane 7 gets lane 15's value, lane 8 keeps its own. -/
theorem test_shfl_down :
    let s := { withWarp { x0 with vreg := [(3, (List.range 32).map (BitVec.ofNat 32))], sreg := [(7, 8)] } with
               issue := some { c0 with path := 0xFFFF } }
    after s (.shfl { lf with d := 2, a := 3, b := 7, k := true, m := 2 }) (fun t => flies 2 7 15 t && flies 2 8 8 t && !flies 2 16 24 t) =
      true := by decide +kernel
/-- R139: 1.5 times 2 plus 0.25, and an exact cancellation rounded down gives a negative zero. -/
theorem test_ffma : after (holding [fill 1 0x3FC00000, fill 2 0x40000000, fill 3 0x3E800000] [])
    (.ffma { lf with d := 4, a := 1, b := 2, t := 3 }) (flies 4 0 0x40500000) = true := by decide +kernel
theorem test_fadd_rd_zero : after (holding [fill 1 0x3F800000, fill 2 0xBF800000] []) (.fadd { lf with d := 4, a := 1, b := 2, m := 3 })
    (flies 4 0 0x80000000) = true := by decide +kernel
/-- R142: FRND of -0.25 gives -0. -/
theorem test_frnd_sign : after (holding [fill 1 0xBE800000] []) (.frnd { lf with d := 4, a := 1 }) (flies 4 0 0x80000000) = true := by
  decide +kernel
/-- R119: a count past the width gives the sign. -/
theorem test_sar_past : after (holding [fill 1 0x80000000, fill 2 200] []) (.sar { lf with d := 4, a := 1, b := 2 })
    (flies 4 0 0xFFFFFFFF) = true := by decide +kernel
/-- R130: an arithmetic SSHR immediate of a negative value by 40. -/
theorem test_sshr_past : after (holding [] [(8, 0x80000000)]) (.sshrImm ⟨false, 8, 40, 0⟩) (flies 8 0 0xFFFFFFFF) = true := by decide +kernel
/-- R201: K = 1 takes bits [3:0] of the register. -/
theorem test_setpri : after (holding [] [(4, 0x1F)]) (.setpri { lf with b := 4, k := true }) (fun t => (t.warpD 0).prio == 15) = true := by
  decide +kernel
/-- R195: a branch one packet back. -/
theorem test_bra_back :
    let s := { withWarp { x0 with pc := List.replicate 32 0x10018 } with issue := some { c0 with pc := 0x1000C, next := 0x10018 } }
    after s (.braShort ⟨false, 7, false, 0xFFFFF⟩) (fun t => (t.warpD 0).pc.getD 9 0 == 0x10000) = true := by decide +kernel
/-- R406: a sign-extended field of a supervisor register. -/
theorem test_bfx :
    after (onHart { Pair.fresh .active with x := [(10, 0xF0), (11, 0x10404)] }) (.bfx ⟨5, 10, 11⟩)
      (fun t => (t.pair 0).get 5 == 0xFFFFFFFFFFFFFFFF && (t.pair 0).pc == 4) = true := by decide +kernel

end Sys2Proof.Tests
end

/-!
Residues and the shadow unit with the matrix control port (R65 to R69, R72, R363, R366, R419).
-/

namespace Sys2Proof.Proofs.Residues

open Sys2Proof.Machine

/-- The quadruple holds the residues of `v` modulo the three moduli and the check modulus (R65). -/
def Represents (a : Acc) (v : Int) : Prop :=
  (a.c1 : Int) = v % 65535 ∧ (a.c2 : Int) = v % 65536 ∧ (a.c3 : Int) = v % 65537 ∧ (a.c4 : Int) = v % 31

/-- The range of the numbers that three residues tell apart, [−M/2, M/2) (R65). -/
def Fits (v : Int) : Prop := -(2 ^ 47 - 2 ^ 15) ≤ v ∧ v < 2 ^ 47 - 2 ^ 15

/-- Crt48's weighted sum of three residues. -/
def crtSum (c1 c2 c3 : Int) : Int :=
  c1 * (65536 * 65537) * 32768 + c2 * (65535 * 65537) * 65535 + c3 * (65535 * 65536) * 32769

theorem crtM_eq : crtM = 281474976645120 := rfl

/-- Crt48 is the remainder of its weighted sum modulo M that is nearest to 0 (R65). -/
theorem crt48_eq_bmod (c1 c2 c3 : Nat) : crt48 c1 c2 c3 = (crtSum c1 c2 c3).bmod crtM := by
  have hcast : crtSum c1 c2 c3 =
      (c1 * (65536 * 65537) * 32768 + c2 * (65535 * 65537) * 65535 + c3 * (65535 * 65536) * 32769 : Nat) := by
    unfold crtSum
    omega
  simp only [crt48, hcast, Int.bmod_def, crtM_eq]
  generalize c1 * (65536 * 65537) * 32768 + c2 * (65535 * 65537) * 65535 + c3 * (65535 * 65536) * 32769 = n
  omega

/-- The weighted sum of a number's residues is the number modulo M: the weights, each 1 modulo its own modulus and 0 modulo the
others, sum to 2 M + 1, and each weight times its modulus is a multiple of M. -/
theorem crtSum_residues_emod (v : Int) : crtSum (v % 65535) (v % 65536) (v % 65537) % crtM = v % crtM := by
  have hsum : crtSum (v % 65535) (v % 65536) (v % 65537) =
      v + 281474976645120 * (2 * v - 32768 * (v / 65535) - 65535 * (v / 65536) - 32769 * (v / 65537)) := by
    have split1 := Int.emod_add_mul_ediv v 65535
    have split2 := Int.emod_add_mul_ediv v 65536
    have split3 := Int.emod_add_mul_ediv v 65537
    unfold crtSum
    omega
  rw [hsum, crtM_eq]
  exact Int.add_mul_emod_self_left ..

/-- A number in range is recovered from its residues (R65). -/
theorem crt48_residues {v : Int} (h : Fits v) : crt48 (v % 65535).toNat (v % 65536).toNat (v % 65537).toNat = v := by
  have nonneg (m : Int) (hm : 0 < m) : ((v % m).toNat : Int) = v % m := Int.toNat_of_nonneg (Int.emod_nonneg v (Int.ne_of_gt hm))
  rw [crt48_eq_bmod, nonneg _ (by decide), nonneg _ (by decide), nonneg _ (by decide), ← Int.emod_bmod,
    crtSum_residues_emod, Int.emod_bmod, crtM_eq]
  obtain ⟨hlo, hhi⟩ := h
  exact Int.bmod_eq_of_le (by omega) (by omega)

/-- Adding a contribution to every residue adds it to the number (R66). -/
theorem Represents.accAdd {a : Acc} {v : Int} (h : Represents a v) (p : Int) : Represents (accAdd a p) (v + p) := by
  obtain ⟨h1, h2, h3, h4⟩ := h
  have residue (m : Int) (hm : 0 < m) {c : Nat} (hc : (c : Int) = v % m) :
      ((((c : Int) + p) % m).toNat : Int) = (v + p) % m := by
    rw [Int.toNat_of_nonneg (Int.emod_nonneg _ (Int.ne_of_gt hm)), hc, Int.emod_add_emod]
  exact ⟨residue _ (by decide) h1, residue _ (by decide) h2, residue _ (by decide) h3, residue _ (by decide) h4⟩

/-- What a drain finds in the residues of a number in range: it, and no failed check but an earlier one (R68). -/
theorem Represents.accValue {a : Acc} {v : Int} (h : Represents a v) (hv : Fits v) : accValue a = (v, a.bad) := by
  obtain ⟨h1, h2, h3, h4⟩ := h
  have hx : crt48 a.c1 a.c2 a.c3 = v := by
    simpa [← h1, ← h2, ← h3] using crt48_residues hv
  have hc : (v % 31).toNat = a.c4 := by rw [← h4, Int.toNat_natCast]
  simp [Machine.accValue, hx, hc]

/-- A number times 2^0 rounds to itself. -/
@[simp] theorem roundInt_exp_zero (v : Int) : roundInt (decide (v < 0)) v.natAbs 0 = v := by
  have hq : (roundAt .rn (decide (v < 0)) v.natAbs 0 false 0).1 = v.natAbs := by simp [roundAt]
  simp only [roundInt, hq, decide_eq_true_eq]
  split <;> omega

/-- A number in the range of `n + 1` signed bits saturates to itself. -/
theorem satInt_signed_of_mem {n : Nat} {v : Int} (hlo : -(2 : Int) ^ n ≤ v) (hhi : v < 2 ^ n) :
    satInt (n + 1) true v = v := by
  simp only [satInt, intMin, intMax, Nat.add_sub_cancel, if_true]
  omega

/-- The low bits as the model takes them are those of the bit vector. -/
theorem truncInt_eq_toNat_ofInt (n : Nat) (v : Int) : truncInt n v = (BitVec.ofInt n v).toNat := by
  simp [truncInt, BitVec.toNat_ofInt]

/-- An integer drain at exponent 0 of a sound element that fits 32 bits gives the number and no MSTAT bit (R69). -/
theorem drainElem_int {a : Acc} {v : Int} (h : Represents a v) (hv : Fits v) (hpoison : a.poison = false)
    (hbad : a.bad = false) (hlo : -(2 ^ 31) ≤ v) (hhi : v < 2 ^ 31) :
    drainElem 2 0 a = ((BitVec.ofInt 32 v).toNat, 0) := by
  have hsat : satInt 32 true v = v := satInt_signed_of_mem hlo hhi
  simp [drainElem, h.accValue hv, hpoison, hbad, hsat, truncInt_eq_toNat_ofInt]

/-- Settles O35: Crt48's sum is the number modulo M, contributions add residue by residue, and a drain rounds at exponent 0. -/
theorem residueArithmetic : Obligations.ResidueArithmetic := by
  unfold Obligations.ResidueArithmetic
  exact ⟨fun _ => crt48_residues, fun _ _ p h => Represents.accAdd h p,
    fun _ _ h hv hpoison hbad hlo hhi => drainElem_int h hv hpoison hbad hlo hhi⟩

end Sys2Proof.Proofs.Residues

namespace Sys2Proof.Proofs.ControlPort

open Sys2Proof.Machine Sys2Proof.Claims Sys2Proof.Laws

/-! What a write or a read performed at the home leaves of the warps (R272, R292). -/

@[simp] theorem bumpVers_warps (s : State) (key n : Nat) : (bumpVers s key n).warps = s.warps :=
  foldl_keeps (f := fun t i => bumpVer t ((key / 32 + i) * 32)) State.warps (fun _ _ => rfl) _ s

@[simp] theorem dropReg_warps (s : State) (word c : Nat) (drop : Bool) : (dropReg s word c drop).warps = s.warps := rfl

@[simp] theorem evictLine_warps (s : State) (line : Nat) (ln : L2Line) : (evictLine s line ln).warps = s.warps := by
  rw [evictLine, bumpVers_warps]
  exact (foldl_keeps (f := fun t (ic : Nat × Nat) => dropReg t (line * 32 + ic.1) ic.2 true) State.warps
    (fun _ _ => rfl) _ _).trans rfl

@[simp] theorem l2Trim_warps (s : State) (line more : Nat) : (l2Trim s line more).warps = s.warps :=
  foldl_keeps (f := fun t (e : Nat × L2Line) => evictLine t e.1 e.2) State.warps (fun t e => evictLine_warps t e.1 e.2) _ s

@[simp] theorem l2Touch_warps (s : State) (line : Nat) : (l2Touch s line).warps = s.warps := by
  unfold l2Touch
  split
  · exact l2Trim_warps s line 1
  · rfl

@[simp] theorem homePut_warps (s : State) (key : Nat) (b : Byte) : (homePut s key b).warps = s.warps := by
  unfold homePut
  split
  · exact l2Touch_warps s (key / 128)
  · rfl

@[simp] theorem homePuts_warps (s : State) (key : Nat) (bs : List Byte) : (homePuts s key bs).warps = s.warps := by
  induction bs generalizing s key with
  | nil => rfl
  | cons b r ih => exact (ih _ _).trans (homePut_warps s key b)

@[simp] theorem writeBackWord_warps (s : State) (word : Nat) (drop : Bool) :
    (writeBackWord s word drop).warps = s.warps := by
  simp only [writeBackWord]
  split
  · rfl
  · rw [dropReg_warps]
    split <;> simp

@[simp] theorem recallWords_warps (s : State) (key n : Nat) : (recallWords s key n).warps = s.warps :=
  foldl_keeps (f := fun t i => writeBackWord t (key / 4 + i) true) State.warps (fun t _ => writeBackWord_warps t _ _) _ s

/-- A fold whose step changes nothing at the elements of the list changes nothing. -/
theorem foldl_of_mem_fixed {α β : Type} {f : α → β → α} {x : α} {l : List β} (h : ∀ b ∈ l, f x b = x) :
    l.foldl f x = x :=
  List.foldlRecOn l f (motive := (· = x)) rfl fun _ ht b hb => ht ▸ h b hb

/-- With no registration on its way there is none to handle before an access (R298). -/
theorem joinSector_of_noRegistration {s : State} (h : NoRegistration s) (c : Option Nat) (sector : Nat) :
    joinSector s c sector = s := by
  refine foldl_of_mem_fixed fun m hm => ?_
  split
  case h_1 word core hbody => exact absurd hbody (h m hm word core)
  case h_2 => rfl

theorem joinSectors_of_noRegistration {s : State} (h : NoRegistration s) (c : Option Nat) (key n : Nat) :
    joinSectors s c key n = s :=
  foldl_of_mem_fixed fun i _ => joinSector_of_noRegistration h c (key / 32 + i)

theorem homeWrite_warps {s : State} (h : NoRegistration s) (key : Nat) (bs : List Byte) :
    (homeWrite s key bs).warps = s.warps := by
  unfold homeWrite
  split
  · rfl
  · simp [joinSectors_of_noRegistration h]

theorem homeRead_warps {s : State} (h : NoRegistration s) (c : Option Nat) (key n : Nat) :
    (homeRead s c key n).2.warps = s.warps := by
  simp only [homeRead, l2Touch_warps, forwardRead, joinSectors_of_noRegistration h]
  refine foldl_keeps State.warps (fun t i => ?_) _ s
  repeat' split
  all_goals rfl

/-- With no message on its way there is no registration among them. -/
theorem noRegistration_of_msgs_nil {s : State} (h : s.msgs = []) : NoRegistration s := by
  simp [NoRegistration, h]

/-! The matrix control port's context and status (R363, R419). -/

theorem ctx_modCtx (s : State) (c n : Nat) (f : RmeCtx → RmeCtx) : (s.modCtx c n f).ctx c n = f (s.ctx c n) := by
  simp [State.ctx, State.modCtx]

@[simp] theorem mcpEnd_ctx (s : State) (c st d n : Nat) : (mcpEnd s c st).ctx d n = s.ctx d n := by
  by_cases h : d = c
  · subst h; simp [State.ctx, mcpEnd]
  · simp [State.ctx, mcpEnd, core_modCore_other s _ h]

@[simp] theorem mcpEnd_mcpStat (s : State) (c st : Nat) : ((mcpEnd s c st).core c).mcpStat = BitVec.ofNat 32 st := by
  simp [mcpEnd]

@[simp] theorem mcpEnd_warps (s : State) (c st : Nat) : (mcpEnd s c st).warps = s.warps := rfl
@[simp] theorem mcpEnd_hbm (s : State) (c st : Nat) : (mcpEnd s c st).hbm = s.hbm := rfl
@[simp] theorem mcpEnd_l2 (s : State) (c st : Nat) : (mcpEnd s c st).l2 = s.l2 := rfl

/-- A save under way in a context whose queue is empty (R363). -/
theorem exec_mcpSave {s : State} {c : Nat} (busy : (s.core c).mcpStat.getLsbD 0 = true)
    (save : (s.core c).mcpCmd.getLsbD 1 = false) (idle : (s.ctx c (mcpCtx (s.core c))).queue = []) :
    exec (.mcpSave c) s = .next (mcpEnd ((homeWrite s (s.core c).mcpAddr.toNat
      (ctxImage (s.ctx c (mcpCtx (s.core c))))).modCtx c (mcpCtx (s.core c)) (fun _ => RmeCtx.fresh)) c 2) := by
  change execMcpSave c s = _
  simp only [execMcpSave, busy, save, idle, List.isEmpty_nil, Bool.not_true, Bool.or_false, Bool.false_eq_true, if_false]

/-- A restore under way into an empty context (R363). -/
theorem exec_mcpRestore_empty {s : State} {c : Nat} (busy : (s.core c).mcpStat.getLsbD 0 = true)
    (restore : (s.core c).mcpCmd.getLsbD 1 = true) (idle : (s.ctx c (mcpCtx (s.core c))).queue = [])
    (empty : (s.ctx c (mcpCtx (s.core c))).tag = none) :
    exec (.mcpRestore c) s = .next (mcpEnd ((homeRead s none (s.core c).mcpAddr.toNat 99136).2.modCtx c (mcpCtx (s.core c))
      (fun _ => imageCtx (homeRead s none (s.core c).mcpAddr.toNat 99136).1)) c 2) := by
  change execMcpRestore c s = _
  simp only [execMcpRestore, busy, restore, idle, empty, List.isEmpty_nil, Option.isSome_none, Bool.not_true, Bool.or_false,
    Bool.false_eq_true, if_false]

/-- A restore under way into a context that has a tag is refused (R419). -/
theorem exec_mcpRestore_tagged {s : State} {c : Nat} (busy : (s.core c).mcpStat.getLsbD 0 = true)
    (restore : (s.core c).mcpCmd.getLsbD 1 = true) (tagged : (s.ctx c (mcpCtx (s.core c))).tag ≠ none) :
    exec (.mcpRestore c) s = .next (mcpEnd s c 4) := by
  change execMcpRestore c s = _
  simp only [execMcpRestore, busy, restore, Option.isSome_iff_ne_none.2 tagged, Bool.not_true, Bool.or_false, Bool.true_or,
    Bool.false_eq_true, if_false, if_true]

/-- A sample that is due ends in its deviation record (R72, R366). -/
theorem exec_shadowSample {s : State} {c : Nat} {j : ShadowJob} (job : (s.core c).shadow = some j) (due : j.due ≤ s.clk) :
    exec (.shadowSample c) s = .next (devPut (s.modCore c (fun k => { k with shadow := none })) j.asid
      (devRecord j.gtime j.dnum (shadowResult j).1 1 j.ctx j.acc (shadowResult j).2.1 (shadowResult j).2.2 c)) := by
  change execShadowSample c s = _
  simp [execShadowSample, job, Nat.not_lt.2 due]

/-- Settles O36: each event answers with one state, whose frame is that of the access at the home. -/
theorem shadowAndControlPort : Obligations.ShadowAndControlPort := by
  unfold Obligations.ShadowAndControlPort
  intro s c
  refine ⟨fun j job due => exec_shadowSample job due, fun busy idle => ⟨fun save => ?_, fun nomsg restore empty => ?_,
    fun restore tagged => ?_⟩⟩
  · refine ⟨_, exec_mcpSave busy save idle, ?_, mcpEnd_mcpStat .., fun noreg => ?_, ?_, ?_⟩
    · rw [mcpEnd_ctx]
      exact ctx_modCtx ..
    · rw [mcpEnd_warps, modCtx_warps, homeWrite_warps noreg]
    · rw [mcpEnd_hbm, modCtx_hbm]
      rfl
    · rw [mcpEnd_l2, modCtx_l2]
      rfl
  · refine ⟨_, exec_mcpRestore_empty busy restore idle empty, ?_, mcpEnd_mcpStat .., ?_⟩
    · rw [mcpEnd_ctx]
      exact ctx_modCtx ..
    · rw [mcpEnd_warps, modCtx_warps, homeRead_warps (noRegistration_of_msgs_nil nomsg)]
  · exact ⟨_, exec_mcpRestore_tagged busy restore tagged, mcpEnd_ctx .., mcpEnd_mcpStat .., mcpEnd_warps ..⟩

end Sys2Proof.Proofs.ControlPort

/-!
Decoding what the encoder wrote, and words written out from the tables (R76, R77, R84 to R103, R404).
-/

namespace Sys2Proof.Proofs.Encoding

open Sys2Proof.Machine Sys2Proof.Laws

/-- Every instruction is read back from its words: a warp's and a supervisor's by its own round trip; an occurrence has none. -/
theorem readsBack (i : Instr) : ReadsBack i := by
  cases i with
  | nop => exact RoundTrip.nop | iaddShort f => exact RoundTrip.iaddShort f | isubShort f => exact RoundTrip.isubShort f
  | imulShort f => exact RoundTrip.imulShort f | imulhiS32Short f => exact RoundTrip.imulhiS32Short f
  | imulhiZ32Short f => exact RoundTrip.imulhiZ32Short f | imadShort f => exact RoundTrip.imadShort f
  | iminS32Short f => exact RoundTrip.iminS32Short f | iminZ32Short f => exact RoundTrip.iminZ32Short f
  | imaxS32Short f => exact RoundTrip.imaxS32Short f | imaxZ32Short f => exact RoundTrip.imaxZ32Short f
  | iabsShort f => exact RoundTrip.iabsShort f | andShort f => exact RoundTrip.andShort f
  | orShort f => exact RoundTrip.orShort f | xorShort f => exact RoundTrip.xorShort f | shlShort f => exact RoundTrip.shlShort f
  | shrShort f => exact RoundTrip.shrShort f | sarShort f => exact RoundTrip.sarShort f
  | popcShort f => exact RoundTrip.popcShort f | clzShort f => exact RoundTrip.clzShort f
  | brevShort f => exact RoundTrip.brevShort f | iadd f => exact RoundTrip.iadd f | isub f => exact RoundTrip.isub f
  | imul f => exact RoundTrip.imul f | imulhi f => exact RoundTrip.imulhi f | imad f => exact RoundTrip.imad f
  | imin f => exact RoundTrip.imin f | imax f => exact RoundTrip.imax f | iabs f => exact RoundTrip.iabs f
  | and f => exact RoundTrip.and f | or f => exact RoundTrip.or f | xor f => exact RoundTrip.xor f
  | shl f => exact RoundTrip.shl f | shr f => exact RoundTrip.shr f | sar f => exact RoundTrip.sar f
  | bfe f => exact RoundTrip.bfe f | bfi f => exact RoundTrip.bfi f | popc f => exact RoundTrip.popc f
  | clz f => exact RoundTrip.clz f | brev f => exact RoundTrip.brev f | lea f => exact RoundTrip.lea f
  | isetp f => exact RoundTrip.isetp f | sel f => exact RoundTrip.sel f | iaddImm f => exact RoundTrip.iaddImm f
  | imulImm f => exact RoundTrip.imulImm f | andImm f => exact RoundTrip.andImm f | orImm f => exact RoundTrip.orImm f
  | xorImm f => exact RoundTrip.xorImm f | shlImm f => exact RoundTrip.shlImm f | shrImm f => exact RoundTrip.shrImm f
  | sarImm f => exact RoundTrip.sarImm f | faddShort f => exact RoundTrip.faddShort f
  | fsubShort f => exact RoundTrip.fsubShort f | fmulShort f => exact RoundTrip.fmulShort f
  | ffmaShort f => exact RoundTrip.ffmaShort f | fminShort f => exact RoundTrip.fminShort f
  | fmaxShort f => exact RoundTrip.fmaxShort f | hadd2Bf16Short f => exact RoundTrip.hadd2Bf16Short f
  | hadd2F16Short f => exact RoundTrip.hadd2F16Short f | hmul2Bf16Short f => exact RoundTrip.hmul2Bf16Short f
  | hmul2F16Short f => exact RoundTrip.hmul2F16Short f | hfma2Bf16Short f => exact RoundTrip.hfma2Bf16Short f
  | hfma2F16Short f => exact RoundTrip.hfma2F16Short f | fadd f => exact RoundTrip.fadd f | fsub f => exact RoundTrip.fsub f
  | fmul f => exact RoundTrip.fmul f | ffma f => exact RoundTrip.ffma f | fmin f => exact RoundTrip.fmin f
  | fmax f => exact RoundTrip.fmax f | fsetp f => exact RoundTrip.fsetp f | frnd f => exact RoundTrip.frnd f
  | hadd2 f => exact RoundTrip.hadd2 f | hmul2 f => exact RoundTrip.hmul2 f | hfma2 f => exact RoundTrip.hfma2 f
  | faddImm f => exact RoundTrip.faddImm f | fmulImm f => exact RoundTrip.fmulImm f | ffmaImm f => exact RoundTrip.ffmaImm f
  | rcpShort f => exact RoundTrip.rcpShort f | rsqShort f => exact RoundTrip.rsqShort f
  | sqrtShort f => exact RoundTrip.sqrtShort f | ex2Short f => exact RoundTrip.ex2Short f
  | lg2Short f => exact RoundTrip.lg2Short f | sinShort f => exact RoundTrip.sinShort f
  | cosShort f => exact RoundTrip.cosShort f | tanhShort f => exact RoundTrip.tanhShort f | rcp f => exact RoundTrip.rcp f
  | rsq f => exact RoundTrip.rsq f | sqrt f => exact RoundTrip.sqrt f | ex2 f => exact RoundTrip.ex2 f
  | lg2 f => exact RoundTrip.lg2 f | sin f => exact RoundTrip.sin f | cos f => exact RoundTrip.cos f
  | tanh f => exact RoundTrip.tanh f | cvt f => exact RoundTrip.cvt f | shfl f => exact RoundTrip.shfl f
  | vote f => exact RoundTrip.vote f | redux f => exact RoundTrip.redux f | prmt f => exact RoundTrip.prmt f
  | matchLanes f => exact RoundTrip.matchLanes f | saddShort f => exact RoundTrip.saddShort f
  | ssubShort f => exact RoundTrip.ssubShort f | smulShort f => exact RoundTrip.smulShort f
  | sandShort f => exact RoundTrip.sandShort f | sorShort f => exact RoundTrip.sorShort f
  | sxorShort f => exact RoundTrip.sxorShort f | sshlShort f => exact RoundTrip.sshlShort f
  | sshrShort f => exact RoundTrip.sshrShort f | smovShort f => exact RoundTrip.smovShort f
  | ssetpS32Short f => exact RoundTrip.ssetpS32Short f | ssetpZ32Short f => exact RoundTrip.ssetpZ32Short f
  | s2vShort f => exact RoundTrip.s2vShort f | v2sShort f => exact RoundTrip.v2sShort f
  | sldShort f => exact RoundTrip.sldShort f | sadd f => exact RoundTrip.sadd f | ssub f => exact RoundTrip.ssub f
  | smul f => exact RoundTrip.smul f | sand f => exact RoundTrip.sand f | sor f => exact RoundTrip.sor f
  | sxor f => exact RoundTrip.sxor f | sshl f => exact RoundTrip.sshl f | sshr f => exact RoundTrip.sshr f
  | smov f => exact RoundTrip.smov f | ssetp f => exact RoundTrip.ssetp f | sbfe f => exact RoundTrip.sbfe f
  | s2v f => exact RoundTrip.s2v f | v2s f => exact RoundTrip.v2s f | sld f => exact RoundTrip.sld f
  | saddImm f => exact RoundTrip.saddImm f | smulImm f => exact RoundTrip.smulImm f | sandImm f => exact RoundTrip.sandImm f
  | sorImm f => exact RoundTrip.sorImm f | sxorImm f => exact RoundTrip.sxorImm f | sshlImm f => exact RoundTrip.sshlImm f
  | sshrImm f => exact RoundTrip.sshrImm f | smovImm f => exact RoundTrip.smovImm f | ssetpImm f => exact RoundTrip.ssetpImm f
  | ldShort f => exact RoundTrip.ldShort f | stShort f => exact RoundTrip.stShort f | ldsShort f => exact RoundTrip.ldsShort f
  | stsShort f => exact RoundTrip.stsShort f | ld f => exact RoundTrip.ld f | st f => exact RoundTrip.st f
  | lds f => exact RoundTrip.lds f | sts f => exact RoundTrip.sts f | ldr f => exact RoundTrip.ldr f
  | str f => exact RoundTrip.str f | ldw f => exact RoundTrip.ldw f | chkw f => exact RoundTrip.chkw f
  | fence f => exact RoundTrip.fence f | fenceSc f => exact RoundTrip.fenceSc f | drainst f => exact RoundTrip.drainst f
  | ifence f => exact RoundTrip.ifence f | prefetch f => exact RoundTrip.prefetch f | smap f => exact RoundTrip.smap f
  | sunmap f => exact RoundTrip.sunmap f | sflush f => exact RoundTrip.sflush f | wmld f => exact RoundTrip.wmld f
  | wmst f => exact RoundTrip.wmst f | atomAdd f => exact RoundTrip.atomAdd f | atomMin f => exact RoundTrip.atomMin f
  | atomMax f => exact RoundTrip.atomMax f | atomAnd f => exact RoundTrip.atomAnd f | atomOr f => exact RoundTrip.atomOr f
  | atomXor f => exact RoundTrip.atomXor f | atomExch f => exact RoundTrip.atomExch f | atomCas f => exact RoundTrip.atomCas f
  | atomSpadAdd f => exact RoundTrip.atomSpadAdd f | atomSpadMin f => exact RoundTrip.atomSpadMin f
  | atomSpadMax f => exact RoundTrip.atomSpadMax f | atomSpadAnd f => exact RoundTrip.atomSpadAnd f
  | atomSpadOr f => exact RoundTrip.atomSpadOr f | atomSpadXor f => exact RoundTrip.atomSpadXor f
  | atomSpadExch f => exact RoundTrip.atomSpadExch f | atomSpadCas f => exact RoundTrip.atomSpadCas f
  | atomPeerAdd f => exact RoundTrip.atomPeerAdd f | atomPeerMin f => exact RoundTrip.atomPeerMin f
  | atomPeerMax f => exact RoundTrip.atomPeerMax f | atomPeerAnd f => exact RoundTrip.atomPeerAnd f
  | atomPeerOr f => exact RoundTrip.atomPeerOr f | atomPeerXor f => exact RoundTrip.atomPeerXor f
  | atomPeerExch f => exact RoundTrip.atomPeerExch f | atomPeerCas f => exact RoundTrip.atomPeerCas f
  | redAdd f => exact RoundTrip.redAdd f | redMin f => exact RoundTrip.redMin f | redMax f => exact RoundTrip.redMax f
  | redAnd f => exact RoundTrip.redAnd f | redOr f => exact RoundTrip.redOr f | redXor f => exact RoundTrip.redXor f
  | redTrig f => exact RoundTrip.redTrig f | braShort f => exact RoundTrip.braShort f
  | exitShort f => exact RoundTrip.exitShort f | yieldShort f => exact RoundTrip.yieldShort f | bra f => exact RoundTrip.bra f
  | brx f => exact RoundTrip.brx f | call f => exact RoundTrip.call f | ret f => exact RoundTrip.ret f
  | exit f => exact RoundTrip.exit f | conv f => exact RoundTrip.conv f | yield f => exact RoundTrip.yield f
  | setpri f => exact RoundTrip.setpri f | bar f => exact RoundTrip.bar f | bara f => exact RoundTrip.bara f
  | barw f => exact RoundTrip.barw f | spawn f => exact RoundTrip.spawn f | launch f => exact RoundTrip.launch f
  | enq f => exact RoundTrip.enq f | gterm f => exact RoundTrip.gterm f | trapi f => exact RoundTrip.trapi f
  | rett f => exact RoundTrip.rett f | mfsr f => exact RoundTrip.mfsr f | mtsr f => exact RoundTrip.mtsr f
  | bkpt f => exact RoundTrip.bkpt f | svc f => exact RoundTrip.svc f | stamp f => exact RoundTrip.stamp f
  | cntstart f => exact RoundTrip.cntstart f | cntstop f => exact RoundTrip.cntstop f | prsv f => exact RoundTrip.prsv f
  | pcmt f => exact RoundTrip.pcmt f | pacq f => exact RoundTrip.pacq f | prel f => exact RoundTrip.prel f
  | ppoll f => exact RoundTrip.ppoll f | pclose f => exact RoundTrip.pclose f | tcopy f => exact RoundTrip.tcopy f
  | mcfg f => exact RoundTrip.mcfg f | mrel f => exact RoundTrip.mrel f | mload f => exact RoundTrip.mload f
  | mloop f => exact RoundTrip.mloop f | mdrain f => exact RoundTrip.mdrain f | mzero f => exact RoundTrip.mzero f
  | mfence f => exact RoundTrip.mfence f | skadd f => exact RoundTrip.skadd f | skmerge f => exact RoundTrip.skmerge f
  | skq f => exact RoundTrip.skq f | hhadd f => exact RoundTrip.hhadd f | hhmerge f => exact RoundTrip.hhmerge f
  | hhtop f => exact RoundTrip.hhtop f | dcadd f => exact RoundTrip.dcadd f | dcmerge f => exact RoundTrip.dcmerge f
  | dcest f => exact RoundTrip.dcest f | rfetch f => exact RoundTrip.rfetch f | bfx f => exact RoundTrip.bfx f
  | swait f => exact RoundTrip.swait f | dispatch f => exact RoundTrip.dispatch f
  | _ => exact event_rt rfl

/-! Words and their bytes (R5). -/

theorem wordOfBytes_wordBytes (w : Word) (r : List Byte) : wordOfBytes (wordBytes w ++ r) = some (w, r) := by
  have hcat : w.extractLsb' 24 8 ++ w.extractLsb' 16 8 ++ w.extractLsb' 8 8 ++ w.extractLsb' 0 8 = w := by
    refine BitVec.eq_of_toNat_eq ?_
    have := w.isLt
    simp only [toNat_cat, BitVec.extractLsb'_toNat, Nat.shiftRight_eq_div_pow]
    omega
  simp only [wordBytes, List.cons_append, List.nil_append, wordOfBytes, hcat]

theorem leNat_wordBytes (w : Word) (r : List Byte) : leNat (wordBytes w ++ r) = w.toNat + 2 ^ 32 * leNat r := by
  have := w.isLt
  simp only [wordBytes, List.cons_append, List.nil_append, leNat, BitVec.extractLsb'_toNat, Nat.shiftRight_eq_div_pow]
  omega

/-! The decoder on a well-formed instruction's words. -/

theorem eq_ok_of_toOption {ε α : Type} {x : Except ε α} {a : α} (h : x.toOption = some a) : x = .ok a := by
  cases x with
  | error e => exact absurd h nofun
  | ok b => exact congrArg _ (Option.some.inj h)

/-- A word that is an instruction by itself is one whatever follows it (R77). -/
theorem decode_of_alone {w : Word} {i : Instr} (h : decode w none = .ok i) (u : Option Word) : decode w u = .ok i := by
  unfold decode at h ⊢
  split at h
  case isTrue => cases h
  case isFalse hshort => rwa [if_neg hshort]

/-- A well-formed instruction of a warp has one word that decodes to it whatever follows, or two that do together. -/
theorem decode_encode {i : Instr} (wf : i.wellFormed = true) (event : (info i).enc ≠ .event)
    (warp : ∀ a b f, (info i).enc ≠ .rv a b f) :
    (∃ w, encode i = [w] ∧ i.words = 1 ∧ ∀ u, decode w u = .ok i) ∨
    (∃ w u, encode i = [w, u] ∧ i.words = 2 ∧ decode w (some u) = .ok i) := by
  have back := readsBack i wf event
  simp only [encode, Instr.words] at back ⊢
  cases henc : (info i).enc with
  | rv a b f => exact absurd henc (warp a b f)
  | event => exact absurd henc event
  | long | immV | immU | uni =>
    rw [henc] at back
    exact .inr ⟨_, _, rfl, rfl, eq_ok_of_toOption back⟩
  | nop | shortV | shortA | shortU | shortB =>
    rw [henc] at back
    exact .inl ⟨_, rfl, rfl, decode_of_alone (eq_ok_of_toOption back)⟩

/-- The word of a supervisor's instruction decodes to it (R404). -/
theorem decodeSupervisor_encode {i : Instr} (wf : i.wellFormed = true) {a : BitVec 3} {b : BitVec 7} {f : RvR}
    (rv : (info i).enc = .rv a b f) : ∃ w, encode i = [w] ∧ (decodeSupervisor w).toOption = some i := by
  have back := readsBack i wf (by simp [rv])
  rw [encode, rv] at back ⊢
  exact ⟨_, rfl, back⟩

section
variable {i : Instr} (wf : i.wellFormed = true) (event : (info i).enc ≠ .event) (warp : ∀ a b f, (info i).enc ≠ .rv a b f)
include wf event warp

/-- The bytes of an instruction before any others decode to it and leave the others (R76). -/
theorem decodeBytes_encodeBytes (rest : List Byte) : decodeBytes (encodeBytes i ++ rest) = .ok (i, rest) := by
  obtain ⟨w, henc, hwords, hdec⟩ | ⟨w, u, henc, hwords, hdec⟩ := decode_encode wf event warp
  · simp [decodeBytes, encodeBytes, henc, hwords, wordOfBytes_wordBytes, hdec]
  · simp only [decodeBytes, encodeBytes, henc, List.flatMap_cons, List.append_assoc, wordOfBytes_wordBytes, Option.map_some,
      hdec, hwords]
    rfl

theorem length_encodeBytes : (encodeBytes i).length = 4 * i.words := by
  obtain ⟨w, henc, hwords, -⟩ | ⟨w, u, henc, hwords, -⟩ := decode_encode wf event warp <;>
    simp [encodeBytes, henc, hwords, wordBytes]

/-- As one number, its bits decode to it too. -/
theorem decodeTableWord_leNat (n : Nat) : decodeTableWord n (leNat (encodeBytes i)) = some i := by
  obtain ⟨w, henc, -, hdec⟩ | ⟨w, u, henc, -, hdec⟩ := decode_encode wf event warp
  · have hnum : leNat (encodeBytes i) = w.toNat := by
      simpa [encodeBytes, henc, leNat] using leNat_wordBytes w []
    simp [decodeTableWord, hnum, hdec]
  · have hnum : leNat (encodeBytes i) = w.toNat + 2 ^ 32 * u.toNat := by
      have hu : leNat (wordBytes u) = u.toNat := by simpa [leNat] using leNat_wordBytes u []
      simp [encodeBytes, henc, leNat_wordBytes, hu]
    have hlow : BitVec.ofNat 32 (w.toNat + 2 ^ 32 * u.toNat) = w := BitVec.eq_of_toNat_eq (by simp; omega)
    have hhigh : BitVec.ofNat 32 ((w.toNat + 2 ^ 32 * u.toNat) >>> 32) = u := by
      have := w.isLt
      refine BitVec.eq_of_toNat_eq ?_
      rw [BitVec.toNat_ofNat, Nat.shiftRight_eq_div_pow]
      omega
    simp only [decodeTableWord, hnum, hlow, hhigh, hdec]
end

/-- Settles O58: one and two words apart, from the round trip of each instruction. -/
theorem encodeThenDecode : Obligations.EncodeThenDecode := by
  unfold Obligations.EncodeThenDecode
  intro i wf event
  refine ⟨fun ⟨_, _, _, rv⟩ => decodeSupervisor_encode wf rv, fun warp => ⟨fun rest => ?_, ?_, ?_⟩⟩
  · rw [decodeBytes_encodeBytes wf event warp]
    rfl
  · exact length_encodeBytes wf event warp
  · exact decodeTableWord_leNat wf event warp

/-- Settles O57: each word, written out, by running the decoder. -/
theorem decodedWords : Obligations.DecodedWords := by
  unfold Obligations.DecodedWords
  decide

end Sys2Proof.Proofs.Encoding

/-!
Branches, CALL, CHKW, EXIT and CONV (R79, R190, R194 to R199).
-/

namespace Sys2Proof.Proofs.ControlFlow

open Sys2Proof.Machine Sys2Proof.Claims Sys2Proof.Laws

/-! Offsets: the signed numbers that the model takes from an instruction's fields. -/

theorem intOf_toNat {n : Nat} (b : BitVec n) : intOf n true b.toNat = b.toInt := by
  have hmsb : b.toNat.testBit (n - 1) = b.msb := by rw [BitVec.msb_eq_getLsbD_last, BitVec.getLsbD]
  have hmod : b.toNat % 2 ^ n = b.toNat := Nat.mod_eq_of_lt b.isLt
  simp only [intOf, hmod, Bool.true_and, hmsb, BitVec.toInt_eq_msb_cond]
  norm_cast

theorem off24_eq_toInt (f : LongF) : off24 f = (f.d ++ f.a ++ f.b : BitVec 24).toInt := by
  have hnum : f.d.toNat * 65536 + f.a.toNat * 256 + f.b.toNat = (f.d ++ f.a ++ f.b : BitVec 24).toNat := by
    rw [toNat_cat, toNat_cat]
    omega
  rw [off24, hnum, intOf_toNat]

/-! Masks of lanes. -/

theorem getLsbD_ofNat_two_pow (k : Nat) {l : Nat} (hl : l < 32) :
    (BitVec.ofNat 32 (2 ^ k)).getLsbD l = decide (k = l) := by
  rw [BitVec.getLsbD_ofNat, Nat.testBit_two_pow, decide_eq_true hl, Bool.true_and]

/-- A mask built up by adding to it. -/
theorem getLsbD_foldl_or {α : Type} (p : α → Bool) (g : α → LaneMask) (es : List α) (m : LaneMask) (l : Nat) :
    (es.foldl (fun m e => if p e then m ||| g e else m) m).getLsbD l =
      (m.getLsbD l || es.any (fun e => p e && (g e).getLsbD l)) := by
  induction es generalizing m with
  | nil => simp
  | cons e es ih =>
    rw [List.foldl_cons, ih, List.any_cons]
    cases p e <;> simp [Bool.or_assoc]

theorem getLsbD_maskOf (p : Nat → Bool) {l : Nat} (hl : l < 32) : (maskOf p).getLsbD l = p l := by
  rw [maskOf, getLsbD_foldl_or]
  simp only [getLsbD_ofNat_two_pow _ hl]
  rw [Bool.eq_iff_iff]
  simp [allLanes, hl]

/-! The frame of a change: of none, of two in a row, of one to a warp, to the agenda or to a core's captured loops. -/

theorem othersSame_refl (s : State) (w : Nat) : OthersSame s s w := fun _ _ => rfl

theorem memSame_refl (s : State) : MemSame s s := ⟨rfl, rfl, rfl, rfl, fun _ => ⟨rfl, rfl⟩, fun _ => rfl⟩

theorem othersSame_trans {s t u : State} {w : Nat} (h : OthersSame s t w) (k : OthersSame t u w) : OthersSame s u w :=
  fun v hv => (k v hv).trans (h v hv)

theorem memSame_trans {s t u : State} (h : MemSame s t) (k : MemSame t u) : MemSame s u :=
  ⟨k.hbm.trans h.hbm, k.l2.trans h.l2, k.words.trans h.words, k.vers.trans h.vers,
    fun c => ⟨(k.cores c).1.trans (h.cores c).1, (k.cores c).2.trans (h.cores c).2⟩, fun d => (k.sram d).trans (h.sram d)⟩

theorem modWarp_othersSame (s : State) (w : Nat) (f : Warp → Warp) : OthersSame s (s.modWarp w f) w :=
  fun _ hv => find_modWarp_other s f hv

theorem modWarp_memSame (s : State) (w : Nat) (f : Warp → Warp) : MemSame s (s.modWarp w f) :=
  ⟨rfl, rfl, rfl, rfl, fun _ => ⟨rfl, rfl⟩, fun _ => rfl⟩

theorem after_memSame (s : State) (n : Nat) (e : Event) : MemSame s (s.after n e) :=
  ⟨rfl, rfl, rfl, rfl, fun _ => ⟨rfl, rfl⟩, fun _ => rfl⟩

theorem modCore_loops_memSame (s : State) (c : Nat) (f : Core → NMap (Nat × Nat)) :
    MemSame s (s.modCore c (fun k => { k with loops := f k })) := by
  refine ⟨rfl, rfl, rfl, rfl, fun d => ?_, fun _ => rfl⟩
  by_cases hd : d = c
  · rw [hd, core_modCore]
    exact ⟨rfl, rfl⟩
  · rw [core_modCore_other s _ hd]
    exact ⟨rfl, rfl⟩

/-! The arms of `exec`. -/

theorem exec_braShort (f : ShortB) (s : State) : exec (.braShort f) s = execBraShort f s := rfl
theorem exec_bra (f : LongF) (s : State) : exec (.bra f) s = execBra f s := rfl
theorem exec_brx (f : LongF) (s : State) : exec (.brx f) s = execBrx f s := rfl
theorem exec_call (f : LongF) (s : State) : exec (.call f) s = execCall f s := rfl
theorem exec_ret (f : LongF) (s : State) : exec (.ret f) s = execRet f s := rfl
theorem exec_chkw (f : LongF) (s : State) : exec (.chkw f) s = execChkw f s := rfl
theorem exec_exitShort (f : ShortB) (s : State) : exec (.exitShort f) s = execExitShort f s := rfl
theorem exec_exit (f : LongF) (s : State) : exec (.exit f) s = execExit f s := rfl
theorem exec_conv (f : LongF) (s : State) : exec (.conv f) s = execConv f s := rfl

/-! Taken branches (R45, R194). -/

/-- The debugger of a warp's core records no moves. -/
def Quiet (s : State) (w : Nat) : Prop := capturing (s.core (coreOf w)).dbg = false

/-- Warp `w` of `t`, which stood as `x` in `s`, has the lanes of `m` at `tgt` and the others where they were; registers,
lane states, other warps and memory are those of `s`. -/
def Moves (s t : State) (w : Nat) (x : Warp) (m : LaneMask) (tgt : Nat → Nat) : Prop :=
  ∃ y, mfind t.warps w = some y ∧
    (∀ l, l < 32 → y.pc.getD l 0 = if m.getLsbD l then tgt l else x.pc.getD l 0) ∧
    y.vreg = x.vreg ∧ y.sreg = x.sreg ∧ y.pred = x.pred ∧ y.active = x.active ∧ y.exited = x.exited ∧
    OthersSame s t w ∧ MemSame s t

/-- Only the mask's 32 lanes matter. -/
theorem Moves.congr {s t : State} {w : Nat} {x : Warp} {m n : LaneMask} {tgt : Nat → Nat} (h : Moves s t w x m tgt)
    (hm : ∀ l, l < 32 → m.getLsbD l = n.getLsbD l) : Moves s t w x n tgt :=
  (BitVec.eq_of_getLsbD_eq hm : m = n) ▸ h

theorem traceMoves_of_quiet {s : State} {w : Nat} (quiet : Quiet s w) (m : LaneMask) (src tgt : Nat → Nat) :
    traceMoves s w m src tgt = s :=
  ControlPort.foldl_of_mem_fixed fun l _ => by
    unfold Quiet at quiet
    simp only [traceMove, quiet, Bool.false_and, Bool.false_eq_true, if_false]

/-- Mathlib's `ite_eq_or_eq`, which the package's own modules do not import. -/
theorem ite_eq_or {α : Type} (p : Prop) [Decidable p] (a b : α) : (if p then a else b) = a ∨ (if p then a else b) = b :=
  (Decidable.em p).imp (if_pos ·) (if_neg ·)

/-- The warp with the lanes of `m` at their targets and other clk at which lanes may issue. -/
def movedWarp (m : LaneMask) (tgt : Nat → Nat) (wake : Warp → List Nat) (x : Warp) : Warp :=
  { x.setPc m tgt with laneWake := wake x }

/-- A taken branch changes the warp's program counters and wake-up times, and at most the core's captured loops (R45). -/
theorem takeBranch_cases {s : State} {c : IssueCtx} (quiet : Quiet s c.warp) (m : LaneMask) (tgt : Nat → Nat) (back : Bool) :
    ∃ wake, takeBranch s c m tgt back = s.modWarp c.warp (movedWarp m tgt wake) ∨
      ∃ loops : Core → NMap (Nat × Nat), takeBranch s c m tgt back =
        (s.modWarp c.warp (movedWarp m tgt wake)).modCore (coreOf c.warp) (fun k => { k with loops := loops k }) := by
  simp only [takeBranch, traceMoves_of_quiet quiet]
  exact (ite_eq_or _ _ _).elim (fun captures => ⟨_, .inr ⟨_, captures⟩⟩) (fun stays => ⟨_, .inl stays⟩)

theorem takeBranch_warp {s : State} {c : IssueCtx} {x : Warp} (quiet : Quiet s c.warp) (hx : mfind s.warps c.warp = some x)
    (m : LaneMask) (tgt : Nat → Nat) (back : Bool) :
    ∃ wake, mfind (takeBranch s c m tgt back).warps c.warp = some (movedWarp m tgt wake x) := by
  obtain ⟨wake, h | ⟨loops, h⟩⟩ := takeBranch_cases quiet m tgt back <;> exact ⟨wake, by simp [h, hx]⟩

theorem takeBranch_frame {s : State} {c : IssueCtx} (quiet : Quiet s c.warp) (m : LaneMask) (tgt : Nat → Nat) (back : Bool) :
    OthersSame s (takeBranch s c m tgt back) c.warp ∧ MemSame s (takeBranch s c m tgt back) := by
  obtain ⟨wake, h | ⟨loops, h⟩⟩ := takeBranch_cases quiet m tgt back <;> rw [h]
  · exact ⟨modWarp_othersSame s _ _, modWarp_memSame ..⟩
  · exact ⟨modWarp_othersSame s _ _, memSame_trans (modWarp_memSame ..) (modCore_loops_memSame ..)⟩

theorem moves_none {s : State} {w : Nat} {x : Warp} (hx : mfind s.warps w = some x) (tgt : Nat → Nat) : Moves s s w x 0 tgt :=
  ⟨x, hx, fun l _ => by simp, rfl, rfl, rfl, rfl, rfl, othersSame_refl s w, memSame_refl s⟩

/-- A branch taken where no lane has moved yet moves the lanes of its mask. -/
theorem Moves.takeBranch {s t : State} {c : IssueCtx} {x : Warp} {tgt' : Nat → Nat} (h : Moves s t c.warp x 0 tgt')
    (quiet : Quiet t c.warp) (m : LaneMask) (tgt : Nat → Nat) (back : Bool) :
    Moves s (Machine.takeBranch t c m tgt back) c.warp x m tgt := by
  obtain ⟨y, hy, hpc, hv, hs, hp, ha, he, hothers, hmem⟩ := h
  obtain ⟨wake, hwarp⟩ := takeBranch_warp quiet hy m tgt back
  obtain ⟨hothers', hmem'⟩ := takeBranch_frame quiet m tgt back
  refine ⟨_, hwarp, fun l hl => ?_, hv, hs, hp, ha, he, othersSame_trans hothers hothers', memSame_trans hmem hmem'⟩
  rw [movedWarp, setPc_pc, getD_allLanes _ hl, hpc l hl]
  simp

theorem issuing_moves {s : State} {c : IssueCtx} {x : Warp} (h : Issuing s c x) (quiet : Quiet s c.warp) (m : LaneMask)
    (tgt : Nat → Nat) (back : Bool) : Moves s (Machine.takeBranch s c m tgt back) c.warp x m tgt :=
  (moves_none h.warp tgt).takeBranch quiet m tgt back

/-- The writes of CALL's link: the packet after its own (R196). -/
def callLink (f : LongF) (c : IssueCtx) (x : Warp) : List RegWrite :=
  vWrites 2 f.t.toNat (c.act x (.call f)) (fun _ => packetAt x c.pc 1)

/-- The state with the link on its way, before CALL's branch. -/
def callSent (f : LongF) (s : State) (c : IssueCtx) (x : Warp) : State :=
  inFlight s c x (c.act x (.call f)) (callLink f c x) 1 []

theorem exec_call_eq {s : State} {c : IssueCtx} {x : Warp} (h : Issuing s c x) (f : LongF) (act : c.act x (.call f) ≠ 0) :
    exec (.call f) s = .next (takeBranch (callSent f s c x) c (c.act x (.call f))
      (fun _ => packetAt x c.pc (off24 f)) false) := by
  rw [exec_call, execCall, issuing_eq h]
  dsimp only
  rw [flyResult_eq h act _ _ (untrapped_zeros c x [] nofun)]
  rfl

section
variable {s : State} {c : IssueCtx} {x : Warp} (h : Issuing s c x) (quiet : Quiet s c.warp)
include h quiet

theorem braShort_moves (f : ShortB) : ∃ t, exec (.braShort f) s = .next t ∧
    Moves s t c.warp x (shortAct c x f) (fun _ => packetAt x c.pc f.off.toInt) := by
  refine ⟨_, (exec_braShort f s).trans (issuing_eq h _), ?_⟩
  rw [braTo, warpD_of_find h.warp, intOf_toNat]
  exact issuing_moves h quiet ..

theorem bra_moves (f : LongF) : ∃ t, exec (.bra f) s = .next t ∧
    Moves s t c.warp x (c.act x (.bra f)) (fun _ => packetAt x c.pc (off24 f)) := by
  refine ⟨_, (exec_bra f s).trans (issuing_eq h _), ?_⟩
  rw [braTo, warpD_of_find h.warp]
  exact issuing_moves h quiet ..

/-- A branch to addresses moves ACT there where each begins a packet and no empty source traps (R79, R195). -/
theorem branchTo_moves {i : Instr} {tgt : Warp → Nat → Nat} (sources : feCause c x i = none)
    (aligned : ∀ l ∈ lanesOf (c.act x i), ((tgt x l : Int) - x.codeBase) % 12 = 0) :
    ∃ t, branchTo s i tgt = .next t ∧ Moves s t c.warp x (c.act x i) (tgt x) := by
  have hbad : (lanesOf (c.act x i)).find? (fun l => ((tgt x l : Int) - x.codeBase) % 12 != 0) = none :=
    List.find?_eq_none.2 fun l hl => by simp [aligned l hl]
  refine ⟨_, issuing_eq h _, ?_⟩
  simp only [hbad, sources, Option.map_none, lowerCause]
  exact issuing_moves h quiet ..

/-- CALL moves ACT to its packet with the link on its way (R195, R196). -/
theorem call_moves (f : LongF) (act : c.act x (.call f) ≠ 0) : ∃ t y g, exec (.call f) s = .next t ∧
    Moves s t c.warp x (c.act x (.call f)) (fun _ => packetAt x c.pc (off24 f)) ∧
    mfind t.warps c.warp = some y ∧ y.flights = x.flights ++ [g] ∧ g.kind = .result ∧ g.due = s.clk + 1 ∧
    g.writes = callLink f c x := by
  have hwarp := inFlight_warp h (c.act x (.call f)) (callLink f c x) 1 []
  have hstill : Moves s (callSent f s c x) c.warp x 0 (fun _ => 0) := by
    refine ⟨_, hwarp, fun l _ => ?_, ?_, ?_, ?_, ?_, ?_, inFlight_others _ _ _ _, inFlight_mem ..⟩ <;> simp
  obtain ⟨wake, hy⟩ := takeBranch_warp (s := callSent f s c x) quiet hwarp (c.act x (.call f))
    (fun _ => packetAt x c.pc (off24 f)) false
  exact ⟨_, _, resultFlight s c x (c.act x (.call f)) (callLink f c x) 1 [], exec_call_eq h f act,
    hstill.takeBranch quiet .., hy, rfl, rfl, rfl, rfl⟩

/-- CHKW moves the lanes of ACT that an entry of its identifier names as struck (R190). -/
theorem chkw_moves (f : LongF) : ∃ t, exec (.chkw f) s = .next t ∧
    Moves s t c.warp x (maskOf (fun l => (c.act x (.chkw f)).getLsbD l && x.watch.any (fun e =>
      e.wid == f.d.toNat / 16 && e.state == .struck && e.mask.getLsbD l))) (fun _ => packetAt x c.pc (off20 f)) := by
  have hstill : Moves s (s.modWarp c.warp (fun y => dropWatch y (f.d.toNat / 16) (c.act x (.chkw f)))) c.warp x 0 (fun _ => 0) :=
    ⟨_, (find_modWarp ..).trans (congrArg _ h.warp), fun l _ => by simp [dropWatch, Warp.keepWatch], rfl, rfl, rfl, rfl, rfl,
      modWarp_othersSame s _ _, modWarp_memSame ..⟩
  refine ⟨_, (exec_chkw f s).trans (issuing_eq h _), ?_⟩
  dsimp only
  refine (hstill.takeBranch quiet _ _ _).congr fun l hl => ?_
  rw [BitVec.getLsbD_and, getLsbD_foldl_or, getLsbD_maskOf _ hl]
  simp [Bool.and_comm]
end

/-! EXIT and CONV (R197 to R199). -/

theorem mem_after_of_mem {s : State} {e : Nat × Event} (he : e ∈ s.agenda) (n : Nat) (v : Event) :
    e ∈ (s.after n v).agenda :=
  (mem_agendaPut_iff ..).2 (.inr he)

/-- What `checkExit` leaves: the warp with other holds, RETIRE among them once every lane has exited (R197), and the agenda with
what it held. -/
theorem checkExit_spec {s : State} {w : Nat} {x : Warp} (hx : mfind s.warps w = some x) :
    ∃ holds, mfind (checkExit s w).warps w = some { x with holds := holds } ∧
      (x.exited = 0xFFFFFFFF → x.captured = false → Hold.retire ∈ holds) ∧
      (∀ e ∈ s.agenda, e ∈ (checkExit s w).agenda) ∧ OthersSame s (checkExit s w) w ∧ MemSame s (checkExit s w) := by
  simp only [checkExit, warpD_of_find hx]
  split
  case isTrue =>
    have hwarp (f : Warp → Warp) : mfind (s.modWarp w f).warps w = some (f x) := (find_modWarp ..).trans (congrArg _ hx)
    refine ⟨x.holds ++ [.retire], ?_⟩
    split
    · exact ⟨hwarp _, fun _ _ => by simp, fun e he => mem_after_of_mem he .., modWarp_othersSame s w _,
        memSame_trans (modWarp_memSame ..) (after_memSame ..)⟩
    · exact ⟨hwarp _, fun _ _ => by simp, fun e he => mem_after_of_mem (mem_after_of_mem he ..) .., modWarp_othersSame s w _,
        memSame_trans (memSame_trans (modWarp_memSame ..) (after_memSame ..)) (after_memSame ..)⟩
  case isFalse hstay =>
    refine ⟨x.holds, hx, fun hall hfree => ?_, fun _ he => he, othersSame_refl s w, memSame_refl s⟩
    simpa [hall, hfree] using hstay

/-- The warp with the lanes of `act` exited. -/
def exitedWarp (act : LaneMask) (x : Warp) : Warp :=
  { x with exited := x.exited ||| act, active := x.active &&& ~~~act, waiting := x.waiting &&& ~~~act }

theorem exitLanes_eq (s : State) (w : Nat) {act : LaneMask} (lanes : act ≠ 0) :
    exitLanes s w act = checkExit ((s.modWarp w (exitedWarp act)).after 1 (.convRelease w)) w := if_neg lanes

/-- In `t` the lanes of `act` have exited for good (R197): pc and registers stand, and points are looked at again (R199). -/
def Exits (s t : State) (c : IssueCtx) (x : Warp) (act : LaneMask) : Prop :=
  ∃ y, mfind t.warps c.warp = some y ∧ y.exited = x.exited ||| act ∧
    y.active = x.active &&& ~~~act ∧ y.waiting = x.waiting &&& ~~~act ∧ y.pc = x.pc ∧
    (s.clk + 1, Event.convRelease c.warp) ∈ t.agenda ∧
    (y.exited = 0xFFFFFFFF → x.captured = false → Hold.retire ∈ y.holds) ∧
    y.vreg = x.vreg ∧ y.sreg = x.sreg ∧ OthersSame s t c.warp ∧ MemSame s t

theorem exitLanes_exits {s : State} {c : IssueCtx} {x : Warp} (hx : mfind s.warps c.warp = some x) {act : LaneMask}
    (lanes : act ≠ 0) : Exits s (exitLanes s c.warp act) c x act := by
  rw [exitLanes_eq s c.warp lanes]
  obtain ⟨holds, hwarp, hretire, hagenda, hothers, hmem⟩ := checkExit_spec (w := c.warp) (x := exitedWarp act x)
    (s := (s.modWarp c.warp (exitedWarp act)).after 1 (.convRelease c.warp)) ((find_modWarp ..).trans (congrArg _ hx))
  exact ⟨_, hwarp, rfl, rfl, rfl, rfl, hagenda _ (mem_after ..), hretire, rfl, rfl,
    othersSame_trans (modWarp_othersSame s _ _) hothers,
    memSame_trans (memSame_trans (modWarp_memSame ..) (after_memSame ..)) hmem⟩

theorem exitShort_exits {s : State} {c : IssueCtx} {x : Warp} (h : Issuing s c x) {f : ShortB} (lanes : shortAct c x f ≠ 0) :
    ∃ t, exec (.exitShort f) s = .next t ∧ Exits s t c x (shortAct c x f) :=
  ⟨_, (exec_exitShort f s).trans (issuing_eq h _), exitLanes_exits h.warp lanes⟩

theorem exit_exits {s : State} {c : IssueCtx} {x : Warp} (h : Issuing s c x) {f : LongF} (lanes : c.act x (.exit f) ≠ 0) :
    ∃ t, exec (.exit f) s = .next t ∧ Exits s t c x (c.act x (.exit f)) :=
  ⟨_, (exec_exit f s).trans (issuing_eq h _), exitLanes_exits h.warp lanes⟩

/-- The convergence masks once the lanes of `act` wait for `mask` and themselves (R198). -/
def joinedMasks (act : LaneMask) (mask : Word) (x : Warp) : List LaneMask :=
  allLanes.map (fun l => if act.getLsbD l then mask ||| laneBit l else x.cmask.getD l 0)

/-- The warp with the lanes of `act` WAITING at the packet address `p` under these convergence masks (R198). -/
def convergingWarp (act : LaneMask) (p : Nat) (masks : List LaneMask) (x : Warp) : Warp :=
  { x.setPc act (fun _ => p) with
    point := merge act (List.replicate 32 p) x.point 0, cmask := masks
    active := x.active &&& ~~~act, waiting := x.waiting ||| act }

theorem exec_conv_eq {s : State} {c : IssueCtx} {x : Warp} (h : Issuing s c x) (f : LongF)
    (sources : feCause c x (.conv f) = none) (lanes : c.act x (.conv f) ≠ 0) : exec (.conv f) s = .next
      ((s.modWarp c.warp (convergingWarp (c.act x (.conv f)) (packetAt x c.pc (off24 f))
        (joinedMasks (c.act x (.conv f)) (x.s f.t.toNat) x))).after 1 (.convRelease c.warp)) := by
  rw [exec_conv, execConv, issuing_eq h]
  simp only [sources, if_neg lanes]
  rfl

/-- CONV makes the lanes of ACT WAITING at its target, each with the mask that names it too (R198). -/
theorem conv_waits {s : State} {c : IssueCtx} {x : Warp} (h : Issuing s c x) (f : LongF) (sources : feCause c x (.conv f) = none)
    (lanes : c.act x (.conv f) ≠ 0) : ∃ t y, exec (.conv f) s = .next t ∧ mfind t.warps c.warp = some y ∧
      y.waiting = x.waiting ||| c.act x (.conv f) ∧ y.active = x.active &&& ~~~(c.act x (.conv f)) ∧ y.exited = x.exited ∧
      (∀ l, l < 32 → (c.act x (.conv f)).getLsbD l = true →
        y.point.getD l 0 = packetAt x c.pc (off24 f) ∧ y.pc.getD l 0 = packetAt x c.pc (off24 f) ∧
        y.cmask.getD l 0 = x.s f.t.toNat ||| laneBit l) ∧
      (s.clk + 1, Event.convRelease c.warp) ∈ t.agenda ∧ OthersSame s t c.warp ∧ MemSame s t := by
  refine ⟨_, _, exec_conv_eq h f sources lanes, (find_modWarp ..).trans (congrArg _ h.warp), rfl, rfl, rfl, fun l hl hact => ?_,
    mem_after .., modWarp_othersSame s _ _, memSame_trans (modWarp_memSame ..) (after_memSame ..)⟩
  refine ⟨?_, ?_, ?_⟩
  · rw [convergingWarp, merge_getD _ _ _ _ hl, if_pos hact, List.getD_eq_getElem?_getD,
      List.getElem?_replicate_of_lt hl, Option.getD_some]
  · rw [convergingWarp, setPc_pc, getD_allLanes _ hl, if_pos hact]
  · rw [convergingWarp, joinedMasks, getD_allLanes _ hl, if_pos hact]

/-- Settles O17: each instruction by the lemma of what it moves, ends or lets wait. -/
theorem controlFlow : Obligations.ControlFlow := by
  unfold Obligations.ControlFlow
  refine ⟨⟨fun f s c x h quiet => braShort_moves h quiet f, fun f s c x h quiet => ?_,
      fun f s c x h quiet sources aligned => ?_, fun f s c x h quiet sources aligned => ?_,
      fun f s c x h quiet act => ?_, fun f s c x h quiet => chkw_moves h quiet f⟩,
    fun f s c x h act => ?_, fun f s c x h act => ?_, fun f s c x h sources act => conv_waits h f sources act⟩
  · exact off24_eq_toInt f ▸ bra_moves h quiet f
  · exact (exec_brx f s).symm ▸ branchTo_moves h quiet sources aligned
  · exact (exec_ret f s).symm ▸ branchTo_moves h quiet sources aligned
  · exact off24_eq_toInt f ▸ call_moves h quiet f act
  · obtain ⟨t, hexec, y, hexits⟩ := exitShort_exits h act
    exact ⟨t, y, hexec, hexits⟩
  · obtain ⟨t, hexec, y, hexits⟩ := exit_exits h act
    exact ⟨t, y, hexec, hexits⟩

end Sys2Proof.Proofs.ControlFlow

/-!
The vector integer instructions (R112 to R125): R112's helpers as bit vectors, each operation on words, and what each form leaves
on its way.
-/

namespace Sys2Proof.Proofs.Integer

open Sys2Proof Sys2Proof.Machine Sys2Proof.Claims Sys2Proof.Laws

/-! Src, Put and Clamp (R112): the model's remainders are the bit vectors of the statements. -/

theorem truncInt_eq (n : Nat) (v : Int) : truncInt n v = (BitVec.ofInt n v).toNat := by
  rw [truncInt, BitVec.toNat_ofInt, Int.natCast_pow]
  rfl

theorem intOf_eq_src (n : Nat) (sg : Bool) (a : Nat) : intOf n sg a = src n sg a := by
  cases sg with
  | false => simp [intOf, src]
  | true =>
    have h := ControlFlow.intOf_toNat (BitVec.ofNat n a)
    simpa only [intOf, src, BitVec.toNat_ofNat, Nat.mod_mod, if_true] using h

theorem srcOf_eq_src (ty a : Nat) : srcOf ty a = src (tyBits ty) (tySigned ty) a := intOf_eq_src ..

theorem clampOf_eq_clamp (ty : Nat) (sat : Bool) (v : Int) :
    clampOf ty sat v = clamp (tyBits ty) (tySigned ty) sat v := by
  unfold clampOf clamp satInt intMin intMax
  cases sat <;> cases tySigned ty <;> simp [Int.min_comm]

theorem tyBits_le_32 {ty : Nat} (h : tyBits ty ≠ 64) : tyBits ty ≤ 32 := by
  revert h
  unfold tyBits
  split <;> decide

theorem putOf_eq_put (ty : Nat) (v : Int) : putOf ty v = put (tyBits ty) (tySigned ty) v := by
  unfold putOf put
  split
  case isTrue => exact truncInt_eq 64 v
  case isFalse narrow =>
    rw [truncInt_eq 32, truncInt_eq (tyBits ty)]
    cases tySigned ty with
    | true => rw [ControlFlow.intOf_toNat]; rfl
    | false =>
      have fits : (BitVec.ofInt (tyBits ty) v).toNat < 2 ^ 32 :=
        Nat.lt_of_lt_of_le (BitVec.isLt _) (Nat.pow_le_pow_right (by decide) (tyBits_le_32 narrow))
      rw [intOf_eq_src]
      simp only [src, Bool.false_eq_true, if_false, BitVec.ofNat_toNat, BitVec.setWidth_eq, BitVec.ofInt_natCast]
      rw [BitVec.toNat_setWidth, Nat.mod_eq_of_lt fits]

/-! The same at 32 bits, on words. -/

theorem put_32 (sg : Bool) (v : Int) : put 32 sg v = (BitVec.ofInt 32 v).toNat := by
  cases sg <;> simp [put]

theorem src_32_signed (a : Word) : src 32 true a.toNat = a.toInt := by simp [src]
theorem src_32_unsigned (a : Word) : src 32 false a.toNat = a.toNat := by simp [src]

theorem ofInt_src_32 (sg : Bool) (a : Word) : BitVec.ofInt 32 (src 32 sg a.toNat) = a := by
  cases sg <;> simp [src]

theorem ofInt_sub {n : Nat} (x y : Int) : BitVec.ofInt n (x - y) = BitVec.ofInt n x - BitVec.ofInt n y := by
  rw [Int.sub_eq_add_neg, BitVec.ofInt_add, BitVec.ofInt_neg, BitVec.sub_eq_add_neg]

theorem clamp_unsat (n : Nat) (sg : Bool) (v : Int) : clamp n sg false v = v := rfl

section
variable {ty : Nat} (word : tyBits ty = 32) (a b d : Word) (c : Nat)
include word

theorem putOf_word (v : Int) : putOf ty v = (BitVec.ofInt 32 v).toNat := by rw [putOf_eq_put, word, put_32]
theorem srcOf_word : srcOf ty a.toNat = src 32 (tySigned ty) a.toNat := by rw [srcOf_eq_src, word]

theorem add_word : intOp .add ty false a.toNat b.toNat c = (a + b).toNat := by
  simp only [intOp, clampOf_eq_clamp, clamp_unsat, putOf_word word, srcOf_word word, BitVec.ofInt_add, ofInt_src_32]

theorem sub_word : intOp .sub ty false a.toNat b.toNat c = (a - b).toNat := by
  simp only [intOp, clampOf_eq_clamp, clamp_unsat, putOf_word word, srcOf_word word, ofInt_sub, ofInt_src_32]

theorem mul_word : intOp .mul ty false a.toNat b.toNat c = (a * b).toNat := by
  simp only [intOp, clampOf_eq_clamp, clamp_unsat, putOf_word word, srcOf_word word, BitVec.ofInt_mul, ofInt_src_32]

theorem mad_word : intOp .mad ty false a.toNat b.toNat d.toNat = (a * b + d).toNat := by
  simp only [intOp, clampOf_eq_clamp, clamp_unsat, putOf_word word, srcOf_word word, BitVec.ofInt_add, BitVec.ofInt_mul,
    ofInt_src_32]

theorem and_word : intOp .and ty false a.toNat b.toNat c = (a &&& b).toNat := by
  simp only [intOp, putOf_word word, word, BitVec.toNat_mod_cancel, BitVec.ofInt_natCast, ← BitVec.toNat_and,
    BitVec.ofNat_toNat, BitVec.setWidth_eq]

theorem or_word : intOp .or ty false a.toNat b.toNat c = (a ||| b).toNat := by
  simp only [intOp, putOf_word word, word, BitVec.toNat_mod_cancel, BitVec.ofInt_natCast, ← BitVec.toNat_or,
    BitVec.ofNat_toNat, BitVec.setWidth_eq]

theorem xor_word : intOp .xor ty false a.toNat b.toNat c = (a ^^^ b).toNat := by
  simp only [intOp, putOf_word word, word, BitVec.toNat_mod_cancel, BitVec.ofInt_natCast, ← BitVec.toNat_xor,
    BitVec.ofNat_toNat, BitVec.setWidth_eq]

theorem shl_word : shiftOp .shl ty a.toNat b.toNat = (a <<< (b.toNat % 256)).toNat := by
  simp only [shiftOp, putOf_word word, word, BitVec.toNat_mod_cancel, BitVec.ofInt_natCast, BitVec.toNat_ofNat,
    BitVec.toNat_shiftLeft]

theorem shr_word : shiftOp .shr ty a.toNat b.toNat = (a >>> (b.toNat % 256)).toNat := by
  simp only [shiftOp, putOf_word word, word, BitVec.toNat_mod_cancel, BitVec.ofInt_natCast, ← BitVec.toNat_ushiftRight,
    BitVec.ofNat_toNat, BitVec.setWidth_eq]

theorem sar_word : shiftOp .sar ty a.toNat b.toNat = (a.sshiftRight (b.toNat % 256)).toNat := by
  simp only [shiftOp, putOf_word word, word, BitVec.toNat_mod_cancel, ControlFlow.intOf_toNat, BitVec.sshiftRight,
    Int.shiftRight_eq_div_pow, Int.natCast_pow, Int.cast_ofNat_Int]
end

/-! High halves, minima, maxima and magnitudes depend on how the word is read. -/

theorem srcOf_s32 (a : Word) : srcOf 0 a.toNat = a.toInt := (srcOf_word rfl a).trans (src_32_signed a)
theorem srcOf_z32 (a : Word) : srcOf 1 a.toNat = a.toNat := (srcOf_word rfl a).trans (src_32_unsigned a)

theorem ofInt_min (x y : Int) : BitVec.ofInt 32 (min x y) = if x < y then BitVec.ofInt 32 x else BitVec.ofInt 32 y := by
  rw [← apply_ite]
  congr 1
  omega

theorem ofInt_max (x y : Int) : BitVec.ofInt 32 (max x y) = if x < y then BitVec.ofInt 32 y else BitVec.ofInt 32 x := by
  rw [← apply_ite]
  congr 1
  omega

theorem ofInt_natAbs (x : Int) : BitVec.ofInt 32 x.natAbs = if x < 0 then -BitVec.ofInt 32 x else BitVec.ofInt 32 x := by
  rw [← BitVec.ofInt_neg, ← apply_ite]
  congr 1
  omega

section
variable (a b : Word) (c : Nat)

theorem mulhi_s32 : intOp .mulhi 0 false a.toNat b.toNat c = (BitVec.ofInt 32 (a.toInt * b.toInt / 2 ^ 32)).toNat := by
  simp only [intOp, putOf_word (ty := 0) rfl, srcOf_s32]
  rfl

theorem mulhi_z32 : intOp .mulhi 1 false a.toNat b.toNat c = (BitVec.ofNat 32 (a.toNat * b.toNat / 2 ^ 32)).toNat := by
  simp only [intOp, putOf_word (ty := 1) rfl, srcOf_z32]
  rfl

theorem min_s32 : intOp .min 0 false a.toNat b.toNat c = (if a.slt b then a else b).toNat := by
  simp only [intOp, putOf_word (ty := 0) rfl, srcOf_s32, ofInt_min, BitVec.ofInt_toInt, BitVec.slt_iff_toInt_lt]

theorem max_s32 : intOp .max 0 false a.toNat b.toNat c = (if a.slt b then b else a).toNat := by
  simp only [intOp, putOf_word (ty := 0) rfl, srcOf_s32, ofInt_max, BitVec.ofInt_toInt, BitVec.slt_iff_toInt_lt]

theorem min_z32 : intOp .min 1 false a.toNat b.toNat c = (if a.ult b then a else b).toNat := by
  simp only [intOp, putOf_word (ty := 1) rfl, srcOf_z32, ofInt_min, BitVec.ofInt_natCast, BitVec.ofNat_toNat,
    BitVec.setWidth_eq, Int.ofNat_lt, BitVec.ult_iff_toNat_lt]

theorem max_z32 : intOp .max 1 false a.toNat b.toNat c = (if a.ult b then b else a).toNat := by
  simp only [intOp, putOf_word (ty := 1) rfl, srcOf_z32, ofInt_max, BitVec.ofInt_natCast, BitVec.ofNat_toNat,
    BitVec.setWidth_eq, Int.ofNat_lt, BitVec.ult_iff_toNat_lt]

theorem abs_s32 : intOp .abs 0 false a.toNat b.toNat c = (if a.slt 0 then -a else a).toNat := by
  simp only [intOp, clampOf_eq_clamp, clamp_unsat, putOf_word (ty := 0) rfl, srcOf_s32, BitVec.slt_iff_toInt_lt]
  exact congrArg BitVec.toNat ((ofInt_natAbs _).trans (by simp))
end

/-! Counting and reversing bits (R120). -/

/-- The number of ones in the low bits, the lowest first: the recursion of the model's count. -/
theorem ones_succ (n a : Nat) : ones (n + 1) a = a % 2 + ones n (a / 2) := by
  simp only [ones, List.range_succ_eq_map, List.filter_cons, List.filter_map]
  have hrest : (fun i => a.testBit i) ∘ Nat.succ = fun i => (a / 2).testBit i := funext fun i => Nat.testBit_succ a i
  rw [hrest, Nat.testBit_zero]
  split <;> simp_all
  omega

theorem popcount_eq_ones (n a : Nat) : popcount n a = ones n a := by
  induction n generalizing a with
  | zero => rfl
  | succ n ih => rw [popcount, ih, ones_succ]

theorem ones_mod (n a : Nat) : ones n (a % 2 ^ n) = ones n a := by
  refine congrArg List.length (List.filter_congr fun i hi => ?_)
  simp [List.mem_range.1 hi]

theorem popcOp_eq_ones (ty a : Nat) : popcOp ty a = ones (tyBits ty) (a % 2 ^ tyBits ty) :=
  (popcount_eq_ones ..).trans (ones_mod ..).symm

theorem toNat_natCast_width (n : Nat) : ((n : BitVec n)).toNat = n :=
  (BitVec.toNat_ofNat n n).trans (Nat.mod_eq_of_lt Nat.lt_two_pow_self)

theorem clz_toNat {n : Nat} (pos : 0 < n) (x : BitVec n) :
    x.clz.toNat = if x.toNat = 0 then n else n - 1 - Nat.log2 x.toNat := by
  split
  case isTrue zero =>
    rw [BitVec.clz_eq_iff_eq_zero.2 (BitVec.eq_of_toNat_eq zero), toNat_natCast_width]
  case isFalse nonzero =>
    have hx : x ≠ 0#n := fun h => nonzero (by simp [h])
    have lt : x.clz.toNat < n :=
      Nat.lt_of_lt_of_eq (BitVec.lt_def.1 (BitVec.clz_lt_iff_ne_zero.2 hx)) (toNat_natCast_width n)
    have top : Nat.log2 x.toNat = n - 1 - x.clz.toNat := by
      refine (Nat.log2_eq_iff nonzero).2 ⟨BitVec.two_pow_sub_clz_le_toNat_of_ne_zero pos hx, ?_⟩
      rw [show n - 1 - x.clz.toNat + 1 = n - x.clz.toNat by omega]
      exact BitVec.toNat_lt_two_pow_sub_clz
    omega

theorem tyBits_pos (ty : Nat) : 0 < tyBits ty := by
  unfold tyBits
  split <;> decide

theorem clzOp_eq_clz (ty a : Nat) : clzOp ty a = (BitVec.ofNat (tyBits ty) (a % 2 ^ tyBits ty)).clz.toNat := by
  rw [clz_toNat (tyBits_pos ty), BitVec.toNat_ofNat, Nat.mod_mod]
  rfl

theorem bitrev_lt (n a : Nat) : bitrev n a < 2 ^ n := by
  induction n generalizing a with
  | zero => exact Nat.one_pos
  | succ n ih =>
    have low := ih (a / 2)
    have bit : a % 2 * 2 ^ n ≤ 1 * 2 ^ n := Nat.mul_le_mul_right _ (by omega)
    rw [bitrev, Nat.pow_succ]
    omega

theorem testBit_bitrev (n a i : Nat) : (bitrev n a).testBit i = (decide (i < n) && a.testBit (n - 1 - i)) := by
  induction n generalizing a with
  | zero => simp [bitrev]
  | succ n ih =>
    rw [bitrev, Nat.mul_comm, Nat.testBit_two_pow_mul_add _ (bitrev_lt n _)]
    split
    case isTrue below =>
      rw [ih, ← Nat.testBit_succ, show (n - 1 - i).succ = n + 1 - 1 - i by omega]
      simp [below, Nat.lt_succ_of_lt below]
    case isFalse above =>
      obtain rfl | past : i = n ∨ n < i := by omega
      · simp
      · obtain ⟨k, rfl⟩ := Nat.exists_eq_add_of_lt past
        simp [show n + k + 1 - n = k + 1 by omega, show ¬n + k < n by omega, Nat.testBit_succ]

theorem brevOp_eq_reverse (ty a : Nat) :
    brevOp ty a = (BitVec.ofNat (tyBits ty) (a % 2 ^ tyBits ty)).reverse.toNat := by
  refine Nat.eq_of_testBit_eq fun i => ?_
  rw [brevOp, testBit_bitrev, BitVec.testBit_toNat, BitVec.getLsbD_reverse, BitVec.getMsbD_eq_getLsbD, BitVec.getLsbD_ofNat]
  simp

/-! Bit fields (R121). -/

theorem bfeOp_eq (ty a ctl : Nat) : bfeOp ty a ctl = if ctl / 256 % 256 = 0 then 0 else
    put (tyBits ty) (tySigned ty) (src (ctl / 256 % 256) (tySigned ty)
      (src (tyBits ty) (tySigned ty) a / 2 ^ (ctl % 256) % 2 ^ (ctl / 256 % 256)).toNat) := by
  rw [bfeOp, putOf_eq_put, intOf_eq_src, srcOf_eq_src]
  split
  case isTrue => simp [put, BitVec.signExtend]
  case isFalse => rfl

/-- The number whose bits below `n` are those of `p`. -/
def bitSum (p : Nat → Bool) (n : Nat) : Nat := (List.range n).foldl (fun r j => r + if p j then 2 ^ j else 0) 0

theorem bitSum_succ (p : Nat → Bool) (n : Nat) : bitSum p (n + 1) = 2 ^ n * (p n).toNat + bitSum p n := by
  rw [bitSum, List.range_succ, List.foldl_append, ← bitSum]
  cases h : p n <;> simp [h, Nat.add_comm]

theorem bitSum_lt (p : Nat → Bool) (n : Nat) : bitSum p n < 2 ^ n := by
  induction n with
  | zero => exact Nat.one_pos
  | succ n ih =>
    rw [bitSum_succ, Nat.pow_succ]
    cases p n <;> simp <;> omega

theorem testBit_bitSum (p : Nat → Bool) (n i : Nat) : (bitSum p n).testBit i = (decide (i < n) && p i) := by
  induction n with
  | zero => simp [bitSum]
  | succ n ih =>
    rw [bitSum_succ, Nat.testBit_two_pow_mul_add _ (bitSum_lt p n), ih]
    split
    case isTrue below => simp [below, Nat.lt_succ_of_lt below]
    case isFalse above =>
      obtain rfl | past : i = n ∨ n < i := by omega
      · cases p i <;> simp
      · obtain ⟨k, rfl⟩ := Nat.exists_eq_add_of_lt past
        cases p n <;> simp [show n + k + 1 - n = k + 1 by omega, show ¬n + k < n by omega, Nat.testBit_succ]

/-- The bits that BFI leaves: those of `a` in the field, those of `c` around it. -/
def insertedBit (a c pos len j : Nat) : Bool := if pos ≤ j ∧ j < pos + len then a.testBit (j - pos) else c.testBit j

theorem bfiOp_eq (ty a ctl c : Nat) : bfiOp ty a ctl c = put (tyBits ty) (tySigned ty)
    (bitSum (insertedBit a c (ctl % 256) (ctl / 256 % 256)) (tyBits ty) : Nat) := by
  rw [bfiOp, putOf_eq_put]
  congr 2
  refine Nat.eq_of_testBit_eq fun j => ?_
  rw [testBit_bitSum, insertedBit]
  simp only [Nat.testBit_or, Nat.testBit_xor, Nat.testBit_and, Nat.testBit_mod_two_pow, Nat.testBit_mul_two_pow,
    Nat.testBit_two_pow_sub_one]
  have field : (decide (ctl % 256 ≤ j) && decide (j - ctl % 256 < ctl / 256 % 256)) =
      decide (ctl % 256 ≤ j ∧ j < ctl % 256 + ctl / 256 % 256) := by
    rw [← Bool.decide_and]
    exact decide_eq_decide.2 (by omega)
  rw [field]
  by_cases inside : ctl % 256 ≤ j ∧ j < ctl % 256 + ctl / 256 % 256
  · cases c.testBit j <;> simp [inside, Bool.and_comm]
  · simp [inside]

/-! The lane-wise forms: a value in each lane of ACT (R112 to R125). -/

theorem laneResult_of_intLanes {i : Instr} {d n lat : Nat} {val v : Warp → Nat → Nat}
    (runs : ∀ s, exec i s = intLanes s i d n lat val) (value : ∀ x l, val x l = v x l) : LaneResult i d n lat v := by
  obtain rfl : val = v := funext fun x => funext (value x)
  intro s c x h sources act
  rw [runs]
  exact intLanes_eq h i d n lat val sources act

theorem predResult_of_predLanes {i : Instr} {p lat : Nat} {val v : IssueCtx → Warp → Nat → Bool × Nat}
    (runs : ∀ s, exec i s = predLanes s i p lat val) (value : ∀ c x l, val c x l = v c x l) : PredResult i p lat v := by
  obtain rfl : val = v := funext fun c => funext fun x => funext (value c x)
  intro s c x h sources act _ untrapped
  rw [runs]
  exact predLanes_eq h i p lat val sources act untrapped

theorem shortInt_result {i : Instr} {f : ShortV} {op : IntOp} {ty lat : Nat} (v : Word → Word → Word → Word)
    (runs : ∀ s, exec i s = shortInt s i f op ty lat)
    (value : ∀ a b d : Word, intOp op ty false a.toNat b.toNat d.toNat = (v a b d).toNat) :
    LaneResult i f.d.toNat 1 lat (fun x l => (v (x.v f.a.toNat l) (x.v f.b.toNat l) (x.v f.d.toNat l)).toNat) :=
  laneResult_of_intLanes runs fun _ _ => value ..

theorem shortShift_result {i : Instr} {f : ShortV} {op : ShiftOp} {ty : Nat} (v : Word → Word → Word)
    (runs : ∀ s, exec i s = shortShift s i f op ty)
    (value : ∀ a b : Word, shiftOp op ty a.toNat b.toNat = (v a b).toNat) :
    LaneResult i f.d.toNat 1 1 (fun x l => (v (x.v f.a.toNat l) (x.v f.b.toNat l)).toNat) :=
  laneResult_of_intLanes runs fun _ _ => value ..

theorem shortOne_result {i : Instr} {f : ShortV} {op : Nat → Nat} (v : Word → Word)
    (runs : ∀ s, exec i s = shortOne s i f op) (value : ∀ a : Word, op a.toNat = (v a).toNat) :
    LaneResult i f.d.toNat 1 1 (fun x l => (v (x.v f.a.toNat l)).toNat) :=
  laneResult_of_intLanes runs fun _ _ => value ..

theorem immInt_result {i : Instr} {f : ImmV} {op : IntOp} {lat : Nat} (v : Word → Word → Word)
    (runs : ∀ s, exec i s = immInt s i f op lat)
    (value : ∀ a b : Word, intOp op 0 false a.toNat b.toNat 0 = (v a b).toNat) :
    LaneResult i f.d.toNat 1 lat (fun x l => (v (x.v f.a.toNat l) f.imm).toNat) :=
  laneResult_of_intLanes runs fun _ _ => value ..

theorem immShift_result {i : Instr} {f : ImmV} {op : ShiftOp} (v : Word → Word → Word)
    (runs : ∀ s, exec i s = immShift s i f op)
    (value : ∀ a b : Word, shiftOp op 1 a.toNat b.toNat = (v a b).toNat) :
    LaneResult i f.d.toNat 1 1 (fun x l => (v (x.v f.a.toNat l) f.imm).toNat) :=
  laneResult_of_intLanes runs fun _ _ => value ..

theorem longInt_result {i : Instr} {f : LongF} {op : IntOp} {a b : Nat} {v : Warp → Nat → Nat}
    (runs : ∀ s, exec i s = longInt s i f op a b)
    (value : ∀ x l, intOp op f.ty (f.m.getLsbD 2) (x.vn (tyRegs f.ty) f.a.toNat l) (x.opB f (tyRegs f.ty) l)
      (x.vn (tyRegs f.ty) f.t.toNat l) = v x l) :
    LaneResult i f.d.toNat (tyRegs f.ty) (tyLat f.ty a b) v :=
  laneResult_of_intLanes runs value

theorem longCtl_result {i : Instr} {f : LongF} (op : Nat → Nat → Nat → Nat) {v : Warp → Nat → Nat}
    (runs : ∀ s, exec i s = longCtl s i f op)
    (value : ∀ x l, op (x.vn (tyRegs f.ty) f.a.toNat l) (x.opB f 1 l) (x.vn (tyRegs f.ty) f.t.toNat l) = v x l) :
    LaneResult i f.d.toNat (tyRegs f.ty) (tyLat f.ty 1 2) v :=
  laneResult_of_intLanes runs value

theorem popc_word (a : Word) : popcOp 1 a.toNat = (BitVec.ofNat 32 (ones 32 a.toNat)).toNat := by
  have few : ones 32 a.toNat ≤ 32 := Nat.le_trans (List.length_filter_le ..) (by simp)
  rw [BitVec.toNat_ofNat, Nat.mod_eq_of_lt (by omega)]
  exact popcount_eq_ones ..

theorem ofNat_mod_word (a : Word) : BitVec.ofNat 32 (a.toNat % 2 ^ 32) = a := by
  rw [BitVec.toNat_mod_cancel, BitVec.ofNat_toNat, BitVec.setWidth_eq]

theorem clz_word (a : Word) : clzOp 1 a.toNat = a.clz.toNat :=
  (clzOp_eq_clz 1 _).trans (congrArg (fun u : Word => u.clz.toNat) (ofNat_mod_word a))

theorem brev_word (a : Word) : brevOp 1 a.toNat = a.reverse.toNat :=
  (brevOp_eq_reverse 1 _).trans (congrArg (fun u : Word => u.reverse.toNat) (ofNat_mod_word a))

/-- Settles O1: each short form by the word that its operation gives. -/
theorem shortInteger : Obligations.ShortInteger := by
  unfold Obligations.ShortInteger
  intro f
  exact ⟨shortInt_result (fun a b _ => a + b) (fun _ => rfl) fun _ _ _ => add_word rfl ..,
    shortInt_result (fun a b _ => a - b) (fun _ => rfl) fun _ _ _ => sub_word rfl ..,
    shortInt_result (fun a b _ => a * b) (fun _ => rfl) fun _ _ _ => mul_word rfl ..,
    shortInt_result (fun a b _ => BitVec.ofInt 32 (a.toInt * b.toInt / 2 ^ 32)) (fun _ => rfl) fun _ _ _ => mulhi_s32 ..,
    shortInt_result (fun a b _ => BitVec.ofNat 32 (a.toNat * b.toNat / 2 ^ 32)) (fun _ => rfl) fun _ _ _ => mulhi_z32 ..,
    shortInt_result (fun a b d => a * b + d) (fun _ => rfl) fun _ _ _ => mad_word rfl ..,
    shortInt_result (fun a b _ => if a.slt b then a else b) (fun _ => rfl) fun _ _ _ => min_s32 ..,
    shortInt_result (fun a b _ => if a.ult b then a else b) (fun _ => rfl) fun _ _ _ => min_z32 ..,
    shortInt_result (fun a b _ => if a.slt b then b else a) (fun _ => rfl) fun _ _ _ => max_s32 ..,
    shortInt_result (fun a b _ => if a.ult b then b else a) (fun _ => rfl) fun _ _ _ => max_z32 ..,
    shortInt_result (fun a _ _ => if a.slt 0 then -a else a) (fun _ => rfl) fun _ _ _ => abs_s32 ..,
    shortInt_result (fun a b _ => a &&& b) (fun _ => rfl) fun _ _ _ => and_word rfl ..,
    shortInt_result (fun a b _ => a ||| b) (fun _ => rfl) fun _ _ _ => or_word rfl ..,
    shortInt_result (fun a b _ => a ^^^ b) (fun _ => rfl) fun _ _ _ => xor_word rfl ..,
    shortShift_result (fun a b => a <<< (b.toNat % 256)) (fun _ => rfl) fun _ _ => shl_word rfl ..,
    shortShift_result (fun a b => a >>> (b.toNat % 256)) (fun _ => rfl) fun _ _ => shr_word rfl ..,
    shortShift_result (fun a b => a.sshiftRight (b.toNat % 256)) (fun _ => rfl) fun _ _ => sar_word rfl ..,
    shortOne_result (fun a => BitVec.ofNat 32 (ones 32 a.toNat)) (fun _ => rfl) popc_word,
    shortOne_result BitVec.clz (fun _ => rfl) clz_word,
    shortOne_result BitVec.reverse (fun _ => rfl) brev_word⟩

/-- Settles O2: the model's operations are R112's helpers around the same exact integers. -/
theorem longInteger : Obligations.LongInteger := by
  unfold Obligations.LongInteger
  intro f
  refine ⟨longInt_result (fun _ => rfl) ?_, longInt_result (fun _ => rfl) ?_, longInt_result (fun _ => rfl) ?_,
    longInt_result (fun _ => rfl) ?_, longInt_result (fun _ => rfl) ?_, longInt_result (fun _ => rfl) ?_,
    longInt_result (fun _ => rfl) ?_, longInt_result (fun _ => rfl) ?_, longInt_result (fun _ => rfl) ?_,
    longInt_result (fun _ => rfl) ?_, longInt_result (fun _ => rfl) ?_,
    longCtl_result (fun a k _ => shiftOp .shl f.ty a k) (fun _ => rfl) ?_,
    longCtl_result (fun a k _ => shiftOp .shr f.ty a k) (fun _ => rfl) ?_,
    longCtl_result (fun a k _ => shiftOp .sar f.ty a k) (fun _ => rfl) ?_⟩
  all_goals
    intro x l
    simp only [intOp, shiftOp, putOf_eq_put, clampOf_eq_clamp, srcOf_eq_src, intOf_eq_src, Nat.shiftLeft_eq,
      Nat.shiftRight_eq_div_pow]
    rfl

/-- Settles O3: counts, fields and reversals bit by bit; LEA, SEL and ISETP as they stand. -/
theorem longBits : Obligations.LongBits := by
  unfold Obligations.LongBits
  intro f
  exact ⟨laneResult_of_intLanes (val := fun x l => popcOp f.ty (x.vn (tyRegs f.ty) f.a.toNat l)) (fun _ => rfl)
      fun _ _ => popcOp_eq_ones ..,
    laneResult_of_intLanes (val := fun x l => clzOp f.ty (x.vn (tyRegs f.ty) f.a.toNat l)) (fun _ => rfl)
      fun _ _ => clzOp_eq_clz ..,
    laneResult_of_intLanes (val := fun x l => brevOp f.ty (x.vn (tyRegs f.ty) f.a.toNat l)) (fun _ => rfl)
      fun _ _ => brevOp_eq_reverse ..,
    longCtl_result (fun a k _ => bfeOp f.ty a k) (fun _ => rfl) fun _ _ => bfeOp_eq ..,
    longCtl_result (fun a k c => bfiOp f.ty a k c) (fun _ => rfl) fun _ _ => bfiOp_eq ..,
    laneResult_of_intLanes (val := fun x l => leaOp f.ty f.lo (x.vn (tyRegs f.ty) f.a.toNat l) (x.opB f 1 l)) (fun _ => rfl)
      fun _ _ => rfl,
    laneResult_of_intLanes (val := fun x l => if (x.p f.t.toNat).getLsbD l then x.vn 1 f.a.toNat l else x.opB f 1 l)
      (fun _ => rfl) fun _ _ => rfl,
    predResult_of_predLanes (val := fun _ x l => (icompare f.lo (srcOf f.ty (x.vn (tyRegs f.ty) f.a.toNat l))
      (srcOf f.ty (x.opB f (tyRegs f.ty) l)), 0)) (fun _ => rfl) fun _ _ _ => by
        rw [srcOf_eq_src, srcOf_eq_src]; rfl⟩

/-- Settles O4: the word operations of R117 and R119 on the immediate. -/
theorem immediateInteger : Obligations.ImmediateInteger := by
  unfold Obligations.ImmediateInteger
  intro f
  exact ⟨immInt_result (· + ·) (fun _ => rfl) fun _ _ => add_word rfl ..,
    immInt_result (· * ·) (fun _ => rfl) fun _ _ => mul_word rfl ..,
    immInt_result (· &&& ·) (fun _ => rfl) fun _ _ => and_word rfl ..,
    immInt_result (· ||| ·) (fun _ => rfl) fun _ _ => or_word rfl ..,
    immInt_result (· ^^^ ·) (fun _ => rfl) fun _ _ => xor_word rfl ..,
    immShift_result (fun a b => a <<< (b.toNat % 256)) (fun _ => rfl) fun _ _ => shl_word rfl ..,
    immShift_result (fun a b => a >>> (b.toNat % 256)) (fun _ => rfl) fun _ _ => shr_word rfl ..,
    immShift_result (fun a b => a.sshiftRight (b.toNat % 256)) (fun _ => rfl) fun _ _ => sar_word rfl ..⟩

end Sys2Proof.Proofs.Integer

/-!
Uniform arithmetic, comparisons and moves (R127 to R134): the words of the vector forms, in one uniform register.
-/

namespace Sys2Proof.Proofs.Uniform

open Sys2Proof Sys2Proof.Machine Sys2Proof.Claims Sys2Proof.Laws Sys2Proof.Proofs.Integer

theorem uniformResult_of_uniOp {i : Instr} {lat : Nat} {val v : Warp → List RegWrite}
    (runs : ∀ s, exec i s = uniOp s i lat val) (value : ∀ x, val x = v x) : UniformResult i lat v := by
  obtain rfl : val = v := funext value
  intro s c x h sources act
  rw [runs]
  exact uniOp_eq h i lat val sources act

/-- One register holds the word whose number is written. -/
theorem sWrites_word {r n : Nat} {v : Word} (h : n = v.toNat) : sWrites 1 r n = [.s r v] := by
  subst h
  simp [sWrites]

theorem shortUni_result {i : Instr} {f : ShortA} {lat : Nat} (op : Nat → Nat → Nat) (v : Word → Word → Word)
    (runs : ∀ s, exec i s = shortUni s i f lat op) (value : ∀ a b : Word, op a.toNat b.toNat = (v a b).toNat) :
    UniformResult i lat (fun x => [.s f.d.toNat (v (x.s f.d.toNat) (x.s f.b.toNat))]) :=
  uniformResult_of_uniOp runs fun _ => sWrites_word (value ..)

theorem immUni_result {i : Instr} {f : ImmU} {lat : Nat} (op : Nat → Nat → Nat) (v : Word → Word → Word)
    (runs : ∀ s, exec i s = immUni s i f lat op) (value : ∀ a b : Word, op a.toNat b.toNat = (v a b).toNat) :
    UniformResult i lat (fun x => [.s f.d.toNat (v (x.s f.d.toNat) f.imm)]) :=
  uniformResult_of_uniOp runs fun _ => sWrites_word (value ..)

theorem longUni_result {i : Instr} {f : UniF} {lat : Nat} (op : Nat → Nat → Nat) (v : Word → Word → Word)
    (runs : ∀ s, exec i s = longUni s i f lat op) (value : ∀ a b : Word, op a.toNat b.toNat = (v a b).toNat) :
    UniformResult i lat (fun x => [.s f.d.toNat (v (x.s f.a.toNat) (x.s f.t.toNat))]) :=
  uniformResult_of_uniOp runs fun _ => sWrites_word (value ..)

section
variable {ty : Nat} (word : tyBits ty = 32) (sat : Bool) (a b : Word) (c : Nat)
include word

theorem add_clamped : intOp .add ty sat a.toNat b.toNat c =
    (BitVec.ofInt 32 (clamp 32 (tySigned ty) sat (src 32 (tySigned ty) a.toNat + src 32 (tySigned ty) b.toNat))).toNat := by
  simp only [intOp, putOf_word word, clampOf_eq_clamp, srcOf_word word, word]

theorem sub_clamped : intOp .sub ty sat a.toNat b.toNat c =
    (BitVec.ofInt 32 (clamp 32 (tySigned ty) sat (src 32 (tySigned ty) a.toNat - src 32 (tySigned ty) b.toNat))).toNat := by
  simp only [intOp, putOf_word word, clampOf_eq_clamp, srcOf_word word, word]

theorem mul_clamped : intOp .mul ty sat a.toNat b.toNat c =
    (BitVec.ofInt 32 (clamp 32 (tySigned ty) sat (src 32 (tySigned ty) a.toNat * src 32 (tySigned ty) b.toNat))).toNat := by
  simp only [intOp, putOf_word word, clampOf_eq_clamp, srcOf_word word, word]

theorem bfe_word : bfeOp ty a.toNat b.toNat = (if b.toNat / 256 % 256 = 0 then 0 else
    BitVec.ofInt 32 (src (b.toNat / 256 % 256) (tySigned ty) (src 32 (tySigned ty) a.toNat / 2 ^ (b.toNat % 256) %
      2 ^ (b.toNat / 256 % 256)).toNat)).toNat := by
  rw [bfeOp_eq, word, put_32, apply_ite BitVec.toNat]
  rfl
end

/-- Settles O10: the uniform forms give the words of the vector forms, at 32 bits. -/
theorem uniformArithmetic : Obligations.UniformArithmetic := by
  unfold Obligations.UniformArithmetic
  refine ⟨fun f => ?_, fun f => ?_, fun f => ?_⟩
  · exact ⟨shortUni_result (fun a b => intOp .add 1 false a b 0) (· + ·) (fun _ => rfl) fun _ _ => add_word rfl ..,
      shortUni_result (fun a b => intOp .sub 1 false a b 0) (· - ·) (fun _ => rfl) fun _ _ => sub_word rfl ..,
      shortUni_result (fun a b => intOp .mul 1 false a b 0) (· * ·) (fun _ => rfl) fun _ _ => mul_word rfl ..,
      shortUni_result (fun a b => intOp .and 1 false a b 0) (· &&& ·) (fun _ => rfl) fun _ _ => and_word rfl ..,
      shortUni_result (fun a b => intOp .or 1 false a b 0) (· ||| ·) (fun _ => rfl) fun _ _ => or_word rfl ..,
      shortUni_result (fun a b => intOp .xor 1 false a b 0) (· ^^^ ·) (fun _ => rfl) fun _ _ => xor_word rfl ..,
      shortUni_result (shiftOp .shl 1) (fun a b => a <<< (b.toNat % 256)) (fun _ => rfl) fun _ _ => shl_word rfl ..,
      shortUni_result (shiftOp .shr 1) (fun a b => a >>> (b.toNat % 256)) (fun _ => rfl) fun _ _ => shr_word rfl ..,
      shortUni_result (fun _ b => b) (fun _ b => b) (fun _ => rfl) fun _ _ => rfl⟩
  · exact ⟨immUni_result (fun a b => intOp .add 1 false a b 0) (· + ·) (fun _ => rfl) fun _ _ => add_word rfl ..,
      immUni_result (fun a b => intOp .mul 1 false a b 0) (· * ·) (fun _ => rfl) fun _ _ => mul_word rfl ..,
      immUni_result (fun a b => intOp .and 1 false a b 0) (· &&& ·) (fun _ => rfl) fun _ _ => and_word rfl ..,
      immUni_result (fun a b => intOp .or 1 false a b 0) (· ||| ·) (fun _ => rfl) fun _ _ => or_word rfl ..,
      immUni_result (fun a b => intOp .xor 1 false a b 0) (· ^^^ ·) (fun _ => rfl) fun _ _ => xor_word rfl ..,
      immUni_result (shiftOp .shl 1) (fun a b => a <<< (b.toNat % 256)) (fun _ => rfl) fun _ _ => shl_word rfl ..,
      immUni_result (fun a b => if f.x.getLsbD 0 then shiftOp .shr 1 a b else shiftOp .sar 0 a b)
        (fun a b => if f.x.getLsbD 0 then a >>> (b.toNat % 256) else a.sshiftRight (b.toNat % 256)) (fun _ => rfl)
        fun a b => by rw [shr_word rfl, sar_word rfl, apply_ite BitVec.toNat],
      immUni_result (fun _ b => b) (fun _ b => b) (fun _ => rfl) fun _ _ => rfl⟩
  · exact ⟨fun word => longUni_result (fun a b => intOp .add f.ty (f.m.getLsbD 2) a b 0) _ (fun _ => rfl)
        fun _ _ => add_clamped word ..,
      fun word => longUni_result (fun a b => intOp .sub f.ty (f.m.getLsbD 2) a b 0) _ (fun _ => rfl)
        fun _ _ => sub_clamped word ..,
      fun word => longUni_result (fun a b => intOp .mul f.ty (f.m.getLsbD 2) a b 0) _ (fun _ => rfl)
        fun _ _ => mul_clamped word ..,
      longUni_result (fun a b => intOp .and 1 false a b 0) (· &&& ·) (fun _ => rfl) fun _ _ => and_word rfl ..,
      longUni_result (fun a b => intOp .or 1 false a b 0) (· ||| ·) (fun _ => rfl) fun _ _ => or_word rfl ..,
      longUni_result (fun a b => intOp .xor 1 false a b 0) (· ^^^ ·) (fun _ => rfl) fun _ _ => xor_word rfl ..,
      longUni_result (shiftOp .shl 1) (fun a b => a <<< (b.toNat % 256)) (fun _ => rfl) fun _ _ => shl_word rfl ..,
      longUni_result (fun a b => if f.ty = 0 then shiftOp .sar 0 a b else shiftOp .shr 1 a b)
        (fun a b => if f.ty = 0 then a.sshiftRight (b.toNat % 256) else a >>> (b.toNat % 256)) (fun _ => rfl)
        fun a b => by rw [shr_word rfl, sar_word rfl, apply_ite BitVec.toNat],
      longUni_result (fun a _ => a) (fun a _ => a) (fun _ => rfl) fun _ _ => rfl,
      fun word => longUni_result (bfeOp f.ty) _ (fun _ => rfl) fun _ _ => bfe_word word ..⟩

/-- A uniform comparison leaves the comparison of its two words, read as the form reads them (R131). -/
theorem setUni_result {i : Instr} {q k q' k' : Nat} {z : Bool} (a b : Warp → Word)
    (runs : ∀ s, exec i s = setUni s i q k z fun x => ((a x).toNat, (b x).toNat)) (hq : q = q') (hk : k = k') :
    UniformResult i 2 (fun x => [.q q' (icompare k' (src 32 (!z) (a x).toNat) (src 32 (!z) (b x).toNat))]) := by
  subst hq hk
  exact uniformResult_of_uniOp runs fun x => by simp only [intOf_eq_src]

theorem natBits_eq (x hi lo : Nat) : natBits x hi lo = x / 2 ^ lo % 2 ^ (hi + 1 - lo) := by
  rw [natBits, Nat.shiftRight_eq_div_pow]

/-- The upper bits of a field need no cut. -/
theorem natBits_top {n : Nat} (x : BitVec n) {hi lo : Nat} (h : hi + 1 = n) (le : lo ≤ n) :
    natBits x.toNat hi lo = x.toNat / 2 ^ lo := by
  rw [natBits_eq, h]
  refine Nat.mod_eq_of_lt (Nat.div_lt_of_lt_mul ?_)
  rw [← Nat.pow_add, Nat.add_sub_cancel' le]
  exact x.isLt

/-- Settles O11: comparisons and moves, with the fields as they stand in the words. -/
theorem uniformCompareAndMove : Obligations.UniformCompareAndMove := by
  unfold Obligations.UniformCompareAndMove
  refine ⟨fun f => ⟨?_, ?_, ?_, ?_⟩, fun f => ⟨?_, ?_, ?_⟩, fun f => ?_⟩
  · exact setUni_result (·.s f.d.toNat) (·.s f.b.toNat) (fun _ => rfl) rfl (natBits_top f.sub rfl (by decide))
  · exact setUni_result (·.s f.d.toNat) (·.s f.b.toNat) (fun _ => rfl) rfl (natBits_top f.sub rfl (by decide))
  · exact laneResult_of_intLanes (val := fun x _ => (x.s f.b.toNat).toNat) (fun _ => rfl) fun _ _ => rfl
  · exact uniformResult_of_uniOp (val := fun x => sWrites 1 f.d.toNat (x.v f.b.toNat (f.sub.toNat % 32)).toNat)
      (fun _ => rfl) fun _ => sWrites_word rfl
  · exact setUni_result (·.s f.a.toNat) (·.s f.t.toNat) (fun _ => rfl) rfl rfl
  · exact laneResult_of_intLanes (val := fun x _ => (x.s f.a.toNat).toNat) (fun _ => rfl) fun _ _ => rfl
  · exact uniformResult_of_uniOp (val := fun x => sWrites 1 f.d.toNat (x.v f.a.toNat (f.m.toNat % 32)).toNat)
      (fun _ => rfl) fun _ => sWrites_word rfl
  · exact setUni_result (·.s f.d.toNat) (fun _ => f.imm) (fun _ => rfl) (natBits_top f.x rfl (by decide)) (natBits_eq ..)

end Sys2Proof.Proofs.Uniform

/-!
Loads at issue (R187, R188): LDW marks its watch entries as made in every flight that bears its number, and the statement does not ask
that its number is new.
-/

namespace Sys2Proof.Proofs.Loads

open Sys2Proof Sys2Proof.Machine Sys2Proof.Claims

/-- An LDW of one byte by every lane, from the pair s0. -/
def watchLoad : LongF :=
  { c := false, d := 2, a := 0, b := 0, t := 0, k := true, g := 7, n := false, w := 0, m := 0 }

/-- The context in which it issues on every lane. -/
def ldwCtx : IssueCtx :=
  { warp := 0, path := 0xFFFFFFFF, pc := 0x10000, next := 0x1000C, first := 0x10000, w0 := 0, w1 := 0, vE := [], sE := [],
    fpctl := 0, mctl := 0 }

/-- A result on its way that bears the number the warp gives next. -/
def sameNumber : Flight := resultFlight State.reset ldwCtx fetchWarp 0xFFFFFFFF [] 1 []

def ldwWarp : Warp := { fetchWarp with flights := [sameNumber] }

/-- The machine with that warp; its core holds the translation of page 0. -/
def ldwState : State :=
  { State.reset with
    warps := [(0, ldwWarp)], issue := some ldwCtx
    cores := [(0, { Core.fresh with tlb := [{ fetchPage State.reset with base := 0, pa := 0 }] })] }

/-- What the first flight of warp 0 is in the next state. -/
def firstKind (o : Host.Outcome State Fault Refusal) : Option Pending :=
  match o with
  | .next t => (mfind t.warps 0).bind (fun y => y.flights.head?.map (·.kind))
  | _ => none

/-- LDW turns the older flight into a watched load. -/
theorem firstKind_watchLoad : firstKind (exec (.ldw watchLoad) ldwState) = some (.watched 1 false 0 true) := by
  decide +kernel

theorem firstKind_of_flights {o : Host.Outcome State Fault Refusal} {t : State} {y : Warp} {g : Flight} {fs : List Flight}
    (next : o = .next t) (warp : mfind t.warps 0 = some y) (flights : y.flights = g :: fs) : firstKind o = some g.kind := by
  simp [next, firstKind, warp, flights]

/-- Refutes O13: where a flight in the warp already bears the number that an LDW takes, the LDW changes that flight's kind too, so the
flights are not the old ones with one more. -/
theorem not_loadsIssue : ¬ Obligations.LoadsIssue := by
  unfold Obligations.LoadsIssue
  rintro ⟨-, long, -, -⟩
  obtain ⟨-, -, -, ldw, -⟩ := long watchLoad
  obtain ⟨t, y, f, next, warp, flights, -⟩ := ldw ldwState ldwCtx ldwWarp ⟨rfl, rfl⟩ (by decide +kernel)
    (by decide +kernel) (by decide +kernel)
  have unchanged : firstKind (exec (.ldw watchLoad) ldwState) = some .result := firstKind_of_flights next warp flights
  rw [firstKind_watchLoad] at unchanged
  cases unchanged

end Sys2Proof.Proofs.Loads

/-!
Floating point (R136 to R150): a lane-wise form leaves its value and flags in each lane of ACT on their way; an FFMA is noted
besides, and an EX2 that fuses takes its input from the noted FFMA's flight.
-/

namespace Sys2Proof.Proofs.Float

open Sys2Proof Sys2Proof.Machine Sys2Proof.Claims Sys2Proof.Laws Sys2Proof.Proofs.Integer

/-! The lane-wise forms. -/

theorem floatResult_of_laneOp {i : Instr} {d n lat : Nat} {val v : IssueCtx → Warp → Nat → FRes}
    (value : ∀ c x l, val c x l = v c x l) (runs : ∀ s, exec i s = laneOp s i d n lat val) : FloatResult i d n lat v := by
  obtain rfl : val = v := funext fun c => funext fun x => funext (value c x)
  intro s c x h sources act _ untrapped
  rw [runs]
  exact laneOp_eq h i d n lat val sources act untrapped

theorem shortF_result {i : Instr} {f : ShortV} (op : Bool → Nat → Nat → Nat → FRes) (runs : ∀ s, exec i s = shortF s i f op) :
    FloatResult i f.d.toNat 1 4 (fun c x l =>
      op (c.fpctl.getLsbD 0) (x.v f.a.toNat l).toNat (x.v f.b.toNat l).toNat (x.v f.d.toNat l).toNat) :=
  floatResult_of_laneOp (fun _ _ _ => rfl) runs

theorem longF_result {i : Instr} {f : LongF} (op : RMode → Bool → Nat → Nat → Nat → FRes)
    (runs : ∀ s, exec i s = longF s i f op) :
    FloatResult i f.d.toNat 1 4 (fun c x l =>
      op (RMode.of (f.m.toNat % 4)) (c.fpctl.getLsbD 0) (x.v f.a.toNat l).toNat (x.opB f 1 l) (x.v f.t.toNat l).toNat) :=
  floatResult_of_laneOp (fun _ _ _ => rfl) runs

theorem immF_result {i : Instr} {f : ImmV} (op : Bool → Nat → Nat → Nat → FRes) (runs : ∀ s, exec i s = immF s i f op) :
    FloatResult i f.d.toNat 1 4 (fun c x l =>
      op (c.fpctl.getLsbD 0) (x.v f.a.toNat l).toNat f.imm.toNat (x.v f.d.toNat l).toNat) :=
  floatResult_of_laneOp (fun _ _ _ => rfl) runs

/-- Settles O5: each form applies its operation to the operands of the lane. -/
theorem floatArithmetic : Obligations.FloatArithmetic := by
  unfold Obligations.FloatArithmetic
  refine ⟨fun f => ?_, fun f => ?_, fun f => ?_⟩
  · exact ⟨shortF_result (fun z a b _ => fp32.add .rn z a b) fun _ => rfl,
      shortF_result (fun z a b _ => fp32.sub .rn z a b) fun _ => rfl,
      shortF_result (fun z a b _ => fp32.mul .rn z a b) fun _ => rfl,
      shortF_result (fun z a b _ => fp32.minmax true z a b) fun _ => rfl,
      shortF_result (fun z a b _ => fp32.minmax false z a b) fun _ => rfl⟩
  · exact ⟨longF_result (fun r z a b _ => fp32.add r z a b) fun _ => rfl,
      longF_result (fun r z a b _ => fp32.sub r z a b) fun _ => rfl,
      longF_result (fun r z a b _ => fp32.mul r z a b) fun _ => rfl,
      longF_result (fun _ z a b _ => fp32.minmax true z a b) fun _ => rfl,
      longF_result (fun _ z a b _ => fp32.minmax false z a b) fun _ => rfl,
      longF_result (fun r z a _ _ => frndOp r z a) fun _ => rfl,
      predResult_of_predLanes (val := fun c x l => fcompare f.lo (ftzOf c) (x.vn 1 f.a.toNat l) (x.opB f 1 l)) (fun _ => rfl)
        fun _ _ _ => rfl⟩
  · exact ⟨immF_result (fun z a b _ => fp32.add .rn z a b) fun _ => rfl,
      immF_result (fun z a b _ => fp32.mul .rn z a b) fun _ => rfl⟩

/-! Packed halves (R143). -/

/-- An operation on the two halves of words. -/
def halves (g : Nat → Nat → Nat → FRes) (a b d : Nat) : FRes :=
  let lo := g (a % 65536) (b % 65536) (d % 65536)
  let hi := g (a / 65536 % 65536) (b / 65536 % 65536) (d / 65536 % 65536)
  ⟨hi.bits * 65536 + lo.bits, hi.flags ||| lo.flags⟩

theorem packed2_eq_halves (g : Nat → Nat → Nat → FRes) {a b d : Nat} (ha : a < 2 ^ 32) (hb : b < 2 ^ 32) (hd : d < 2 ^ 32) :
    packed2 g a b d = halves g a b d := by
  have upper : ∀ {u : Nat}, u < 2 ^ 32 → u / 65536 % 65536 = u / 65536 := fun h =>
    Nat.mod_eq_of_lt (Nat.div_lt_of_lt_mul h)
  simp only [packed2, halves, upper ha, upper hb, upper hd, Nat.or_comm]

theorem opB_word_lt (x : Warp) (f : LongF) (l : Nat) : x.opB f 1 l < 2 ^ 32 := by
  unfold Warp.opB
  split <;> exact BitVec.isLt _

theorem shortHalf_result {i : Instr} {f : ShortV} (g : Bool → Nat → Nat → Nat → FRes)
    (runs : ∀ s, exec i s = shortF s i f fun z => packed2 (g z)) :
    FloatResult i f.d.toNat 1 4 (fun c x l => halves (g (c.fpctl.getLsbD 0))
      (x.v f.a.toNat l).toNat (x.v f.b.toNat l).toNat (x.v f.d.toNat l).toNat) :=
  floatResult_of_laneOp (fun _ _ _ => packed2_eq_halves _ (BitVec.isLt _) (BitVec.isLt _) (BitVec.isLt _)) runs

theorem longHalf_result {i : Instr} {f : LongF} (g : RMode → Bool → Nat → Nat → Nat → FRes)
    (runs : ∀ s, exec i s = longF s i f fun r z => packed2 (g r z)) :
    FloatResult i f.d.toNat 1 4 (fun c x l => halves (g (RMode.of (f.m.toNat % 4)) (c.fpctl.getLsbD 0))
      (x.v f.a.toNat l).toNat (x.opB f 1 l) (x.v f.t.toNat l).toNat) :=
  floatResult_of_laneOp (fun _ _ _ => packed2_eq_halves _ (BitVec.isLt _) (opB_word_lt ..) (BitVec.isLt _)) runs

/-- Settles O7: each form is its operation on the two halves of the words. -/
theorem packedHalf : Obligations.PackedHalf := by
  unfold Obligations.PackedHalf
  exact ⟨fun _ => shortHalf_result (fun z a b _ => bf16.add .rn z a b) fun _ => rfl,
    fun _ => shortHalf_result (fun z a b _ => fp16.add .rn z a b) fun _ => rfl,
    fun _ => shortHalf_result (fun z a b _ => bf16.mul .rn z a b) fun _ => rfl,
    fun _ => shortHalf_result (fun z a b _ => fp16.mul .rn z a b) fun _ => rfl,
    fun _ => shortHalf_result (fun z a b d => bf16.fma .rn z a b d) fun _ => rfl,
    fun _ => shortHalf_result (fun z a b d => fp16.fma .rn z a b d) fun _ => rfl,
    fun f => longHalf_result (fun r z a b _ => (halfFmt (f.m.getLsbD 3)).add r z a b) fun _ => rfl,
    fun f => longHalf_result (fun r z a b _ => (halfFmt (f.m.getLsbD 3)).mul r z a b) fun _ => rfl,
    fun f => longHalf_result (fun r z a b d => (halfFmt (f.m.getLsbD 3)).fma r z a b d) fun _ => rfl⟩

/-! FFMA and its note (R149). -/

theorem mmod_mmod {α : Type} (m : NMap α) (k : Nat) (f g : α → α) : mmod (mmod m k f) k g = mmod m k (fun v => g (f v)) := by
  induction m with
  | nil => rfl
  | cons e r ih =>
    obtain ⟨j, v⟩ := e
    by_cases hj : j = k <;> simp [mmod, hj, ih]

theorem modWarp_modWarp (s : State) (w : Nat) (f g : Warp → Warp) :
    (s.modWarp w f).modWarp w g = s.modWarp w (fun x => g (f x)) :=
  congrArg (fun m => { s with warps := m }) (mmod_mmod ..)

/-- Only the warp that stands there is changed. -/
theorem modWarp_congr {s : State} {w : Nat} {x : Warp} {f g : Warp → Warp} (hx : mfind s.warps w = some x)
    (same : f x = g x) : s.modWarp w f = s.modWarp w g := by
  refine congrArg (fun m => { s with warps := m }) (mmod_congr _ _ _ _ fun v hv => ?_)
  rw [hx] at hv
  cases hv
  exact same

/-- The note of an FFMA that issues now. -/
def issuedNote (s : State) (c : IssueCtx) (x : Warp) (i : Instr) (d : Nat) : FfmaNote :=
  ⟨s.clk, x.nextSeq, c.pc, c.pc + 4 * i.words, c.path, guardCode (info i).guard, c.act x i, d⟩

/-- The state `t` with the FFMA that `s` issued noted, if nothing of its group is left. -/
def noted (s t : State) (c : IssueCtx) (x : Warp) (i : Instr) (d : Nat) : State :=
  if s.pend = [] then
    t.modWarp c.warp (fun y => { y with ffmas := x.ffmas.filter (fun m => m.clk == s.clk) ++ [issuedNote s c x i d] })
  else t

/-- The results of a lane-wise form: `v` in the lanes of the mask. -/
def laneResults (act : LaneMask) (v : Nat → FRes) : List FRes :=
  allLanes.map (fun l => if act.getLsbD l then v l else ⟨0, 0⟩)

/-- They are on their way to the register `d`. -/
def resultsInFlight (s : State) (c : IssueCtx) (x : Warp) (act : LaneMask) (d lat : Nat) (r : List FRes) : State :=
  inFlight s c x act (vWrites 1 d act (fun l => (r.getD l ⟨0, 0⟩).bits)) lat (r.map (·.flags))

section
variable {s : State} {c : IssueCtx} {x : Warp} (h : Issuing s c x)
include h

theorem noteFfma_inFlight {i : Instr} {act : LaneMask} (lanes : c.act x i ≠ 0) (d : Nat) (ws : List RegWrite) (lat : Nat)
    (flags : List Nat) :
    noteFfma s i d (.next (inFlight s c x act ws lat flags)) = .next (noted s (inFlight s c x act ws lat flags) c x i d) := by
  have stillIssuing : (inFlight s c x act ws lat flags).issue = some c := h.ctx
  simp only [noteFfma, h.ctx, warpD_of_find h.warp, stillIssuing, noted]
  by_cases last : s.pend = []
  · simp only [last, lanes, List.isEmpty_nil, Option.isSome_some, bne_iff_ne, ne_eq, not_false_eq_true, Bool.and_true,
      Bool.true_and, if_true]
    exact congrArg Host.Outcome.next (modWarp_congr (inFlight_warp h ..) (by simp [issuedNote]))
  · simp [last]

theorem ffma_noted {i : Instr} {d : Nat} (val : IssueCtx → Warp → Nat → FRes)
    (runs : ∀ s, exec i s = noteFfma s i d (laneOp s i d 1 4 val)) (sources : feCause c x i = none) (lanes : c.act x i ≠ 0)
    (untrapped : Untrapped c x ((laneResults (c.act x i) (val c x)).map (·.flags))) :
    exec i s = .next (noted s (resultsInFlight s c x (c.act x i) d 4 (laneResults (c.act x i) (val c x))) c x i d) := by
  rw [runs, laneOp_eq h i d 1 4 val sources lanes untrapped, noteFfma_inFlight h lanes]
  rfl
end

/-- Settles O6: the three forms of FFMA, each noted as the last of its group. -/
theorem fusedMultiplyAdd : Obligations.FusedMultiplyAdd := by
  unfold Obligations.FusedMultiplyAdd
  exact ⟨fun f _ _ _ h => ffma_noted h (fun c x l => fp32.fma .rn (c.fpctl.getLsbD 0) (x.v f.a.toNat l).toNat
      (x.v f.b.toNat l).toNat (x.v f.d.toNat l).toNat) fun _ => rfl,
    fun f _ _ _ h => ffma_noted h (fun c x l => fp32.fma (RMode.of (f.m.toNat % 4)) (c.fpctl.getLsbD 0)
      (x.v f.a.toNat l).toNat (x.opB f 1 l) (x.v f.t.toNat l).toNat) fun _ => rfl,
    fun f _ _ _ h => ffma_noted h (fun c x l => fp32.fma .rn (c.fpctl.getLsbD 0) (x.v f.a.toNat l).toNat
      f.imm.toNat (x.v f.d.toNat l).toNat) fun _ => rfl⟩

/-! EX2, alone and fused (R147 to R150). -/

theorem specialLanes_result {i : Instr} {d a lat k : Nat} {fn : SpecialFn}
    (runs : ∀ s, exec i s = specialLanes s i d a lat fn k) :
    FloatResult i d 1 lat (fun c x l =>
      specialOp fn (c.fpctl.getLsbD 0) (Config.special k (x.v a l).toNat (c.fpctl.getLsbD 0)) (x.v a l).toNat) :=
  floatResult_of_laneOp (fun _ _ _ => rfl) runs

/-- EX2 of the number `v`. -/
def ex2Of (c : IssueCtx) (v : Nat) : FRes := specialOp .ex2 (c.fpctl.getLsbD 0) (Config.special 3 v (c.fpctl.getLsbD 0)) v

/-- The number that a fused EX2 takes in lane `l`: the noted FFMA's result where that wrote one (R150). -/
def fusedOperand (n : FfmaNote) (vals : LaneVec) (x : Warp) (a l : Nat) : Nat :=
  if n.act.getLsbD l then (vals.getD l 0).toNat else (x.v a l).toNat

/-- The EX2 `i` stands where the one FFMA noted, `n`, asks for it (R149). -/
structure Follows (s : State) (c : IssueCtx) (x : Warp) (i : Instr) (n : FfmaNote) : Prop where
  notes : x.ffmas = [n]
  clk : n.clk + 1 = s.clk
  next : n.next = c.pc
  path : n.path = c.path
  guard : n.guard = guardCode (info i).guard
  freely : x.tmode.getLsbD 5 = false

/-- What is left of a write to `d` in the lanes outside the mask; other writes stay whole. -/
def uncovered (d : Nat) (act : LaneMask) (w : RegWrite) : RegWrite :=
  match w with
  | .v k m vals => if k = d then .v k (m &&& ~~~act) vals else w
  | w => w

/-- The warp whose flight `seq` no longer writes `d` in the lanes of the mask. -/
def coveredWarp (seq d : Nat) (act : LaneMask) (x : Warp) : Warp :=
  { x with flights := x.flights.map (fun h =>
      if h.seq = seq then { h with writes := h.writes.map (uncovered d act) } else h) }

section
variable {s : State} {c : IssueCtx} {x : Warp} {n : FfmaNote}

theorem fuses_ex2Short {f : ShortV} (h : Follows s c x (.ex2Short f) n) (vd : n.vd = f.a.toNat) :
    fuses s x c.path c.pc (.ex2Short f) = some n := by
  simp only [fuses, h.notes, h.clk, h.next, h.path, vd, h.guard, h.freely, beq_self_eq_true, Bool.and_true, Bool.not_false,
    List.find?_cons]

theorem fuses_ex2 {f : LongF} (h : Follows s c x (.ex2 f) n) (vd : n.vd = f.a.toNat) (waits : f.w.getLsbD 2 = true) :
    fuses s x c.path c.pc (.ex2 f) = some n := by
  simp only [fuses, h.notes, h.clk, h.next, h.path, vd, h.guard, h.freely, waits, if_true, beq_self_eq_true, Bool.and_true,
    Bool.not_false, List.find?_cons]

theorem fusedInput_of_no_notes {i : Instr} (alone : x.ffmas = []) : fusedInput s c x i = none := by
  simp only [fusedInput, fuses, alone, List.find?_nil]

theorem fusedInput_of_fuses {i : Instr} {g : Flight} {k : Nat} {m : LaneMask} {vals : LaneVec}
    (fuse : fuses s x c.path c.pc i = some n) (flight : x.flights.find? (fun g => g.seq == n.seq) = some g)
    (writes : g.writes = [.v k m vals]) : fusedInput s c x i = some (n, vals) := by
  simp only [fusedInput, fuse, flight, writes]

theorem coverFfma_eq (s : State) (w seq d : Nat) (act : LaneMask) :
    coverFfma s w seq d act = s.modWarp w (coveredWarp seq d act) := rfl

/-- Where no cause waits, covering the FFMA's result is all that is changed before the EX2 is put in flight. -/
theorem coverFfma_of_quiet {w : Nat} (hx : mfind s.warps w = some x) (quiet : x.pend = []) (p : PendCause → Bool)
    (seq d : Nat) (act : LaneMask) :
    coverFfma (s.modWarp w (fun x => { x with pend := x.pend.filter p })) w seq d act =
      s.modWarp w (fun _ => coveredWarp seq d act x) := by
  rw [coverFfma_eq, modWarp_modWarp]
  exact modWarp_congr hx (by simp only [quiet, List.filter_nil, coveredWarp])

theorem issuing_modWarp (h : Issuing s c x) (y : Warp) : Issuing (s.modWarp c.warp (fun _ => y)) c y :=
  ⟨h.ctx, by simp [State.modWarp, h.warp]⟩

variable {i : Instr} {d a : Nat} (runs : ∀ s, exec i s = ex2Lanes s i d a) (h : Issuing s c x) (lanes : c.act x i ≠ 0)
include runs h lanes

theorem ex2_plain (alone : x.ffmas = []) (sources : feCause c x i = none)
    (untrapped : Untrapped c x ((laneResults (c.act x i) fun l => ex2Of c (x.v a l).toNat).map (·.flags))) :
    exec i s = .next (resultsInFlight s c x (c.act x i) d 12 (laneResults (c.act x i) fun l => ex2Of c (x.v a l).toNat)) := by
  rw [runs, ex2Lanes, issuing_eq h]
  simp only [fusedInput_of_no_notes alone, sources]
  exact congrArg Host.Outcome.next (flyResult_eq h lanes _ _ untrapped _)

theorem ex2_fused {vals : LaneVec} (input : fusedInput s c x i = some (n, vals)) (quiet : x.pend = [])
    (untrapped : Untrapped c x ((laneResults (c.act x i) fun l => ex2Of c (fusedOperand n vals x a l)).map (·.flags))) :
    exec i s = .next (resultsInFlight (s.modWarp c.warp (fun _ => coveredWarp n.seq d (c.act x i) x)) c
      (coveredWarp n.seq d (c.act x i) x) (c.act x i) d 12
      (laneResults (c.act x i) fun l => ex2Of c (fusedOperand n vals x a l))) := by
  rw [runs, ex2Lanes, issuing_eq h]
  simp only [input, quiet, List.find?_nil, coverFfma_of_quiet h.warp quiet]
  exact congrArg Host.Outcome.next (flyResult_eq (issuing_modWarp h (coveredWarp n.seq d (c.act x i) x)) lanes _ _ untrapped _)
end

/-- Settles O8: each form by its operation, and EX2 with and without the FFMA noted before it. -/
theorem convertAndSpecial : Obligations.ConvertAndSpecial := by
  unfold Obligations.ConvertAndSpecial
  refine ⟨fun f => ⟨?_, ?_, ?_, ?_, ?_, ?_, ?_, ?plainShort, ?fusedShort⟩,
    fun f => ⟨?_, ?_, ?_, ?_, ?_, ?_, ?_, ?plainLong, ?fusedLong, ?cvt⟩⟩
  case plainShort => exact fun _ _ _ h alone sources lanes => ex2_plain (fun _ => rfl) h lanes alone sources
  case fusedShort =>
    intro s c x n g m vals h notes clk next path vd guard freely quiet flight writes lanes r y untrapped
    have fuse := fuses_ex2Short (f := f) ⟨notes, clk, next, path, guard, freely⟩ vd
    exact ex2_fused (fun _ => rfl) h lanes (fusedInput_of_fuses fuse flight writes) quiet untrapped
  case plainLong => exact fun _ _ _ h alone sources lanes => ex2_plain (fun _ => rfl) h lanes alone sources
  case fusedLong =>
    intro waits s c x n g m vals h notes clk next path vd guard freely quiet flight writes lanes r y untrapped
    have fuse := fuses_ex2 (f := f) ⟨notes, clk, next, path, guard, freely⟩ vd waits
    exact ex2_fused (fun _ => rfl) h lanes (fusedInput_of_fuses fuse flight writes) quiet untrapped
  case cvt => exact floatResult_of_laneOp (fun _ _ _ => rfl) fun _ => rfl
  all_goals exact specialLanes_result fun _ => rfl

end Sys2Proof.Proofs.Float

/-!
Cross-lane instructions (R151 to R156): each lane's value from the lanes of ACT.
-/

namespace Sys2Proof.Proofs.CrossLane

open Sys2Proof Sys2Proof.Machine Sys2Proof.Claims Sys2Proof.Laws Sys2Proof.Proofs.Integer Sys2Proof.Proofs.Float

theorem mem_lanesOf {m : LaneMask} {l : Nat} : l ∈ lanesOf m ↔ m.getLsbD l = true := by
  simp only [lanesOf, allLanes, List.mem_filter, List.mem_range, and_iff_right_iff_imp]
  exact BitVec.lt_of_getLsbD

theorem mask_eq_iff {m n : LaneMask} : m = n ↔ ∀ l, m.getLsbD l = n.getLsbD l :=
  ⟨fun same _ => same ▸ rfl, fun same => BitVec.eq_of_getLsbD_eq fun l _ => same l⟩

section
variable (p act : LaneMask)

theorem and_beq_self : (p &&& act == act) = decide (∀ l ∈ lanesOf act, p.getLsbD l = true) := by
  rw [Bool.eq_iff_iff, beq_iff_eq, decide_eq_true_iff, mask_eq_iff]
  refine forall_congr' fun l => ?_
  rw [mem_lanesOf, BitVec.getLsbD_and]
  exact Bool.and_eq_right_iff_imp

theorem and_beq_zero : (p &&& act == 0) = decide (∀ l ∈ lanesOf act, p.getLsbD l = false) := by
  rw [Bool.eq_iff_iff, beq_iff_eq, decide_eq_true_iff, mask_eq_iff]
  refine forall_congr' fun l => ?_
  rw [mem_lanesOf, BitVec.getLsbD_and, BitVec.ofNat_eq_ofNat, BitVec.getLsbD_zero]
  cases act.getLsbD l <;> simp

theorem and_bne_zero : (p &&& act != 0) = decide (∃ l ∈ lanesOf act, p.getLsbD l = true) := by
  rw [bne, and_beq_zero, ← decide_not, decide_eq_decide]
  simp

theorem and_beq_self_or_zero : (p &&& act == act || p &&& act == 0) =
    decide ((∀ l ∈ lanesOf act, p.getLsbD l = true) ∨ ∀ l ∈ lanesOf act, p.getLsbD l = false) := by
  rw [and_beq_self, and_beq_zero, Bool.decide_or]
end

theorem shflLane_eq (mode l k : Nat) : shflLane mode l k = shflFrom mode l k := by
  unfold shflLane shflFrom
  split <;> simp_all

theorem shuffled_eq (act : LaneMask) (x : Warp) (a : Nat) (j : Int) (l : Nat) :
    (⟨if 0 ≤ j ∧ j ≤ 31 ∧ act.getLsbD j.toNat = true then x.vn 1 a j.toNat else x.vn 1 a l, 0⟩ : FRes) =
      shuffled act x a j l :=
  apply_ite (fun v => (⟨v, 0⟩ : FRes)) ..

theorem exec_vote (f : LongF) (s : State) : exec (.vote f) s = execVote f s := rfl

/-- Settles O9: each form over the lanes of ACT; the votes by what the masks say of those lanes. -/
theorem crossLane : Obligations.CrossLane := by
  unfold Obligations.CrossLane
  intro f
  refine ⟨?prmt, ?redux, ?shfl, ?matchLanes, fun ballot => ?ballot, fun vote => ?vote⟩
  case prmt =>
    exact laneResult_of_intLanes (val := fun x l => prmtOp (x.vn 1 f.a.toNat l) (x.opB f 1 l) (x.vn 1 f.t.toNat l))
      (fun _ => rfl) fun _ _ => rfl
  case redux => exact floatResult_of_laneOp (fun _ _ _ => rfl) fun _ => rfl
  case shfl =>
    simp only [← shflLane_eq, ← shuffled_eq]
    exact floatResult_of_laneOp (fun _ _ _ => rfl) fun _ => rfl
  case matchLanes => exact floatResult_of_laneOp (fun _ _ _ => rfl) fun _ => rfl
  case ballot =>
    exact floatResult_of_laneOp (fun _ _ _ => rfl) fun s => (exec_vote f s).trans (if_pos ballot)
  case vote =>
    refine predResult_of_predLanes (fun s => (exec_vote f s).trans (if_neg vote)) fun c x _ => ?_
    refine congrArg (·, 0) ?_
    generalize f.m.toNat % 4 = mode
    match mode with
    | 0 => exact and_beq_self ..
    | 1 => exact and_bne_zero ..
    | _ + 2 => exact and_beq_self_or_zero ..

end Sys2Proof.Proofs.CrossLane

/-!
What stands beside the stores of the machine: what waits of a warp being looked at again, walks dropped, events counted. None of it
touches a memory, and what each leaves of a warp.
-/

namespace Sys2Proof.Proofs.Beside

open Sys2Proof Sys2Proof.Machine Sys2Proof.Claims Sys2Proof.Laws Sys2Proof.Proofs.ControlFlow

/-- `t` differs from `s` at most in warps, messages and their ports, walks, agenda, counts and numbers. -/
def Aside (s t : State) : Prop :=
  ∃ ws ms ps wk ag tot n, t =
    { s with warps := ws, msgs := ms, ports := ps, walks := wk, agenda := ag, totals := tot, nextId := n }

/-- `t` is `s` with more on its agenda. -/
def Later (s t : State) : Prop := ∃ ag, t = { s with agenda := ag } ∧ ∀ e ∈ s.agenda, e ∈ ag

section
variable {s t u : State}

theorem Aside.refl (s : State) : Aside s s := ⟨_, _, _, _, _, _, _, rfl⟩

theorem Aside.trans (h : Aside s t) (k : Aside t u) : Aside s u := by
  obtain ⟨_, _, _, _, _, _, _, rfl⟩ := h
  obtain ⟨_, _, _, _, _, _, _, rfl⟩ := k
  exact ⟨_, _, _, _, _, _, _, rfl⟩

theorem Aside.memSame (h : Aside s t) : MemSame s t := by
  obtain ⟨_, _, _, _, _, _, _, rfl⟩ := h
  exact ⟨rfl, rfl, rfl, rfl, fun _ => ⟨rfl, rfl⟩, fun _ => rfl⟩

theorem Aside.clk (h : Aside s t) : t.clk = s.clk := by
  obtain ⟨_, _, _, _, _, _, _, rfl⟩ := h
  rfl

theorem Aside.foldl {α : Type} {f : State → α → State} (step : ∀ s a, Aside s (f s a)) (l : List α) (s : State) :
    Aside s (l.foldl f s) :=
  List.foldlRecOn l f (motive := Aside s) (Aside.refl s) fun t h a _ => h.trans (step t a)

theorem Later.refl (s : State) : Later s s := ⟨_, rfl, fun _ he => he⟩

theorem Later.trans (h : Later s t) (k : Later t u) : Later s u := by
  obtain ⟨_, rfl, h⟩ := h
  obtain ⟨_, rfl, k⟩ := k
  exact ⟨_, rfl, fun e he => k e (h e he)⟩

theorem Later.aside (h : Later s t) : Aside s t := by
  obtain ⟨_, rfl, _⟩ := h
  exact ⟨_, _, _, _, _, _, _, rfl⟩

theorem Later.warps (h : Later s t) : t.warps = s.warps := by
  obtain ⟨_, rfl, _⟩ := h
  rfl

theorem Later.ite {p : Prop} [Decidable p] (h : Later s t) (k : Later s u) : Later s (if p then t else u) := by
  split
  · exact h
  · exact k
end

theorem later_after (s : State) (n : Nat) (e : Event) : Later s (s.after n e) :=
  ⟨_, rfl, fun _ h => (mem_agendaPut_iff ..).2 (.inr h)⟩

theorem aside_modWarp (s : State) (w : Nat) (f : Warp → Warp) : Aside s (s.modWarp w f) := ⟨_, _, _, _, _, _, _, rfl⟩

theorem aside_after (s : State) (n : Nat) (e : Event) : Aside s (s.after n e) := (later_after s n e).aside

/-! Events counted (R396). -/

theorem aside_countFor (s : State) (w code n : Nat) : Aside s (countFor s w code n) := ⟨_, _, _, _, _, _, _, rfl⟩

theorem countFor_warp {s : State} {w : Nat} {x : Warp} (hx : mfind s.warps w = some x) (code n : Nat) :
    ∃ ctr, mfind (countFor s w code n).warps w = some { x with ctr := ctr } :=
  ⟨_, (find_modWarp ..).trans (congrArg _ hx)⟩

theorem countFor_othersSame (s : State) (w code n : Nat) : OthersSame s (countFor s w code n) w := modWarp_othersSame s w _

/-! Walks that are over (R283, R284). -/

theorem aside_giveWalkers (s : State) : Aside s (giveWalkers s) :=
  Aside.foldl (fun s k => by split <;> exact ⟨_, _, _, _, _, _, _, rfl⟩) _ s

theorem giveWalkers_warps (s : State) : (giveWalkers s).warps = s.warps :=
  foldl_keeps State.warps (fun s k => by split <;> rfl) _ s

theorem aside_dropWalks (s : State) (p : Walk → Bool) : Aside s (dropWalks s p) := by
  unfold dropWalks
  split
  · exact Aside.trans ⟨_, _, _, _, _, _, _, rfl⟩ (aside_giveWalkers _)
  · exact Aside.refl s

@[simp] theorem dropWalks_warps (s : State) (p : Walk → Bool) : (dropWalks s p).warps = s.warps := by
  unfold dropWalks
  split
  · exact giveWalkers_warps _
  · rfl

theorem aside_endWalks (s : State) (w seq : Nat) : Aside s (endWalks s w seq) := aside_dropWalks s _

@[simp] theorem endWalks_warps (s : State) (w seq : Nat) : (endWalks s w seq).warps = s.warps := dropWalks_warps s _

/-! Messages acknowledged (R272, R433). -/

/-- Warp `w` waits no more for message `id`; its store queue is looked at again. -/
def acknowledged (id w : Nat) (s : State) : State :=
  (s.modWarp w (fun x => { x with unacked := x.unacked.filter (· != id) })).after 0 (.storeQueueExit w)

/-- A message leaves those on their way and its port, and then the warps that waited for it are told. -/
theorem ackMsg_eq (s : State) (m : Msg) : ∃ (t : State) (es : List (Nat × Warp)), Aside s t ∧ t.warps = s.warps ∧
    t.msgs = s.msgs.filter (fun n => n.id != m.id) ∧ ackMsg s m = es.foldl (fun s e => acknowledged m.id e.1 s) t := by
  unfold ackMsg
  dsimp only
  split
  case h_1 =>
    exact ⟨{ s with msgs := s.msgs.filter (fun n => n.id != m.id) }, _, ⟨_, _, _, _, _, _, _, rfl⟩, rfl, rfl, rfl⟩
  case h_2 p n hp =>
    have again (l : List Msg) (t : State) := Aside.foldl (f := fun s m => s.after 0 (m.body.event m.id))
      (fun s m => aside_after ..) l t
    refine ⟨_, _, Aside.trans ⟨_, _, _, _, _, _, _, rfl⟩ (again _ _), ?_, ?_, rfl⟩
    · exact foldl_keeps (f := fun s (m : Msg) => s.after 0 (m.body.event m.id)) State.warps (fun _ _ => rfl) _ _
    · exact foldl_keeps (f := fun s (m : Msg) => s.after 0 (m.body.event m.id)) State.msgs (fun _ _ => rfl) _ _

/-! What waits of a warp is looked at again: its holds, and then only the agenda grows. -/

/-- Every hold of a warp looked at once. -/
def settleHolds (w : Nat) (s : State) : State := (s.warpD w).holds.foldl (settleHold w) s

/-- What `settle` puts on the agenda after the holds. -/
def settleRest (w : Nat) (s : State) : State :=
  let x := s.warpD w
  let s := match x.flights.find? (fun f => f.kind.reads) with
    | some f => if f.due ≤ s.clk then s.after 0 (readEvent w f.seq f.kind) else s
    | none => s
  let s := if x.storeq.isEmpty then s else s.after 1 (.storeQueueExit w)
  let s := if (readyCauses s x).isEmpty then s else s.after 0 (.trapEntry w)
  if x.preemptReq then s.after 0 (.preempt w) else s

theorem settle_eq (s : State) (w : Nat) :
    settle s w = if (mfind s.warps w).isNone then s else settleRest w (settleHolds w (settleHolds w s)) := rfl

theorem later_settleRest (w : Nat) (s : State) : Later s (settleRest w s) := by
  unfold settleRest
  refine Later.trans (Later.trans (Later.trans ?_ (.ite (.refl _) (later_after ..))) (.ite (.refl _) (later_after ..)))
    (.ite (later_after ..) (.refl _))
  split
  · exact .ite (later_after ..) (.refl _)
  · exact .refl _

theorem settleHolds_of_holds_nil {s : State} {w : Nat} {x : Warp} (hx : mfind s.warps w = some x) (none : x.holds = []) :
    settleHolds w s = s := by
  rw [settleHolds, warpD_of_find hx, none]
  rfl

/-- A warp without holds has nothing but the agenda changed. -/
theorem later_settle {s : State} {w : Nat} (idle : ∀ x, mfind s.warps w = some x → x.holds = []) : Later s (settle s w) := by
  rw [settle_eq]
  cases hx : mfind s.warps w with
  | none => exact .refl s
  | some x =>
    rw [settleHolds_of_holds_nil hx (idle x hx), settleHolds_of_holds_nil hx (idle x hx)]
    exact later_settleRest w s

/-- A warp whose only hold has been looked at, to no more effect when it is looked at again. -/
theorem later_settle_of_hold {s t : State} {w : Nat} {x : Warp} {h : Hold} (hx : mfind s.warps w = some x)
    (one : x.holds = [h]) (first : settleHold w s h = t) (again : settleHolds w t = t) : Later t (settle s w) := by
  have hfirst : settleHolds w s = t := by rw [settleHolds, warpD_of_find hx, one, ← first]; rfl
  rw [settle_eq, hx, hfirst, again]
  exact later_settleRest w t

end Sys2Proof.Proofs.Beside

/-!
Atomics, stores and reductions at issue (R168, R176 to R181, R186): each leaves a flight or an entry of the store queue, and memory
untouched.
-/

namespace Sys2Proof.Proofs.MemoryIssue

open Sys2Proof Sys2Proof.Machine Sys2Proof.Claims Sys2Proof.Laws Sys2Proof.Proofs.ControlFlow Sys2Proof.Proofs.Beside

/-- Where no lane and no source has a cause there is none (R368). -/
theorem lowestCause_of_none {l : List (Option (Nat × DWord))} (h : ∀ c ∈ l, c = none) : lowestCause l = none :=
  ControlPort.foldl_of_mem_fixed fun c hc => by rw [h c hc]; rfl

/-- The causes of the lanes and then that of an empty source, none of them there. -/
theorem lowestCause_lanes {m : LaneMask} {cause : Nat → Option (Nat × DWord)} (lanes : ∀ l ∈ lanesOf m, cause l = none) :
    lowestCause ((lanesOf m).map cause ++ [(none : Option DWord).map (fun f => (0x09, f))]) = none := by
  refine lowestCause_of_none fun c hc => ?_
  obtain hc | hc := List.mem_append.1 hc
  · obtain ⟨l, hl, rfl⟩ := List.mem_map.1 hc
    exact lanes l hl
  · exact List.mem_singleton.1 hc

/-! Atomics. -/

/-- No entry of the watch table is an atomic's (R188). -/
theorem watchAtIssue_of_isAtom (s : State) (w : Nat) {f : Flight} (atom : f.kind.isAtom = true) : watchAtIssue s w f = s := by
  unfold watchAtIssue
  split
  case h_1 hk => rw [hk] at atom; cases atom
  case h_2 => rfl

theorem readEvent_of_isAtom (w seq : Nat) {k : Pending} (atom : k.isAtom = true) : readEvent w seq k = .homeAtomic w seq := by
  unfold readEvent
  split
  case h_1 => rfl
  case h_2 other =>
    cases k with
    | atom op ty sp opnd => exact absurd rfl (other op ty sp opnd)
    | _ => cases atom

/-- The flight of the reading instruction `m` that `x` issues. -/
def issuedRead (s : State) (c : IssueCtx) (x : Warp) (i : Instr) (m : ReadOp) : Flight :=
  readFlight s c.warp x m (m.h.spaceOf s c.warp x (m.h.base x)).1 (c.act x i) (m.h.base x) (m.h.index x) x.nextSeq c.pc c.w0 c.w1

theorem due_issuedRead (s : State) (c : IssueCtx) (x : Warp) (i : Instr) (m : ReadOp) :
    s.clk + ((issuedRead s c x i m).due - s.clk) = (issuedRead s c x i m).due := Nat.add_sub_of_le (Nat.le_add_right ..)

/-- The destination of a reading instruction is empty in the lanes of ACT, one register or two (R28). -/
theorem vE_emptyAll_issuedRead (s : State) (c : IssueCtx) (x : Warp) (i : Instr) (m : ReadOp) :
    vEmptyIn (x.emptyAll (issuedRead s c x i m).writes).vE m.h.d &&& c.act x i = c.act x i := by
  have first (n : LaneMask) : (n ||| c.act x i) &&& c.act x i = c.act x i := by
    ext
    simp +contextual
  have kept (y : Warp) (v : LaneVec) :
      vEmptyIn (y.emptyDest (.v (m.h.d + 1) (c.act x i) v)).vE m.h.d = vEmptyIn y.vE m.h.d :=
    mget_mput_other _ _ _ _ (Nat.ne_of_lt (Nat.lt_succ_self _))
  unfold issuedRead readFlight
  dsimp only
  repeat' split
  all_goals simp only [emptyAll_cons, emptyAll_nil, kept, vE_emptyDest_v, first]

/-- The warp `x` with `f` put in flight. -/
def flownWarp (x : Warp) (f : Flight) : Warp :=
  { x.emptyAll f.writes with flights := x.flights ++ [f], nextSeq := max x.nextSeq (f.seq + 1) }

theorem flownWarp_regs (x : Warp) (f : Flight) : RegsSame x (flownWarp x f) := by
  obtain ⟨⟩ := emptyAll_regs x f.writes
  constructor <;> assumption

section
variable {s : State} {c : IssueCtx} {x : Warp} {i : Instr} {m : ReadOp} (h : Issuing s c x)
include h

/-- A row held for its bank passes, and the passes counted, where the instruction has such a row (R105, R106). -/
theorem issueLoad_cases (op : readOpOf i = some m) {t : State} (flies : issueRead s i m = .next t) :
    ∃ u, issueLoad s i = .next u ∧ (u = t ∨ ∃ n k, u = countFor (holdRow t c.warp 8 n) c.warp 7 k) := by
  unfold issueLoad
  simp only [op, flies, h.ctx]
  split
  case h_1 ht hc _ =>
    cases ht
    cases hc
    exact ⟨_, rfl, .inr ⟨_, _, rfl⟩⟩
  case h_2 => exact ⟨_, rfl, .inl rfl⟩

/-- An atomic without a cause is put in flight (R177). -/
theorem issueRead_of_isAtom (atom : ∀ x ls sp, (m.kind x ls sp).isAtom = true) (sources : feCause c x i = none)
    (lanes : c.act x i ≠ 0)
    (sound : ∀ l ∈ lanesOf (c.act x i), laneCause s c.warp x m.h (spaceHit m.h s c x).1 (spaceHit m.h s c x).2 true
      ((spaceHit m.h s c x).1 == .spad && !(m.kind x [] (spaceHit m.h s c x).1).isAtom) (laneAddr m.h x l) = none) :
    issueRead s i m = .next (fly s c.warp (issuedRead s c x i m) (.homeAtomic c.warp x.nextSeq)) := by
  rw [issueRead, issuing_eq h]
  have none_ := lowestCause_lanes sound
  unfold laneAddr spaceHit at none_
  simp only [sources, none_, if_neg lanes]
  exact congrArg Host.Outcome.next ((watchAtIssue_of_isAtom _ _ (atom ..)).trans
    (congrArg (fly s c.warp _) (readEvent_of_isAtom _ _ (atom ..))))
end

theorem holdRow_memSame (s : State) (w row n : Nat) : MemSame s (holdRow s w row n) := by
  refine ⟨rfl, rfl, rfl, rfl, fun d => ?_, fun _ => rfl⟩
  by_cases hd : d = coreOf w
  · rw [hd, holdRow, core_modCore]
    exact ⟨rfl, rfl⟩
  · rw [holdRow, core_modCore_other s _ hd]
    exact ⟨rfl, rfl⟩

/-- An atomic instruction is put in flight with its lanes' addresses and operands (R176, R177, R179). -/
theorem readIssues_of_isAtom {i : Instr} {m : ReadOp} (runs : ∀ s, exec i s = issueLoad s i) (op : readOpOf i = some m)
    (atom : ∀ x ls sp, (m.kind x ls sp).isAtom = true) :
    ReadIssues i m.h (fun _ _ x ls sp => m.kind x ls sp) .homeAtomic := by
  intro s c x h sources lanes sound
  obtain ⟨u, hu, cases_⟩ := issueLoad_cases h op (issueRead_of_isAtom h atom sources lanes sound)
  have hfly : mfind (fly s c.warp (issuedRead s c x i m) (.homeAtomic c.warp x.nextSeq)).warps c.warp =
      some (flownWarp x (issuedRead s c x i m)) := fly_warp h.warp ..
  have hdue : ((issuedRead s c x i m).due, Event.homeAtomic c.warp x.nextSeq) ∈
      (fly s c.warp (issuedRead s c x i m) (.homeAtomic c.warp x.nextSeq)).agenda :=
    due_issuedRead s c x i m ▸ mem_after ..
  obtain ⟨ctr, hy, hag, hothers, hmem⟩ : ∃ ctr,
      mfind u.warps c.warp = some { flownWarp x (issuedRead s c x i m) with ctr := ctr } ∧
      ((issuedRead s c x i m).due, Event.homeAtomic c.warp x.nextSeq) ∈ u.agenda ∧ OthersSame s u c.warp ∧ MemSame s u := by
    obtain rfl | ⟨n, k, rfl⟩ := cases_
    · exact ⟨_, hfly, hdue, fly_others _ _ _, fly_mem ..⟩
    · obtain ⟨ctr, hctr⟩ := countFor_warp (s := holdRow (fly s c.warp (issuedRead s c x i m) (.homeAtomic c.warp x.nextSeq))
        c.warp 8 n) hfly 7 k
      refine ⟨ctr, hctr, hdue, othersSame_trans (t := fly s c.warp (issuedRead s c x i m) (.homeAtomic c.warp x.nextSeq))
        (fly_others _ _ _) (countFor_othersSame _ _ 7 k),
        memSame_trans (fly_mem ..) (memSame_trans (holdRow_memSame ..) (aside_countFor ..).memSame)⟩
  obtain ⟨⟩ := flownWarp_regs x (issuedRead s c x i m)
  exact ⟨u, _, issuedRead s c x i m, (runs s).trans hu, hy, rfl, Nat.max_eq_right (Nat.le_succ _), rfl, rfl, rfl,
    List.map_map .., vE_emptyAll_issuedRead s c x i m, hag, emptyAll_storeq .., by constructor <;> assumption, hothers, hmem⟩

/-- Settles O14: each form is one of the reading instructions of the table, an atomic. -/
theorem atomicsIssue : Obligations.AtomicsIssue := by
  unfold Obligations.AtomicsIssue
  intro f
  have go {i : Instr} {op : AtomOp} {space sw ord : Nat} (runs : ∀ s, exec i s = issueLoad s i)
      (is : readOpOf i = some (atomOp op (atomShape space sw ord f) f)) := readIssues_of_isAtom runs is fun _ _ _ => rfl
  exact ⟨go (fun _ => rfl) rfl, go (fun _ => rfl) rfl, go (fun _ => rfl) rfl, go (fun _ => rfl) rfl, go (fun _ => rfl) rfl,
    go (fun _ => rfl) rfl, go (fun _ => rfl) rfl, go (fun _ => rfl) rfl, go (fun _ => rfl) rfl, go (fun _ => rfl) rfl,
    go (fun _ => rfl) rfl, go (fun _ => rfl) rfl, go (fun _ => rfl) rfl, go (fun _ => rfl) rfl, go (fun _ => rfl) rfl,
    go (fun _ => rfl) rfl, go (fun _ => rfl) rfl, go (fun _ => rfl) rfl, go (fun _ => rfl) rfl, go (fun _ => rfl) rfl,
    go (fun _ => rfl) rfl, go (fun _ => rfl) rfl, go (fun _ => rfl) rfl, go (fun _ => rfl) rfl⟩

/-! Stores and reductions. -/

/-- The state in which a store takes its entry: a scratchpad store's walks are over and its bank passes counted (R106, R284). -/
def storeFront (s : State) (w : Nat) (h : Shape) (passes : Nat) : State :=
  if h.space = 1 then countFor (endWalks s w issueSeq) w 7 passes else s

theorem storeFront_spec {s : State} {w : Nat} {x : Warp} (hx : mfind s.warps w = some x) (h : Shape) (passes : Nat) :
    (∃ ctr, mfind (storeFront s w h passes).warps w = some { x with ctr := ctr }) ∧ Aside s (storeFront s w h passes) ∧
      OthersSame s (storeFront s w h passes) w := by
  unfold storeFront
  split
  · have hend : OthersSame s (endWalks s w issueSeq) w := fun v _ => by rw [endWalks_warps]
    exact ⟨countFor_warp (by rw [endWalks_warps]; exact hx) 7 passes, (aside_endWalks ..).trans (aside_countFor ..),
      othersSame_trans hend (countFor_othersSame _ _ 7 passes)⟩
  · exact ⟨⟨_, hx⟩, .refl s, othersSame_refl s w⟩

/-- What each lane of ACT stores, and where. -/
def storeAcc (h : Shape) (data : Warp → Nat → List Byte) (x : Warp) (act : LaneMask) : List LaneAcc :=
  (lanesOf act).map (fun l => { lane := l, addr := laneAddr h x l, bytes := data x l })

/-- The queue entry of warp `x`'s store (R168). -/
def issuedStore (c : IssueCtx) (x : Warp) (kind : StoreKind) (sp : Space) (size : Nat) (acc : List LaneAcc) : StoreEntry :=
  { seq := x.nextSeq, kind := kind, space := sp, size := size, acc := acc, pc := c.pc, hmode := x.handler, stuck := false,
    fail := none }

/-- A store takes its entry at the end of the queue (R168). -/
theorem pushStore_warp {s : State} {c : IssueCtx} {x : Warp} (hx : mfind s.warps c.warp = some x) (kind : StoreKind) (sp : Space)
    (size : Nat) (acc : List LaneAcc) : mfind (pushStore s c kind sp size acc).warps c.warp =
      some { x with storeq := x.storeq ++ [issuedStore c x kind sp size acc], nextSeq := x.nextSeq + 1 } := by
  unfold pushStore
  rw [after_warps, find_modWarp, hx, warpD_of_find hx]
  rfl

theorem aside_pushStore (s : State) (c : IssueCtx) (kind : StoreKind) (sp : Space) (size : Nat) (acc : List LaneAcc) :
    Aside s (pushStore s c kind sp size acc) := ⟨_, _, _, _, _, _, _, rfl⟩

theorem pushStore_othersSame (s : State) (c : IssueCtx) (kind : StoreKind) (sp : Space) (size : Nat) (acc : List LaneAcc) :
    OthersSame s (pushStore s c kind sp size acc) c.warp := modWarp_othersSame s _ _

theorem mem_pushStore_agenda (s : State) (c : IssueCtx) (kind : StoreKind) (sp : Space) (size : Nat) (acc : List LaneAcc) :
    (s.clk + 1, Event.storeQueueExit c.warp) ∈ (pushStore s c kind sp size acc).agenda := mem_after ..

/-- A store without a cause takes its entry (R165, R168). -/
theorem issueStore_eq {s : State} {c : IssueCtx} {x : Warp} {i : Instr} {h : Shape} (k : Issuing s c x) (kind : StoreKind)
    (data : Warp → Nat → List Byte) (sources : feCause c x i = none) (lanes : c.act x i ≠ 0)
    (sound : ∀ l ∈ lanesOf (c.act x i), laneCause s c.warp x h (spaceHit h s c x).1 (spaceHit h s c x).2 false true
      (laneAddr h x l) = none ∧ stashCause s c.warp x (spaceHit h s c x).1 (laneAddr h x l) = none) :
    issueStore s i h kind data = .next (pushStore
      (storeFront s c.warp h (bankPasses ((storeAcc h data x (c.act x i)).map (·.addr)))) c kind (spaceHit h s c x).1 h.size
      (storeAcc h data x (c.act x i))) := by
  rw [issueStore, issuing_eq k]
  have none_ := lowestCause_lanes fun l hl => show lowerCause (laneCause s c.warp x h (spaceHit h s c x).1 (spaceHit h s c x).2
    false true (laneAddr h x l)) (stashCause s c.warp x (spaceHit h s c x).1 (laneAddr h x l)) = none by
      rw [(sound l hl).1, (sound l hl).2]; rfl
  unfold laneAddr spaceHit at none_
  simp only [sources, none_, if_neg lanes, storeFront]
  split <;> rfl

theorem storeIssues_of_issueStore {i : Instr} {h : Shape} {kind : StoreKind} {data : Warp → Nat → List Byte}
    (runs : ∀ s, exec i s = issueStore s i h kind data) : StoreIssues i h kind data := by
  intro s c x k sources lanes sound
  obtain ⟨⟨ctr, hx⟩, haside, hothers⟩ := storeFront_spec k.warp h (bankPasses ((storeAcc h data x (c.act x i)).map (·.addr)))
  refine ⟨_, _, issuedStore c { x with ctr := ctr } kind (spaceHit h s c x).1 h.size (storeAcc h data x (c.act x i)),
    (runs s).trans (issueStore_eq k kind data sources lanes sound), pushStore_warp hx .., rfl, rfl, rfl, rfl, rfl, rfl,
    haside.clk ▸ mem_pushStore_agenda .., rfl, by constructor <;> rfl, othersSame_trans hothers (pushStore_othersSame _ _ _ _ _ _),
    (haside.trans (aside_pushStore ..)).memSame⟩

/-- Settles O15: each form takes its entry with its own shape, kind and bytes. -/
theorem storesIssue : Obligations.StoresIssue := by
  unfold Obligations.StoresIssue
  have go {i : Instr} {h : Shape} {kind : StoreKind} {data : Warp → Nat → List Byte} :=
    @storeIssues_of_issueStore i h kind data
  exact ⟨fun f => ⟨go fun _ => rfl, go fun _ => rfl⟩, fun f => ⟨go fun _ => rfl, go fun _ => rfl, go fun _ => rfl,
    go fun _ => rfl, go fun _ => rfl, go fun _ => rfl, go fun _ => rfl, go fun _ => rfl, go fun _ => rfl, go fun _ => rfl,
    go fun _ => rfl⟩⟩

end Sys2Proof.Proofs.MemoryIssue

/-!
Fences (R172 to R174, R246), the emptied buffers of IFENCE (R175), PREFETCH (R182) and the windows of the stash (R183, R185).
-/

namespace Sys2Proof.Proofs.Fences

open Sys2Proof Sys2Proof.Machine Sys2Proof.Claims Sys2Proof.Laws Sys2Proof.Proofs.ControlFlow Sys2Proof.Proofs.Float
open Sys2Proof.Proofs.Beside Sys2Proof.Proofs.MemoryIssue

/-! A warp that waits at a fence, and the same warp past it. -/

/-- The flight of a fence that warp `x` issues: it performs nothing. -/
def waitFlight (s : State) (c : IssueCtx) (x : Warp) (act : LaneMask) : Flight :=
  { seq := x.nextSeq, pc := c.pc, w0 := c.w0, w1 := c.w1, lanes := act, kind := .hold, writes := [], acc := [], flags := [],
    due := s.clk, ucap := BitVec.ofNat 64 s.nextId, ord := 0, fused := false, hmode := x.handler }

/-- The warp `x` with a fence in flight and `h` its only hold. -/
def heldWarp (s : State) (c : IssueCtx) (x : Warp) (act : LaneMask) (h : Hold) : Warp :=
  { x with flights := x.flights ++ [waitFlight s c x act], nextSeq := x.nextSeq + 1, holds := [h] }

/-- The state in which the issuing warp waits so. -/
def held (s : State) (c : IssueCtx) (x : Warp) (act : LaneMask) (h : Hold) : State :=
  s.modWarp c.warp (fun _ => heldWarp s c x act h)

/-- The warp `x` past a fence that it has issued. -/
def pastWarp (x : Warp) : Warp := { x with nextSeq := x.nextSeq + 1, holds := [] }

/-- The state in which the issuing warp is past it. -/
def past (s : State) (c : IssueCtx) (x : Warp) : State := s.modWarp c.warp (fun _ => pastWarp x)

section
variable {s : State} {c : IssueCtx} {x : Warp} {act : LaneMask}

theorem loadsDone_held (h : Hold) (q : Nat) : loadsDone (heldWarp s c x act h) q = loadsDone x q := by
  simp [loadsDone, heldWarp, waitFlight, Pending.reads]

theorem relDrained_held (h : Hold) (q : Nat) : relDrained (heldWarp s c x act h) q = relDrained x q := by
  rw [relDrained, loadsDone_held]
  rfl

theorem relDone_held (h : Hold) (q : Nat) (wide : Bool) (mark : Option Nat) :
    relDone (held s c x act h) c.warp (heldWarp s c x act h) q wide mark = relDone s c.warp x q wide mark := by
  rw [relDone, relDrained_held]
  rfl

theorem wideScope_held (h : Hold) (scope : Nat) :
    wideScope (held s c x act h) (heldWarp s c x act h) scope = wideScope s x scope := rfl

variable (k : Issuing s c x)
include k

theorem held_warp (h : Hold) : mfind (held s c x act h).warps c.warp = some (heldWarp s c x act h) := by
  rw [held, find_modWarp, k.warp]
  rfl

theorem past_warp : mfind (past s c x).warps c.warp = some (pastWarp x) := by
  rw [past, find_modWarp, k.warp]
  rfl

theorem holdFlight_eq (idle : x.holds = []) (hold : Nat → Hold) :
    holdFlight s c.warp act hold c.pc c.w0 c.w1 = held s c x act (hold x.nextSeq) := by
  rw [holdFlight, warpD_of_find k.warp]
  exact modWarp_congr k.warp (by simp only [heldWarp, waitFlight, idle, List.nil_append])

theorem putHold_held (h g : Hold) : putHold (held s c x act h) c.warp h g = held s c x act g := by
  rw [putHold, held, modWarp_modWarp]
  exact modWarp_congr k.warp (by simp [heldWarp])

theorem endHold_held (fresh : ∀ g ∈ x.flights, g.seq ≠ x.nextSeq) (h : Hold) :
    endHold (held s c x act h) c.warp h x.nextSeq = past s c x := by
  have kept : x.flights.filter (fun g => g.seq != x.nextSeq) = x.flights :=
    List.filter_eq_self.2 fun g hg => by simpa using fresh g hg
  rw [endHold, held, modWarp_modWarp]
  exact modWarp_congr k.warp (by simp [heldWarp, pastWarp, waitFlight, kept])

/-! One hold, looked at while the warp has no other. -/

/-- A FENCE ends, with its acquire, when its condition holds, and else notes the first message it need not wait for (R172, R293). -/
theorem settleHold_fence (fresh : ∀ g ∈ x.flights, g.seq ≠ x.nextSeq) (kind scope : Nat) (mark : Option Nat) :
    settleHold c.warp (held s c x act (.fence kind scope x.nextSeq mark)) (.fence kind scope x.nextSeq mark) =
      if (if kind = 0 then loadsDone x x.nextSeq
        else relDone s c.warp x x.nextSeq (wideScope s x scope) (some (mark.getD s.nextId))) then
        if kind = 1 then past s c x else acquire (past s c x) c.warp (wideScope s x scope)
      else held s c x act (.fence kind scope x.nextSeq
        (if kind ≠ 0 ∧ relDrained x x.nextSeq = true then some (mark.getD s.nextId) else mark)) := by
  have hid : (held s c x act (.fence kind scope x.nextSeq mark)).nextId = s.nextId := rfl
  simp only [settleHold, warpD_of_find (held_warp k _), wideScope_held, loadsDone_held, relDrained_held, relDone_held, hid,
    putHold_held k, endHold_held k fresh, bne_iff_ne, Bool.and_eq_true]
  rw [if_neg (by simp [heldWarp])]
  by_cases drained : kind ≠ 0 ∧ relDrained x x.nextSeq = true
  · rw [if_pos drained, if_pos drained]
  · rw [if_neg drained, if_neg drained]

/-- A FENCE.SC that has drained waits for the heartbeat (R173). -/
theorem settleHold_fenceSc (scope : Nat) (drained : Bool) (mark : Option Nat) :
    settleHold c.warp (held s c x act (.fenceSc scope x.nextSeq drained mark)) (.fenceSc scope x.nextSeq drained mark) =
      if drained then held s c x act (.fenceSc scope x.nextSeq drained mark)
      else held s c x act (.fenceSc scope x.nextSeq (relDone s c.warp x x.nextSeq true (some (mark.getD s.nextId)))
        (if relDrained x x.nextSeq then some (mark.getD s.nextId) else mark)) := by
  have hid : (held s c x act (.fenceSc scope x.nextSeq drained mark)).nextId = s.nextId := rfl
  cases drained with
  | true => simp only [settleHold, warpD_of_find (held_warp k _)]; simp [heldWarp]
  | false =>
    have drains : relDone s c.warp x x.nextSeq true (some (mark.getD s.nextId)) = true → relDrained x x.nextSeq = true :=
      fun h => (Bool.and_eq_true_iff.1 h).1
    simp only [settleHold, warpD_of_find (held_warp k _), relDrained_held, relDone_held, hid, putHold_held k]
    rw [if_neg (by simp [heldWarp])]
    by_cases rel : relDone s c.warp x x.nextSeq true (some (mark.getD s.nextId)) = true
    · simp [rel, drains rel]
    · by_cases hd : relDrained x x.nextSeq = true <;> simp [rel, hd]

/-- DRAINST ends once the stores before it have left and are acknowledged (R174, R380). -/
theorem settleHold_drain (fresh : ∀ g ∈ x.flights, g.seq ≠ x.nextSeq) :
    settleHold c.warp (held s c x act (.drain x.nextSeq)) (.drain x.nextSeq) =
      if ((x.storeq.filter (fun e => decide (e.seq < x.nextSeq))).isEmpty || (x.handler && storesHeld x)) && x.unacked.isEmpty
      then past s c x else held s c x act (.drain x.nextSeq) := by
  simp only [settleHold, warpD_of_find (held_warp k _), endHold_held k fresh]
  rw [if_neg (by simp [heldWarp])]
  rfl

/-- MFENCE ends once its context's earlier commands let it (R246). -/
theorem settleHold_mfence (fresh : ∀ g ∈ x.flights, g.seq ≠ x.nextSeq) (ctx kind : Nat) :
    settleHold c.warp (held s c x act (.mfence ctx kind x.nextSeq)) (.mfence ctx kind x.nextSeq) =
      if mfenceDone s c.warp ctx kind (s.nextId % 2 ^ 64) then past s c x else held s c x act (.mfence ctx kind x.nextSeq) := by
  have found : (heldWarp s c x act (.mfence ctx kind x.nextSeq)).flights.find? (fun f => f.seq == x.nextSeq) =
      some (waitFlight s c x act) := by
    rw [heldWarp, List.find?_append, List.find?_eq_none.2 fun g hg => by simpa using fresh g hg]
    simp [waitFlight]
  simp only [settleHold, warpD_of_find (held_warp k _), endHold_held k fresh, found]
  rw [if_neg (by simp [heldWarp])]
  simp only [waitFlight, BitVec.toNat_ofNat]
  rfl

/-! A fence at issue. -/

theorem issueHold_eq {i : Instr} {hold : Nat → Hold} (idle : x.holds = []) (lanes : c.act x i ≠ 0) :
    issueHold s i hold = .next (settle (held s c x (c.act x i) (hold x.nextSeq)) c.warp) := by
  rw [issueHold, issuing_eq k]
  simp only [if_neg lanes, holdFlight_eq k idle]

/-- A state that stays as it is when the warp's hold is looked at. -/
theorem settleHolds_held {h : Hold} (still : settleHold c.warp (held s c x act h) h = held s c x act h) :
    settleHolds c.warp (held s c x act h) = held s c x act h := by
  rw [settleHolds, warpD_of_find (held_warp k h)]
  exact still

omit k in
theorem acquire_frame (t : State) (w : Nat) (wide : Bool) : (acquire t w wide).warps = t.warps ∧ (acquire t w wide).hbm = t.hbm := by
  cases wide <;> exact ⟨rfl, rfl⟩

/-- A fence whose condition holds ends at once; any other leaves the warp held. -/
theorem fence_issues {i : Instr} {hold : Nat → Hold} (runs : ∀ s, exec i s = issueHold s i hold) (idle : x.holds = [])
    (lanes : c.act x i ≠ 0) {ended : Bool} {left : Hold} {t : State}
    (first : settleHold c.warp (held s c x (c.act x i) (hold x.nextSeq)) (hold x.nextSeq) =
      if ended then t else held s c x (c.act x i) left)
    (passes : t.warps = (past s c x).warps ∧ t.hbm = s.hbm)
    (again : ended = false → settleHold c.warp (held s c x (c.act x i) left) left = held s c x (c.act x i) left) :
    ∃ t y, exec i s = .next t ∧ mfind t.warps c.warp = some y ∧ y.nextSeq = x.nextSeq + 1 ∧
      (if ended then y.holds = [] ∧ y.flights = x.flights
       else y.holds = [left] ∧ ∃ g, y.flights = x.flights ++ [g] ∧ g.kind = .hold ∧ g.seq = x.nextSeq) ∧
      RegsSame x y ∧ OthersSame s t c.warp ∧ t.hbm = s.hbm := by
  have settled (u : State) (looked : settleHold c.warp (held s c x (c.act x i) (hold x.nextSeq)) (hold x.nextSeq) = u)
      (still : settleHolds c.warp u = u) := later_settle_of_hold (held_warp k (hold x.nextSeq)) rfl looked still
  have runs := (runs s).trans (issueHold_eq k idle lanes)
  cases ended with
  | true =>
    obtain ⟨hwarps, hhbm⟩ := passes
    have hwarp : mfind t.warps c.warp = some (pastWarp x) := hwarps ▸ past_warp k
    have later := settled t first (settleHolds_of_holds_nil hwarp rfl)
    refine ⟨_, pastWarp x, runs, later.warps ▸ hwarp, rfl, ⟨rfl, rfl⟩, by constructor <;> rfl, fun v hv => ?_,
      later.aside.memSame.hbm.trans hhbm⟩
    rw [later.warps, hwarps]
    exact find_modWarp_other s _ hv
  | false =>
    have later := settled _ first (settleHolds_held k (again rfl))
    refine ⟨_, _, runs, later.warps ▸ held_warp k left, rfl, ⟨rfl, _, rfl, rfl, rfl⟩, by constructor <;> rfl, fun v hv => ?_,
      later.aside.memSame.hbm.trans rfl⟩
    rw [later.warps]
    exact find_modWarp_other s _ hv

/-- The hold that a FENCE.SC has left (R173). -/
def scHold (s : State) (c : IssueCtx) (x : Warp) (f : LongF) : Hold :=
  .fenceSc (f.m.toNat % 4) x.nextSeq (relDone s c.warp x x.nextSeq true (some s.nextId))
    (if relDrained x x.nextSeq then some s.nextId else none)

/-- FENCE.SC always waits, drained or not (R173). -/
theorem fenceSc_issues (f : LongF) (idle : x.holds = []) (lanes : c.act x (.fenceSc f) ≠ 0) :
    ∃ t y, exec (.fenceSc f) s = .next t ∧ mfind t.warps c.warp = some y ∧
      y.holds = [.fenceSc (f.m.toNat % 4) x.nextSeq (relDone s c.warp x x.nextSeq true (some s.nextId))
        (if relDrained x x.nextSeq then some s.nextId else none)] ∧
      RegsSame x y ∧ OthersSame s t c.warp ∧ MemSame s t := by
  have marked : (if relDrained x x.nextSeq then some s.nextId else none).getD s.nextId = s.nextId := by split <;> rfl
  have again : settleHold c.warp (held s c x (c.act x (.fenceSc f)) (scHold s c x f)) (scHold s c x f) =
      held s c x (c.act x (.fenceSc f)) (scHold s c x f) := by
    rw [scHold, settleHold_fenceSc k, marked]
    split
    · rfl
    · cases relDrained x x.nextSeq <;> rfl
  have later := later_settle_of_hold (held_warp k _) rfl
    (settleHold_fenceSc (act := c.act x (.fenceSc f)) k (f.m.toNat % 4) false none) (settleHolds_held k again)
  refine ⟨_, _, (issueHold_eq k idle lanes : exec (.fenceSc f) s = _), later.warps ▸ held_warp k _, rfl,
    by constructor <;> rfl, fun v hv => ?_, memSame_trans (modWarp_memSame s _ _) later.aside.memSame⟩
  rw [later.warps]
  exact find_modWarp_other s _ hv
end

/-! IFENCE and PREFETCH (R175, R182). -/

theorem lanesOf_laneBit {l : Nat} (hl : l < 32) : lanesOf (laneBit l) = [l] := by
  revert l
  decide

/-- Warp `w` stands in `s` with the registers it has as `x`. -/
def HasRegs (w : Nat) (x : Warp) (s : State) : Prop := ∃ y, mfind s.warps w = some y ∧ RegsSame x y

section
variable {w : Nat} {x : Warp} {s : State}

theorem HasRegs.of_warps {t : State} (h : HasRegs w x s) (same : t.warps = s.warps) : HasRegs w x t := by
  obtain ⟨y, hy, regs⟩ := h
  exact ⟨y, same ▸ hy, regs⟩

theorem HasRegs.foldl {α : Type} {f : State → α → State} (h : HasRegs w x s) (step : ∀ t a, HasRegs w x t → HasRegs w x (f t a))
    (l : List α) : HasRegs w x (l.foldl f s) := List.foldlRecOn l f h fun t ht a _ => step t a ht

/-- Acknowledging a message leaves the registers of the warps that waited for it (R272). -/
theorem HasRegs.ackMsg (h : HasRegs w x s) (m : Msg) : HasRegs w x (ackMsg s m) := by
  obtain ⟨t, es, -, hwarps, -, heq⟩ := ackMsg_eq s m
  rw [heq]
  refine HasRegs.foldl (h.of_warps hwarps) (fun t e ht => ?_) _
  obtain ⟨y, hy, regs⟩ := ht
  obtain rfl | other := Decidable.em (e.1 = w)
  · exact ⟨_, (find_modWarp ..).trans (congrArg _ hy), by obtain ⟨⟩ := regs; constructor <;> assumption⟩
  · exact ⟨y, (find_modWarp_other t _ (Ne.symm other)).trans hy, regs⟩

theorem HasRegs.writeBackWord (h : HasRegs w x s) (word : Nat) (drop : Bool) : HasRegs w x (writeBackWord s word drop) :=
  h.of_warps (ControlPort.writeBackWord_warps ..)

theorem HasRegs.registerWord (h : HasRegs w x s) (word c : Nat) : HasRegs w x (registerWord s word c) := by
  refine h.of_warps ((ControlPort.l2Touch_warps ..).trans ?_)
  dsimp only [modCore_warps]
  split
  · rfl
  · exact ControlPort.writeBackWord_warps ..

theorem HasRegs.joinSector (h : HasRegs w x s) (c : Option Nat) (sector : Nat) : HasRegs w x (joinSector s c sector) := by
  refine HasRegs.foldl h (fun t m ht => ?_) _
  repeat' split
  · exact (ht.registerWord ..).ackMsg m
  all_goals exact ht

theorem HasRegs.registerAt (h : HasRegs w x s) (word c : Nat) : HasRegs w x (registerAt s word c) := by
  refine HasRegs.registerWord ?_ word c
  repeat' split
  · exact h
  · exact h.joinSector ..
  · exact h

theorem HasRegs.deliverRegs (h : HasRegs w x s) (c : Nat) (p : Nat → Bool) : HasRegs w x (deliverRegs s c p) := by
  refine HasRegs.foldl h (fun t m ht => ?_) _
  repeat' split
  · exact (ht.registerAt ..).ackMsg m
  all_goals exact ht

theorem HasRegs.forwardRead (h : HasRegs w x s) (c : Option Nat) (key n : Nat) : HasRegs w x (forwardRead s c key n) := by
  refine HasRegs.foldl (HasRegs.foldl h (fun t i ht => ht.joinSector ..) _) (fun t i ht => ?_) _
  repeat' split
  · exact ht
  · exact ht.of_warps rfl
  · exact ht

theorem HasRegs.l1Evict (h : HasRegs w x s) (c region : Nat) : HasRegs w x (l1Evict s c region) := by
  unfold Machine.l1Evict
  split
  · exact h
  · refine HasRegs.of_warps (HasRegs.foldl (h.deliverRegs ..) (fun t i ht => ?_) _) rfl
    split
    · exact ht.writeBackWord ..
    · exact ht

theorem HasRegs.l1Alloc (h : HasRegs w x s) (c region g dev : Nat) : HasRegs w x (l1Alloc s c region g dev) := by
  unfold Machine.l1Alloc
  split
  · exact h
  · refine HasRegs.of_warps ?_ (modCore_warps ..)
    repeat' split
    · exact h.l1Evict ..
    all_goals exact h

/-- A fill of the L1 changes no register (R269, R270). -/
theorem HasRegs.l1Fill (h : HasRegs w x s) (c key g dev : Nat) : HasRegs w x (l1Fill s c key g dev) := by
  refine HasRegs.of_warps ?_ (modCore_warps ..)
  have read := (h.l1Alloc c (key / 512) g dev).forwardRead (some c) (key / grainBytes g * grainBytes g) (grainBytes g)
  split
  · exact HasRegs.foldl read (fun t i ht => ht.of_warps (ControlPort.l2Touch_warps ..)) _
  · exact read

theorem HasRegs.prefetchLane (h : HasRegs w x s) (v asid size lvl a : Nat) : HasRegs w x (prefetchLane s v asid size lvl a) := by
  unfold Machine.prefetchLane
  split
  case isTrue => exact h
  split
  case h_1 => exact h
  case h_2 e _ =>
    dsimp only
    repeat' split
    case isFalse.isTrue.isTrue => exact h.of_warps (ControlPort.l2Touch_warps ..)
    case isFalse.isFalse.isFalse => exact h.l1Fill ..
    all_goals exact h

end

theorem exec_prefetch (f : LongF) (s : State) : exec (.prefetch f) s = execPrefetch f s := rfl

section
variable {s : State} {c : IssueCtx} {x : Warp} (k : Issuing s c x)
include k

/-- PREFETCH of one lane whose address is sound, translated and readable, and not in the L1, fills the L1 (R182). -/
theorem prefetch_fills {f : LongF} {l : Nat} {e : TlbEntry} (sources : feCause c x (.prefetch f) = none)
    (one : c.act x (.prefetch f) = laneBit l) (hl : l < 32) (level : f.m.toNat % 4 ≠ 1)
    (aligned : laneAddr (mtShape 0 0 0 false f) x l % mtSize f.ty = 0) (bound : laneAddr (mtShape 0 0 0 false f) x l < 2 ^ 57)
    (held : coreXlate s (coreOf c.warp) x.asid (laneAddr (mtShape 0 0 0 false f) x l) = some e) (readable : e.r = true)
    (cold : l1Hit s (coreOf c.warp) (e.key s (laneAddr (mtShape 0 0 0 false f) x l)) = false) :
    exec (.prefetch f) s =
      .next (l1Fill s (coreOf c.warp) (e.key s (laneAddr (mtShape 0 0 0 false f) x l)) e.grain e.dev) := by
  rw [exec_prefetch, execPrefetch, issuing_eq k]
  have sound : ¬(laneAddr (mtShape 0 0 0 false f) x l % mtSize f.ty ≠ 0 ∨ laneAddr (mtShape 0 0 0 false f) x l ≥ 2 ^ 57) := by
    omega
  simp only [sources, one, lanesOf_laneBit hl, List.foldl_cons, List.foldl_nil]
  refine congrArg Host.Outcome.next (Eq.trans (if_neg sound) ?_)
  unfold laneAddr at held cold ⊢
  simp only [held, readable, cold, level, Bool.not_true, Bool.false_eq_true, if_false]

/-- Whatever PREFETCH fills, its warp keeps its registers (R182). -/
theorem prefetch_keeps (f : LongF) : ∃ t y, exec (.prefetch f) s = .next t ∧
    (feCause c x (.prefetch f) = none → mfind t.warps c.warp = some y ∧ RegsSame x y) := by
  rw [exec_prefetch, execPrefetch, issuing_eq k]
  cases sources : feCause c x (.prefetch f) with
  | some fa => exact ⟨_, x, rfl, nofun⟩
  | none =>
    have kept : HasRegs c.warp x s := ⟨x, k.warp, by constructor <;> rfl⟩
    obtain ⟨y, hy, regs⟩ := HasRegs.foldl (f := fun s l => prefetchLane s c.warp x.asid (mtShape 0 0 0 false f).size
      (f.m.toNat % 4) ((mtShape 0 0 0 false f).addr ((mtShape 0 0 0 false f).base x) ((mtShape 0 0 0 false f).index x l)))
      kept (fun t l ht => ht.prefetchLane ..) (lanesOf (c.act x (.prefetch f)))
    exact ⟨_, y, rfl, fun _ => ⟨hy, regs⟩⟩
end

/-! The windows of the stash (R183, R185). -/

theorem exec_smap (f : LongF) (s : State) : exec (.smap f) s = execSmap f s := rfl

/-- The window that an SMAP of warp `x` asks for, of group `g` (R183). -/
def smapWindow (f : LongF) (x : Warp) (g : Nat) : Window :=
  { gi := g, num := f.d.toNat, base := x.s64 f.t.toNat, off := (x.s (bReg f)).toNat % 65536,
    len := (x.s (bReg f)).toNat / 65536, asid := x.asid }

/-- It lies in the stash and meets no other window of its group (R183). -/
structure SmapSound (s : State) (c : IssueCtx) (wn : Window) : Prop where
  aligned : wn.base % 128 = 0
  some_ : 0 < wn.len
  fits : (wn.off + wn.len) * 128 ≤ (s.core (coreOf c.warp)).stash
  apart : ∀ v ∈ (s.core (coreOf c.warp)).wins, v.gi = wn.gi → v.num ≠ wn.num →
    v.off + v.len ≤ wn.off ∨ wn.off + wn.len ≤ v.off

/-- A DRAINST of a warp outside handler mode waits while an earlier entry is in the store queue (R174). -/
theorem settleHold_drain_waits {t : State} {y : Warp} {e : StoreEntry} {w q : Nat} (hy : mfind t.warps w = some y)
    (mode : y.handler = false) (queued : e ∈ y.storeq) (earlier : e.seq < q) : settleHold w t (.drain q) = t := by
  have left : (y.storeq.filter (fun e => decide (e.seq < q))).isEmpty = false :=
    Bool.eq_false_iff.2 fun h => List.ne_nil_of_mem (List.mem_filter.2 ⟨queued, decide_eq_true earlier⟩) (List.isEmpty_iff.1 h)
  simp only [settleHold, warpD_of_find hy, left, mode, Bool.false_and, Bool.or_false, Bool.false_eq_true, if_false]
  exact ite_self _

section
variable {s : State} {c : IssueCtx} {x : Warp} {f : LongF} {g : Nat} (k : Issuing s c x)
include k

/-- What a sound SMAP does: it maps its window, or unmaps the one of its number first (R183). -/
theorem exec_smap_sound (sources : feCause c x (.smap f) = none) (lanes : c.act x (.smap f) ≠ 0) (group : x.group? 0 = some g)
    (sound : SmapSound s c (smapWindow f x g)) :
    exec (.smap f) s = .next (if (s.core (coreOf c.warp)).wins.any (fun wn => wn.gi == g && wn.num == f.d.toNat) then
        settle ((pushStore s c (.sflush [f.d.toNat] true (some (f.d.toNat, x.s64 f.t.toNat, (x.s (bReg f)).toNat % 65536,
          (x.s (bReg f)).toNat / 65536))) .spad 0 noAccess).modWarp c.warp
            (fun x => { x with holds := x.holds ++ [.drain x.nextSeq], nextSeq := x.nextSeq + 1 })) c.warp
      else s.modCore (coreOf c.warp) (fun k => { k with wins := k.wins ++ [smapWindow f x g] })) := by
  obtain ⟨aligned, some_, fits, apart⟩ := sound
  have clash : (s.core (coreOf c.warp)).wins.any (fun v => v.gi == g && v.num != f.d.toNat &&
      decide (v.off < (x.s (bReg f)).toNat % 65536 + (x.s (bReg f)).toNat / 65536) &&
      decide ((x.s (bReg f)).toNat % 65536 < v.off + v.len)) = false := by
    refine List.any_eq_false.2 fun v hv => ?_
    have := apart v hv
    simp only [smapWindow] at this
    simp only [Bool.and_eq_true, beq_iff_eq, bne_iff_ne, decide_eq_true_eq]
    omega
  simp only [smapWindow] at aligned some_ fits
  rw [exec_smap, execSmap, issuing_eq k]
  simp only [if_neg lanes, aligned, group, clash, sources, Nat.ne_of_gt some_, Nat.not_lt.2 fits, ne_eq, not_true_eq_false,
    if_false, decide_false, Bool.or_false, Bool.false_eq_true, Option.map_none, lowerCause]
  split <;> rfl

theorem smap_maps (sources : feCause c x (.smap f) = none) (lanes : c.act x (.smap f) ≠ 0) (group : x.group? 0 = some g)
    (sound : SmapSound s c (smapWindow f x g)) (new : ∀ v ∈ (s.core (coreOf c.warp)).wins, v.gi = g → v.num ≠ f.d.toNat) :
    exec (.smap f) s = .next (s.modCore (coreOf c.warp) (fun k => { k with wins := k.wins ++ [smapWindow f x g] })) := by
  have none_ : (s.core (coreOf c.warp)).wins.any (fun wn => wn.gi == g && wn.num == f.d.toNat) = false :=
    List.any_eq_false.2 fun v hv => by simpa using new v hv
  rw [exec_smap_sound k sources lanes group sound, none_]
  rfl

/-- The queue entry that unmaps the window of an SMAP's number and maps its own. -/
def remapEntry (f : LongF) (c : IssueCtx) (x : Warp) : StoreEntry :=
  issuedStore c x (.sflush [f.d.toNat] true (some (f.d.toNat, x.s64 f.t.toNat, (x.s (bReg f)).toNat % 65536,
    (x.s (bReg f)).toNat / 65536))) .spad 0 noAccess

/-- The warp that waits for it to leave. -/
def remapWarp (f : LongF) (c : IssueCtx) (x : Warp) : Warp :=
  { x with storeq := x.storeq ++ [remapEntry f c x], holds := [.drain (x.nextSeq + 1)], nextSeq := x.nextSeq + 1 + 1 }

theorem smap_remaps (sources : feCause c x (.smap f) = none) (lanes : c.act x (.smap f) ≠ 0) (group : x.group? 0 = some g)
    (sound : SmapSound s c (smapWindow f x g)) (mode : x.tmode.getLsbD 0 = false) (idle : x.holds = []) {v : Window}
    (mapped : v ∈ (s.core (coreOf c.warp)).wins) (ours : v.gi = g) (same : v.num = f.d.toNat) :
    ∃ t, exec (.smap f) s = .next t ∧ mfind t.warps c.warp = some (remapWarp f c x) ∧
      (s.clk + 1, Event.storeQueueExit c.warp) ∈ t.agenda ∧ OthersSame s t c.warp ∧ MemSame s t := by
  have found : (s.core (coreOf c.warp)).wins.any (fun wn => wn.gi == g && wn.num == f.d.toNat) = true :=
    List.any_eq_true.2 ⟨v, mapped, by simp [ours, same]⟩
  have hrun := exec_smap_sound k sources lanes group sound
  rw [found, if_pos rfl] at hrun
  generalize hu : State.modWarp _ _ _ = u at hrun
  have hwarp : mfind u.warps c.warp = some (remapWarp f c x) := by
    rw [← hu, find_modWarp, pushStore_warp k.warp]
    simp only [Option.map_some, idle]
    rfl
  have waits := settleHold_drain_waits (q := x.nextSeq + 1) hwarp mode (List.mem_append_right _ (List.mem_singleton_self _))
    (Nat.lt_succ_self _)
  have again : settleHolds c.warp u = u := by rw [settleHolds, warpD_of_find hwarp]; exact waits
  have later := later_settle_of_hold hwarp rfl waits again
  refine ⟨_, hrun, later.warps ▸ hwarp, ?_, fun n hn => ?_, ?_⟩
  · obtain ⟨ag, heq, hmem⟩ := later
    rw [heq]
    exact hmem _ (hu ▸ mem_pushStore_agenda ..)
  · rw [later.warps, ← hu]
    exact othersSame_trans (pushStore_othersSame _ _ _ _ _ _) (modWarp_othersSame _ _ _) n hn
  · exact (((aside_pushStore ..).trans (hu ▸ aside_modWarp ..)).trans later.aside).memSame

/-- SUNMAP and SFLUSH take a place in the store queue (R185). -/
theorem flush_issues {i : Instr} {nums : List Nat} {unmap : Bool} (runs : ∀ s, exec i s = issueFlush s i nums unmap)
    (lanes : c.act x i ≠ 0) :
    ∃ t y e, exec i s = .next t ∧ mfind t.warps c.warp = some y ∧ y.storeq = x.storeq ++ [e] ∧
      e.kind = .sflush nums unmap none ∧ e.seq = x.nextSeq ∧ (s.clk + 1, Event.storeQueueExit c.warp) ∈ t.agenda ∧
      RegsSame x y ∧ OthersSame s t c.warp ∧ MemSame s t := by
  have hrun : exec i s = .next (pushStore s c (.sflush nums unmap none) .spad 0 noAccess) := by
    rw [runs, issueFlush, issuing_eq k]
    simp only [if_neg lanes]
  exact ⟨_, _, _, hrun, pushStore_warp k.warp .., rfl, rfl, rfl, mem_pushStore_agenda .., by constructor <;> rfl,
    pushStore_othersSame _ _ _ _ _ _, (aside_pushStore ..).memSame⟩
end

theorem exec_ifence (f : LongF) (s : State) : exec (.ifence f) s = execIfence f s := rfl

/-- MFENCE's fields (R241): the context in M[0], the kind in M[2:1]. -/
theorem exec_mfence (f : LongF) (s : State) :
    exec (.mfence f) s = issueHold s (.mfence f) (.mfence (f.m.toNat % 2) (f.m.toNat / 2 % 4)) := by
  have ctx : holdOf.mfenceCtx f = f.m.toNat % 2 := by simp [holdOf.mfenceCtx, natBits]
  have kind : holdOf.mfenceKind f = f.m.toNat / 2 % 4 := rfl
  rw [← ctx, ← kind]
  rfl

/-- The hold that a FENCE whose condition does not hold has left (R172, R293). -/
def fenceHold (s : State) (x : Warp) (f : LongF) : Hold :=
  .fence f.d.toNat (f.m.toNat % 4) x.nextSeq (if f.d ≠ 0 ∧ relDrained x x.nextSeq = true then some s.nextId else none)

/-- A FENCE of any kind, ACQ, REL or ACQREL (R172). -/
theorem fence_issues_of_kind {s : State} {c : IssueCtx} {x : Warp} (k : Issuing s c x) (f : LongF) (idle : x.holds = [])
    (fresh : ∀ g ∈ x.flights, g.seq ≠ x.nextSeq) (lanes : c.act x (.fence f) ≠ 0) :
    ∃ t y, exec (.fence f) s = .next t ∧ mfind t.warps c.warp = some y ∧ y.nextSeq = x.nextSeq + 1 ∧
      (if (if f.d = 0 then loadsDone x x.nextSeq
          else relDone s c.warp x x.nextSeq (wideScope s x (f.m.toNat % 4)) (some s.nextId)) then
        y.holds = [] ∧ y.flights = x.flights
       else y.holds = [fenceHold s x f] ∧ ∃ g, y.flights = x.flights ++ [g] ∧ g.kind = .hold ∧ g.seq = x.nextSeq) ∧
      RegsSame x y ∧ OthersSame s t c.warp ∧ t.hbm = s.hbm := by
  have zero : f.d.toNat = 0 ↔ f.d = 0 := BitVec.toNat_inj (y := 0)
  have looked (mark : Option Nat) (first : mark.getD s.nextId = s.nextId) :=
    first ▸ settleHold_fence (act := c.act x (.fence f)) k fresh f.d.toNat (f.m.toNat % 4) mark
  simp only [zero, ne_eq] at looked
  refine fence_issues k (hold := fun q => .fence f.d.toNat (f.m.toNat % 4) q none) (fun _ => rfl) idle lanes
    (looked none rfl) ?_ fun waits => ?_
  · split
    · exact ⟨rfl, rfl⟩
    · exact acquire_frame ..
  · have marked : (if f.d ≠ 0 ∧ relDrained x x.nextSeq = true then some s.nextId else none).getD s.nextId = s.nextId := by
      split <;> rfl
    refine (looked _ marked).trans ((if_neg (Bool.eq_false_iff.1 waits)).trans (congrArg (held s c x _) ?_))
    rw [fenceHold]
    split <;> rfl

/-- Settles O16: each fence by what looking at its one hold does, the rest by what they change. -/
theorem fencesAndCaches : Obligations.FencesAndCaches := by
  unfold Obligations.FencesAndCaches
  refine ⟨fun f => ⟨fun s c x k idle fresh lanes => ?fence, fun s c x k idle fresh lanes => ?drainst,
    fun s c x k idle fresh lanes => ?mfence, fun s c x k idle lanes => fenceSc_issues k f idle lanes⟩,
    fun f => ⟨fun s c x k lanes => ?ifence, fun s c x l e k sources one hl level _ => prefetch_fills k sources one hl level,
      fun s c x k => prefetch_keeps k f, fun s c x g k sources lanes group aligned some_ fits apart => ?maps,
      fun s c x g v k sources lanes group mode idle aligned some_ fits mapped ours same apart => ?remaps,
      fun s c x k => flush_issues k fun _ => rfl, fun s c x k => flush_issues k fun _ => rfl⟩⟩
  case fence => exact fence_issues_of_kind k f idle fresh lanes
  case drainst =>
    exact fence_issues k (hold := .drain) (fun _ => rfl) idle lanes (settleHold_drain k fresh) ⟨rfl, rfl⟩ fun waits =>
      (settleHold_drain k fresh).trans (if_neg (Bool.eq_false_iff.1 waits))
  case mfence =>
    exact fence_issues k (hold := .mfence (f.m.toNat % 2) (f.m.toNat / 2 % 4)) (exec_mfence f) idle lanes
      (settleHold_mfence k fresh _ _) ⟨rfl, rfl⟩ fun waits =>
        (settleHold_mfence k fresh _ _).trans (if_neg (Bool.eq_false_iff.1 waits))
  case ifence =>
    rw [exec_ifence, execIfence, issuing_eq k]
    simp only [if_neg lanes]
  case maps =>
    exact smap_maps k sources lanes group ⟨aligned, some_, fits, fun v hv hg _ => (apart v hv hg).2⟩
      fun v hv hg => (apart v hv hg).1
  case remaps =>
    obtain ⟨t, hrun, hwarp, hagenda, hothers, hmem⟩ :=
      smap_remaps k sources lanes group ⟨aligned, some_, fits, apart⟩ mode idle mapped ours same
    exact ⟨t, _, remapEntry f c x, hrun, hwarp, rfl, rfl, rfl, rfl, hagenda, by constructor <;> rfl, hothers, hmem⟩

end Sys2Proof.Proofs.Fences

/-!
A failed store whose record finds no room (R169, R380): a warp captured with records in its control record has room for fewer than 16.
-/

namespace Sys2Proof.Proofs.StoresLeave

open Sys2Proof Sys2Proof.Machine Sys2Proof.Claims Sys2Proof.Laws

/-- The record of a store that failed at address 0. -/
def failRecord : SfRec := { addr := 0, lanes := 1, pc := 0, hmode := false }

/-- A store that has failed and waits to become that record. -/
def failedStore : StoreEntry :=
  { seq := 0, kind := .store, space := .global, size := 4, acc := [], pc := 0, hmode := false, stuck := false,
    fail := some failRecord }

/-- A warp captured for Toltar with 16 records in its control record, its own queue empty: no room is left (R380). -/
def capturedWarp : Warp := { Warp.fresh with storeq := [failedStore], nextSeq := 1, captured := true, entryNsf := 16 }

def capturedState : State := { State.reset with warps := [(0, capturedWarp)] }

/-- The store waits where it is. -/
theorem exec_storeFaultRecord_captured : exec (.storeFaultRecord 0 0) capturedState = .next capturedState := rfl

/-- Refutes O38: the warp of `capturedState` is outside handler mode and has no record in its queue, and yet its failed store becomes
none, for the 16 records of its capture count too. -/
theorem not_storesLeave : ¬ Obligations.StoresLeave := by
  unfold Obligations.StoresLeave
  intro h
  obtain ⟨-, -, records⟩ := h capturedState 0 capturedWarp failedStore [] rfl (by decide) rfl nofun rfl rfl
  obtain ⟨t, y, hrun, hwarp, hsfq, -⟩ := records failRecord rfl rfl rfl (by decide)
  cases exec_storeFaultRecord_captured.symm.trans hrun
  cases hwarp
  cases hsfq

end Sys2Proof.Proofs.StoresLeave

/-!
Reads that perform (R167, R177 to R179): loads from the scratchpad and from L1 copies, and an atomic of a scratchpad location.
-/

namespace Sys2Proof.Proofs.ReadsPerform

open Sys2Proof Sys2Proof.Machine Sys2Proof.Claims Sys2Proof.Laws Sys2Proof.Proofs.ControlFlow Sys2Proof.Proofs.CrossLane
open Sys2Proof.Proofs.Beside Sys2Proof.Proofs.Fences

/-! A read whose turn has come. -/

section
variable {s : State} {w : Nat} {x : Warp} {f : Flight}

theorem redAhead_of_nothing_queued (storeq : x.storeq = []) (unacked : x.unacked = []) (seq : Nat) (acc : List LaneAcc)
    (size : Nat) : redAhead s w x seq acc size = false := by
  have none_ : s.msgs.any (fun m => m.warp == w && (match m.body with
      | .red .. | .trig .. => x.unacked.contains m.id
      | _ => false)) = false := by
    refine List.any_eq_false.2 fun m _ => ?_
    rw [unacked]
    split <;> simp
  rw [redAhead, storeq, List.any_nil, Bool.false_or]
  exact none_

theorem aliasAhead_of_storeq_nil (storeq : x.storeq = []) (seq : Nat) (sp : Space) (acc : List LaneAcc) (size : Nat) :
    aliasAhead s w x seq sp acc size = false := by
  simp [aliasAhead, storeq]

theorem fwdByte_of_storeq_nil (storeq : x.storeq = []) (seq : Nat) (sp : Space) (a : Nat) : fwdByte s w x seq sp a = none := by
  rw [fwdByte, storeq]
  rfl

theorem readTurn_of_mayPerform (h : MayPerform s w x f) (size : Nat) : readTurn s w f size = true := by
  obtain ⟨slot, -, -, due, oldest, -, storeq, unacked, -, pend, -⟩ := h
  simp [readTurn, warpD_of_find slot, due, oldest, redAhead_of_nothing_queued storeq unacked, aliasAhead_of_storeq_nil storeq,
    pend]

theorem flight?_of_mayPerform (h : MayPerform s w x f) : flight? s w f.seq = some f := by
  rw [flight?, warpD_of_find h.slot, h.flight]

theorem undoPut_of_quiet (hx : mfind s.warps w = some x) (undo : x.tmode.getLsbD 4 = false)
    (pc kind flags num lanes fe addr : Nat) (old : List Byte) : undoPut s w pc kind flags num lanes fe addr old = s := by
  simp only [undoPut, warpD_of_find hx, undo, Bool.not_false, if_true]
  split <;> rfl

/-! The read has performed: its values are in its destination (R28). -/

/-- The warp `x` with the read `f` performed, its destinations written. -/
def readWarp (x : Warp) (f : Flight) (ws : List RegWrite) : Warp :=
  { x.writeAll ws with flights := x.flights.filter (fun g => g.seq != f.seq) }

theorem finishRead_spec (h : MayPerform s w x f) {t : State} (same : mfind t.warps w = some x) (ws : List RegWrite) :
    mfind (finishRead t w f ws).warps w = some (readWarp x f ws) ∧ OthersSame t (finishRead t w f ws) w ∧
      Aside t (finishRead t w f ws) := by
  obtain ⟨-, -, -, -, -, plain, -, -, holds, -, undo⟩ := h
  have ended : mfind (endWalks t w f.seq).warps w = some x := by rw [endWalks_warps]; exact same
  have written : finishRead t w f ws = settle (((endWalks t w f.seq).modWarp w (fun x => x.writeAll ws)).modWarp w
      (fun x => { x with flights := x.flights.filter (fun g => g.seq != f.seq) })) w := by
    simp only [finishRead, writeRegs, warpD_of_find ended, undo, plain, Bool.false_eq_true, if_false, if_true]
  rw [written]
  generalize hu : State.modWarp _ _ _ = u
  have hwarp : mfind u.warps w = some (readWarp x f ws) := by
    rw [← hu, find_modWarp, find_modWarp, ended, readWarp]
    simp
  have later : Later u (settle u w) := later_settle fun y hy => by
    cases hwarp.symm.trans hy
    exact (writeAll_holds ..).trans holds
  refine ⟨later.warps ▸ hwarp, fun v hv => ?_, ((aside_endWalks t w f.seq).trans (hu ▸ (aside_modWarp ..).trans
    (aside_modWarp ..))).trans later.aside⟩
  rw [later.warps, ← hu, find_modWarp_other _ _ hv, find_modWarp_other _ _ hv, endWalks_warps]
end

/-- Warp `w` of `t`, which stood as `x` in `s`, has performed `f`: its lanes of `r` in the mask hold `v` and are full, and no other
register and no other warp differs. -/
def Landed (s t : State) (w : Nat) (x : Warp) (f : Flight) (r : Nat) (m : LaneMask) (v : Nat → Word) : Prop :=
  ∃ y, mfind t.warps w = some y ∧ y.flights = x.flights.filter (fun g => g.seq != f.seq) ∧
    (∀ l, l < 32 → y.v r l = if m.getLsbD l then v l else x.v r l) ∧ (∀ q l, q ≠ r → y.v q l = x.v q l) ∧
    vEmptyIn y.vE r &&& m = 0 ∧ y.sreg = x.sreg ∧ y.pred = x.pred ∧ y.pc = x.pc ∧ OthersSame s t w

theorem loadWrites_one {f : Flight} {r : Nat} {m : LaneMask} {old : LaneVec} (writes : f.writes = [.v r m old])
    (val : Nat → Nat) : loadWrites f val = [.v r m (laneVec (fun l => BitVec.ofNat 32 (val l)))] := by
  simp [loadWrites, writes]

theorem landed_of_finishRead {s t : State} {w r : Nat} {x : Warp} {f : Flight} {m : LaneMask} {old : LaneVec}
    (h : MayPerform s w x f) (same : t.warps = s.warps) (writes : f.writes = [.v r m old]) {val : Nat → Nat} {v : Nat → Word}
    (vals : ∀ l ∈ lanesOf m, BitVec.ofNat 32 (val l) = v l) :
    Landed s (finishRead t w f (loadWrites f val)) w x f r m v := by
  obtain ⟨hwarp, hothers, -⟩ := finishRead_spec h (same ▸ h.slot) (loadWrites f val)
  rw [loadWrites_one writes] at hwarp hothers ⊢
  refine ⟨_, hwarp, rfl, fun l hl => ?_, fun q l hq =>
    v_writeDest_v_other x m (laneVec fun l => BitVec.ofNat 32 (val l)) hq l, ?_, rfl, rfl, rfl,
    fun n hn => (hothers n hn).trans (by rw [same])⟩
  · refine (v_writeDest_v x r m _ hl).trans ?_
    rw [laneVec, getD_allLanes _ hl]
    split
    · exact vals l (mem_lanesOf.2 ‹_›)
    · rfl
  · refine Eq.trans (congrArg (· &&& m) (vE_writeDest_v x r m (laneVec fun l => BitVec.ofNat 32 (val l)))) ?_
    ext
    simp

/-! The lanes of a load (R161, R167). -/

theorem find?_lane {α : Type} {v : Nat → α} {l : Nat} {ls : List Nat} (hl : l ∈ ls) :
    (ls.map (fun l => (l, v l))).find? (fun e => e.1 == l) = some (l, v l) := by
  induction ls with
  | nil => cases hl
  | cons k r ih =>
    by_cases hk : k = l
    · simp [hk]
    · simpa [hk] using ih ((List.mem_cons.1 hl).resolve_left (Ne.symm hk))

theorem laneIn_map {α : Type} (d : α) (v : Nat → α) {l : Nat} {ls : List Nat} (hl : l ∈ ls) :
    laneIn d (ls.map (fun l => (l, v l))) l = v l := by
  rw [laneIn, find?_lane hl]

/-- Lanes that each load without a change to the state. -/
theorem loadLanes_of_lanes {s : State} {w seq n : Nat} {sp : Space} {stale : Bool} {adr : Nat → Nat} {v : Nat → List Byte}
    {ls : List Nat} (lanes : ∀ l ∈ ls, loadLane s w seq sp stale (adr l) n = .ok (v l, s)) :
    loadLanes s w seq sp stale n (ls.map (fun l => ⟨l, adr l, []⟩)) = .ok (ls.map (fun l => (l, v l)), s) := by
  induction ls with
  | nil => rfl
  | cons l r ih =>
    simp only [List.map_cons, loadLanes, lanes l (List.mem_cons_self ..), ih fun k hk => lanes k (List.mem_cons_of_mem _ hk)]

theorem exec_loadReturn (w seq : Nat) (s : State) : exec (.loadReturn w seq) s = execLoadReturn w seq s := rfl

/-- A load all of whose lanes find their bytes without a change to the state performs (R167). -/
theorem loadReturn_lands {s : State} {w r size : Nat} {x : Warp} {f : Flight} {m : LaneMask} {adr : Nat → Nat} {old : LaneVec}
    {sp : Space} {signed : Bool} {v : Nat → List Byte} (h : MayPerform s w x f) (writes : f.writes = [.v r m old])
    (acc : f.acc = (lanesOf m).map (fun l => ⟨l, adr l, []⟩)) (kind : f.kind = .load sp size signed)
    (lanes : ∀ l ∈ lanesOf m, loadLane s w f.seq sp false (adr l) size = .ok (v l, s)) :
    ∃ t, exec (.loadReturn w f.seq) s = .next t ∧ MemSame s t ∧
      Landed s t w x f r m (fun l => BitVec.ofNat 32 (extendLoad size signed (v l))) := by
  have hrun : exec (.loadReturn w f.seq) s = .next (finishRead s w f (loadWrites f fun l =>
      extendLoad size signed (laneIn [] ((lanesOf m).map fun l => (l, v l)) l))) := by
    simp only [exec_loadReturn, execLoadReturn, flight?_of_mayPerform h, kind, readTurn_of_mayPerform h, if_true, performLoad,
      acc, loadLanes_of_lanes lanes]
  refine ⟨_, hrun, (finishRead_spec h h.slot _).2.2.memSame, landed_of_finishRead h rfl writes fun l hl => ?_⟩
  rw [laneIn_map _ _ hl]

/-! A lane of a scratchpad load (R159). -/

theorem memRead_eq_map (m : Memory) (a n : Nat) : memRead m a n = (List.range n).map (fun i => memByte m (a + i)) :=
  List.ext_getElem (by simp) fun i h _ => by simp [getElem_memRead m a n h]

theorem any_range_eq_false {n : Nat} {p : Nat → Bool} (h : ∀ i, i < n → p i = false) : (List.range n).any p = false :=
  List.any_eq_false.2 fun i hi => by simp [h i (List.mem_range.1 hi)]

theorem loadOwn_of_spad {s : State} {w a n : Nat} {x : Warp} (hx : mfind s.warps w = some x) (storeq : x.storeq = [])
    (own : a < (s.core (coreOf w)).spad) (sound : ∀ i, i < n → mget (s.core (coreOf w)).eccBad (a + i) false = false)
    (seq : Nat) : loadOwn s w seq a n = .ok (memRead (s.core (coreOf w)).opst a n, s) := by
  simp only [loadOwn, if_pos own, any_range_eq_false sound, warpD_of_find hx, fwdByte_of_storeq_nil storeq, Option.getD_none,
    Bool.false_eq_true, if_false, memRead_eq_map]

/-! A lane of a global load whose bytes the L1 has (R167, R270). -/

/-- The `n` bytes at `a` lie in one page that `e` translates, readable, and in the core's L1, sound. -/
structure Cached (s : State) (w : Nat) (x : Warp) (a n : Nat) (e : TlbEntry) : Prop where
  bound : a < 2 ^ 57
  page : a % 65536 + n ≤ 65536
  some_ : 1 ≤ n
  held : coreXlate s (coreOf w) x.asid a = some e
  readable : e.r = true
  hit : ∀ i, i < n → l1Hit s (coreOf w) (e.key s (a + i)) = true
  sound : ∀ i, i < n → mget (s.core (coreOf w)).l1Bad (e.key s (a + i) / 4) false = false

section
variable {s : State} {w : Nat} {x : Warp} {a n : Nat} {e : TlbEntry} (h : Cached s w x a n e)

theorem keyIn_page (s : State) (e : TlbEntry) (a i : Nat) : keyIn s (e, e) a i = e.key s (a + i) := by
  simp [keyIn, entryIn]

include h

theorem xlateRange_of_cached (seq : Nat) : xlateRange s w seq x.asid a n needR = .ok (e, e) := by
  obtain ⟨bound, page, some_, held, readable, -, -⟩ := h
  have low : ¬ a ≥ 2 ^ 57 := Nat.not_le.2 bound
  have one : xlate s w seq x.asid a needR = .ok e := by
    simp only [xlate, if_neg low, held, Need.ok, needR, readable]
    rfl
  have last : (a + n - 1) / 65536 = a / 65536 := by omega
  simp only [xlateRange, one, last, if_true]

theorem loadRun_of_cached {is : List Nat} (his : ∀ i ∈ is, i < n) : loadRun s w false (e, e) a is = s := by
  cases is with
  | nil => rfl
  | cons i r =>
    have all : ((i :: r).map (keyIn s (e, e) a)).all (l1Hit s (coreOf w)) = true := by
      refine List.all_eq_true.2 fun k hk => ?_
      obtain ⟨j, hj, rfl⟩ := List.mem_map.1 hk
      rw [keyIn_page]
      exact h.hit j (his j hj)
    simp only [loadRun, Bool.false_and, Bool.false_eq_true, if_false, l1Run, List.map_cons] at all ⊢
    rw [if_pos all]

theorem loadGlobal_of_cached (hx : mfind s.warps w = some x) (storeq : x.storeq = []) (seq : Nat) :
    loadGlobal s w seq false a n = .ok ((List.range n).map (fun i => l1Byte s (coreOf w) (e.key s (a + i))), s) := by
  have served_ {i : Nat} (hi : i < n) : served s (coreOf w) false (e.key s (a + i)) = true := by simp [served, h.hit i hi]
  have good : (List.range n).find? (fun i => byteBad s (coreOf w) false (e.key s (a + i))) = none :=
    List.find?_eq_none.2 fun i hi => by
      simp [byteBad, served_ (List.mem_range.1 hi), h.sound i (List.mem_range.1 hi)]
  have all : (List.range n).filter (fun _ => true) = List.range n := List.filter_eq_self.2 fun _ _ => rfl
  simp only [loadGlobal, warpD_of_find hx, xlateRange_of_cached h, fwdByte_of_storeq_nil storeq, Option.isNone_none,
    keyIn_page, all, good]
  generalize hr1 : (List.range n).filter (fun i => (a + i) / 32 == a / 32) = r1
  generalize hr2 : (List.range n).filter (fun i => (a + i) / 32 != a / 32) = r2
  have in1 {i : Nat} (hi : i ∈ r1) : i < n := List.mem_range.1 (List.mem_filter.1 (hr1 ▸ hi)).1
  have in2 {i : Nat} (hi : i ∈ r2) : i < n := List.mem_range.1 (List.mem_filter.1 (hr2 ▸ hi)).1
  have all1 : r1.all (fun i => served s (coreOf w) false (e.key s (a + i))) = true :=
    List.all_eq_true.2 fun i hi => served_ (in1 hi)
  have all2 : r2.all (fun i => served s (coreOf w) false (e.key s (a + i))) = true :=
    List.all_eq_true.2 fun i hi => served_ (in2 hi)
  have either {i : Nat} (hi : i < n) : i ∈ r1 ++ r2 := by
    rw [← hr1, ← hr2, List.mem_append, List.mem_filter, List.mem_filter]
    by_cases same : (a + i) / 32 = a / 32 <;> simp [same, hi]
  simp only [List.any_cons, List.any_nil, all1, all2, Bool.not_true, Bool.and_false, Bool.or_false, Bool.false_eq_true, if_false,
    List.foldl_cons, List.foldl_nil, loadRun_of_cached h fun _ => in1, loadRun_of_cached h fun _ => in2, List.nil_append,
    ← List.map_append, Option.getD_none]
  congr 2
  refine List.map_congr_left fun i hi => ?_
  rw [find?_lane (either (List.mem_range.1 hi))]
  rfl
end

/-! Numbers and their bytes (R5). -/

@[simp] theorem length_leBytes (n x : Nat) : (leBytes n x).length = n := by
  induction n generalizing x with
  | zero => rfl
  | succ n ih => simp [leBytes, ih]

theorem leNat_lt (bs : List Byte) : leNat bs < 256 ^ bs.length := by
  induction bs with
  | nil => exact Nat.one_pos
  | cons b r ih =>
    have hb := b.isLt
    rw [leNat, List.length_cons, Nat.pow_succ]
    omega

/-! An atomic of one scratchpad location (R177 to R179). -/

/-- The word an atomic of type u32 leaves where it read `was`. -/
def newWord (op : AtomOp) (was opnd cmp : Word) : Word :=
  match op with
  | .add => was + opnd
  | .min => if opnd.ult was then opnd else was
  | .max => if was.ult opnd then opnd else was
  | .and => was &&& opnd
  | .or => was ||| opnd
  | .xor => was ^^^ opnd
  | .exch => opnd
  | .cas => if was = cmp then opnd else was

theorem intOf_word (a : Word) : intOf 32 false a.toNat = a.toNat := by
  simp [intOf, Nat.mod_eq_of_lt a.isLt]

theorem atomNew_word (op : AtomOp) (was opnd cmp : Word) :
    atomNew op 1 was.toNat opnd.toNat cmp.toNat = (newWord op was opnd cmp).toNat := by
  have unsigned : atomNew op 1 was.toNat opnd.toNat cmp.toNat = match op with
      | .add => (was.toNat + opnd.toNat) % 2 ^ 32
      | .min => if opnd.toNat < was.toNat then opnd.toNat else was.toNat
      | .max => if was.toNat < opnd.toNat then opnd.toNat else was.toNat
      | .and => was.toNat &&& opnd.toNat
      | .or => was.toNat ||| opnd.toNat
      | .xor => was.toNat ^^^ opnd.toNat
      | .exch => opnd.toNat
      | .cas => if was.toNat = cmp.toNat then opnd.toNat else was.toNat := by
    cases op <;> simp [atomNew, intOf_word]
  rw [unsigned]
  cases op with
  | add => exact (BitVec.toNat_add ..).symm
  | min => simp only [newWord, BitVec.ult, decide_eq_true_eq, apply_ite BitVec.toNat]
  | max => simp only [newWord, BitVec.ult, decide_eq_true_eq, apply_ite BitVec.toNat]
  | and => exact (BitVec.toNat_and ..).symm
  | or => exact (BitVec.toNat_or ..).symm
  | xor => exact (BitVec.toNat_xor ..).symm
  | exch => rfl
  | cas => simp only [newWord, BitVec.toNat_inj, apply_ite BitVec.toNat]

theorem oldValue_one {f : Flight} {r : Nat} {m : LaneMask} {old : LaneVec} (writes : f.writes = [.v r m old]) (l : Nat) :
    oldValue f l = (laneGet old l).toNat := by
  simp [oldValue, writes]

theorem spadWrite_warps (s : State) (c a : Nat) (bs : List Byte) : (spadWrite s c a bs).warps = s.warps := rfl

theorem core_spadWrite_opst (s : State) (c a : Nat) (bs : List Byte) :
    ((spadWrite s c a bs).core c).opst = memWrite (s.core c).opst a bs := by
  simp [spadWrite]

theorem core_spadWrite_other (s : State) {c d : Nat} (a : Nat) (bs : List Byte) (h : d ≠ c) :
    (spadWrite s c a bs).core d = s.core d := core_modCore_other s _ h

theorem exec_homeAtomic (w seq : Nat) (s : State) : exec (.homeAtomic w seq) s = execHomeAtomic w seq s := rfl

/-- One lane's atomic of a sound scratchpad word performs: the word is written, and then the warp's read finishes. -/
theorem homeAtomic_spad {s : State} {w r l a : Nat} {x : Warp} {f : Flight} {old : LaneVec} {op : AtomOp} {opnd : Word}
    (h : MayPerform s w x f) (writes : f.writes = [.v r (laneBit l) old]) (acc : f.acc = [⟨l, a, []⟩])
    (kind : f.kind = .atom op 1 .spad [opnd.setWidth 64])
    (sound : ∀ i, i < 4 → mget (s.core (coreOf w)).eccBad (a + i) false = false) {was : Word}
    (hwas : leNat (memRead (s.core (coreOf w)).opst a 4) = was.toNat) :
    exec (.homeAtomic w f.seq) s =
      .next (finishRead (spadWrite s (coreOf w) a (leBytes 4 (newWord op was opnd (laneGet old l)).toNat)) w f
        (loadWrites f (laneIn 0 [(l, was.toNat)]))) := by
  have checked : atomCheck s w f .spad 4 [⟨l, a, []⟩] = .ok () := by
    simp only [atomCheck, Space.core, any_range_eq_false sound, Bool.false_eq_true, if_false]
  have lane : atomLane w s f op 1 .spad ⟨l, a, []⟩ (opnd.setWidth 64).toNat =
      (was.toNat, spadWrite s (coreOf w) a (leBytes 4 (newWord op was opnd (laneGet old l)).toNat)) := by
    have fits : (opnd.setWidth 64).toNat = opnd.toNat := by
      simp
      omega
    simp only [atomLane, rmwSpad, show atSize 1 = 4 from rfl, hwas, oldValue_one writes, fits, atomNew_word]
  have ready : (!(readTurn s w f 4 && (s.warpD w).storeq.isEmpty)) = false := by
    rw [readTurn_of_mayPerform h, warpD_of_find h.slot, h.storeq]
    rfl
  simp only [exec_homeAtomic, execHomeAtomic, flight?_of_mayPerform h, kind, acc, show atSize 1 = 4 from rfl, ready, checked,
    List.zip_cons_cons, List.zip_nil_left, atomLanes, lane, reduceCtorEq, if_false, Bool.false_eq_true]
  rw [undoPut_of_quiet (s := spadWrite ..) h.slot h.undo]

/-- Settles O37: `loadReturn_lands` with the lanes of `loadOwn_of_spad` and `loadGlobal_of_cached`, and `homeAtomic_spad`. -/
theorem readsPerform : Obligations.ReadsPerform := by
  unfold Obligations.ReadsPerform
  intro s w r x f m adr old k h writes acc got
  refine ⟨fun size signed some_ most kind inside sound => ?_, fun size signed e some_ most kind held => ?_,
    fun op l b a kind hl hm ha aligned inside sound => ?_⟩
  · exact loadReturn_lands h writes acc kind fun l hl => loadOwn_of_spad h.slot h.storeq (inside l hl).2 (sound l hl) f.seq
  · refine loadReturn_lands h writes acc kind fun l hl => ?_
    obtain ⟨bound, page, xlated, readable, cached⟩ := held l hl
    exact loadGlobal_of_cached ⟨bound, page, some_, xlated, readable, fun i hi => (cached i hi).1, fun i hi => (cached i hi).2⟩
      h.slot h.storeq f.seq
  · intro was opnd is hb
    subst hm
    rw [lanesOf_laneBit hl, List.map_cons, List.map_nil, ha] at acc
    have wide : b = opnd.setWidth 64 := BitVec.eq_of_toNat_eq (by
      have small : b.toNat < 2 ^ 32 := BitVec.lt_def.1 hb
      simp only [opnd, BitVec.truncate_eq_setWidth, BitVec.toNat_setWidth]
      omega)
    have hwas : leNat (memRead k.opst a 4) = was.toNat := by
      have := leNat_lt (memRead k.opst a 4)
      simp [was] at this ⊢
      omega
    have his : is = newWord op was opnd (laneGet old l) := by cases op <;> rfl
    rw [wide] at kind
    refine ⟨_, homeAtomic_spad h writes acc kind sound hwas, landed_of_finishRead h (spadWrite_warps ..) writes fun j hj => ?_, ?_⟩
    · rw [lanesOf_laneBit hl] at hj
      cases List.mem_singleton.1 hj
      simp [laneIn]
    · rw [← his]
      generalize hbs : leBytes 4 is.toNat = bs
      have len : bs.length = 4 := hbs ▸ length_leBytes ..
      obtain ⟨-, -, aside⟩ := finishRead_spec (t := spadWrite s (coreOf w) a bs) h h.slot
        (loadWrites f (laneIn 0 [(l, was.toNat)]))
      obtain ⟨hbm, l2, -, -, cores, -⟩ := aside.memSame
      have opst {c : Nat} := (cores c).1
      refine ⟨?_, hbm, l2, fun c j hj => ?_⟩
      · have read := memRead_memWrite (s.core (coreOf w)).opst a bs
        rw [len] at read
        rw [opst, core_spadWrite_opst, read]
      · rw [opst]
        by_cases own : c = coreOf w
        · subst own
          rw [core_spadWrite_opst, memByte_memWrite_outside]
          omega
        · rw [core_spadWrite_other s a bs own]

end Sys2Proof.Proofs.ReadsPerform

/-!
Bytes at their homes and in their registrants' copies (R271 to R273, R275): what each move of a cache leaves of the values every
reader sees.
-/

namespace Sys2Proof.Proofs.Homes

open Sys2Proof Sys2Proof.Machine Sys2Proof.Claims Sys2Proof.Laws Sys2Proof.Proofs.ControlPort
open Sys2Proof.Proofs.Beside

/-! Bytes at their homes (R271, R275). -/

/-- `t` differs from `s` at most in the lines of L2 and the marks of bad bytes. -/
def HomeMoved (s t : State) : Prop := ∃ l b, t = { s with l2 := l, homeBad := b }

/-- The slice of a line holds it, or has room for it (R2, R275). -/
def Roomy (s : State) (line : Nat) : Prop := (mfind s.l2 line).isSome = true ∨ overfull s line 1 = []

section
variable {s t u : State}

theorem HomeMoved.refl (s : State) : HomeMoved s s := ⟨_, _, rfl⟩

theorem HomeMoved.trans (h : HomeMoved s t) (k : HomeMoved t u) : HomeMoved s u := by
  obtain ⟨_, _, rfl⟩ := h
  obtain ⟨_, _, rfl⟩ := k
  exact ⟨_, _, rfl⟩

theorem homeByte_of_line {a line : Nat} {ln : L2Line} (ha : a / 128 = line) (h : mfind s.l2 line = some ln) :
    homeByte s a = memByte ln.data (a % 128) := by
  simp only [homeByte, ha, h]

theorem homeByte_of_no_line {a line : Nat} (ha : a / 128 = line) (h : mfind s.l2 line = none) :
    homeByte s a = memByte s.hbm a := by
  simp only [homeByte, ha, h]

theorem homeByte_congr {a : Nat} (line : mfind t.l2 (a / 128) = mfind s.l2 (a / 128)) (hbm : memByte t.hbm a = memByte s.hbm a) :
    homeByte t a = homeByte s a := by
  simp only [homeByte, line, hbm]

theorem l2Trim_of_room {line : Nat} (room : overfull s line 1 = []) : l2Trim s line 1 = s := by
  rw [l2Trim, room, List.foldl_nil]

/-- A line that comes into its slice brings the bytes that HBM4E has. -/
theorem l2Touch_spec {line : Nat} (wf : Memory.wf s.hbm = true) (loc : line * 128 < 2 ^ 54) (room : Roomy s line) :
    HomeMoved s (l2Touch s line) ∧ (mfind (l2Touch s line).l2 line).isSome = true ∧
      ∀ a, homeByte (l2Touch s line) a = homeByte s a := by
  cases held : mfind s.l2 line with
  | some ln =>
    have here : l2Touch s line = s := by simp [l2Touch, held]
    rw [here]
    exact ⟨.refl s, by rw [held]; rfl, fun _ => rfl⟩
  | none =>
    have room_ : overfull s line 1 = [] := room.resolve_left (by simp [held])
    have comes : l2Touch s line = { s with l2 := mset s.l2 line ⟨0, memSlice s.hbm (line * 128) 128⟩ } := by
      simp only [l2Touch, held, keyLocal, decide_eq_true loc, Option.isNone_none, Bool.and_self, if_true, l2Trim_of_room room_]
    rw [comes]
    refine ⟨⟨_, _, rfl⟩, by simp, fun a => ?_⟩
    by_cases ha : a / 128 = line
    · rw [homeByte_of_no_line ha held]
      refine (homeByte_of_line ha (mfind_mset_self ..)).trans ((memByte_memSlice wf (Nat.mod_lt a (by decide))).trans ?_)
      congr 1
      omega
    · exact homeByte_congr (mfind_mset_other _ _ ha) rfl

theorem homePut_spec {key : Nat} {b : Byte} (wf : Memory.wf s.hbm = true) (loc : key < 2 ^ 54) (room : Roomy s (key / 128)) :
    HomeMoved s (homePut s key b) ∧ (mfind (homePut s key b).l2 (key / 128)).isSome = true ∧
      ∀ a, homeByte (homePut s key b) a = if a = key then b else homeByte s a := by
  obtain ⟨moved, held, same⟩ := l2Touch_spec wf (show key / 128 * 128 < 2 ^ 54 by omega) room
  obtain ⟨ln, hln⟩ := Option.isSome_iff_exists.1 held
  simp only [homePut, keyLocal, loc, decide_true, if_true]
  refine ⟨moved.trans ⟨_, _, rfl⟩, by simp [hln], fun a => ?_⟩
  rw [← same a]
  by_cases ha : a / 128 = key / 128
  · rw [homeByte_of_line ha hln]
    refine (homeByte_of_line ha ((mfind_mmod_self ..).trans (congrArg _ hln))).trans ?_
    split
    · subst a
      exact memByte_memPut_self ..
    · exact memByte_memPut_other _ _ (by omega)
  · rw [if_neg fun h : a = key => ha (by rw [h])]
    exact homeByte_congr (mfind_mmod_other _ _ ha) rfl

/-- Bytes written at their home, all in one line. -/
theorem homePuts_spec {key line : Nat} {bs : List Byte} (wf : Memory.wf s.hbm = true) (loc : key + bs.length ≤ 2 ^ 54)
    (inLine : ∀ i, i < bs.length → (key + i) / 128 = line) (room : Roomy s line) :
    HomeMoved s (homePuts s key bs) ∧
      ∀ a, homeByte (homePuts s key bs) a = if key ≤ a ∧ a < key + bs.length then bs.getD (a - key) 0 else homeByte s a := by
  induction bs generalizing s key with
  | nil => exact ⟨.refl s, fun a => (if_neg (by simp only [List.length_nil]; omega)).symm⟩
  | cons b r ih =>
    simp only [List.length_cons] at loc inLine ⊢
    have first : key / 128 = line := inLine 0 (by omega)
    obtain ⟨moved, held, put⟩ := homePut_spec (b := b) wf (by omega) (first ▸ room)
    have wf' : Memory.wf (homePut s key b).hbm = true := by
      obtain ⟨l, bad, ht⟩ := moved
      rw [ht]
      exact wf
    obtain ⟨moved', puts⟩ := ih (s := homePut s key b) (key := key + 1) wf' (by omega)
      (fun i hi => by rw [← inLine (i + 1) (by omega)]; congr 1; omega) (.inl (first ▸ held))
    refine ⟨moved.trans moved', fun a => ?_⟩
    rw [homePuts, puts, put]
    by_cases ha : a = key
    · subst a
      rw [if_neg (by omega), if_pos rfl, if_pos (by omega), Nat.sub_self, List.getD_cons_zero]
    · by_cases inside : key + 1 ≤ a ∧ a < key + 1 + r.length
      · rw [if_pos inside, if_pos (by omega), show a - key = a - (key + 1) + 1 by omega, List.getD_cons_succ]
      · rw [if_neg inside, if_neg ha, if_neg (by omega)]
end

/-! A core's own bytes (R272, R290, R291). -/

/-- The core's own byte `a` as a stash line has it. -/
theorem stash_own_modStash (k : Core) {key a : Nat} {g : L1Tag → L1Tag} (dev : ∀ u, (g u).dev = u.dev)
    (hg : a / 128 = key / 128 → ∀ u, (g u).own (a % 128) = u.own (a % 128) ∧ (g u).data = u.data) :
    ((stashLinesOf (modStash k key g) a).find? (fun u => u.2.own (a % 128))).map (fun u => memByte u.2.data (a % 128)) =
      ((stashLinesOf k a).find? (fun u => u.2.own (a % 128))).map (fun u => memByte u.2.data (a % 128)) := by
  have each (e : Nat × L1Tag) : ∃ u, (if e.2.dev = key / 128 * 128 then (e.1, g e.2) else e) = (e.1, u) ∧ u.dev = e.2.dev ∧
      (e.2.dev = a / 128 * 128 → u.own (a % 128) = e.2.own (a % 128) ∧ u.data = e.2.data) := by
    by_cases there : e.2.dev = key / 128 * 128
    · exact ⟨g e.2, if_pos there, dev _, fun here => hg (by omega) e.2⟩
    · exact ⟨e.2, if_neg there, rfl, fun _ => ⟨rfl, rfl⟩⟩
  simp only [stashLinesOf, modStash]
  induction k.slines with
  | nil => rfl
  | cons e r ih =>
    obtain ⟨u, he, udev, same⟩ := each e
    rw [List.map_cons, he]
    by_cases here : e.2.dev = a / 128 * 128
    · obtain ⟨own, data⟩ := same here
      simp only [List.filter_cons, udev, here, beq_self_eq_true, if_true, List.find?_cons, own]
      cases e.2.own (a % 128) with
      | true => simp only [Option.map_some, data]
      | false => exact ih
    · simp only [List.filter_cons, udev, beq_iff_eq, here, if_false]
      exact ih

/-- What changes of a core's tags leave of its own byte `a`: they keep, in the byte's place, whether it is the core's and its value. -/
theorem ownByte_modStash (k : Core) {region key a : Nat} {f g : L1Tag → L1Tag} (dev : ∀ u, (g u).dev = u.dev)
    (hf : a / 512 = region → ∀ t, (f t).own (a % 512) = t.own (a % 512) ∧ (f t).data = t.data)
    (hg : a / 128 = key / 128 → ∀ u, (g u).own (a % 128) = u.own (a % 128) ∧ (g u).data = u.data) :
    ownByte (modStash { k with l1 := mmod k.l1 region f } key g) a = ownByte k a := by
  have l1 : ((mfind (mmod k.l1 region f) (a / 512)).filter (fun t => t.own (a % 512))).map (fun t => memByte t.data (a % 512)) =
      ((mfind k.l1 (a / 512)).filter (fun t => t.own (a % 512))).map (fun t => memByte t.data (a % 512)) := by
    by_cases here : a / 512 = region
    · subst here
      rw [mfind_mmod_self]
      cases mfind k.l1 (a / 512) with
      | none => rfl
      | some t =>
        obtain ⟨own, data⟩ := hf rfl t
        simp only [Option.map_some, Option.filter_some, own]
        split <;> simp [data]
    · rw [mfind_mmod_other _ _ here]
  have byTag (k : Core) : ownByte k a =
      (((mfind k.l1 (a / 512)).filter (fun t => t.own (a % 512))).map (fun t => memByte t.data (a % 512))).or
        (((stashLinesOf k a).find? (fun u => u.2.own (a % 128))).map (fun u => memByte u.2.data (a % 128))) := by
    unfold ownByte
    split <;> rename_i h <;> rw [h] <;> rfl
  rw [byTag, byTag k, stash_own_modStash _ dev hg]
  exact congrArg (Option.or · _) l1

theorem mem_of_mfind {α : Type} {m : NMap α} {k : Nat} {v : α} (h : mfind m k = some v) : (k, v) ∈ m := by
  induction m with
  | nil => cases h
  | cons e r ih =>
    obtain ⟨j, w⟩ := e
    simp only [mfind] at h
    split at h
    · cases h
      subst j
      exact List.mem_cons_self ..
    · exact List.mem_cons_of_mem _ (ih h)

theorem mem_cores_of_chest {s : State} {c : Nat} {r : Record} (h : r ∈ (s.core c).chest) : ∃ e ∈ s.cores, r ∈ e.2.chest := by
  rw [State.core, mget] at h
  cases held : mfind s.cores c with
  | none => rw [held] at h; cases h
  | some k => rw [held] at h; exact ⟨_, mem_of_mfind held, h⟩

section
variable {s : State} {c : Nat} {f : Core → Core}

theorem ownByte_modCore {a : Nat} (h : ownByte (f (s.core c)) a = ownByte (s.core c) a) (d : Nat) :
    ownByte ((s.modCore c f).core d) a = ownByte (s.core d) a := by
  by_cases hd : d = c
  · rw [hd, core_modCore, h]
  · rw [core_modCore_other _ _ hd]

/-- A core's change that keeps its chest adds no record. -/
theorem allRecords_modCore_subset (h : (f (s.core c)).chest = (s.core c).chest) : allRecords (s.modCore c f) ⊆ allRecords s := by
  intro r hr
  simp only [allRecords, List.mem_append, List.mem_flatMap] at hr ⊢
  refine hr.imp_left fun ⟨e, he, hin⟩ => ?_
  rcases mem_mset he with rfl | he
  · exact mem_cores_of_chest (c := c) (h ▸ hin)
  · exact ⟨e, he, hin⟩
end

theorem getD_map_range {α : Type} (f : Nat → α) {n i : Nat} (h : i < n) (d : α) : ((List.range n).map f).getD i d = f i := by
  simp [List.getD_eq_getElem?_getD, h]

/-! Words given up, and words released (R272, R290). -/

/-- A core's copies of word `wd` are given up. -/
def giveUp (wd : Nat) (k : Core) : Core :=
  modStash { k with l1 := mmod k.l1 (wd / 128) (fun t => { t with gone := t.gone ||| BitVec.ofNat 128 (2 ^ (wd % 128)) }) } (wd * 4)
    (fun u => { u with gone := u.gone ||| BitVec.ofNat 128 (2 ^ (wd % 32)) })

theorem ownByte_giveUp (wd : Nat) (k : Core) (a : Nat) : ownByte (giveUp wd k) a = ownByte k a :=
  ownByte_modStash k (fun _ => rfl) (fun _ _ => ⟨rfl, rfl⟩) fun _ _ => ⟨rfl, rfl⟩

theorem dropWords_eq (s : State) (c key n : Nat) : dropWords s c key n =
    if (s.core c).l1.isEmpty && (s.core c).slines.isEmpty then s else
    s.modCore c (fun k => ((List.range ((key + n - 1) / 4 + 1 - key / 4)).map (key / 4 + ·)).foldl (fun k wd => giveUp wd k) k) := rfl

/-- Giving up copies changes no core's own bytes, and no record. -/
theorem dropWords_spec (s : State) (c key n : Nat) : (∃ cs, dropWords s c key n = { s with cores := cs }) ∧
    (∀ d a, ownByte ((dropWords s c key n).core d) a = ownByte (s.core d) a) ∧ allRecords (dropWords s c key n) ⊆ allRecords s := by
  rw [dropWords_eq]
  split
  · exact ⟨⟨_, rfl⟩, fun _ _ => rfl, fun _ h => h⟩
  · refine ⟨⟨_, rfl⟩, fun d a => ownByte_modCore ?_ d, allRecords_modCore_subset ?_⟩
    · exact foldl_keeps (f := fun k wd => giveUp wd k) (fun k => ownByte k a) (fun k wd => ownByte_giveUp wd k a) _ _
    · exact foldl_keeps (f := fun k wd => giveUp wd k) Core.chest (fun _ _ => rfl) _ _

theorem release_dev (t : L1Tag) (i : Nat) (drop : Bool) : (t.release i drop).dev = t.dev := by
  unfold L1Tag.release
  split <;> rfl

theorem release_data (t : L1Tag) (i : Nat) (drop : Bool) : (t.release i drop).data = t.data := by
  unfold L1Tag.release
  split <;> rfl

theorem release_own_other (t : L1Tag) {i o : Nat} (drop : Bool) (h : o / 4 ≠ i) : (t.release i drop).own o = t.own o := by
  unfold L1Tag.release
  split
  · rfl
  · have bit : (t.reg &&& ~~~(BitVec.ofNat 128 (2 ^ i))).getLsbD (o / 4) = t.reg.getLsbD (o / 4) := by
      by_cases small : o / 4 < 128
      · rw [BitVec.getLsbD_and, BitVec.getLsbD_not, BitVec.getLsbD_ofNat, Nat.testBit_two_pow]
        simp [small, Ne.symm h]
      · simp [BitVec.getLsbD_of_ge _ _ (Nat.not_lt.1 small)]
    simp only [L1Tag.own, bit, mfind_mdel_other _ h]

/-- A word that loses its registration leaves every core its own bytes of the other words. -/
theorem ownByte_dropReg (s : State) {word a : Nat} (c : Nat) (drop : Bool) (h : a / 4 ≠ word) (d : Nat) :
    ownByte ((dropReg s word c drop).core d) a = ownByte (s.core d) a :=
  ownByte_modCore (s := { s with words := mdel s.words word }) (ownByte_modStash _ (fun u => release_dev u _ _)
    (fun here t => ⟨release_own_other t drop (by omega), release_data t _ _⟩)
    fun here u => ⟨release_own_other u drop (by omega), release_data u _ _⟩) d

/-! Current values (R272). -/

section
variable {s t : State} {a : Nat}

theorem registrant_congr (h : mfind t.words (a / 4) = mfind s.words (a / 4)) : registrant t a = registrant s a := by
  simp only [registrant, h]

theorem cohByte_congr (reg : registrant t a = registrant s a) (own : ∀ c, ownByte (t.core c) a = ownByte (s.core c) a)
    (home : homeByte t a = homeByte s a) : cohByte t a = cohByte s a := by
  simp only [cohByte, regByte, reg, own, home]

theorem cohByte_of_unregistered (h : registrant s a = none) : cohByte s a = homeByte s a := by
  simp only [cohByte, h]

theorem cohByte_of_aside (h : Aside s t) : cohByte t a = cohByte s a := by
  obtain ⟨_, _, _, _, _, _, _, rfl⟩ := h
  rfl

theorem registrant_of_word {b : Nat} (h : a / 4 = b / 4) : registrant s a = registrant s b := by
  simp only [registrant, h]
end

/-- A word's copy with an uncorrectable error is mended, and the word is bad at its home (R286). -/
def poisonHome (s : State) (c word : Nat) : State :=
  { s.modCore c (fun k => { k with l1Bad := mdel k.l1Bad word }) with
    homeBad := (List.range 4).foldl (fun m i => mset m (word * 4 + i) true) s.homeBad }

section
variable {s : State} {word core : Nat}

theorem writeBackWord_none (h : registrant s (word * 4) = none) (drop : Bool) : writeBackWord s word drop = s := by
  simp only [writeBackWord, h]

theorem writeBackWord_some (h : registrant s (word * 4) = some core) (drop : Bool) : writeBackWord s word drop =
    let p := homePuts s (word * 4) ((List.range 4).map (fun i => regByte s core (word * 4 + i)))
    dropReg (if wordBad (s.core core) word then poisonHome p core word else p) word core drop := by
  simp only [writeBackWord, h]
  rfl

theorem ownByte_poisonHome (c a d : Nat) : ownByte ((poisonHome s c word).core d) a = ownByte (s.core d) a :=
  ownByte_modCore (f := fun k => { k with l1Bad := mdel k.l1Bad word }) rfl d

theorem registrant_dropReg_self (c : Nat) (drop : Bool) {a : Nat} (h : a / 4 = word) :
    registrant (dropReg s word c drop) a = none := by
  have gone : mfind (dropReg s word c drop).words (a / 4) = none := h ▸ mfind_mdel_self ..
  simp only [registrant, gone]

theorem registrant_dropReg_other (c : Nat) (drop : Bool) {a : Nat} (h : a / 4 ≠ word) :
    registrant (dropReg s word c drop) a = registrant s a :=
  registrant_congr (mfind_mdel_other _ h)

/-- A registered word written back (R272, R273): it is registered no more, and nobody reads another value. -/
theorem writeBackWord_spec (drop : Bool) (wf : Memory.wf s.hbm = true) (loc : word * 4 < 2 ^ 54) (room : Roomy s (word / 32))
    (reg : registrant s (word * 4) = some core) :
    registrant (writeBackWord s word drop) (word * 4) = none ∧ ∀ a, cohByte (writeBackWord s word drop) a = cohByte s a := by
  obtain ⟨moved, home⟩ := homePuts_spec (key := word * 4) (line := word / 32)
    (bs := (List.range 4).map (fun i => regByte s core (word * 4 + i))) wf (by simp; omega) (by simp; omega) room
  rw [writeBackWord_some reg]
  dsimp only
  generalize homePuts s (word * 4) ((List.range 4).map (fun i => regByte s core (word * 4 + i))) = p at moved home
  obtain ⟨l, b, rfl⟩ := moved
  refine ⟨registrant_dropReg_self _ _ (by omega), fun a => ?_⟩
  generalize hu : ite (wordBad (s.core core) word = true) _ _ = u
  have words : u.words = s.words := by rw [← hu]; split <;> rfl
  have own (d : Nat) : ownByte (u.core d) a = ownByte (s.core d) a := by
    rw [← hu]
    split
    · exact ownByte_poisonHome core a d
    · rfl
  have written : homeByte (dropReg u word core drop) a = homeByte { s with l2 := l, homeBad := b } a := by
    rw [← hu]
    split <;> rfl
  rw [home a] at written
  by_cases here : a / 4 = word
  · have reg_ : registrant s a = some core := (registrant_of_word (by omega)).trans reg
    rw [cohByte_of_unregistered (registrant_dropReg_self _ _ here), written, if_pos (by simp; omega)]
    simp only [cohByte, reg_]
    rw [getD_map_range _ (by omega)]
    congr 1
    omega
  · rw [if_neg (by simp; omega)] at written
    refine cohByte_congr ((registrant_dropReg_other _ _ here).trans (registrant_congr (by rw [words]))) (fun d => ?_) written
    rw [ownByte_dropReg u core drop here, own]
end

end Sys2Proof.Proofs.Homes

/-!
Messages at their homes, other devices' accesses and the caches' own moves (R180, R181, R270, R272 to R275).
-/

namespace Sys2Proof.Proofs.HomeMoves

open Sys2Proof Sys2Proof.Machine Sys2Proof.Claims Sys2Proof.Laws Sys2Proof.Proofs.ControlFlow Sys2Proof.Proofs.ControlPort
open Sys2Proof.Proofs.Beside Sys2Proof.Proofs.ReadsPerform Sys2Proof.Proofs.Homes

/-! A message acknowledged while no warp waits (R272, R293). -/

/-- No warp waits at a fence, a barrier or anything else. -/
def NoHolds (s : State) : Prop := ∀ n x, mfind s.warps n = some x → x.holds = []

theorem noHolds_congr {s t : State} (h : NoHolds s) (warps : t.warps = s.warps) : NoHolds t := by
  intro n x hx
  exact h n x (warps ▸ hx)

theorem noHolds_acknowledged {s : State} (h : NoHolds s) (id w : Nat) : NoHolds (acknowledged id w s) := by
  intro n x hx
  by_cases hn : n = w
  · subst hn
    obtain ⟨y, hy, rfl⟩ := Option.map_eq_some_iff.1 ((find_modWarp ..).symm.trans hx)
    exact h n y hy
  · exact h n x ((find_modWarp_other _ _ hn).symm.trans hx)

theorem aside_acknowledged (id w : Nat) (s : State) : Aside s (acknowledged id w s) := (aside_modWarp ..).trans (aside_after ..)

/-- The message has left those on their way; no memory differs. -/
theorem acked_spec {s : State} (h : NoHolds s) (m : Msg) :
    Aside s (acked s m) ∧ (acked s m).msgs = s.msgs.filter (fun n => n.id != m.id) := by
  obtain ⟨t, es, aside, warps, msgs, eq⟩ := ackMsg_eq s m
  have told : NoHolds (ackMsg s m) := eq ▸ List.foldlRecOn es _ (motive := NoHolds) (noHolds_congr h warps)
    fun _ hu e _ => noHolds_acknowledged hu m.id e.1
  have later : Later (ackMsg s m) (acked s m) := later_settle (told m.warp)
  constructor
  · refine Aside.trans ?_ later.aside
    rw [eq]
    exact aside.trans (Aside.foldl (f := fun s (e : Nat × Warp) => acknowledged m.id e.1 s) (fun s e => aside_acknowledged ..) es t)
  · have same : (acked s m).msgs = (ackMsg s m).msgs := by
      obtain ⟨_, hu, -⟩ := later
      rw [hu]
    rw [same, eq, ← msgs]
    exact foldl_keeps (f := fun s (e : Nat × Warp) => acknowledged m.id e.1 s) State.msgs (fun _ _ => rfl) es t

/-! Versions (R272). -/

theorem bumpVers_eq (s : State) (key n : Nat) : ∃ v, bumpVers s key n = { s with vers := v } :=
  List.foldlRecOn _ _ (motive := fun t => ∃ v, t = { s with vers := v }) ⟨_, rfl⟩ fun _ ⟨_, ht⟩ _ _ => ⟨_, by rw [ht]; rfl⟩

/-! Words that nobody has registered (R272, R298). -/

section
variable {s : State}

theorem recallWords_of_unregistered {key n : Nat}
    (h : ∀ i, i < (key + n - 1) / 4 + 1 - key / 4 → registrant s ((key / 4 + i) * 4) = none) : recallWords s key n = s :=
  foldl_of_mem_fixed fun i hi => writeBackWord_none (h i (List.mem_range.1 hi)) true

theorem deliverRegs_of_noRegistration (h : NoRegistration s) (c : Nat) (p : Nat → Bool) : deliverRegs s c p = s := by
  refine foldl_of_mem_fixed fun m hm => ?_
  split
  case h_1 word core hbody => exact absurd hbody (h m hm word core)
  case h_2 => rfl
end

/-! One read-modify-write of a word at its home (R179, R180). -/

/-- Every reader sees the word `val` at `key` in `t`, elsewhere what it saw in `s`; no record has come. -/
structure WordWritten (s t : State) (key val : Nat) : Prop where
  frame   : ∃ l b cs v, t = { s with l2 := l, homeBad := b, cores := cs, vers := v }
  word    : cohBytes t key 4 = leBytes 4 val
  others  : ∀ a, a < key ∨ key + 4 ≤ a → cohByte t a = cohByte s a
  records : allRecords t ⊆ allRecords s

theorem map_getD_range {α : Type} {l : List α} {n : Nat} (h : l.length = n) (d : α) : (List.range n).map (fun i => l.getD i d) = l :=
  List.ext_getElem (by simp [h]) fun i hi hl => by simp [List.getD_eq_getElem?_getD, List.getElem?_eq_getElem hl]

theorem rmwHome_spec {s : State} {key : Nat} (wf : Memory.wf s.hbm = true) (whole : key % 4 = 0) (loc : key < 2 ^ 54)
    (reg : registrant s key = none) (quiet : NoRegistration s) (room : overfull s (key / 128) 1 = []) (c : Nat) (f : Nat → Nat) :
    ∃ t, rmwHome s c key 4 f = (leNat (cohBytes s key 4), t) ∧ WordWritten s t key (f (leNat (cohBytes s key 4))) := by
  have unreg {i : Nat} (hi : i < 4) : registrant s (key + i) = none := (registrant_of_word (by omega)).trans reg
  have recalled : recallWords s key 4 = s := recallWords_of_unregistered fun i hi =>
    (registrant_of_word (by omega)).trans reg
  obtain ⟨⟨cs, hu⟩, own, records⟩ := dropWords_spec s c key 4
  have coh (a : Nat) : cohByte (dropWords s c key 4) a = cohByte s a :=
    cohByte_congr (by rw [hu]; rfl) (own · a) (by rw [hu]; rfl)
  have old : (List.range 4).map (fun i => homeByte (dropWords s c key 4) (key + i)) = cohBytes s key 4 :=
    List.map_congr_left fun i hi => by
      rw [cohByte_of_unregistered (unreg (List.mem_range.1 hi)), hu]
      rfl
  simp only [rmwHome, deliverRegs_of_noRegistration quiet, joinSectors_of_noRegistration quiet, recalled, old]
  generalize leNat (cohBytes s key 4) = was
  refine ⟨_, rfl, ?_⟩
  generalize dropWords s c key 4 = d at hu own records coh
  generalize hbs : leBytes 4 (f was) = bs
  have len : bs.length = 4 := hbs ▸ length_leBytes ..
  obtain ⟨⟨l, b, moved⟩, home⟩ := homePuts_spec (s := d) (key := key) (line := key / 128) (bs := bs)
    (hu ▸ wf) (by omega) (by omega) (.inr (hu ▸ room))
  obtain ⟨v, bumped⟩ := bumpVers_eq (homePuts d key bs) key 4
  have home_ (a : Nat) : homeByte { homePuts d key bs with vers := v } a =
      if key ≤ a ∧ a < key + 4 then bs.getD (a - key) 0 else homeByte d a := len ▸ home a
  rw [moved] at home_ bumped
  rw [moved, bumped]
  refine ⟨⟨l, b, cs, v, by rw [hu]⟩, ?_, fun a ha => ?_, records⟩
  · rw [hbs]
    refine Eq.trans (List.map_congr_left fun i hi => ?_) (map_getD_range len 0)
    have hi := List.mem_range.1 hi
    rw [cohByte_of_unregistered ((registrant_congr (by rw [hu])).trans (unreg hi)), home_, if_pos (by omega),
      Nat.add_sub_cancel_left]
  · rw [← coh a]
    exact cohByte_congr rfl (fun _ => rfl) ((home_ a).trans (if_neg (by omega)))

/-! Messages that arrive (R272, R274, R180, R181). -/

section
variable {s : State} {id : Nat} {m : Msg}

theorem msgArrive_of (h : msg? s id = some m) : msgArrive s id = atHome s m := by
  simp only [msgArrive, h]

theorem exec_registration (h : msg? s id = some m) : exec (.registration id) s = .next (atHome s m) :=
  congrArg Host.Outcome.next (msgArrive_of h)

theorem exec_readThroughNotice (h : msg? s id = some m) : exec (.readThroughNotice id) s = .next (atHome s m) :=
  congrArg Host.Outcome.next (msgArrive_of h)

theorem exec_remoteWriteThrough_sent (h : msg? s id = some m) : exec (.remoteWriteThrough (.sent id)) s = .next (atHome s m) :=
  congrArg Host.Outcome.next (msgArrive_of h)

theorem exec_redPerform_sent (h : msg? s id = some m) : exec (.redPerform (.sent id)) s = .next (atHome s m) :=
  congrArg Host.Outcome.next (msgArrive_of h)

theorem exec_redTrigStep_sent (h : msg? s id = some m) : exec (.redTrigStep (.sent id)) s = .next (atHome s m) :=
  congrArg Host.Outcome.next (msgArrive_of h)

/-- A word nobody has registered is its core's after the registration. -/
theorem registerAt_spec {word : Nat} (reg : registrant s (word * 4) = none) (c : Nat) :
    (registerAt s word c).words = mset s.words word (.reg c) ∧ (registerAt s word c).warps = s.warps := by
  simp only [registerAt, registerWord, reg, writeBackWord_none reg, reduceCtorEq, if_false]
  exact ⟨rfl, l2Touch_warps ..⟩

theorem registration_spec {word c : Nat} (holds : NoHolds s) (sent : msg? s id = some m) (num : m.id = id)
    (body : m.body = .register word c) (reg : registrant s (word * 4) = none) :
    ∃ t, exec (.registration id) s = .next t ∧ mfind t.words word = some (.reg c) ∧ (∀ n ∈ t.msgs, n.id ≠ id) ∧
      ∀ v, v ≠ word → mfind t.words v = mfind s.words v := by
  obtain ⟨words, warps⟩ := registerAt_spec reg c
  obtain ⟨aside, msgs⟩ := acked_spec (noHolds_congr holds warps) m
  have words_ := aside.memSame.words.trans words
  refine ⟨_, exec_registration sent, ?_⟩
  simp only [atHome, body, words_, msgs]
  refine ⟨mfind_mset_self .., fun n hn => ?_, fun v hv => mfind_mset_other _ _ hv⟩
  simpa [num] using (List.mem_filter.1 hn).2

/-- The word is its registrant's alone again, its version advanced. -/
def regained (s : State) (word c : Nat) : State := { bumpVer s (word * 4) with words := mset s.words word (.reg c) }

theorem readThroughNotice_spec {word c : Nat} (holds : NoHolds s) (sent : msg? s id = some m) (body : m.body = .notice word c)
    (read : mfind s.words word = some (.regrd c)) :
    ∃ t, exec (.readThroughNotice id) s = .next t ∧ mfind t.words word = some (.reg c) ∧
      mget t.vers (word / 8) 0 = mget s.vers (word / 8) 0 + 1 := by
  have sector : word * 4 / 32 = word / 8 := by omega
  have arrived : atHome s m = acked (regained s word c) m := by
    simp only [atHome, body, read, if_true]
    rfl
  obtain ⟨-, -, words, vers, -, -⟩ := (acked_spec (s := regained s word c) holds m).1.memSame
  refine ⟨_, exec_readThroughNotice sent, ?_⟩
  rw [arrived, words, vers]
  refine ⟨mfind_mset_self .., ?_⟩
  simp only [regained, bumpVer, sector, mget_mset_self]

theorem forwardedRead_spec {word : Nat} (quiet : s.msgs = []) :
    ∃ t, exec (.forwardedRead word) s = .next t ∧ t.warps = s.warps ∧
      (∀ c, mfind s.words word = some (.reg c) → mfind t.words word = some (.regrd c)) ∧ ∀ a, cohByte t a = cohByte s a := by
  have one : (word * 4 + 4 - 1) / 4 + 1 - word = 1 := by omega
  have here : word * 4 / 4 = word := by omega
  have run : exec (.forwardedRead word) s = .next (match mfind s.words word with
      | some (.reg b) => { s with words := mset s.words word (.regrd b) }
      | _ => s) := by
    show Host.Outcome.next (forwardRead s none (word * 4) 4) = _
    simp only [forwardRead, joinSectors_of_noRegistration (noRegistration_of_msgs_nil quiet), one, here]
    rfl
  refine ⟨_, run, ?_⟩
  cases held : mfind s.words word with
  | none => exact ⟨rfl, nofun, fun _ => rfl⟩
  | some st =>
    cases st with
    | regrd b => exact ⟨rfl, nofun, fun _ => rfl⟩
    | reg b =>
      refine ⟨rfl, fun c hc => ?_, fun a => cohByte_congr ?_ (fun _ => rfl) rfl⟩
      · cases hc
        exact mfind_mset_self ..
      · by_cases ha : a / 4 = word
        · simp only [registrant, ha, held, mfind_mset_self]
        · exact registrant_congr (mfind_mset_other _ _ ha)
theorem homePuts_remote {key : Nat} (bs : List Byte) (remote : 2 ^ 54 ≤ key) :
    (homePuts s key bs).hbm = memWrite s.hbm key bs := by
  induction bs generalizing s key with
  | nil => rfl
  | cons b r ih =>
    have put : homePut s key b = { s with hbm := memPut s.hbm key b, homeBad := mdel s.homeBad key } := by
      simp only [homePut, keyLocal, decide_eq_false (Nat.not_lt.2 remote), Bool.false_eq_true, if_false]
    rw [homePuts, ih (by omega), put]
    rfl

/-- A write to another device's memory, of words nobody has registered. -/
theorem homeWrite_remote {key : Nat} {bs : List Byte} (remote : 2 ^ 54 ≤ key)
    (reg : ∀ i, i < bs.length → registrant s (key + i) = none) (quiet : NoRegistration s) :
    (homeWrite s key bs).hbm = memWrite s.hbm key bs := by
  unfold homeWrite
  split
  case isTrue none_ =>
    rw [List.isEmpty_iff.1 none_]
    rfl
  case isFalse some_ =>
    have pos : 0 < bs.length := List.length_pos_iff.2 fun h => some_ (h ▸ rfl)
    have unreg : ∀ i, i < (key + bs.length - 1) / 4 + 1 - key / 4 → registrant s ((key / 4 + i) * 4) = none := fun i hi =>
      (registrant_of_word (b := key + (max key ((key / 4 + i) * 4) - key)) (by omega)).trans (reg _ (by omega))
    rw [joinSectors_of_noRegistration quiet, recallWords_of_unregistered unreg]
    obtain ⟨v, bumped⟩ := bumpVers_eq (homePuts s key bs) key bs.length
    rw [bumped]
    exact homePuts_remote bs remote

theorem writeThrough_spec {key : Nat} {bs : List Byte} (holds : NoHolds s) (sent : msg? s id = some m)
    (body : m.body = .through key bs) (remote : 2 ^ 54 ≤ key) (reg : ∀ i, i < bs.length → registrant s (key + i) = none)
    (quiet : NoRegistration s) :
    ∃ t, exec (.remoteWriteThrough (.sent id)) s = .next t ∧ (∀ i, i < bs.length → memByte t.hbm (key + i) = bs.getD i 0) ∧
      ∀ a, a < key ∨ key + bs.length ≤ a → memByte t.hbm a = memByte s.hbm a := by
  obtain ⟨aside, -⟩ := acked_spec (noHolds_congr holds (homeWrite_warps quiet key bs)) m
  have hbm := aside.memSame.hbm.trans (homeWrite_remote remote reg quiet)
  refine ⟨_, exec_remoteWriteThrough_sent sent, ?_⟩
  simp only [atHome, body, hbm]
  refine ⟨fun i hi => ?_, fun a ha => memByte_memWrite_outside _ ha⟩
  rw [memByte_memWrite, if_pos (by omega), Nat.add_sub_cancel_left]

/-! Reductions (R178, R180). -/

theorem atomNew_add (old b : Nat) : atomNew .add 1 old b 0 = (old + b) % 2 ^ 32 := rfl

theorem red_spec {key lane : Nat} {v : DWord} (wf : Memory.wf s.hbm = true) (holds : NoHolds s) (sent : msg? s id = some m)
    (body : m.body = .red .add 1 key 4 [(lane, v)]) (whole : key % 4 = 0) (loc : key < 2 ^ 54) (reg : registrant s key = none)
    (quiet : NoRegistration s) (room : overfull s (key / 128) 1 = []) :
    ∃ t, exec (.redPerform (.sent id)) s = .next t ∧
      cohBytes t key 4 = leBytes 4 ((leNat (cohBytes s key 4) + v.toNat) % 2 ^ 32) ∧
      ∀ a, a < key ∨ key + 4 ≤ a → cohByte t a = cohByte s a := by
  obtain ⟨u, done_, frame, word, others, -⟩ := rmwHome_spec wf whole loc reg quiet room (coreOf m.warp)
    (fun old => atomNew .add 1 old v.toNat 0)
  have warps : u.warps = s.warps := by
    obtain ⟨_, _, _, _, rfl⟩ := frame
    rfl
  have aside := (acked_spec (noHolds_congr holds warps) m).1
  refine ⟨_, exec_redPerform_sent sent, ?_⟩
  simp only [atHome, body, List.foldl_cons, List.foldl_nil, done_]
  refine ⟨?_, fun a ha => (cohByte_of_aside aside).trans (others a ha)⟩
  rw [← atomNew_add, ← word]
  exact List.map_congr_left fun i _ => cohByte_of_aside aside
end

/-! Other devices' accesses (R274, R415, R431, R432). -/

theorem exec_remoteWriteThrough (x : Inbound) (s : State) : exec (.remoteWriteThrough x) s = execRemoteWriteThrough x s := rfl
theorem exec_redPerform (x : Inbound) (s : State) : exec (.redPerform x) s = execRedPerform x s := rfl

theorem exec_peerWrite {s : State} {dev pa op ty : Nat} {vals : List Nat} (ready : rangeStalls s pa (max 1 vals.length) = false) :
    exec (.remoteWriteThrough (.peer dev pa op ty vals)) s = .next (peerWrite s dev pa (vals.map (BitVec.ofNat 8))) := by
  simp only [exec_remoteWriteThrough, execRemoteWriteThrough, peerRequest, ready, Bool.false_eq_true, if_false]

section
variable {s : State} {dev pa : Nat} {bs : List Byte}

theorem peerWrite_memory (some_ : bs ≠ []) (most : bs.length ≤ 256) (inside : pa + bs.length ≤ 2 ^ 39) :
    peerWrite s dev pa bs = (homeWrite s pa bs).tell 42 [dev, pa, bs.length] := by
  have sized : ¬ (bs = [] ∨ 256 < bs.length) := by simp only [some_, false_or]; omega
  simp only [peerWrite, if_neg sized, if_pos inside]

theorem peerWrite_notify (some_ : bs ≠ []) (most : bs.length ≤ 256) (low : 2 ^ 40 - 2 ^ 16 ≤ pa) (high : pa < 2 ^ 40) :
    peerWrite s dev pa bs = if bs.length = 64 ∧ pa % 64 = 0 then s.after 0 (.notify bs) else { s with notifyErr := s.notifyErr + 1 } := by
  have sized : ¬ (bs = [] ∨ 256 < bs.length) := by simp only [some_, false_or]; omega
  have outside : ¬ pa + bs.length ≤ 2 ^ 39 := by omega
  simp only [peerWrite, if_neg sized, if_neg outside, if_pos (And.intro low high)]
end

theorem peerAdd_spec {s : State} {dev pa b : Nat} (wf : Memory.wf s.hbm = true) (ready : rangeStalls s pa 1 = false)
    (whole : pa % 4 = 0) (inside : pa + 4 ≤ 2 ^ 39) (reg : registrant s pa = none) (quiet : NoRegistration s)
    (room : overfull s (pa / 128) 1 = []) :
    ∃ t, exec (.redPerform (.peer dev pa 0 1 [b])) s = .next t ∧ t.warps = s.warps ∧
      cohBytes t pa 4 = leBytes 4 ((leNat (cohBytes s pa 4) + b) % 2 ^ 32) ∧
      t.reports = ⟨28, [dev, pa, leNat (cohBytes s pa 4)]⟩ :: s.reports := by
  obtain ⟨u, done_, ⟨l, bad, cs, v, hu⟩, word, -, -⟩ := rmwHome_spec wf whole (by omega) reg quiet room noCore
    (fun old => atomNew .add 1 old b 0)
  have run : exec (.redPerform (.peer dev pa 0 1 [b])) s = .next (peerAtomic s dev pa 0 1 [b]) := by
    simp only [exec_redPerform, execRedPerform, peerRequest, show max 1 [b].length = 1 from rfl, ready, Bool.false_eq_true,
      if_false]
  have performed : peerAtomic s dev pa 0 1 [b] = u.tell 28 [dev, pa, leNat (cohBytes s pa 4)] := by
    have apt : ¬ (pa % 4 ≠ 0 ∨ pa + 4 > 2 ^ 39) := by omega
    simp only [peerAtomic, show (if (1 : Nat) = 2 || (1 : Nat) = 3 then 8 else 4) = 4 from rfl, if_neg apt, List.getElem?_cons_zero,
      List.foldl_cons, List.foldl_nil, done_]
    rfl
  refine ⟨_, run, ?_⟩
  rw [performed]
  refine ⟨by rw [hu]; rfl, ?_, by rw [hu]; rfl⟩
  rw [← atomNew_add, ← word]
  rfl

/-! The caches' own moves (R270, R273, R275). -/

theorem exec_l1Dryer (core word : Nat) (s : State) : exec (.l1Dryer core word) s = execL1Dryer core word s := rfl
theorem exec_l2Dryer (line : Nat) (s : State) : exec (.l2Dryer line) s = execL2Dryer line s := rfl
theorem exec_l2Eviction (line : Nat) (s : State) : exec (.l2Eviction line) s = execL2Eviction line s := rfl
theorem exec_watchConfirm (w grain : Nat) (s : State) : exec (.watchConfirm w grain) s = execWatchConfirm w grain s := rfl

section
variable {s : State}

theorem l1Dryer_spec {core word since : Nat} (wf : Memory.wf s.hbm = true) (wrote : wroteAt s core word = some since)
    (aged : since + 4096 ≤ s.clk) (reg : registrant s (word * 4) = some core) (loc : word * 4 < 2 ^ 54)
    (room : overfull s (word / 32) 1 = []) :
    ∃ t, exec (.l1Dryer core word) s = .next t ∧ registrant t (word * 4) = none ∧ t.warps = s.warps ∧
      ∀ a, cohByte t a = cohByte s a := by
  obtain ⟨unreg, same⟩ := writeBackWord_spec false wf loc (.inr room) reg
  refine ⟨writeBackWord s word false, ?_, unreg, writeBackWord_warps .., same⟩
  simp only [exec_l1Dryer, execL1Dryer, wrote, decide_eq_true aged, reg, beq_self_eq_true, Bool.and_self, if_true]

/-- What HBM4E holds once the first `n` bytes of a line have been written to it where their sectors are dirty. -/
theorem memByte_foldl_dirty (m : Memory) (line : Nat) (ln : L2Line) (n a : Nat) :
    memByte ((List.range n).foldl (fun m i =>
      if ln.dirty.getLsbD (i / 32) then memPut m (line * 128 + i) (memByte ln.data i) else m) m) a =
    if line * 128 ≤ a ∧ a < line * 128 + n ∧ ln.dirty.getLsbD ((a - line * 128) / 32) = true then memByte ln.data (a - line * 128)
    else memByte m a := by
  induction n with
  | zero => rw [if_neg (by omega)]; rfl
  | succ n ih =>
    rw [List.range_succ, List.foldl_append, List.foldl_cons, List.foldl_nil]
    by_cases here : a = line * 128 + n
    · subst here
      by_cases dirty : ln.dirty.getLsbD (n / 32) = true
      · rw [if_pos dirty, memByte_memPut_self, Nat.add_sub_cancel_left, if_pos ⟨by omega, by omega, dirty⟩]
      · rw [if_neg dirty, ih, Nat.add_sub_cancel_left, if_neg fun h => dirty h.2.2, if_neg fun h => dirty h.2.2]
    · have bound : a < line * 128 + (n + 1) ↔ a < line * 128 + n := by omega
      simp only [bound]
      rw [← ih]
      split
      · exact memByte_memPut_other _ _ here
      · rfl

/-- A line's dirty sectors have gone to HBM4E. -/
theorem memByte_writeLine (line : Nat) (ln : L2Line) (a : Nat) : memByte (writeLine s line ln).hbm a =
    if a / 128 = line ∧ ln.dirty.getLsbD (a % 128 / 32) = true then memByte ln.data (a % 128) else memByte s.hbm a := by
  refine (memByte_foldl_dirty s.hbm line ln 128 a).trans ?_
  by_cases here : a / 128 = line
  · have off : a - line * 128 = a % 128 := by omega
    rw [off]
    by_cases dirty : ln.dirty.getLsbD (a % 128 / 32) = true
    · rw [if_pos ⟨by omega, by omega, dirty⟩, if_pos ⟨here, dirty⟩]
    · rw [if_neg fun h => dirty h.2.2, if_neg fun h => dirty h.2]
  · rw [if_neg (by omega), if_neg fun h => here h.1]

/-- The line stays in L2, clean. -/
def dried (s : State) (line : Nat) (ln : L2Line) : State :=
  { writeLine s line ln with l2 := mset s.l2 line { ln with dirty := 0 } }

/-- The line has left L2. -/
def evicted (s : State) (line : Nat) (ln : L2Line) : State := { writeLine s line ln with l2 := mdel s.l2 line }

theorem dried_l2 (line : Nat) (ln : L2Line) : (dried s line ln).l2 = mset s.l2 line { ln with dirty := 0 } := rfl
theorem dried_hbm (line : Nat) (ln : L2Line) : (dried s line ln).hbm = (writeLine s line ln).hbm := by rw [dried]
theorem evicted_l2 (line : Nat) (ln : L2Line) : (evicted s line ln).l2 = mdel s.l2 line := rfl
theorem evicted_hbm (line : Nat) (ln : L2Line) : (evicted s line ln).hbm = (writeLine s line ln).hbm := by rw [evicted]

theorem exec_l2Dryer_of {line : Nat} {ln : L2Line} (held : mfind s.l2 line = some ln) :
    exec (.l2Dryer line) s = .next (dried s line ln) := by
  simp only [exec_l2Dryer, execL2Dryer, held]
  rfl

theorem l2Dryer_spec {line : Nat} {ln : L2Line} (held : mfind s.l2 line = some ln) :
    ∃ t, exec (.l2Dryer line) s = .next t ∧ (∃ l, mfind t.l2 line = some l ∧ l.dirty = 0) ∧ t.warps = s.warps ∧
      (∀ i, i < 128 → ln.dirty.getLsbD (i / 32) = true → memByte t.hbm (line * 128 + i) = memByte ln.data i) ∧
      ∀ a, cohByte t a = cohByte s a := by
  have here_ : mfind (dried s line ln).l2 line = some { ln with dirty := 0 } := mfind_mset_self ..
  refine ⟨_, exec_l2Dryer_of held, ⟨_, here_, rfl⟩, rfl, fun i hi dirty => ?_, fun a => cohByte_congr rfl (fun _ => rfl) ?_⟩
  · have off : (line * 128 + i) % 128 = i := by omega
    rw [dried_hbm, memByte_writeLine, off, if_pos ⟨by omega, dirty⟩]
  · by_cases here : a / 128 = line
    · rw [homeByte_of_line here held, homeByte_of_line here here_]
    · refine homeByte_congr (by rw [dried_l2, mfind_mset_other _ _ here]) ?_
      rw [dried_hbm, memByte_writeLine, if_neg fun h => here h.1]

/-- A line without a registered word leaves its slice. -/
theorem evictLine_of_unregistered {line : Nat} {ln : L2Line} (unreg : ∀ i, i < 32 → mfind s.words (line * 32 + i) = none) :
    evictLine s line ln = bumpVers (evicted s line ln) (line * 128) 128 := by
  have owned : (List.range 32).filterMap (fun i => (registrant s (line * 128 + 4 * i)).map (fun c => (i, c))) = [] := by
    refine List.filterMap_eq_nil_iff.2 fun i hi => ?_
    have word : (line * 128 + 4 * i) / 4 = line * 32 + i := by omega
    simp only [registrant, word, unreg i (List.mem_range.1 hi), Option.map_none]
  simp only [evictLine, owned]
  rfl

theorem l2Eviction_spec {line : Nat} {ln : L2Line} (held : mfind s.l2 line = some ln)
    (unreg : ∀ i, i < 32 → mfind s.words (line * 32 + i) = none)
    (clean : ∀ i, i < 128 → ln.dirty.getLsbD (i / 32) = false → memByte ln.data i = memByte s.hbm (line * 128 + i)) :
    ∃ t, exec (.l2Eviction line) s = .next t ∧ mfind t.l2 line = none ∧ t.warps = s.warps ∧
      ∀ a, cohByte t a = cohByte s a := by
  obtain ⟨v, bumped⟩ := bumpVers_eq (evicted s line ln) (line * 128) 128
  have run : exec (.l2Eviction line) s = .next { evicted s line ln with vers := v } := by
    simp only [exec_l2Eviction, execL2Eviction, held, evictLine_of_unregistered unreg, bumped]
  have gone : mfind (evicted s line ln).l2 line = none := mfind_mdel_self ..
  refine ⟨_, run, gone, rfl, fun a => cohByte_congr rfl (fun _ => rfl) (Eq.trans (b := homeByte (evicted s line ln) a) rfl ?_)⟩
  by_cases here : a / 128 = line
  · rw [homeByte_of_line here held, homeByte_of_no_line here gone, evicted_hbm, memByte_writeLine]
    split
    case isTrue => rfl
    case isFalse spared =>
      have place : line * 128 + a % 128 = a := by omega
      rw [clean (a % 128) (by omega) (Bool.eq_false_iff.2 fun h => spared ⟨here, h⟩), place]
  · refine homeByte_congr (by rw [evicted_l2, mfind_mdel_other _ here]) ?_
    rw [evicted_hbm, memByte_writeLine, if_neg fun h => here h.1]

theorem l1Eviction_spec {core region : Nat} {tag : L1Tag} (held : mfind (s.core core).l1 region = some tag) (reg : tag.reg = 0)
    (quiet : s.msgs = []) :
    exec (.l1Eviction core region) s = .next (s.modCore core (fun k => { k with l1 := mdel k.l1 region })) := by
  have none_ : (List.range 128).foldl (fun s i => if tag.reg.getLsbD i then writeBackWord s (region * 128 + i) false else s) s = s :=
    foldl_of_mem_fixed fun i _ => by simp [reg]
  have run : exec (.l1Eviction core region) s = .next (l1Evict s core region) := rfl
  rw [run]
  simp only [l1Evict, held, deliverRegs_of_noRegistration (noRegistration_of_msgs_nil quiet), none_]

/-- A pending watch of a grain, its load performed, as the comparison with the home's version leaves it (R188). -/
def judged (s : State) (x : Warp) (grain : Nat) (e : WatchEntry) : WatchEntry :=
  if e.grain = grain ∧ e.state = .pending ∧ ∀ f ∈ x.flights, f.seq ≠ e.seq then
  { e with state := if e.ver = some (grainVer s e.size grain) then .confirmed else .struck } else e

theorem watchConfirm_spec {w grain : Nat} {x : Warp} (hx : mfind s.warps w = some x) :
    ∃ t y, exec (.watchConfirm w grain) s = .next t ∧ mfind t.warps w = some y ∧ RegsSame x y ∧
      y.watch = x.watch.map (judged s x grain) := by
  have judge : (fun e : WatchEntry =>
      if e.grain == grain && e.state == .pending && !x.flights.any (fun f => f.seq == e.seq) then
        { e with state := if e.ver == some (grainVer s e.size grain) then .confirmed else .struck }
      else e) = judged s x grain := by
    funext e
    simp [judged, and_assoc]
  have found : mfind (s.modWarp w (fun x_ => { x_ with watch := x_.watch.map (judged s x grain) })).warps w =
      some { x with watch := x.watch.map (judged s x grain) } := (find_modWarp ..).trans (congrArg _ hx)
  simp only [exec_watchConfirm, execWatchConfirm, warpD_of_find hx, judge]
  obtain ⟨ctr, counted⟩ := countFor_warp found 5
    (((x.watch.map (judged s x grain)).filter (fun e => e.state == .struck)).length -
      (x.watch.filter (fun e => e.state == .struck)).length)
  exact ⟨_, _, rfl, counted, by constructor <;> rfl, rfl⟩
end

end Sys2Proof.Proofs.HomeMoves

/-!
RED.TRIG's counters (R181, R330): the records a counter releases.
-/

namespace Sys2Proof.Proofs.Counters

open Sys2Proof Sys2Proof.Machine Sys2Proof.Claims Sys2Proof.Laws Sys2Proof.Proofs.ControlPort
open Sys2Proof.Proofs.Beside Sys2Proof.Proofs.Homes Sys2Proof.Proofs.HomeMoves

/-! A counter's place depends on what readers see alone (R278 to R280). -/

/-- Every reader of `t` sees what it sees in `s`, through the same address spaces. -/
structure SeenSame (s t : State) : Prop where
  bytes  : ∀ a, cohByte t a = cohByte s a
  dies   : t.dies = s.dies
  device : t.device = s.device

section
variable {s t u : State}

theorem SeenSame.trans (h : SeenSame s t) (k : SeenSame t u) : SeenSame s u :=
  ⟨fun a => (k.bytes a).trans (h.bytes a), k.dies.trans h.dies, k.device.trans h.device⟩

theorem seenSame_of_aside (h : Aside s t) : SeenSame s t :=
  ⟨fun _ => cohByte_of_aside h, by obtain ⟨_, _, _, _, _, _, _, rfl⟩ := h; rfl, by obtain ⟨_, _, _, _, _, _, _, rfl⟩ := h; rfl⟩

theorem allRecords_of_aside (h : Aside s t) : allRecords t = allRecords s := by
  obtain ⟨_, _, _, _, _, _, _, rfl⟩ := h
  rfl

variable (h : SeenSame s t)
include h

theorem cohBytes_of_seenSame (key n : Nat) : cohBytes t key n = cohBytes s key n :=
  List.map_congr_left fun _ _ => h.bytes _

theorem walkEntry_of_seenSame (asid va lvl e : Nat) (k : Nat → WalkRes) :
    walkFrom.walkEntry t asid va lvl e k = walkFrom.walkEntry s asid va lvl e k := by
  simp only [walkFrom.walkEntry, h.device]

theorem walkFrom_of_seenSame (asid va b n : Nat) : walkFrom t asid va b n = walkFrom s asid va b n := by
  induction n generalizing b with
  | zero => rw [walkFrom, walkFrom, walkEntry_of_seenSame h, cohBytes_of_seenSame h]
  | succ n ih =>
    have next : (fun a => walkFrom t asid va a n) = fun a => walkFrom s asid va a n := funext ih
    rw [walkFrom, walkFrom, walkEntry_of_seenSame h, cohBytes_of_seenSame h, next]

theorem walkAll_of_seenSame (asid va : Nat) : walkAll t asid va = walkAll s asid va := by
  simp only [walkAll, State.space, h.dies, walkFrom_of_seenSame h]

theorem counterKey_of_seenSame (r : Record) : counterKey t r = counterKey s r := by
  simp only [counterKey, walkAll_of_seenSame h, TlbEntry.key, physKey, h.device]
end

/-! Records that become READY (R330). -/

/-- A record of those named, READY at the clk and in the order of the names. -/
def readied (s : State) (ids : List Nat) (status : Option Nat) (r : Record) : Record :=
  if ids.contains r.id then
    { r with ready := true, status := status.getD r.status, readyAt := s.nextId + ids.idxOf r.id, readyClk := s.clk }
  else r

section
variable {s : State} {ids : List Nat} {status : Option Nat}

theorem readied_cases (s : State) (ids : List Nat) (status : Option Nat) (r : Record) :
    (readied s ids status r).armed = r.armed ∧ (readied s ids status r).asid = r.asid ∧
      (readied s ids status r).regd = r.regd ∧ (readied s ids status r).place = r.place ∧
      ((readied s ids status r).ready = (r.ready || ids.contains r.id)) := by
  unfold readied
  split
  case isTrue named => exact ⟨rfl, rfl, rfl, rfl, by rw [named, Bool.or_true]⟩
  case isFalse other => exact ⟨rfl, rfl, rfl, rfl, by rw [Bool.eq_false_iff.2 other, Bool.or_false]⟩

theorem allRecords_mapRecords (s : State) (f : Record → Record) : allRecords (mapRecords s f) = (allRecords s).map f := by
  simp [allRecords, mapRecords, List.map_flatMap, List.flatMap_map]

theorem mfind_map {α : Type} (m : NMap α) (g : α → α) (k : Nat) : mfind (m.map (fun e => (e.1, g e.2))) k = (mfind m k).map g := by
  induction m with
  | nil => rfl
  | cons e r ih =>
    obtain ⟨j, v⟩ := e
    simp only [List.map_cons, mfind]
    split
    · rfl
    · exact ih

theorem core_mapRecords (s : State) (f : Record → Record) (c : Nat) :
    (mapRecords s f).core c = { s.core c with chest := (s.core c).chest.map f } := by
  simp only [State.core, mapRecords, mget]
  rw [mfind_map s.cores (fun k => { k with chest := k.chest.map f })]
  cases mfind s.cores c <;> rfl

theorem seenSame_mapRecords (s : State) (f : Record → Record) : SeenSame s (mapRecords s f) :=
  ⟨fun _ => cohByte_congr rfl (fun c => by rw [core_mapRecords]; rfl) rfl, rfl, rfl⟩

/-- The records become READY where they are. -/
def madeReady (s : State) (ids : List Nat) (status : Option Nat) : State :=
  { mapRecords s (readied s ids status) with nextId := s.nextId + ids.length }

/-- Those of the records named that are in overflow rings are written there. -/
def ringsWritten (ids : List Nat) (t : State) : State :=
  (allRecords t).foldl (fun t r => match r.place with
    | some a => if ids.contains r.id then vWriteD t r.asid a (recordBytes r) else t
    | none => t) t

/-- The cores that hold records named look at their chests again. -/
def coresTold (ids : List Nat) (t : State) : State :=
  t.cores.foldl (fun t e => if e.2.chest.any (fun r => ids.contains r.id) then t.after 0 (.warpFormation e.1) else t) t

theorem makeReady_eq (s : State) (ids : List Nat) (status : Option Nat) :
    makeReady s ids status = coresTold ids (ringsWritten ids (madeReady s ids status)) := rfl

theorem ringsWritten_of_unplaced {t : State} (unplaced : ∀ r ∈ allRecords t, r.place = none) (ids : List Nat) :
    ringsWritten ids t = t :=
  foldl_of_mem_fixed fun r hr => by rw [unplaced r hr]

theorem later_coresTold (ids : List Nat) (t : State) : Later t (coresTold ids t) :=
  List.foldlRecOn t.cores _ (motive := Later t) (.refl t) fun u hu _ _ => hu.trans (.ite (later_after ..) (.refl u))

/-- Records in no overflow ring become READY where they are. -/
theorem later_makeReady (unplaced : ∀ r ∈ allRecords s, r.place = none) (ids : List Nat) (status : Option Nat) :
    Later (madeReady s ids status) (makeReady s ids status) := by
  have unplaced_ : ∀ r ∈ allRecords (madeReady s ids status), r.place = none := fun r hr => by
    obtain ⟨q, hq, rfl⟩ := List.mem_map.1 (allRecords_mapRecords s (readied s ids status) ▸ hr)
    exact (readied_cases s ids status q).2.2.2.1.trans (unplaced q hq)
  rw [makeReady_eq, ringsWritten_of_unplaced unplaced_]
  exact later_coresTold ..

theorem mem_insertBy {α : Type} {f : α → Nat} {a b : α} {l : List α} (h : b = a ∨ b ∈ l) : b ∈ insertBy f a l := by
  induction l with
  | nil => simpa [insertBy] using h
  | cons c r ih =>
    rw [insertBy]
    split
    · simpa using h
    · rcases h with h | h
      · exact List.mem_cons_of_mem _ (ih (.inl h))
      · exact List.mem_cons.2 ((List.mem_cons.1 h).imp_right fun h => ih (.inr h))

theorem mem_sortBy {α : Type} {f : α → Nat} {b : α} {l : List α} (h : b ∈ l) : b ∈ sortBy f l := by
  have go (l acc : List α) (h : b ∈ acc ∨ b ∈ l) : b ∈ l.foldl (fun acc a => insertBy f a acc) acc := by
    induction l generalizing acc with
    | nil => simpa using h
    | cons c r ih =>
      refine ih _ ?_
      rcases h with h | h
      · exact .inl (mem_insertBy (.inr h))
      · exact (List.mem_cons.1 h).imp_left fun h => mem_insertBy (.inl h)
  exact go l [] (.inr h)

/-- Every registered record of a counter that releases it is READY. -/
def Released (t : State) (key : Nat) : Prop :=
  ∀ r ∈ allRecords t, r.regd = true → counterKey t r = some key → r.ready = true

theorem releaseArmed_spec (unplaced : ∀ r ∈ allRecords s, r.place = none) (key flags : Nat) :
    SeenSame s (releaseArmed s key flags) ∧ (releaseArmed s key flags).warps = s.warps ∧
      Released (releaseArmed s key flags) key := by
  simp only [releaseArmed]
  generalize hids : (sortBy _ _).map _ = ids
  have later := later_makeReady unplaced ids (some flags)
  have seen : SeenSame s (makeReady s ids (some flags)) :=
    ((seenSame_mapRecords s _).trans ⟨fun _ => rfl, rfl, rfl⟩).trans (seenSame_of_aside later.aside)
  refine ⟨seen, later.warps, fun r hr regd counter => ?_⟩
  rw [allRecords_of_aside later.aside] at hr
  obtain ⟨q, hq, rfl⟩ := List.mem_map.1 (allRecords_mapRecords s (readied s ids (some flags)) ▸ hr)
  rw [counterKey_of_seenSame seen] at counter
  obtain ⟨armed, asid, regd_, -, ready⟩ := readied_cases s ids (some flags) q
  have counter_ : counterKey s q = some key := by
    rw [← counter]
    simp only [counterKey, armed, asid]
  rw [ready]
  cases was : q.ready with
  | true => rfl
  | false =>
    have hit : q ∈ (allRecords s).filter (fun r => r.regd && !r.ready && counterKey s r == some key) :=
      List.mem_filter.2 ⟨hq, by rw [← regd_, regd, was, counter_]; simp⟩
    rw [Bool.false_or, ← hids]
    simpa using ⟨q, mem_sortBy hit, rfl⟩
end

/-! A counter's step (R181). -/

theorem trigStep_spec {s : State} {key lane : Nat} {v : DWord} (wf : Memory.wf s.hbm = true) (whole : key % 4 = 0)
    (loc : key < 2 ^ 54) (reg : registrant s key = none) (quiet : NoRegistration s) (room : overfull s (key / 128) 1 = [])
    (unplaced : ∀ r ∈ allRecords s, r.place = none) (c : Nat) {was : Nat} (hwas : was = leNat (cohBytes s key 4)) :
    (trigStep c key s (lane, v)).warps = s.warps ∧
      cohBytes (trigStep c key s (lane, v)) key 4 =
        leBytes 4 ((was / 2 ^ 24 ||| v.toNat % 256) * 2 ^ 24 + (was % 2 ^ 24 - 1)) ∧
      (was % 2 ^ 24 = 1 → Released (trigStep c key s (lane, v)) key) := by
  obtain ⟨u, done_, ⟨l, b, cs, vs, hu⟩, word, -, records⟩ := rmwHome_spec wf whole loc reg quiet room c
    (fun old => (trigNew old v.toNat).1)
  obtain ⟨seen, warps, released⟩ := releaseArmed_spec (fun r hr => unplaced r (records hr)) key
    ((trigNew was v.toNat).1 / 2 ^ 24)
  have same : u.warps = s.warps := by rw [hu]
  simp only [trigStep, done_, ← hwas] at word ⊢
  split
  · exact ⟨warps.trans same, (cohBytes_of_seenSame seen ..).trans word, fun _ => released⟩
  · rename_i more
    exact ⟨same, word, fun one => absurd (by simpa [trigNew] using one) more⟩

theorem redTrig_spec {s : State} {id key lane : Nat} {m : Msg} {v : DWord} (wf : Memory.wf s.hbm = true) (holds : NoHolds s)
    (sent : msg? s id = some m) (body : m.body = .trig key [(lane, v)]) (whole : key % 4 = 0) (loc : key < 2 ^ 54)
    (reg : registrant s key = none) (quiet : NoRegistration s) (room : overfull s (key / 128) 1 = [])
    (unplaced : ∀ r ∈ allRecords s, r.place = none) {was : Nat} (hwas : was = leNat (cohBytes s key 4)) :
    ∃ t, exec (.redTrigStep (.sent id)) s = .next t ∧
      cohBytes t key 4 = leBytes 4 ((was / 2 ^ 24 ||| v.toNat % 256) * 2 ^ 24 + (was % 2 ^ 24 - 1)) ∧
      (was % 2 ^ 24 = 1 → Released t key) := by
  obtain ⟨warps, word, released⟩ := trigStep_spec (lane := lane) (v := v) wf whole loc reg quiet room unplaced (coreOf m.warp) hwas
  have aside := (acked_spec (noHolds_congr holds warps) m).1
  have seen := seenSame_of_aside aside
  refine ⟨_, exec_redTrigStep_sent sent, ?_⟩
  simp only [atHome, body, List.foldl_cons, List.foldl_nil]
  refine ⟨(cohBytes_of_seenSame seen ..).trans word, fun one r hr regd counter => released one r ?_ regd ?_⟩
  · rwa [allRecords_of_aside aside] at hr
  · rwa [counterKey_of_seenSame seen] at counter

end Sys2Proof.Proofs.Counters

/-!
The moves of memory at its homes and in its caches, together.
-/

namespace Sys2Proof.Proofs.HomesAndCaches

open Sys2Proof Sys2Proof.Machine Sys2Proof.Claims Sys2Proof.Laws Sys2Proof.Proofs.ControlPort
open Sys2Proof.Proofs.Beside Sys2Proof.Proofs.Homes Sys2Proof.Proofs.HomeMoves Sys2Proof.Proofs.Counters

theorem peerWrites_spec {s : State} {dev pa op ty : Nat} {vals : List Nat}
    (ready : rangeStalls s pa (max 1 vals.length) = false) (some_ : vals ≠ []) (most : vals.length ≤ 256) :
    let bs := vals.map (BitVec.ofNat 8)
    let write := exec (.remoteWriteThrough (.peer dev pa op ty vals)) s
    (pa + vals.length ≤ 2 ^ 39 → write = .next { homeWrite s pa bs with
      reports := ⟨42, [dev, pa, vals.length]⟩ :: (homeWrite s pa bs).reports }) ∧
    (2 ^ 40 - 2 ^ 16 ≤ pa → pa < 2 ^ 40 →
      (vals.length = 64 → pa % 64 = 0 → ∃ t, write = .next t ∧ (s.clk, Event.notify bs) ∈ t.agenda ∧ t.warps = s.warps ∧
        t.notifyErr = s.notifyErr ∧ MemSame s t) ∧
      (vals.length ≠ 64 ∨ pa % 64 ≠ 0 → write = .next { s with notifyErr := s.notifyErr + 1 })) := by
  intro bs write
  have len : bs.length = vals.length := List.length_map ..
  have full : bs ≠ [] := fun h => some_ (List.map_eq_nil_iff.1 h)
  have run : write = .next (peerWrite s dev pa bs) := exec_peerWrite ready
  rw [run]
  refine ⟨fun inside => ?_, fun low high => ?_⟩
  · rw [peerWrite_memory full (len ▸ most) (len ▸ inside), len]
    rfl
  · rw [peerWrite_notify full (len ▸ most) low high, len]
    refine ⟨fun exact_ aligned => ?_, fun not_ => ?_⟩
    · rw [if_pos ⟨exact_, aligned⟩]
      exact ⟨_, rfl, mem_after s 0 _, rfl, rfl, (aside_after ..).memSame⟩
    · rw [if_neg (by omega)]

/-- Settles O39: each message, access and move by its own lemma. -/
theorem homesAndCaches : Obligations.HomesAndCaches := by
  unfold Obligations.HomesAndCaches
  intro s memWf holds
  have wf : Memory.wf s.hbm = true := ((memWf_iff s).1 memWf).1
  refine ⟨?_, ?_, ?_, ?_, ?_, ?_, ?_, ?_, ?_, ?_, ?_, ?_, ?_, ?_⟩
  · exact fun id m word c sent num body reg => registration_spec holds sent num body reg
  · exact fun id m word c sent _ body read => readThroughNotice_spec holds sent body read
  · exact fun word quiet => forwardedRead_spec quiet
  · exact fun id m key bs sent _ body remote reg quiet => writeThrough_spec holds sent body remote reg quiet
  · exact fun id m key lane v sent _ body whole loc reg quiet room => red_spec wf holds sent body whole loc reg quiet room
  · intro id m key lane v sent _ body whole loc reg quiet room unplaced was _
    exact redTrig_spec wf holds sent body whole loc reg quiet room unplaced rfl
  · exact fun dev pa op ty vals ready some_ most => peerWrites_spec ready some_ most
  · exact fun dev pa b ready whole inside reg quiet room =>
      peerAdd_spec wf ready whole inside reg (noRegistration_of_msgs_nil quiet) room
  · exact fun dev => rfl
  · exact fun core word since wrote aged reg loc _ room => l1Dryer_spec wf wrote aged reg loc room
  · exact fun line ln held => l2Dryer_spec held
  · exact fun line ln held unreg clean => l2Eviction_spec held unreg clean
  · exact fun core region tag held reg quiet => l1Eviction_spec held reg quiet
  · exact fun w grain x hx => watchConfirm_spec hx

end Sys2Proof.Proofs.HomesAndCaches

/-!
Summaries (R247 to R264): a merge of distinct counts for another device whose source's bytes run on past its 1,024 registers.
-/

namespace Sys2Proof.Proofs.Summaries

open Sys2Proof Sys2Proof.Machine Sys2Proof.Proofs.Homes Sys2Proof.Proofs.HomeMoves

/-! A merge of distinct counts with a bad source (R250, R262). -/

theorem dcRead_eq_none {b : List Byte} {r : Byte} (mem : r ∈ b) (high : 55 < r.toNat) : dcRead b = none := by
  have bad : ¬ (b.map (·.toNat)).all (fun r => decide (r ≤ 55)) = true := fun all =>
    Nat.not_le.2 high (of_decide_eq_true (List.all_eq_true.1 all _ (List.mem_map_of_mem mem)))
  rw [dcRead, if_neg bad]

theorem sumUpdate_dcmerge_of_badSource {q : SumCmd} {src : List Byte} (op : q.op = 7) (bad : dcRead src = none) (d : List Byte)
    (free : Nat) : sumUpdate q d src free = badOut free := by
  simp only [sumUpdate, op, bad]
  cases dcRead d <;> rfl

theorem sumWord_badOut (free : Nat) : sumWord (badOut free) = 2 ^ 24 := by
  simp [sumWord, badOut, boolNat]

/-- Another device's merge whose source is bad: the answer is code BAD, and nothing else changes. -/
theorem peerSummary_dcmerge_of_badSource {s : State} {dst : Nat} {src : List Byte} (aligned : dst % 1024 = 0)
    (inside : dst + 1024 ≤ 2 ^ 39) (sound : homeErr s dst 1024 = false) (unreg : ∀ a, registrant s a = none)
    (bad : dcRead src = none) (dev coin : Nat) (vals : List Nat) :
    peerSummary s dev 7 coin dst vals src = s.tell 35 [dev, dst, 2 ^ 24] := by
  have size : sumSize 7 = 1024 := rfl
  have update : sumQuery 7 = false := rfl
  have reaches : ¬ (7 > 8 ∨ dst % 1024 ≠ 0 ∨ dst + 1024 > 2 ^ 39) := by omega
  have recalled : recallWords s dst 1024 = s := recallWords_of_unregistered fun _ _ => unreg _
  simp only [peerSummary, size, update, sound, if_neg reaches, Bool.false_eq_true, if_false,
    sumUpdate_dcmerge_of_badSource (bad := bad), sumWord_badOut]
  exact congrArg (State.tell · 35 [dev, dst, 2 ^ 24]) recalled

theorem exec_peerSummary {s : State} {dst : Nat} (flows : homeStalls s dst = false) (dev op coin : Nat) (vals : List Nat)
    (src : List Byte) :
    exec (.summaryPerform (.peer dev op coin dst vals src)) s = .next (peerSummary s dev op coin dst vals src) := by
  have run : exec (.summaryPerform (.peer dev op coin dst vals src)) s = if homeStalls s dst then
      done (s.after 64 (.summaryPerform (.peer dev op coin dst vals src))) else done (peerSummary s dev op coin dst vals src) := rfl
  rw [run, flows]
  rfl

/-! The counterexample: a device right after reset, and a source of 1,024 zero registers with one byte of 56 after them. -/

/-- The bytes of `n` zero registers and of one register too large. -/
def zerosThenHigh (n : Nat) : List Byte := List.replicate n 0 ++ [56]

theorem getD_zerosThenHigh {n i : Nat} (hi : i < n) : (zerosThenHigh n).getD i 0 = 0 := by
  simp [zerosThenHigh, List.getD_eq_getElem?_getD, List.getElem?_append_left, hi]

theorem dcRead_zerosThenHigh (n : Nat) : dcRead (zerosThenHigh n) = none :=
  dcRead_eq_none (r := 56) (by simp [zerosThenHigh]) (by decide)

theorem homeErr_reset (key n : Nat) : homeErr State.reset key n = false :=
  List.any_eq_false.2 fun _ _ => Bool.false_ne_true

theorem getD_cohBytes_reset (key n i : Nat) (hi : i < n) : (cohBytes State.reset key n).getD i 0 = 0 :=
  getD_map_range _ hi 0

/-- Refutes O41: the clause on another device's merge bounds the source's first 1,024 bytes and not their number, and a register
above 55 after them makes the source BAD, so the answer's word is 2^24 where the clause says 0. -/
theorem not_summaries : ¬ Obligations.Summaries := by
  unfold Obligations.Summaries
  rintro ⟨-, -, peers⟩
  obtain ⟨performs, -, -⟩ := peers State.reset 0 7 0 0 [] (zerosThenHigh 1024)
  obtain ⟨-, merges⟩ := performs rfl (by decide) rfl (by decide) rfl (homeErr_reset ..)
  obtain ⟨t, run, -, reports⟩ := merges rfl fun i hi => by
    rw [getD_cohBytes_reset 0 (sumSize 7) i hi, getD_zerosThenHigh hi]
    decide
  rw [exec_peerSummary rfl, peerSummary_dcmerge_of_badSource rfl (by decide) (homeErr_reset ..) (fun _ => rfl)
    (dcRead_zerosThenHigh 1024)] at run
  cases run
  exact absurd reports (by decide)

end Sys2Proof.Proofs.Summaries

/-!
What the operations on homes and caches read and write (R268 to R277): nothing but the homes, the caches and the dies' sizes decides
them, and they change nothing but the homes and the caches.
-/

namespace Sys2Proof.Proofs.HomeFrame

open Sys2Proof Sys2Proof.Machine Sys2Proof.Claims Sys2Proof.Laws Sys2Proof.Proofs.ControlPort Sys2Proof.Proofs.Homes

/-- `u` with the homes, the caches and the dies of `s`: all that an operation on homes reads. -/
def withReads (u s : State) : State :=
  { u with hbm := s.hbm, l2 := s.l2, words := s.words, vers := s.vers, homeBad := s.homeBad, cores := s.cores, dies := s.dies,
           nDies := s.nDies }

/-- `s` with the homes and the caches of `t`: all that an operation on homes writes. -/
def withWrites (s t : State) : State :=
  { s with hbm := t.hbm, l2 := t.l2, words := t.words, vers := t.vers, homeBad := t.homeBad, cores := t.cores }

/-- An operation that reads and writes no more than that. -/
def HomeLocal (f : State → State) : Prop := ∀ u s, f (withReads u s) = withWrites (withReads u s) (f s)

section
variable {f g : State → State}

theorem HomeLocal.frame (h : HomeLocal f) (s : State) : f s = withWrites s (f s) := h s s

/-- Two states that agree in what the operation reads come to agree in what it writes. -/
theorem HomeLocal.congr (h : HomeLocal f) {s t : State} (same : withReads t s = t) : f t = withWrites t (f s) := by
  have step := h t s
  rwa [same] at step

theorem HomeLocal.comp (hg : HomeLocal g) (hf : HomeLocal f) : HomeLocal (fun s => g (f s)) := fun u s => by
  have first : f (withReads u s) = withReads u (f s) := by
    rw [hf u s, hf.frame s]
    rfl
  calc g (f (withReads u s))
    _ = withWrites (withReads u (f s)) (g (f s)) := by rw [first, hg u (f s)]
    _ = withWrites (withReads u (withWrites s (f s))) (g (f s)) := congrArg (fun t => withWrites (withReads u t) (g (f s))) (hf.frame s)
    _ = withWrites (withReads u s) (g (f s)) := rfl

theorem HomeLocal.foldl {α : Type} {f : State → α → State} (step : ∀ a, HomeLocal (f · a)) (l : List α) :
    HomeLocal (fun s => l.foldl f s) := by
  induction l with
  | nil => exact fun _ _ => rfl
  | cons a r ih => exact ih.comp (step a)

theorem HomeLocal.ite {p : State → Prop} [DecidablePred p] (reads : ∀ u s, p (withReads u s) = p s) (hf : HomeLocal f)
    (hg : HomeLocal g) : HomeLocal (fun s => if p s then f s else g s) := fun u s => by
  simp only [reads]
  split
  · exact hf u s
  · exact hg u s
end

theorem homeLocal_id : HomeLocal (fun s => s) := fun _ _ => rfl

theorem homeLocal_bumpVers (key n : Nat) : HomeLocal (bumpVers · key n) :=
  HomeLocal.foldl (f := fun s i => bumpVer s ((key / 32 + i) * 32)) (fun _ _ _ => rfl) _

theorem homeLocal_dropReg (word c : Nat) (drop : Bool) : HomeLocal (dropReg · word c drop) := fun _ _ => rfl

/-- HBM4E with a line's dirty sectors written to it. -/
def drained (line : Nat) (ln : L2Line) (m : Memory) : Memory :=
  (List.range 128).foldl (fun m i => if ln.dirty.getLsbD (i / 32) then memPut m (line * 128 + i) (memByte ln.data i) else m) m

theorem homeLocal_hbm (f : Memory → Memory) : HomeLocal (fun s => { s with hbm := f s.hbm }) := fun _ _ => rfl

theorem homeLocal_writeLine (line : Nat) (ln : L2Line) : HomeLocal (writeLine · line ln) := homeLocal_hbm (drained line ln)

/-- A line leaves its slice with the bytes, the marks and the registrations found there. -/
theorem homeLocal_evictLine (line : Nat) (ln : L2Line) : HomeLocal (evictLine · line ln) := by
  have gone (bad : List Nat) : HomeLocal (fun s => { s with
      l2 := mdel s.l2 line, homeBad := bad.foldl (fun m a => mset m a true) s.homeBad }) := fun _ _ => rfl
  have dropped := HomeLocal.foldl (f := fun s (ic : Nat × Nat) => dropReg s (line * 32 + ic.1) ic.2 true) fun ic =>
    homeLocal_dropReg _ ic.2 true
  have step (full : L2Line) (bad : List Nat) (owned : List (Nat × Nat)) :=
    (homeLocal_bumpVers (line * 128) 128).comp ((dropped owned).comp ((gone bad).comp (homeLocal_writeLine line full)))
  exact fun u s => step _ _ _ u s

theorem homeLocal_l2Trim (line more : Nat) : HomeLocal (l2Trim · line more) := by
  have step := HomeLocal.foldl (f := fun s (e : Nat × L2Line) => evictLine s e.1 e.2) fun e => homeLocal_evictLine e.1 e.2
  exact fun u s => step (overfull s line more) u s

theorem homeLocal_l2Touch (line : Nat) : HomeLocal (l2Touch · line) := by
  have comes : HomeLocal (fun s => { s with l2 := mset s.l2 line ⟨0, memSlice s.hbm (line * 128) 128⟩ }) := fun _ _ => rfl
  exact HomeLocal.ite (p := fun s => (keyLocal (line * 128) && (mfind s.l2 line).isNone) = true) (fun _ _ => rfl)
    (comes.comp (homeLocal_l2Trim line 1)) homeLocal_id

theorem homeLocal_homePut (key : Nat) (b : Byte) : HomeLocal (homePut · key b) := by
  have put (upd : L2Line → L2Line) : HomeLocal (fun s => { s with l2 := mmod s.l2 (key / 128) upd, homeBad := mdel s.homeBad key }) :=
    fun _ _ => rfl
  exact HomeLocal.ite (p := fun _ => keyLocal key = true) (fun _ _ => rfl) ((put _).comp (homeLocal_l2Touch (key / 128)))
    fun _ _ => rfl

theorem homeLocal_homePuts (key : Nat) (bs : List Byte) : HomeLocal (homePuts · key bs) := by
  induction bs generalizing key with
  | nil => exact homeLocal_id
  | cons b r ih => exact (ih (key + 1)).comp (homeLocal_homePut key b)

theorem homeLocal_writeBackWord (word : Nat) (drop : Bool) : HomeLocal (writeBackWord · word drop) := by
  have step (c : Nat) (bs : List Byte) (bad : Bool) :=
    (homeLocal_dropReg word c drop).comp ((HomeLocal.ite (f := (poisonHome · c word)) (p := fun _ => bad = true) (fun _ _ => rfl)
      (fun _ _ => rfl) homeLocal_id).comp (homeLocal_homePuts (word * 4) bs))
  intro u s
  change writeBackWord (withReads u s) word drop = withWrites _ (writeBackWord s word drop)
  cases reg : registrant s (word * 4) with
  | none =>
    rw [writeBackWord_none reg, writeBackWord_none (s := withReads u s) reg]
    rfl
  | some c =>
    rw [writeBackWord_some reg, writeBackWord_some (s := withReads u s) reg]
    exact step c _ _ u s

theorem homeLocal_recallWords (key n : Nat) : HomeLocal (recallWords · key n) :=
  HomeLocal.foldl (f := fun s i => writeBackWord s (key / 4 + i) true) (fun _ => homeLocal_writeBackWord _ true) _

/-- A home-performed write with no registration on its way. -/
def writeHome (key : Nat) (bs : List Byte) (s : State) : State :=
  if bs.isEmpty then s else bumpVers (homePuts (recallWords s key bs.length) key bs) key bs.length

theorem homeLocal_writeHome (key : Nat) (bs : List Byte) : HomeLocal (writeHome key bs) :=
  HomeLocal.ite (p := fun _ => bs.isEmpty = true) (fun _ _ => rfl) homeLocal_id
    ((homeLocal_bumpVers key _).comp ((homeLocal_homePuts key bs).comp (homeLocal_recallWords key _)))

section
variable {s t : State}

theorem homeWrite_eq_writeHome (quiet : NoRegistration s) (key : Nat) (bs : List Byte) : homeWrite s key bs = writeHome key bs s := by
  rw [homeWrite, joinSectors_of_noRegistration quiet, writeHome]

theorem homeWrite_frame (quiet : NoRegistration s) (key : Nat) (bs : List Byte) :
    homeWrite s key bs = withWrites s (homeWrite s key bs) := by
  rw [homeWrite_eq_writeHome quiet]
  exact (homeLocal_writeHome key bs).frame s

theorem homeWrite_congr (quiet : NoRegistration s) (quiet' : NoRegistration t) (same : withReads t s = t) (key : Nat)
    (bs : List Byte) : homeWrite t key bs = withWrites t (homeWrite s key bs) := by
  rw [homeWrite_eq_writeHome quiet, homeWrite_eq_writeHome quiet']
  exact (homeLocal_writeHome key bs).congr same
end

/-! Reads by units without a core (R272, R280), while nothing is on its way. -/

/-- `t` differs from `s` at most in the states of words. -/
def WordsMoved (s t : State) : Prop := ∃ w, t = { s with words := w }

theorem WordsMoved.trans {s t u : State} (h : WordsMoved s t) (k : WordsMoved t u) : WordsMoved s u := by
  obtain ⟨_, rfl⟩ := h
  obtain ⟨_, rfl⟩ := k
  exact ⟨_, rfl⟩

theorem WordsMoved.quiet {s t : State} (h : WordsMoved s t) (quiet : s.msgs = []) : t.msgs = [] := by
  obtain ⟨_, rfl⟩ := h
  exact quiet

theorem forwardRead_of_quiet {s : State} (quiet : s.msgs = []) (c : Option Nat) (key n : Nat) :
    WordsMoved s (forwardRead s c key n) := by
  simp only [forwardRead, joinSectors_of_noRegistration (noRegistration_of_msgs_nil quiet)]
  refine List.foldlRecOn _ _ (motive := WordsMoved s) ⟨_, rfl⟩ fun t ht i _ => ht.trans ?_
  split
  · split <;> exact ⟨_, rfl⟩
  · exact ⟨_, rfl⟩

theorem forwardReads_of_quiet {s : State} (quiet : s.msgs = []) (keys : List Nat) (n : Nat) :
    WordsMoved s (keys.foldl (fun s k => forwardRead s none k n) s) :=
  List.foldlRecOn keys _ (motive := WordsMoved s) ⟨_, rfl⟩ fun _ ht k _ =>
    ht.trans (forwardRead_of_quiet (ht.quiet quiet) none k n)

end Sys2Proof.Proofs.HomeFrame

/-!
Walks and translations (R278 to R285, R417): what a walk finds, who forgets a walk, what a TLB holds, and Toltar's answers.
-/

namespace Sys2Proof.Proofs.Walks

open Sys2Proof Sys2Proof.Machine Sys2Proof.Claims Sys2Proof.Laws Sys2Proof.Proofs.ControlPort
open Sys2Proof.Proofs.Beside Sys2Proof.Proofs.HomeMoves Sys2Proof.Proofs.Counters Sys2Proof.Proofs.HomeFrame

/-! What a translation covers (R278, R283). -/

/-- A TLB's entry is for this address of this space. -/
def Covers (e : TlbEntry) (asid va : Nat) : Prop := e.asid = asid ∧ e.base ≤ va ∧ va < e.base + e.size

theorem covers_iff (e : TlbEntry) (asid va : Nat) :
    (e.asid == asid && decide (e.base ≤ va) && decide (va < e.base + e.size)) = true ↔ Covers e asid va := by
  simp [Covers, and_assoc]

theorem pageBytes_pos (lvl : Nat) : 0 < pageBytes lvl := by
  unfold pageBytes
  split
  · decide
  · split <;> decide

/-- An entry that is a leaf covers the address whose walk reached it. -/
theorem covers_of_walkEntry {s : State} {asid va lvl w : Nat} {k : Nat → WalkRes} {e : TlbEntry}
    (deeper : ∀ a, k a = .leaf e → Covers e asid va) (leaf : walkFrom.walkEntry s asid va lvl w k = .leaf e) :
    Covers e asid va := by
  simp only [walkFrom.walkEntry] at leaf
  split at leaf
  · cases leaf
  split at leaf
  · split at leaf
    · cases leaf
    · cases leaf
      exact ⟨rfl, Nat.div_mul_le_self .., Nat.lt_div_mul_add (pageBytes_pos lvl)⟩
  · generalize (if lvl = 1 then 256 else 4096) = align at leaf
    split at leaf
    · cases leaf
    · exact deeper _ leaf

theorem covers_of_walkFrom {s : State} {asid va b n : Nat} {e : TlbEntry} (leaf : walkFrom s asid va b n = .leaf e) :
    Covers e asid va := by
  induction n generalizing b with
  | zero => exact covers_of_walkEntry (fun _ h => by cases h) leaf
  | succ n ih => exact covers_of_walkEntry (fun _ h => ih h) leaf

/-- What a walk on a die does while nothing is on its way: words read through, and walk caches filled. -/
theorem walkOn_of_quiet {s : State} (quiet : s.msgs = []) (die asid va : Nat) :
    ∃ w ds, (walkOn s die asid va).2 = { s with words := w, dies := ds } ∧
      ((walkOn s die asid va).2.die die).fq = (s.die die).fq := by
  unfold walkOn
  split
  · exact ⟨_, _, rfl, rfl⟩
  · split
    · exact ⟨_, _, rfl, rfl⟩
    · dsimp only
      obtain ⟨w, hw⟩ := forwardReads_of_quiet quiet (walkKeys s va _ _) 8
      rw [hw]
      exact ⟨_, _, rfl, by rw [die_modDie]; rfl⟩

theorem covers_of_walkOn {s : State} {die asid va : Nat} {e : TlbEntry} (leaf : (walkOn s die asid va).1 = .leaf e) :
    Covers e asid va := by
  unfold walkOn at leaf
  split at leaf
  · cases leaf
  · split at leaf
    · cases leaf
    · exact covers_of_walkFrom leaf

/-! TLBs (R283, R285). -/

section
variable {s : State} {e : TlbEntry} {asid va : Nat}

theorem tlbFind_cons (covers : Covers e asid va) (l : List TlbEntry) : tlbFind (e :: l) asid va = some e := by
  rw [tlbFind, List.find?_cons, (covers_iff e asid va).2 covers]

theorem coreXlate_tlbInstall (covers : Covers e asid va) (c : Nat) : coreXlate (tlbInstall s c e) c asid va = some e := by
  have held : ((tlbInstall s c e).core c).tlb = e :: ((s.core c).tlb.filter (· ≠ e)).take 1023 := by
    simp only [tlbInstall, core_of_cores (modDie_cores ..), core_modCore, List.take_succ_cons]
  simp only [coreXlate, held, tlbFind_cons covers]

theorem coreXlate_of_aside {t : State} (h : Aside s t) (c : Nat) : coreXlate t c asid va = coreXlate s c asid va := by
  obtain ⟨_, _, _, _, _, _, _, rfl⟩ := h
  rfl

/-- Whether a translation is for another page or space. -/
def spared (asid va : Nat) (e : TlbEntry) : Bool := !(e.asid == asid && decide (e.base ≤ va) && decide (va < e.base + e.size))

theorem spared_iff (asid va : Nat) (e : TlbEntry) : spared asid va e = true ↔ ¬Covers e asid va := by
  rw [spared, Bool.not_eq_true', Bool.eq_false_iff, ne_eq, covers_iff]

theorem tlbFind_spared (l : List TlbEntry) (asid va : Nat) : tlbFind (l.filter (spared asid va)) asid va = none :=
  List.find?_eq_none.2 fun e he => mt (covers_iff e asid va).1 ((spared_iff asid va e).1 (List.mem_filter.1 he).2)

/-- Every TLB and walk cache without the translations of an address (R285). -/
def unmapped (s : State) (asid va : Nat) : State :=
  { s with cores := s.cores.map (fun c => (c.1, { c.2 with tlb := c.2.tlb.filter (spared asid va) })),
           dies := s.dies.map (fun d => (d.1, { d.2 with
             tlb := d.2.tlb.filter (spared asid va)
             wcache := d.2.wcache.filter (fun c => !(c.asid == asid && c.tag == va / 2 ^ (12 + 9 * c.lvl))) })) }

theorem tlb_unmapped_core (s : State) (asid va c : Nat) :
    ((unmapped s asid va).core c).tlb = (s.core c).tlb.filter (spared asid va) := by
  simp only [State.core, unmapped, mget]
  rw [mfind_map s.cores (fun k => { k with tlb := k.tlb.filter (spared asid va) })]
  cases mfind s.cores c <;> rfl

theorem tlb_unmapped_die (s : State) (asid va d : Nat) :
    ((unmapped s asid va).die d).tlb = (s.die d).tlb.filter (spared asid va) := by
  simp only [State.die, unmapped, mget]
  rw [mfind_map s.dies (fun e => { e with
    tlb := e.tlb.filter (spared asid va)
    wcache := e.wcache.filter (fun c => !(c.asid == asid && c.tag == va / 2 ^ (12 + 9 * c.lvl))) })]
  cases mfind s.dies d <;> rfl

theorem coreXlate_unmapped (s : State) (asid va c : Nat) : coreXlate (unmapped s asid va) c asid va = none := by
  simp only [coreXlate, tlb_unmapped_core, tlb_unmapped_die, tlbFind_spared]

theorem dropXlate_of_quiet (quiet : s.msgs = []) (asid va : Nat) : dropXlate s asid va = unmapped s asid va := by
  have arrived : arriveAll s = s := by rw [arriveAll, quiet, List.foldl_nil]
  simp only [dropXlate, arrived]
  rfl

theorem invalidate_of_unchanged (quiet : s.msgs = []) (same : mfind s.newSpaces asid = none) :
    invalidate s asid va = unmapped s asid va := by
  have same' : mfind (unmapped s asid va).newSpaces asid = none := same
  simp only [invalidate, dropXlate_of_quiet quiet, same']

theorem invalidate_of_changed {d : AsDescriptor} (quiet : s.msgs = []) (new : mfind s.newSpaces asid = some d) :
    invalidate s asid va = spacePut { unmapped s asid va with newSpaces := mdel s.newSpaces asid } d := by
  have new' : mfind (unmapped s asid va).newSpaces asid = some d := new
  simp only [invalidate, dropXlate_of_quiet quiet, new']
  rfl

theorem exec_tlbInvalidate (quiet : s.msgs = []) (asid va : Nat) :
    exec (.tlbInvalidate asid va) s = .next (invalidate s asid va) := by
  have run : exec (.tlbInvalidate asid va) s = execTlbInvalidate asid va s := rfl
  simp only [run, execTlbInvalidate, quiet, List.any_nil, Bool.false_eq_true, if_false]
end

/-! A descriptor set in every die (R413). -/

/-- `t` has the warps and dies of `s`, and nothing on its way in either. -/
structure QuietSame (s t : State) : Prop where
  quiet : t.msgs = []
  warps : t.warps = s.warps
  dies  : t.dies = s.dies

section
variable {s t u : State}

theorem QuietSame.refl (quiet : s.msgs = []) : QuietSame s s := ⟨quiet, rfl, rfl⟩

theorem QuietSame.trans (h : QuietSame s t) (k : QuietSame t u) : QuietSame s u :=
  ⟨k.quiet, k.warps.trans h.warps, k.dies.trans h.dies⟩

theorem quietSame_homeWrite (quiet : s.msgs = []) (key : Nat) (bs : List Byte) : QuietSame s (homeWrite s key bs) := by
  rw [homeWrite_frame (noRegistration_of_msgs_nil quiet)]
  exact ⟨quiet, rfl, rfl⟩

theorem quietSame_walkTouch (quiet : s.msgs = []) (asid va : Nat) : QuietSame s (walkTouch s asid va) := by
  unfold walkTouch
  split
  · exact .refl quiet
  · split
    · exact .refl quiet
    · obtain ⟨w, hw⟩ := forwardReads_of_quiet quiet (walkKeys s va _ 4) 8
      rw [hw]
      exact ⟨quiet, rfl, rfl⟩

theorem quietSame_unitWalk (quiet : s.msgs = []) (asid va n : Nat) : QuietSame s (unitWalk s asid va n) := by
  refine List.foldlRecOn _ _ (motive := QuietSame s) (.refl quiet) fun t ht i _ => ht.trans ?_
  have touched := quietSame_walkTouch ht.quiet asid (max va ((va / 65536 + i) * 65536))
  dsimp only
  split
  · exact ⟨touched.quiet, touched.warps, touched.dies⟩
  · exact touched

theorem quietSame_vWriteGo {asid va f : Nat} {bs : List Byte} (quiet : s.msgs = []) (done_ : vWriteGo s asid va bs f = some t) :
    QuietSame s t := by
  induction f generalizing s va bs with
  | zero =>
    cases done_
    exact .refl quiet
  | succ f ih =>
    simp only [vWriteGo] at done_
    split at done_
    · cases done_
      exact .refl quiet
    · split at done_
      · cases done_
      · exact (quietSame_homeWrite quiet _ _).trans (ih (quietSame_homeWrite quiet _ _).quiet done_)

theorem quietSame_vWriteD (quiet : s.msgs = []) (asid va : Nat) (bs : List Byte) : QuietSame s (vWriteD s asid va bs) := by
  rw [vWriteD, vWrite]
  have walked := quietSame_unitWalk quiet asid va bs.length
  cases done_ : vWriteGo (unitWalk s asid va bs.length) asid va bs (bs.length / 65536 + 2) with
  | none => exact .refl quiet
  | some t => exact walked.trans (quietSame_vWriteGo walked.quiet done_)

theorem quietSame_ringSet (quiet : s.msgs = []) (d : AsDescriptor) : QuietSame s (ringSet s d) := by
  have counted : QuietSame s { s with devRings := mset s.devRings d.asid ⟨0, 0, 0⟩ } := ⟨quiet, rfl, rfl⟩
  exact counted.trans (quietSame_vWriteD counted.quiet ..)

theorem space_everyDie {d : AsDescriptor} (some_ : s.dies ≠ []) :
    (everyDie s (fun e => { e with spaces := mset e.spaces d.asid d })).space d.asid = some d := by
  obtain ⟨e, r, hd⟩ := List.exists_cons_of_ne_nil some_
  simp only [State.space, everyDie, hd, List.map_cons, List.findSome?_cons, mfind_mset_self]

/-- The descriptor is the space's from now on; no warp is touched. -/
theorem spacePut_spec (quiet : s.msgs = []) (some_ : s.dies ≠ []) (d : AsDescriptor) :
    (spacePut s d).space d.asid = some d ∧ (spacePut s d).warps = s.warps := by
  have same := quietSame_ringSet (s := everyDie s (fun e => { e with spaces := mset e.spaces d.asid d })) quiet d
  refine ⟨?_, same.warps⟩
  rw [← space_everyDie (d := d) some_, State.space, spacePut, same.dies]
  rfl
end

/-! Walks by their numbers (R283, R284). -/

section
variable {s : State} {id : Nat}

theorem walk?_mapWalks {f : Walk → Walk} (ids : ∀ k, (f k).id = k.id) (s : State) (id : Nat) :
    walk? { s with walks := s.walks.map f } id = (walk? s id).map f := by
  have same : (fun k => k.id == id) ∘ f = fun k : Walk => k.id == id := funext fun k => by simp only [Function.comp, ids]
  rw [walk?, List.find?_map, same, walk?]

theorem id_of_walk? {k : Walk} (found : walk? s id = some k) : k.id = id := by
  simpa using List.find?_some found

/-- Walkers are given to walks that are not declined. -/
theorem walk?_giveWalkers (declined : ∀ k ∈ s.walks, k.id = id → k.declined = true) : walk? (giveWalkers s) id = walk? s id := by
  refine List.foldlRecOn _ _ (motive := fun t => walk? t id = walk? s id) rfl fun t ht k hk => ?_
  obtain ⟨mem, waits⟩ := List.mem_filter.1 hk
  have other : k.id ≠ id := fun h => by simp [declined k mem h] at waits
  split
  · exact ht
  · refine Eq.trans (walk?_mapWalks (fun j => by split <;> rfl) t id) ?_
    rw [← ht]
    cases found : walk? t id with
    | none => rfl
    | some j =>
      rw [Option.map_some, if_neg fun h => other (h.symm.trans (id_of_walk? found))]

theorem walk?_dropWalk (s : State) (id : Nat) : walk? (dropWalk s id) id = none := by
  rw [dropWalk, dropWalks]
  split
  case isFalse none_ => exact List.find?_eq_none.2 (by simpa using none_)
  case isTrue =>
    have gone : ∀ k ∈ s.walks.filter (fun k => !(k.id == id)), k.id ≠ id := by simp
    rw [walk?_giveWalkers fun k hk h => absurd h (gone k hk)]
    exact List.find?_eq_none.2 fun k hk => by simpa using gone k hk

theorem later_resumeAccess (s : State) (k : Walk) : Later s (resumeAccess s k) := by
  unfold resumeAccess
  split
  · exact .refl s
  · exact List.foldlRecOn s.cores _ (motive := Later s) (.refl s) fun t ht _ _ => ht.trans (.ite (.refl t) (later_after ..))
  · exact List.foldlRecOn s.cores _ (motive := Later s) (.refl s) fun t ht _ _ => ht.trans (.ite (.refl t) (later_after ..))
  · exact ((later_after ..).trans (later_after ..)).trans (later_after ..)

theorem later_fqFreed (s : State) (d : Nat) : Later s (fqFreed s d) :=
  List.foldlRecOn s.walks _ (motive := Later s) (.refl s) fun t ht _ _ => ht.trans (.ite (later_after ..) (.refl t))

theorem walk?_of_later {t : State} (h : Later s t) (id : Nat) : walk? t id = walk? s id := by
  obtain ⟨_, rfl, -⟩ := h
  rfl

theorem dies_of_aside {t : State} (h : Aside s t) : t.dies = s.dies := by
  obtain ⟨_, _, _, _, _, _, _, rfl⟩ := h
  rfl

/-- A declined walk, its walker free. -/
def refused (k : Walk) : Walk := { k with declined := true, held := false, walker := none }

theorem aside_declineWalk (s : State) (k : Walk) : Aside s (declineWalk s k) :=
  (Aside.trans ⟨_, _, _, _, _, _, _, rfl⟩ (aside_giveWalkers _)).trans (later_resumeAccess _ k).aside

theorem declineWalk_warps (s : State) (k : Walk) : (declineWalk s k).warps = s.warps :=
  (later_resumeAccess _ k).warps.trans (giveWalkers_warps _)

theorem walk?_declineWalk {k : Walk} (found : walk? s id = some k) : walk? (declineWalk s k) id = some (refused k) := by
  have num := id_of_walk? found
  have marked : walk? (modWalk s k.id refused) id = some (refused k) := by
    refine (walk?_mapWalks (fun j => by split <;> rfl) s id).trans ?_
    rw [found, Option.map_some, if_pos rfl]
  refine (walk?_of_later (later_resumeAccess ..) id).trans (Eq.trans (walk?_giveWalkers fun j hj hid => ?_) marked)
  obtain ⟨i, -, rfl⟩ := List.mem_map.1 hj
  by_cases same : i.id = k.id
  · rw [if_pos same]
  · rw [if_neg same] at hid
    exact absurd (hid.trans num.symm) same
end

/-! A walk that has its walker (R278 to R284). -/

section
variable {s : State} {id n : Nat} {k : Walk}

/-- Nothing holds the walk up: it has a walker, is not declined, and has no fault-queue entry. -/
structure Walking (s : State) (id : Nat) (k : Walk) (n : Nat) : Prop where
  found    : walk? s id = some k
  wanted   : k.declined = false
  walker   : k.walker = some n
  unqueued : ∀ q ∈ (s.die k.die).fq, q.2.walk ≠ id

/-- A leaf is installed and the access goes on (R284). -/
theorem exec_tableWalk_leaf (h : Walking s id k n) {e : TlbEntry} (own : k.src < 49152)
    (leaf : (walkOn s k.die k.asid k.va).1 = .leaf e) : exec (.tableWalk id) s =
      .next (resumeAccess (dropWalk (tlbInstall (walkOn s k.die k.asid k.va).2 (coreOf k.src) e) id) k) := by
  have run : exec (.tableWalk id) s = execTableWalk id s := rfl
  have unqueued : (s.die k.die).fq.any (fun e => e.2.walk == id) = false := by simpa using h.unqueued
  simp only [run, execTableWalk, h.found, h.walker, h.wanted, unqueued, leaf, if_pos own, Bool.or_self, Bool.false_eq_true, if_false]

/-- An invalid entry takes a free place of the fault queue (R284, R417). -/
theorem exec_tableWalk_invalid (h : Walking s id k n) {i : Nat} (invalid : (walkOn s k.die k.asid k.va).1 = .invalid)
    (free : (List.range 32).find? (fun i => (mfind (((walkOn s k.die k.asid k.va).2).die k.die).fq i).isNone) = some i) :
    exec (.tableWalk id) s = .next (let u := (walkOn s k.die k.asid k.va).2
      svInterrupt ((modWalk u id (fun k => { k with held := false })).modDie k.die (fun d =>
        { d with fq := mset d.fq i ⟨k.va, k.asid, walkSource u k, k.kind, k.need, n, id⟩ })) k.die 0) := by
  have run : exec (.tableWalk id) s = execTableWalk id s := rfl
  have unqueued : (s.die k.die).fq.any (fun e => e.2.walk == id) = false := by simpa using h.unqueued
  simp only [run, execTableWalk, h.found, h.walker, h.wanted, unqueued, invalid, free, Bool.or_self, Bool.false_eq_true, if_false]

theorem svInterrupt_dies (s : State) (die duty : Nat) : (svInterrupt s die duty).dies = s.dies := by
  unfold svInterrupt
  split <;> rfl

theorem svInterrupt_warps (s : State) (die duty : Nat) : (svInterrupt s die duty).warps = s.warps := by
  unfold svInterrupt
  split <;> rfl

theorem tableWalk_leaf_spec (quiet : s.msgs = []) (h : Walking s id k n) {e : TlbEntry} (own : k.src < 49152)
    (leaf : (walkOn s k.die k.asid k.va).1 = .leaf e) :
    ∃ t, exec (.tableWalk id) s = .next t ∧ coreXlate t (coreOf k.src) k.asid k.va = some e ∧ walk? t id = none ∧
      t.hbm = s.hbm ∧ t.l2 = s.l2 := by
  refine ⟨_, exec_tableWalk_leaf h own leaf, ?_⟩
  obtain ⟨w, ds, walked, -⟩ := walkOn_of_quiet quiet k.die k.asid k.va
  rw [walked]
  generalize hu : tlbInstall _ (coreOf k.src) e = u
  have later := later_resumeAccess (dropWalk u id) k
  have aside : Aside u (resumeAccess (dropWalk u id) k) := (aside_dropWalks ..).trans later.aside
  refine ⟨?_, (walk?_of_later later id).trans (walk?_dropWalk u id), ?_, ?_⟩
  · rw [coreXlate_of_aside aside, ← hu]
    exact coreXlate_tlbInstall (covers_of_walkOn leaf) _
  · rw [aside.memSame.hbm, ← hu]
    rfl
  · rw [aside.memSame.l2, ← hu]
    rfl

theorem tableWalk_invalid_spec (quiet : s.msgs = []) (h : Walking s id k n) {i : Nat}
    (invalid : (walkOn s k.die k.asid k.va).1 = .invalid)
    (free : (List.range 32).find? (fun i => (mfind (s.die k.die).fq i).isNone) = some i) :
    ∃ t q, exec (.tableWalk id) s = .next t ∧ mfind (t.die k.die).fq i = some q ∧ q.va = k.va ∧ q.asid = k.asid ∧
      q.src = walkSource s k ∧ q.kind = k.kind ∧ q.need = k.need ∧ q.walker = n ∧ q.walk = id ∧ t.warps = s.warps := by
  obtain ⟨w, ds, walked, fq⟩ := walkOn_of_quiet quiet k.die k.asid k.va
  refine ⟨_, ⟨k.va, k.asid, walkSource s k, k.kind, k.need, n, id⟩, exec_tableWalk_invalid h invalid (fq ▸ free), ?_,
    rfl, rfl, rfl, rfl, rfl, rfl, rfl, ?_⟩
  · rw [walked, die_of_dies (svInterrupt_dies ..), die_modDie]
    exact mfind_mset_self ..
  · rw [svInterrupt_warps, walked]
    rfl
end

/-! Toltar's answers (R417, R420). -/

section
variable {s : State} {die idx h : Nat} {e : FqEntry} {r : JournalRec}

/-- The supervisor pairs have changed, and nothing else. -/
def withPairs (s : State) (p : NMap Pair) : State := { s with pairs := p }

/-- A change whose record is in both copies takes effect. -/
theorem journaled_of_mirrored {duty kind : Nat} {args : List Nat} (owner : mget (s.die die).duties duty 0 = h + 1)
    (record : (mget s.pairs h (Pair.fresh .spare)).journal.find? (fun q => q.kind == kind && q.args == args && !q.applied) = some r)
    (mirrored : r.mirrored = true) : ∃ p, ∀ ev eff, journaled s die duty kind args ev eff = eff (withPairs s p) := by
  simp only [journaled, owner, journaledBy, record, mirrored, Bool.not_true, Bool.false_eq_true, if_false]
  exact ⟨_, fun _ _ => rfl⟩

/-- An entry leaves the fault queue. -/
def unqueue (s : State) (die idx : Nat) : State := s.modDie die (fun d => { d with fq := mdel d.fq idx })

theorem mfind_unqueue (s : State) (die idx : Nat) : mfind ((unqueue s die idx).die die).fq idx = none := by
  rw [unqueue, die_modDie]
  exact mfind_mdel_self ..

/-- What a replay does once it is journaled: the entry is written, the page invalidated, and the walk goes on. -/
theorem exec_fqrespReplay {a : Nat} {pte : DWord} (entry : mfind (s.die die).fq idx = some e)
    (owner : mget (s.die die).duties 0 0 = h + 1)
    (record : (mget s.pairs h (Pair.fresh .spare)).journal.find? (fun q => q.kind == 4 &&
      q.args == [die, idx, e.walk, a, pte.toNat] && !q.applied) = some r) (mirrored : r.mirrored = true) :
    ∃ p, exec (.fqrespReplay die idx a pte) s = .next (fqFreed ((unqueue (invalidate
      (homeWrite (withPairs s p) a (leBytes 8 pte.toNat)) e.asid e.va) die idx).after 0 (.tableWalk e.walk)) die) := by
  have run : exec (.fqrespReplay die idx a pte) s = execFqrespReplay die idx a pte s := rfl
  obtain ⟨p, effect⟩ := journaled_of_mirrored owner record mirrored
  simp only [run, execFqrespReplay, entry, effect]
  exact ⟨p, rfl⟩

theorem fqrespReplay_spec {a : Nat} {pte : DWord} (quiet : s.msgs = []) (entry : mfind (s.die die).fq idx = some e)
    (owner : mget (s.die die).duties 0 0 = h + 1)
    (record : (mget s.pairs h (Pair.fresh .spare)).journal.find? (fun q => q.kind == 4 &&
      q.args == [die, idx, e.walk, a, pte.toNat] && !q.applied) = some r)
    (mirrored : r.mirrored = true) (same : mfind s.newSpaces e.asid = none) :
    ∃ t, exec (.fqrespReplay die idx a pte) s = .next t ∧ mfind (t.die die).fq idx = none ∧
      (s.clk, Event.tableWalk e.walk) ∈ t.agenda ∧ t.hbm = (homeWrite s a (leBytes 8 pte.toNat)).hbm ∧
      t.l2 = (homeWrite s a (leBytes 8 pte.toNat)).l2 := by
  obtain ⟨p, run⟩ := exec_fqrespReplay entry owner record mirrored
  have nomsg := noRegistration_of_msgs_nil quiet
  rw [homeWrite_congr (t := withPairs s p) nomsg nomsg rfl,
    invalidate_of_unchanged (s := withWrites (withPairs s p) _) quiet same] at run
  refine ⟨_, run, ?_⟩
  generalize homeWrite s a (leBytes 8 pte.toNat) = u
  obtain ⟨ag, freed, kept⟩ := later_fqFreed ((unqueue (unmapped (withWrites (withPairs s p) u) e.asid e.va) die idx).after 0
    (.tableWalk e.walk)) die
  rw [freed]
  exact ⟨mfind_unqueue .., kept _ (mem_after _ 0 _), rfl, rfl⟩

/-- What a refusal does once it is journaled: the walk of the entry is declined. -/
theorem exec_fqrespDecline {k : Walk} (entry : mfind (s.die die).fq idx = some e)
    (owner : mget (s.die die).duties 0 0 = h + 1) (found : walk? s e.walk = some k)
    (record : (mget s.pairs h (Pair.fresh .spare)).journal.find? (fun q => q.kind == 4 &&
      q.args == [die, idx, e.walk] && !q.applied) = some r) (mirrored : r.mirrored = true) :
    ∃ p, exec (.fqrespDecline die idx) s = .next (fqFreed (declineWalk (unqueue (withPairs s p) die idx) k) die) := by
  have run : exec (.fqrespDecline die idx) s = execFqrespDecline die idx s := rfl
  obtain ⟨p, effect⟩ := journaled_of_mirrored owner record mirrored
  have found' : walk? (unqueue (withPairs s p) die idx) e.walk = some k := found
  rw [unqueue] at found'
  simp only [run, execFqrespDecline, entry, effect, found']
  exact ⟨p, rfl⟩

theorem fqrespDecline_spec {k : Walk} (entry : mfind (s.die die).fq idx = some e)
    (owner : mget (s.die die).duties 0 0 = h + 1) (found : walk? s e.walk = some k)
    (record : (mget s.pairs h (Pair.fresh .spare)).journal.find? (fun q => q.kind == 4 &&
      q.args == [die, idx, e.walk] && !q.applied) = some r) (mirrored : r.mirrored = true) :
    ∃ t k', exec (.fqrespDecline die idx) s = .next t ∧ mfind (t.die die).fq idx = none ∧ walk? t e.walk = some k' ∧
      k'.declined = true ∧ k'.walker = none ∧ k'.va = k.va ∧ t.warps = s.warps := by
  obtain ⟨p, run⟩ := exec_fqrespDecline entry owner found record mirrored
  have later := later_fqFreed (declineWalk (unqueue (withPairs s p) die idx) k) die
  have aside := (aside_declineWalk (unqueue (withPairs s p) die idx) k).trans later.aside
  refine ⟨_, refused k, run, ?_, (walk?_of_later later _).trans (walk?_declineWalk found), rfl, rfl, rfl,
    later.warps.trans (declineWalk_warps ..)⟩
  rw [die_of_dies (dies_of_aside aside)]
  exact mfind_unqueue ..
end

end Sys2Proof.Proofs.Walks

/-!
Uncorrectable errors where they hit (R286, R355), and all of O40 together.
-/

namespace Sys2Proof.Proofs.TranslationAndErrors

open Sys2Proof Sys2Proof.Machine Sys2Proof.Claims Sys2Proof.Laws Sys2Proof.Proofs.ControlPort
open Sys2Proof.Proofs.Walks

theorem exec_eccError (x : EccPlace) (s : State) : exec (.eccError x) s = execEccError x s := rfl

theorem homeErr_of_homeBad {s : State} {a : Nat} (bad : mget s.homeBad a false = true) : homeErr s a 1 = true := by
  simp [homeErr, bad]

/-- An element whose stored form is bad fails its check however it is drained (R69, R355). -/
theorem drainElem_of_bad {a : Acc} (bad : a.bad = true) (mode : Nat) (e : Int) : ((drainElem mode e a).2).testBit 0 = true := by
  have failed : (accValue a).2 = true := by simp [accValue, bad]
  cases poison : a.poison <;> simp [drainElem, failed, poison, mChk, mPoison]

theorem eccError_accum (s : State) (c n r e : Nat) :
    ∃ t a, exec (.eccError (.accum c n r e)) s = .next t ∧ mfind (t.ctx c n).accs (1024 * r + e) = some a ∧ a.bad = true ∧
      ∀ mode, ((drainElem mode 0 a).2).testBit 0 = true := by
  have marked : ∃ f, exec (.eccError (.accum c n r e)) s = .next (s.modCtx c n f) ∧
      ∃ a, mfind (f (s.ctx c n)).accs (1024 * r + e) = some a ∧ a.bad = true :=
    ⟨_, exec_eccError .., _, mfind_mset_self .., rfl⟩
  obtain ⟨f, run, a, stored, bad⟩ := marked
  exact ⟨_, a, run, by rw [ctx_modCtx, stored], bad, fun mode => drainElem_of_bad bad mode 0⟩

/-- An error in a word of an L1 copy: a registered one is bad, any other is lost (R286). -/
theorem exec_eccError_l1 {s : State} {c word : Nat} {tag : L1Tag} (held : mfind (s.core c).l1 (word / 128) = some tag) :
    exec (.eccError (.l1 c word)) s = .next (s.modCore c (fun k =>
      if tag.reg.getLsbD (word % 128) then { k with l1Bad := mset k.l1Bad word true }
      else { k with l1 := mmod k.l1 (word / 128) (fun t => { t with gone := t.gone ||| BitVec.ofNat 128 (2 ^ (word % 128)) }) })) := by
  simp only [exec_eccError, execEccError, held]
  split <;> rfl

/-- A word that is not the core's own and is marked gone is not served (R270, R286). -/
theorem l1Hit_of_gone {s : State} {c word : Nat} {t : L1Tag} (held : mfind (s.core c).l1 (word / 128) = some t)
    (reg : t.reg.getLsbD (word % 128) = false) (gone : t.gone.getLsbD (word % 128) = true) : l1Hit s c (4 * word) = false := by
  have region : 4 * word / 512 = word / 128 := by omega
  have place : 4 * word % 512 / 4 = word % 128 := by omega
  simp only [l1Hit, region, held, L1Tag.own, place, reg, gone, Bool.false_and, Bool.false_or, Bool.not_true, Bool.and_false]

theorem eccError_l1_lost {s : State} {c word : Nat} {tag : L1Tag} (held : mfind (s.core c).l1 (word / 128) = some tag)
    (reg : tag.reg.getLsbD (word % 128) = false) :
    ∃ t, exec (.eccError (.l1 c word)) s = .next t ∧ l1Hit t c (4 * word) = false ∧ t.warps = s.warps ∧ t.hbm = s.hbm := by
  refine ⟨_, exec_eccError_l1 held, l1Hit_of_gone
    (t := { tag with gone := tag.gone ||| BitVec.ofNat 128 (2 ^ (word % 128)) }) ?_ reg ?_, rfl, rfl⟩
  · simp only [core_modCore, reg, Bool.false_eq_true, if_false, mfind_mmod_self, held, Option.map_some]
  · rw [BitVec.getLsbD_or, BitVec.getLsbD_ofNat, Nat.testBit_two_pow_self]
    simp [Nat.mod_lt]

/-- Settles O40: each walk, answer, invalidation and error by its own lemma. -/
theorem translationAndErrors : Obligations.TranslationAndErrors := by
  unfold Obligations.TranslationAndErrors
  intro s
  refine ⟨?_, ?_, ?_, ?_, ?_, ?_, ?_, ?_, ?_, ?_, ?_, ?_, ?_, ?_⟩
  · exact fun id k e n quiet found wanted walker own unqueued leaf =>
      tableWalk_leaf_spec quiet ⟨found, wanted, walker, unqueued⟩ own leaf
  · exact fun id k i n quiet found wanted walker unqueued invalid free =>
      tableWalk_invalid_spec quiet ⟨found, wanted, walker, unqueued⟩ invalid free
  · exact fun die idx a pte h e r quiet entry owner record mirrored same =>
      fqrespReplay_spec quiet entry owner record mirrored same
  · exact fun die idx h e r k entry owner found record mirrored => fqrespDecline_spec entry owner found record mirrored
  · intro asid va quiet same
    refine ⟨unmapped s asid va, ?_, coreXlate_unmapped s asid va, rfl, fun c e => ?_⟩
    · rw [exec_tlbInvalidate quiet, invalidate_of_unchanged quiet same]
    · rw [tlb_unmapped_core, List.mem_filter, spared_iff]
      rfl
  · intro asid va d q new num listed quiet
    have dies : (unmapped s asid va).dies ≠ [] := by simpa [unmapped] using List.ne_nil_of_mem listed
    refine ⟨_, exec_tlbInvalidate quiet asid va, ?_⟩
    rw [invalidate_of_changed quiet new, ← num]
    exact spacePut_spec (s := { unmapped s d.asid va with newSpaces := mdel s.newSpaces d.asid }) quiet (num ▸ dies) d
  · exact fun c a => ⟨_, exec_eccError (.spad c a) s, by simp, rfl, by simp⟩
  · exact fun a => ⟨_, exec_eccError (.home a) s, homeErr_of_homeBad (mget_mset_self ..), rfl, rfl⟩
  · exact fun c => ⟨_, exec_eccError (.tlb c) s, by simp, rfl⟩
  · exact fun c n r e => eccError_accum s c n r e
  · exact fun c word tag held reg => ⟨_, exec_eccError_l1 held, by simp [reg], by simp [reg]⟩
  · exact fun c word tag held reg => eccError_l1_lost held reg
  · exact fun d => ⟨_, exec_eccError (.dieTlb d) s, by simp, by simp, rfl⟩
  · exact fun u => rfl

end Sys2Proof.Proofs.TranslationAndErrors

/-!
What an access to memory leaves of the HQS (R272, R298, R307): its slots, the commands in progress and the attached queues, whatever
registrations are on their way.
-/

namespace Sys2Proof.Proofs.HqsFrame

open Sys2Proof Sys2Proof.Machine Sys2Proof.Proofs.Beside Sys2Proof.Proofs.HomeMoves Sys2Proof.Proofs.HomeFrame

/-- The HQS stands in `t` as in `s`. -/
structure HqsSame (s t : State) : Prop where
  work     : t.work = s.work
  slots    : t.slots = s.slots
  attached : t.attached = s.attached

section
variable {s t u : State}

theorem HqsSame.refl (s : State) : HqsSame s s := ⟨rfl, rfl, rfl⟩

theorem HqsSame.trans (h : HqsSame s t) (k : HqsSame t u) : HqsSame s u :=
  ⟨k.work.trans h.work, k.slots.trans h.slots, k.attached.trans h.attached⟩

theorem HqsSame.foldl {α : Type} {f : State → α → State} (step : ∀ s a, HqsSame s (f s a)) (l : List α) (s : State) :
    HqsSame s (l.foldl f s) :=
  List.foldlRecOn l f (motive := HqsSame s) (.refl s) fun t h a _ => h.trans (step t a)

theorem HqsSame.of_aside (h : Aside s t) : HqsSame s t := by
  obtain ⟨_, _, _, _, _, _, _, rfl⟩ := h
  exact ⟨rfl, rfl, rfl⟩
end

theorem hqsSame_of_homeLocal {f : State → State} (h : HomeLocal f) (s : State) : HqsSame s (f s) := by
  rw [h.frame s]
  exact ⟨rfl, rfl, rfl⟩

theorem hqsSame_tell (s : State) (kind : Nat) (args : List Nat) : HqsSame s (s.tell kind args) := ⟨rfl, rfl, rfl⟩

theorem aside_ackMsg (s : State) (m : Msg) : Aside s (ackMsg s m) := by
  obtain ⟨t, es, aside, -, -, eq⟩ := ackMsg_eq s m
  rw [eq]
  exact aside.trans (Aside.foldl (f := fun s (e : Nat × Warp) => acknowledged m.id e.1 s) (fun s e => aside_acknowledged ..) es t)

/-! Reads and writes at the homes, with the registrations they handle first (R298). -/

theorem hqsSame_registerWord (s : State) (word c : Nat) : HqsSame s (registerWord s word c) := by
  have recalled : HqsSame s (if registrant s (word * 4) = some c then s else writeBackWord s word true) := by
    split
    · exact .refl s
    · exact hqsSame_of_homeLocal (homeLocal_writeBackWord word true) s
  have merged (t : State) (f : Core → Core) : HqsSame t (t.modCore c f) := ⟨rfl, rfl, rfl⟩
  have touched (t : State) : HqsSame t (l2Touch t (word / 32)) := hqsSame_of_homeLocal (homeLocal_l2Touch _) t
  exact ((recalled.trans (merged _ _)).trans (touched _)).trans ⟨rfl, rfl, rfl⟩

theorem hqsSame_joinSector (s : State) (c : Option Nat) (sector : Nat) : HqsSame s (joinSector s c sector) := by
  refine HqsSame.foldl (fun t m => ?_) _ s
  split
  · split
    · exact (hqsSame_registerWord ..).trans (.of_aside (aside_ackMsg ..))
    · exact .refl t
  · exact .refl t

theorem hqsSame_joinSectors (s : State) (c : Option Nat) (key n : Nat) : HqsSame s (joinSectors s c key n) :=
  HqsSame.foldl (fun t _ => hqsSame_joinSector t c _) _ s

theorem hqsSame_forwardRead (s : State) (c : Option Nat) (key n : Nat) : HqsSame s (forwardRead s c key n) := by
  refine (hqsSame_joinSectors s c key n).trans (HqsSame.foldl (fun t i => ?_) _ _)
  split
  · split <;> exact ⟨rfl, rfl, rfl⟩
  · exact .refl t

theorem hqsSame_homeWrite (s : State) (key : Nat) (bs : List Byte) : HqsSame s (homeWrite s key bs) := by
  unfold homeWrite
  split
  · exact .refl s
  · exact (((hqsSame_joinSectors s none key bs.length).trans (hqsSame_of_homeLocal (homeLocal_recallWords key bs.length) _)).trans
      (hqsSame_of_homeLocal (homeLocal_homePuts key bs) _)).trans (hqsSame_of_homeLocal (homeLocal_bumpVers key bs.length) _)

/-! Accesses through a translation (R278, R280). -/

theorem hqsSame_walkTouch (s : State) (asid va : Nat) : HqsSame s (walkTouch s asid va) := by
  unfold walkTouch
  split
  · exact .refl s
  · split
    · exact .refl s
    · exact HqsSame.foldl (fun t k => hqsSame_forwardRead t none k 8) _ s

theorem hqsSame_unitTouch (s : State) (asid va n : Nat) : HqsSame s (unitTouch s asid va n) := by
  refine HqsSame.foldl (fun t i => ?_) _ s
  refine (hqsSame_walkTouch t asid (max va ((va / 65536 + i) * 65536))).trans ?_
  dsimp only
  split
  · split
    · exact hqsSame_forwardRead ..
    · exact .refl _
  · exact hqsSame_tell ..
  · exact .refl _

theorem hqsSame_unitWalk (s : State) (asid va n : Nat) : HqsSame s (unitWalk s asid va n) := by
  refine HqsSame.foldl (fun t i => ?_) _ s
  have walked := hqsSame_walkTouch t asid (max va ((va / 65536 + i) * 65536))
  dsimp only
  split
  · exact walked.trans (hqsSame_tell ..)
  · exact walked

theorem hqsSame_vWriteGo {s t : State} {asid va f : Nat} {bs : List Byte} (done_ : vWriteGo s asid va bs f = some t) :
    HqsSame s t := by
  induction f generalizing s va bs with
  | zero =>
    cases done_
    exact .refl _
  | succ f ih =>
    simp only [vWriteGo] at done_
    split at done_
    · cases done_
      exact .refl _
    · split at done_
      · cases done_
      · exact (hqsSame_homeWrite ..).trans (ih done_)

theorem hqsSame_vWrite {s t : State} {asid va : Nat} {bs : List Byte} (done_ : vWrite s asid va bs = some t) : HqsSame s t :=
  (hqsSame_unitWalk s asid va bs.length).trans (hqsSame_vWriteGo done_)

theorem hqsSame_vWriteD (s : State) (asid va : Nat) (bs : List Byte) : HqsSame s (vWriteD s asid va bs) := by
  rw [vWriteD]
  cases done_ : vWrite s asid va bs with
  | none => exact .refl s
  | some t => exact hqsSame_vWrite done_

theorem hqsSame_shadowPut (s : State) (q off : Nat) (bs : List Byte) : HqsSame s (shadowPut s q off bs) := by
  unfold shadowPut
  split
  · exact hqsSame_homeWrite ..
  · exact .refl s

end Sys2Proof.Proofs.HqsFrame

/-!
Commands of queues and notifies (R310 to R313, R450).
-/

namespace Sys2Proof.Proofs.QueueCommands

open Sys2Proof Sys2Proof.Machine Sys2Proof.Claims Sys2Proof.Proofs.Beside Sys2Proof.Proofs.Homes Sys2Proof.Proofs.HqsFrame

/-! A command completes (R313). -/

/-- The first command of the queue in progress that is `e` is so no more. -/
def Ends (s t : State) (q : Nat) (e : Event) : Prop :=
  ∀ w, s.work.find? (fun v => v.queue == q && v.instr == e) = some w → t.work = s.work.filter (fun v => v.order != w.order)

/-- `t` differs from `s` at most in the commands in progress and the agenda. -/
def WorkMoved (s t : State) : Prop := ∃ ws ag, t = { s with work := ws, agenda := ag }

section
variable {s t : State} {q : Nat} {e : Event}

theorem WorkMoved.memSame (h : WorkMoved s t) : MemSame s t := by
  obtain ⟨_, _, rfl⟩ := h
  exact ⟨rfl, rfl, rfl, rfl, fun _ => ⟨rfl, rfl⟩, fun _ => rfl⟩

theorem WorkMoved.warps (h : WorkMoved s t) : t.warps = s.warps := by
  obtain ⟨_, _, rfl⟩ := h
  rfl

theorem WorkMoved.slots (h : WorkMoved s t) : t.slots = s.slots := by
  obtain ⟨_, _, rfl⟩ := h
  rfl

theorem WorkMoved.attached (h : WorkMoved s t) : t.attached = s.attached := by
  obtain ⟨_, _, rfl⟩ := h
  rfl

/-- Without such a command nothing happens; else it ends, and those that wait are on the agenda. -/
theorem completeCmd_spec (s : State) (q : Nat) (e : Event) :
    WorkMoved s (completeCmd s q e) ∧ Ends s (completeCmd s q e) q e := by
  cases found : s.work.find? (fun v => v.queue == q && v.instr == e) with
  | none =>
    have same : completeCmd s q e = s := by simp only [completeCmd, completeWork, found]
    rw [same]
    exact ⟨⟨_, _, rfl⟩, fun w hw => by rw [found] at hw; cases hw⟩
  | some w =>
    have later : Later { s with work := s.work.filter (fun v => v.order != w.order) } (completeCmd s q e) := by
      simp only [completeCmd, completeWork, found]
      refine List.foldlRecOn _ _ (motive := Later _) (.refl _) fun t ht v _ => ht.trans ?_
      repeat' split
      · exact .refl t
      · exact later_after ..
      · exact later_after ..
      · exact .refl t
    obtain ⟨ag, eq, -⟩ := later
    rw [eq]
    exact ⟨⟨_, ag, rfl⟩, fun v hv => by rw [found] at hv; cases hv; rfl⟩

theorem workMoved_completeCmd (s : State) (q : Nat) (e : Event) : WorkMoved s (completeCmd s q e) := (completeCmd_spec s q e).1

/-- A command that completes after a change that leaves those in progress ends. -/
theorem ends_completeCmd {u : State} (same : u.work = s.work) : Ends s (completeCmd u q e) q e := by
  have ended := (completeCmd_spec u q e).2
  simpa only [Ends, same] using ended
end

/-! The slots of a queue (R307). -/

section
variable {s : State} {q i : Nat} {k : HqSlot} {f : HqSlot → HqSlot} {e : Nat × HqSlot}

theorem queue_of_slotOfQueue (h : slotOfQueue s q = some (i, k)) : k.queue = q := by
  simpa using List.find?_some h

theorem slotOfQueue_modSlot (keeps : ∀ k, (f k).queue = k.queue) (h : slotOfQueue s q = some (i, k)) :
    slotOfQueue (modSlot s q f) q = some (i, f k) := by
  have queues : (fun e : Nat × HqSlot => e.2.queue == q) ∘ (fun e => if e.2.queue = q then (e.1, f e.2) else e) =
      fun e => e.2.queue == q := by
    funext e
    simp only [Function.comp]
    split <;> simp [keeps]
  rw [slotOfQueue, modSlot, List.find?_map, queues, show s.slots.find? _ = some (i, k) from h]
  simp [queue_of_slotOfQueue h]

/-- A slot of the queue after a change of its slots is one of its slots before, changed. -/
theorem exists_of_mem_modSlot (mem : e ∈ (modSlot s q f).slots) (own : e.2.queue = q) :
    ∃ o ∈ s.slots, o.2.queue = q ∧ e = (o.1, f o.2) := by
  obtain ⟨o, ho, rfl⟩ := List.mem_map.1 mem
  by_cases queue : o.2.queue = q
  · exact ⟨o, ho, queue, if_pos queue⟩
  · rw [if_neg queue] at own
    exact absurd own queue
end

/-! NOP, ATTACH, SIGNAL and FENCE (R312, R313). -/

section
variable {s : State} {q : Nat}

theorem cmdNop_spec (s : State) (q : Nat) :
    ∃ t, exec (.cmdNop q) s = .next t ∧ Ends s t q (.cmdNop q) ∧ t.warps = s.warps ∧ MemSame s t :=
  have moved := workMoved_completeCmd s q (.cmdNop q)
  ⟨_, rfl, ends_completeCmd rfl, moved.warps, moved.memSame⟩

/-- The feature words that are requested and published (R314). -/
def accepted (s : State) (feat : List Word) : List Word := (List.range 4).map (fun i => feat.getD i 0 &&& s.feat.getD i 0)

/-- The queue's slots with these words. -/
def offered (s : State) (q : Nat) (feat : List Word) : State := modSlot s q (fun k => { k with feat := accepted s feat })

/-- The state in which ATTACH has noted the words in the queue's slot and in its shadow half. -/
def noted (s : State) (q : Nat) (feat : List Word) : State :=
  { shadowPut (offered s q feat) q 48 ((accepted s feat).flatMap (fun w => leBytes 4 w.toNat)) with
    attached := if s.attached.contains q then s.attached else q :: s.attached }

theorem exec_attach (s : State) (q : Nat) (feat : List Word) (addr : Nat) : exec (.attach q feat addr) s =
    .next (completeCmd (vWriteD (noted s q feat) (queueAsid s q) addr
      ((accepted s feat).flatMap (fun w => leBytes 4 w.toNat))) q (.attach q feat addr)) := rfl

theorem noted_work (s : State) (q : Nat) (feat : List Word) : (noted s q feat).work = s.work := (hqsSame_shadowPut ..).work

theorem noted_slots (s : State) (q : Nat) (feat : List Word) : (noted s q feat).slots = (offered s q feat).slots :=
  (hqsSame_shadowPut ..).slots

theorem mem_noted_attached (s : State) (q : Nat) (feat : List Word) : q ∈ (noted s q feat).attached := by
  simp only [noted]
  split
  case isTrue member => exact List.contains_iff_mem.1 member
  case isFalse => exact List.mem_cons_self ..

theorem attach_spec (s : State) (q : Nat) (feat : List Word) (addr : Nat) :
    ∃ t, exec (.attach q feat addr) s = .next t ∧ Ends s t q (.attach q feat addr) ∧ q ∈ t.attached ∧
      ∀ e ∈ t.slots, e.2.queue = q → ∀ i, i < 4 → e.2.feat.getD i 0 = feat.getD i 0 &&& s.feat.getD i 0 := by
  have written := hqsSame_vWriteD (noted s q feat) (queueAsid s q) addr ((accepted s feat).flatMap (fun w => leBytes 4 w.toNat))
  refine ⟨_, exec_attach s q feat addr, ends_completeCmd (written.work.trans (noted_work ..)), ?_, fun e he own i hi => ?_⟩
  · rw [(workMoved_completeCmd ..).attached, written.attached]
    exact mem_noted_attached ..
  · rw [(workMoved_completeCmd ..).slots, written.slots, noted_slots] at he
    obtain ⟨o, -, -, rfl⟩ := exists_of_mem_modSlot he own
    exact getD_map_range (fun j => feat.getD j 0 &&& s.feat.getD j 0) hi 0

/-- SIGNAL does nothing while an earlier command of its queue is in progress. -/
theorem exec_signal_waits {a v : Nat} {wide : Bool} (earlier : earlierWork s q (.signal q a v wide) = true) :
    exec (.signal q a v wide) s = .next s := by
  have run : exec (.signal q a v wide) s = execSignal q a v wide s := rfl
  simp only [run, execSignal, earlier, Bool.true_or, if_true, done]

/-- With no earlier command in progress, SIGNAL writes its word and completes. -/
theorem exec_signal_writes {a v : Nat} {wide : Bool} {w : QueueWork} {u : State}
    (found : s.work.find? (fun x => x.queue == q && x.instr == .signal q a v wide) = some w)
    (first : earlierWork s q (.signal q a v wide) = false)
    (write : vWrite s (queueAsid s q) a (leBytes (if wide then 8 else 4) v) = some u) :
    exec (.signal q a v wide) s = .next (completeCmd u q (.signal q a v wide)) := by
  have run : exec (.signal q a v wide) s = execSignal q a v wide s := rfl
  have inProgress : s.work.any (fun x => x.queue == q && x.instr == .signal q a v wide) = true :=
    List.any_eq_true.2 (List.find?_isSome.1 (found ▸ rfl))
  simp only [run, execSignal, first, inProgress, write, Bool.not_true, Bool.or_self, Bool.false_eq_true, if_false, done]

theorem signal_spec {a v : Nat} {wide : Bool} {w : QueueWork} {u : State}
    (found : s.work.find? (fun x => x.queue == q && x.instr == .signal q a v wide) = some w)
    (first : earlierWork s q (.signal q a v wide) = false)
    (write : vWrite s (queueAsid s q) a (leBytes (if wide then 8 else 4) v) = some u) :
    ∃ t, exec (.signal q a v wide) s = .next t ∧ Ends s t q (.signal q a v wide) ∧ t.hbm = u.hbm ∧ t.l2 = u.l2 ∧
      t.warps = u.warps :=
  have moved := workMoved_completeCmd u q (.signal q a v wide)
  ⟨_, exec_signal_writes found first write, ends_completeCmd (hqsSame_vWrite write).work, moved.memSame.hbm, moved.memSame.l2,
    moved.warps⟩

theorem exec_cmdFence (s : State) (q : Nat) : exec (.cmdFence q) s =
    if earlierWork s q (.cmdFence q) then .next s else .next (completeCmd s q (.cmdFence q)) := rfl

theorem cmdFence_spec (first : earlierWork s q (.cmdFence q) = false) :
    ∃ t, exec (.cmdFence q) s = .next t ∧ Ends s t q (.cmdFence q) ∧ MemSame s t :=
  ⟨_, by rw [exec_cmdFence, first]; rfl, ends_completeCmd rfl, (workMoved_completeCmd ..).memSame⟩

theorem exec_cmdFence_waits (earlier : earlierWork s q (.cmdFence q) = true) : exec (.cmdFence q) s = .next s := by
  rw [exec_cmdFence, if_pos earlier]
end

/-! WAIT (R312, R313). -/

/-- WAIT's comparison of a word of `n` bits that reads as `w` (R312). -/
def WaitMet (n w v mask cmp : Nat) : Prop :=
  let x := BitVec.ofNat n w &&& BitVec.ofNat n mask
  let r := BitVec.ofNat n v
  match cmp with
  | 0 => x = r
  | 1 => x ≠ r
  | 2 => r ≤ x
  | _ => x < r

theorem toNat_ofNat_and_ofNat (n w mask : Nat) :
    (BitVec.ofNat n w &&& BitVec.ofNat n mask).toNat = w &&& (mask % 2 ^ n) := by
  rw [BitVec.toNat_and, BitVec.toNat_ofNat, BitVec.toNat_ofNat, ← Nat.mod_mod mask, ← Nat.and_mod_two_pow, Nat.mod_mod,
    Nat.mod_eq_of_lt (Nat.and_lt_two_pow _ (Nat.mod_lt _ (Nat.two_pow_pos n)))]

section
variable {s : State} {q asid a v mask cmp : Nat} {wide : Bool} {b : List Byte}

/-- A word that can be read decides the WAIT. -/
theorem waitHolds_spec (read : vRead s asid a (if wide then 8 else 4) = some b) :
    ∃ met, waitHolds s asid a v mask cmp wide = some met ∧
      (met = true ↔ WaitMet (if wide then 64 else 32) (leNat b) v mask cmp) := by
  have bits : 8 * (if wide then 8 else 4) = if wide then 64 else 32 := by cases wide <;> rfl
  simp only [waitHolds, read, bits, Option.map_some, WaitMet]
  generalize (if wide then 64 else 32) = n
  refine ⟨_, rfl, ?_⟩
  rcases cmp with _ | _ | _ | cmp <;> simp only [ne_eq, ← BitVec.toNat_inj, BitVec.le_def, BitVec.lt_def,
    toNat_ofNat_and_ofNat, BitVec.toNat_ofNat, beq_iff_eq, bne_iff_ne, decide_eq_true_eq]

variable {i : Nat} {k : HqSlot} (slot : slotOfQueue s q = some (i, k))
include slot

/-- A queue's WAIT reads its word (R272); it completes when its comparison holds and else stays. -/
theorem exec_waitWord {met : Bool}
    (holds : waitHolds (unitTouch s k.asid a (if wide then 8 else 4)) k.asid a v mask cmp wide = some met) :
    exec (.waitWord q a v mask cmp wide) s = .next (let u := unitTouch s k.asid a (if wide then 8 else 4)
      if met then completeCmd u q (.waitWord q a v mask cmp wide) else u) := by
  have run : exec (.waitWord q a v mask cmp wide) s = .next (tryWait s q (.waitWord q a v mask cmp wide)) := rfl
  simp only [run, tryWait, slot, holds]
  cases met <;> rfl

theorem waitWord_spec (read : vRead (unitTouch s k.asid a (if wide then 8 else 4)) k.asid a (if wide then 8 else 4) = some b) :
    let u := unitTouch s k.asid a (if wide then 8 else 4)
    let met := WaitMet (if wide then 64 else 32) (leNat b) v mask cmp
    (met → ∃ t, exec (.waitWord q a v mask cmp wide) s = .next t ∧ Ends s t q (.waitWord q a v mask cmp wide) ∧ MemSame u t) ∧
      (¬met → exec (.waitWord q a v mask cmp wide) s = .next u) := by
  obtain ⟨met, holds, met_iff⟩ := waitHolds_spec (v := v) (mask := mask) (cmp := cmp) read
  simp only [exec_waitWord slot holds, ← met_iff]
  refine ⟨fun yes => ⟨_, rfl, ?_⟩, fun no => by rw [if_neg no]⟩
  rw [if_pos yes]
  exact ⟨ends_completeCmd (hqsSame_unitTouch ..).work, (workMoved_completeCmd ..).memSame⟩
end

/-- Looking at a queue's WAIT again is performing it again (R313). -/
theorem exec_waitReevaluate {s : State} {q a v mask cmp : Nat} {wide : Bool}
    (waits : waitOf s q = some (.waitWord q a v mask cmp wide)) :
    exec (.waitReevaluate q) s = exec (.waitWord q a v mask cmp wide) s := by
  have run : exec (.waitReevaluate q) s = execWaitReevaluate q s := rfl
  simp only [run, execWaitReevaluate, waits]
  rfl

/-! Notifies (R310, R311, R450). -/

section
variable {s : State} {m : List Byte} {q i : Nat} {k : HqSlot}

/-- A notify that is dropped counts as an error and changes nothing else. -/
def dropped (s : State) : State := { s with notifyErr := s.notifyErr + 1 }

theorem exec_notify_of_length_ne (length : m.length ≠ 64) : exec (.notify m) s = .next (dropped s) := by
  have run : exec (.notify m) s = execNotify m s := rfl
  simp only [run, execNotify, length, ne_eq, not_false_eq_true, decide_true, Bool.true_or, if_true]
  rfl

/-- A notify before its queue is in the directory, or before its address space or key is there, is dropped (R450). -/
theorem exec_notify_early (length : m.length = 64) (queue : field m 0 2 = q) (now : queueNow s q = some k)
    (early : shadowHalf s q = none ∨ s.space k.asid = none ∨ (k.key ≠ 255 ∧ mfind s.keys k.key = none)) :
    exec (.notify m) s = .next (dropped s) := by
  have run : exec (.notify m) s = execNotify m s := rfl
  simp only [run, execNotify, queue, length, now]
  rcases early with noEntry | noSpace | ⟨keyed, noKey⟩
  · simp only [noEntry, Option.isNone_none, Bool.or_true, if_true]
    rfl
  · simp only [noSpace, Option.isNone_none, Bool.or_true, Bool.true_or, if_true]
    split <;> rfl
  · simp only [noKey, keyed, Option.isNone_none, bne_iff_ne.2 keyed, Bool.and_self, Bool.or_true, if_true]
    split <;> rfl

/-- The notify `m` is for queue `q`, which stands in slot `i` as `k` and takes it: it is well formed, its tag is right under the
queue's key, and its count and write index are new (R311). -/
structure Accepts (s : State) (m : List Byte) (q i : Nat) (k : HqSlot) (key : List Byte) : Prop where
  entry   : (shadowHalf s q).isSome = true
  space   : (s.space k.asid).isSome = true
  length  : m.length = 64
  queue   : field m 0 2 = q
  range   : q < 16384
  zero2   : zeros m 2 2 = true
  zero16  : zeros m 16 32 = true
  slot    : slotOfQueue s q = some (i, k)
  keyed   : k.key ≠ 255
  fed     : k.devfed = false
  stored  : mfind s.keys k.key = some key
  tag     : (hmacSm3 key (m.take 48)).take 16 = m.drop 48
  count   : k.ctr < field m 4 4
  above   : k.rd ≤ field m 8 8
  fits    : field m 8 8 - k.rd ≤ 2 ^ k.lgsize

/-- The queue's slots with the notify's counter, then with its write index. -/
def taken (s : State) (m : List Byte) (q : Nat) : State :=
  modSlot (modSlot s q (fun k => { k with ctr := field m 4 4 })) q (fun k => { k with wr := max k.wr (field m 8 8) })

theorem exec_notify_accepted {key : List Byte} (h : Accepts s m q i k key) : exec (.notify m) s = .next (taken s m q) := by
  have run : exec (.notify m) s = execNotify m s := rfl
  obtain ⟨entry, space, length, queue, range, zero2, zero16, slot, keyed, fed, stored, tag, count, above, fits⟩ := h
  have now : queueNow s q = some k := by simp only [queueNow, slot]
  have entry' : (shadowHalf s q).isNone = false := by simp [entry]
  have space' : (s.space k.asid).isNone = false := by simp [space]
  have counted := slotOfQueue_modSlot (f := fun k => { k with ctr := field m 4 4 }) (fun _ => rfl) slot
  have raised : raiseQueueWr (modSlot s q (fun k => { k with ctr := field m 4 4 })) k (field m 8 8) = taken s m q := by
    simp only [raiseQueueWr, queue_of_slotOfQueue slot, counted]
    rfl
  simp only [run, execNotify, queue, now, slot]
  rw [if_neg (by simp [length, entry']), if_neg (by simp [range, zero2, zero16, space', stored]),
    if_neg (by simp [keyed, fed, stored, tag]), if_neg (by omega), if_neg (by omega), raised, done]

theorem notify_spec {key : List Byte} (h : Accepts s m q i k key) :
    ∃ t, exec (.notify m) s = .next t ∧ t.notifyErr = s.notifyErr ∧ t.warps = s.warps ∧
      ∀ e ∈ t.slots, e.2.queue = q → ∃ o ∈ s.slots, e = (o.1, { o.2 with ctr := field m 4 4, wr := max o.2.wr (field m 8 8) }) := by
  refine ⟨_, exec_notify_accepted h, rfl, rfl, fun e he own => ?_⟩
  obtain ⟨p, hp, own', rfl⟩ := exists_of_mem_modSlot he own
  obtain ⟨o, ho, -, rfl⟩ := exists_of_mem_modSlot hp own'
  exact ⟨o, ho, rfl⟩
end

/-- Settles O44: each command answers with one state, and an access to memory leaves the queues as they were. -/
theorem queueCommands : Obligations.QueueCommands := by
  unfold Obligations.QueueCommands
  intro s q
  refine ⟨cmdNop_spec s q, attach_spec s q, ?_, cmdFence_spec, exec_cmdFence_waits, ?_, ?_, ?_, ?_⟩
  · exact fun a v wide w u found => ⟨exec_signal_waits, signal_spec found⟩
  · intro a v mask cmp wide i k b slot u read
    obtain ⟨ends, stays⟩ := waitWord_spec (v := v) (mask := mask) (cmp := cmp) slot read
    exact ⟨ends, stays, exec_waitReevaluate⟩
  · exact fun m k => exec_notify_early
  · exact fun m k i key entry space length queue range zero2 zero16 slot keyed fed stored tag count above fits =>
      notify_spec ⟨entry, space, length, queue, range, zero2, zero16, slot, keyed, fed, stored, tag, count, above, fits⟩
  · exact fun m => exec_notify_of_length_ne

end Sys2Proof.Proofs.QueueCommands
